-- ==== Sys2Proof/Word.lean ====
section
/-! DEFINITION. The names and plain types every other file uses: identifiers (R23), sparse tables,
operand and message types of the commands. -/

namespace Sys2Proof

/-- One byte. -/
abbrev Byte := BitVec 8

/-- A sparse table: pairs of a key and a value, keys strictly rising, no entry equal to the value an
unlisted key holds. The operations are in Machine/Tab.lean. -/
abbrev Tab (α : Type) := List (Nat × α)

/-- Bytes by address, in the same canonical form. -/
abbrev Cells := List (Nat × Byte)

/-! ### Identifiers (R23, R27, R28) -/

/-- Partition 0 to 15. -/
abbrev PartId := Fin 16
/-- Group G0 to G15. -/
abbrev GroupId := Fin 16
/-- Logical tile 0 to 191. -/
abbrev TileId := Fin 192
/-- Ember core 0 to 63. -/
abbrev CoreId := Fin 64
/-- Cord C0 to C31. -/
abbrev CordId := Fin 32
/-- Host port H0 to H3. -/
abbrev PortId := Fin 4
/-- Hearth die 0 or 1. -/
abbrev DieId := Fin 2

/-! ### Number formats (R102, R127, R129) -/

/-- Element formats of R127. -/
inductive ElemFmt where
  | fp32 | bf16 | fp16 | e4m3 | e5m2 | e3m2 | e2m3 | e2m1 | int8 | int4 | mxint8 | int32
deriving DecidableEq, Repr

/-- The format classes of R102. -/
inductive FmtClass where
  | c16 | c8 | c4 | mx8 | mx4
deriving DecidableEq, Repr

/-- An operand format of the matrix engine: its class and its element format. -/
structure MxeFmt where
  cls  : FmtClass
  elem : ElemFmt
deriving DecidableEq, Repr

/-- The form of a stationary image (R105). `half` is the half a 6-bit 4-bit-class image writes;
`none` for every other form. -/
structure ImgForm where
  fmt  : MxeFmt
  half : Option (Fin 2) := none
deriving DecidableEq, Repr

/-- The operand formats of R102 that a whole image and a streamed row share; `mx…` is the MX class of the element. -/
inductive StreamFmt where
  | bf16 | fp16
  | e4m3 | e5m2 | int8 | e3m2 | e2m3
  | e2m1 | int4
  | mxE4m3 | mxE5m2 | mxInt8 | mxE3m2 | mxE2m3
  | mxE2m1
deriving DecidableEq, Repr

/-- The 6-bit formats whose 4-bit-class images are loaded by halves (R102, R105). -/
inductive HalfFmt where
  | e3m2 | e2m3 | mxE3m2 | mxE2m3
deriving DecidableEq, Repr

/-- The image form a WLD names: a whole image, or one half of a 6-bit 4-bit-class image (R105). -/
inductive ImgOpnd where
  | whole (f : StreamFmt)
  | half (f : HalfFmt) (h : Fin 2)
deriving DecidableEq, Repr

/-- Class and element of a format (R102). -/
def StreamFmt.fmt : StreamFmt → MxeFmt
  | .bf16 => ⟨.c16, .bf16⟩
  | .fp16 => ⟨.c16, .fp16⟩
  | .e4m3 => ⟨.c8, .e4m3⟩
  | .e5m2 => ⟨.c8, .e5m2⟩
  | .int8 => ⟨.c8, .int8⟩
  | .e3m2 => ⟨.c8, .e3m2⟩
  | .e2m3 => ⟨.c8, .e2m3⟩
  | .e2m1 => ⟨.c4, .e2m1⟩
  | .int4 => ⟨.c4, .int4⟩
  | .mxE4m3 => ⟨.mx8, .e4m3⟩
  | .mxE5m2 => ⟨.mx8, .e5m2⟩
  | .mxInt8 => ⟨.mx8, .mxint8⟩
  | .mxE3m2 => ⟨.mx8, .e3m2⟩
  | .mxE2m3 => ⟨.mx8, .e2m3⟩
  | .mxE2m1 => ⟨.mx4, .e2m1⟩

/-- Class and element of a half image (R105). -/
def HalfFmt.fmt : HalfFmt → MxeFmt
  | .e3m2 => ⟨.c4, .e3m2⟩
  | .e2m3 => ⟨.c4, .e2m3⟩
  | .mxE3m2 => ⟨.mx4, .e3m2⟩
  | .mxE2m3 => ⟨.mx4, .e2m3⟩

/-- The form of the image (R105). -/
def ImgOpnd.form : ImgOpnd → ImgForm
  | .whole f => ⟨f.fmt, none⟩
  | .half f h => ⟨f.fmt, some h⟩

/-- The MX element formats of R129. -/
inductive MxElem where
  | e4m3 | e5m2 | e3m2 | e2m3 | e2m1 | mxint8
deriving DecidableEq, Repr

def MxElem.elem : MxElem → ElemFmt
  | .e4m3 => .e4m3
  | .e5m2 => .e5m2
  | .e3m2 => .e3m2
  | .e2m3 => .e2m3
  | .e2m1 => .e2m1
  | .mxint8 => .mxint8

/-- Density class of a WLD with overlay (R115): 1/16, 1/8, 1/4, 1/2 or 1. -/
inductive Density where
  | d16 | d8 | d4 | d2 | d1
deriving DecidableEq, Repr

/-- Formats DRN writes (R112). -/
inductive DrainFmt where
  | fp32 | bf16 | fp16 | e4m3 | e5m2 | int8
deriving DecidableEq, Repr

/-! ### Operands of the tile operations -/

/-- An operand names an immediate, a scalar register or a stream (R85). -/
inductive Opnd where
  | imm (v : BitVec 64)
  | reg (r : Fin 32)
  | stream (ag : Fin 4) (s : Fin 8)
deriving DecidableEq, Repr

/-- Where an operation issues from: its logical tile and the index of its bundle (R82). -/
structure Issue where
  tile   : TileId
  bundle : Fin 2048
deriving DecidableEq, Repr

/-- Compare operations of R147. -/
inductive Cmp where
  | eq | lt | le
deriving DecidableEq, Repr

/-- Vector operations of R147 (the conversions and wide forms included). -/
inductive VecOp where
  | fadd | fsub | fmul | ffma | fmin | fmax
  | fcmp (c : Cmp) | icmp (c : Cmp) | select
  | iadd | isub | iand | ior | ixor | ishl | ishr | isar
  | toElem (f : ElemFmt)            -- FP32 to a format of R127, or INT32
  | ofElem (f : ElemFmt)            -- a format of R127, or INT32, to FP32
  | toMx (f : MxElem)               -- FP32 to MX blocks (R132)
  | ofMx (f : MxElem)               -- MX blocks to FP32 (R129)
  | toKv (scale : Opnd)             -- FP32 to KV-packed under an FP16 scale (R133)
  | ofKv (scale : Opnd)             -- KV-packed to FP32 (R130)
  | wideAdd | wideToF32 | f32ToWide -- R145
deriving DecidableEq, Repr

/-- Special functions of R150. -/
inductive SpecFn where
  | exp | log | recip | rsqrt | sigmoid | tanh | erf
deriving DecidableEq, Repr

/-- Reductions of R148. -/
inductive RedOp where
  | sum | max | min | argmax
deriving DecidableEq, Repr

/-- Scalar ALU operations (R41 class ALU; R507 for the shifts). -/
inductive AluOp where
  | add | sub | band | bor | bxor | sll | srl | sra | slt | sltu | seq
deriving DecidableEq, Repr

/-- Scalar divides (R41 class DIV, R507). -/
inductive DivOp where
  | div | divu | rem | remu
deriving DecidableEq, Repr

/-- A link side of a track router (R158). -/
inductive Side where
  | east | west | north | south
deriving DecidableEq, Repr

/-- One link of a path, with the track used on it (R158, R160). -/
structure TrackHop where
  side  : Side
  track : Fin 4
deriving DecidableEq, Repr

/-- The path the settler chose (R160): the track port the transfer leaves by (or, from a cord port, the track of its port
link), a track on each link, and the track port it enters by at its end (at a cord port, the track of the port link). -/
structure Path where
  out  : Fin 4
  hops : List TrackHop
  into : Fin 4
deriving DecidableEq, Repr

/-- Where a SND goes: a tile's landing buffer, a cord route, or an Ember core's mailbox ring (R41, R57). -/
inductive SndDst where
  | tile (t : TileId) (landing : Fin 512) (path : Path)
  | cord (c : CordId) (route : BitVec 16) (deps : List Nat) (path : Path)  -- planned departure of each segment, ticks after issue
  | mailbox (core : CoreId) (mtag : Byte)
deriving DecidableEq, Repr

/-- How a beat came out of its error code (R162). -/
inductive EccEvent where
  | none | corrected | uncorrectable
deriving DecidableEq, Repr

/-- What the memory controller finds of an entry's codeword (R183, R184): `reread` is a detected uncorrectable read, after
which the entry stays incomplete until its re-read has an outcome. -/
inductive FlueEcc where
  | none | corrected | reread | uncorrectable
deriving DecidableEq, Repr

/-- The protected arrays of the matrix engine (R125): the stationary buffers, the accumulator rows, the merge stage. -/
inductive MxeUnit where
  | stat | accRow | merge
deriving DecidableEq, Repr

/-- An error in a word that an MXE operation uses: the array, the row of the word, and whether its code corrects it (R125). -/
structure MxeEcc where
  unit : MxeUnit
  row : BitVec 16
  corrected : Bool
deriving DecidableEq, Repr

/-- An operation of the matrix engine as it issues: where from, and the error met in a word that it uses, if one is (R125). -/
structure MxeIssue extends Issue where
  ecc : Option MxeEcc
deriving DecidableEq, Repr

/-! ### The private sections of a plan package (R7, R64, R82) -/

/-- One address-generator level as the package gives it (R91). -/
structure LevelInit where
  ag : Fin 4
  level : Fin 6
  count : BitVec 32
deriving DecidableEq, Repr

/-- One address stream as the package gives it (R91). -/
structure StreamInit where
  ag : Fin 4
  stream : Fin 8
  base : BitVec 64
  strides : List (BitVec 32)
deriving DecidableEq, Repr

/-- A loop of a tile's program: its level, declared maximum, body length in ticks, first bundle, and the bundle after the
loop (R86). A tile's list names an enclosing loop before the loops inside it. -/
structure LoopDecl where
  ag : Fin 4
  level : Fin 6
  max : Nat
  body : Nat
  first : Fin 2048
  after : Nat
deriving DecidableEq, Repr

/-- A landing buffer declaration (R47). -/
structure LandingDecl where
  base : Nat
  size : Nat
deriving DecidableEq, Repr

/-- What the private sections hold for one tile. `bundles` is the wait count of each bundle (R82). -/
structure TileImage where
  tile     : TileId
  bundles  : List (BitVec 16)
  levels   : List LevelInit
  streams  : List StreamInit
  loops    : List LoopDecl
  landings : List LandingDecl
  dmem     : List (BitVec 64)
  store    : List (Nat × Byte)
deriving DecidableEq, Repr

/-- A cord slot or a pass-through lane slot the plan uses. -/
structure SlotUse where
  lane : Bool          -- false: cord `index`; true: pass-through lane `index`
  index : Fin 32
  slot : Fin 256
deriving DecidableEq, Repr

/-- A route as the plan declares it at this module: where its last hop lands, or where it passes on (R57, R166, R167).
`dep` is the tick of the step at which the arriving hop departs. -/
structure RouteDecl where
  route   : BitVec 16
  ingress : CordId
  dep     : Nat
  path    : Path              -- landing circuit of a last hop
  tile    : TileId
  landing : Fin 512
  bytes   : Nat               -- N of the transfer
  tag     : BitVec 4
  fwd     : Option CordId     -- pass-through: the next hop's egress cord
  deps    : List Nat          -- pass-through: planned departure of each segment, ticks into the step
deriving DecidableEq, Repr

/-- The private sections of a plan package, as the loader reads them. The bundle binary is private
to Elvune (R7), so its contents reach the model as an operand of LOAD_DONE. -/
structure PlanImage where
  tiles  : List TileImage
  slots  : List SlotUse
  routes : List RouteDecl
deriving DecidableEq, Repr

/-- Who reads or writes a register: an Ember core or a partition's host function (R20, R221). -/
inductive Agent where
  | core (c : CoreId)
  | host (p : PartId)
deriving DecidableEq, Repr

/-- Bytes that reads of host memory returned for a package and a delay table (R71, R393). -/
structure HostData where
  pkg : List Byte
  tbl : List Byte
deriving DecidableEq, Repr

/-- What the kindling tests found (R471, R472): units that failed beyond repair, wavelengths to retire, soft repairs added
per group (on-die SRAM, stacks). `halt`: a clock reference, a reference or calibration, the die bridge or Collier SRAM. -/
structure SelfFail where
  halt    : Bool
  tiles   : List (Fin 200)                   -- physical, as R478 numbers them
  routers : List TileId
  stokes  : List GroupId
  cores   : List CoreId
  stores  : List GroupId
  nears   : List GroupId
  turfs   : List GroupId
  retorts : List (Fin 8)
  optics  : List (Fin 4)
  waves   : List (CordId × Bool × Fin 9)     -- ingress?, wavelength
  repairs : List (GroupId × Nat × Nat)
deriving DecidableEq, Repr

/-- How a unit of a Stoke channel fails in the module (R419): on the host port, on either side; with poisoned data, on an
uncorrectable read or in a shard context's window, which are read sides. The two causes of a remote unit come from its request. -/
inductive StkCause where
  | host
  | poisoned
  | memUe
  | window
deriving DecidableEq, Repr

/-- A host link's speed, PCIe 4.0 to 6.0, and width (R431, R440). -/
inductive LinkSpeed where
  | gen4 | gen5 | gen6
deriving DecidableEq, Repr
inductive LinkWidth where
  | x1 | x2 | x4 | x8 | x16
deriving DecidableEq, Repr

def LinkSpeed.code : LinkSpeed → Nat
  | .gen4 => 4 | .gen5 => 5 | .gen6 => 6
def LinkWidth.lanes : LinkWidth → Nat
  | .x1 => 1 | .x2 => 2 | .x4 => 4 | .x8 => 8 | .x16 => 16

/-- The rail groups of a die whose regulators' limits turn the die off (R491). -/
inductive DieRail where
  | r2 | r3 | r4 | r8
deriving DecidableEq, Repr

def DieRail.num : DieRail → Nat
  | .r2 => 2 | .r3 => 3 | .r4 => 4 | .r8 => 8

/-- The sensors that trip (R493): a die's junction, a near stack, a turf stack, an optical engine. -/
inductive TripSensor where
  | junction (d : DieId)
  | near (g : GroupId)
  | turf (k : Fin 8)
  | optic (k : Fin 4)
deriving DecidableEq, Repr

/-- What a MEMORY test finds beyond repair (R477). -/
inductive MemFail where
  | tile | near | turf | store
deriving DecidableEq, Repr
/-- What a run-time test found (R476): of a group's memories a failure beyond repair; of its tiles a failed tile, or router
(`true`); of a cord, wavelengths. -/
inductive TestResult where
  | memory (fail : Option MemFail)
  | tiles (router : Option Bool)
  | cord
  | calibrate
deriving DecidableEq, Repr

/-- Reasons of R477. -/
def MemFail.code : MemFail → Nat
  | .tile => 1 | .near => 3 | .turf => 4 | .store => 5

/-- The registers of EVENT_ENABLE: EV_ENABLE, word w of Q_EV_ENABLE, FN_CTRL (R437). -/
inductive EvReg where
  | evEnable
  | qEvEnable (w : Fin 8)
  | fnCtrl
deriving DecidableEq, Repr

/-- What a hold-up test finds at the bank (R458): V0 in mV and the drop in µV. -/
structure BankVolt where
  mv   : Nat
  drop : Nat
deriving DecidableEq, Repr

/-- What the lanes of a cord's ingress reported since the last segment: the lanes of uncorrectable codewords, and bit errors
before the outer code (R279, R305). -/
structure LaneReport where
  fec  : List (Fin 8)
  errs : List (Fin 8 × Nat)
deriving DecidableEq, Repr

/-- How a request reached the Collier management service (R444, R445): on SMBus, or on Ethernet under a client certificate
that `ca` names by the CA slot it chains to; its number, and what a hold-up test made for it finds. `bad`: its message breaks the
form of R446 (LENGTH disagrees with the bytes received, OP lies outside 1 to 3, or a reserved field is not 0). -/
structure CmsReq where
  smbus : Bool
  ca    : Option (Fin 4)
  num   : BitVec 16
  bank  : BankVolt
  bad   : Bool := false
deriving DecidableEq, Repr

/-- The bus a register write arrives on: the BARs of a partition function, BAR0 of function 0 of a port, the
configuration space of a function of a port, or an Ember core's address space (R189, R429, R502). -/
inductive RegBus where
  | bar0 (p : PartId)
  | bar2 (p : PartId)
  | bar4 (p : PartId)
  | func0 (h : PortId)
  | config (h : PortId) (fn : Fin 17)
  | core (c : CoreId)
deriving DecidableEq, Repr

/-- A write: where, at which offset or address, how many bytes, which value. -/
structure RegWrite where
  bus   : RegBus
  off   : BitVec 64
  width : Nat
  value : BitVec 64
deriving DecidableEq, Repr

end Sys2Proof
end

