-- ==== Sys2Proof/Syntax.lean ====
section
/-! DEFINITION. The commands: one constructor per row of spec/opcode_table.json. -/

namespace Sys2Proof

/-- A command the block takes from outside, or an event the spec times for it. -/
inductive Instr where
  /-- PLAN_LOAD (R71). A LOAD written to PLAN_CTRL starts loading the plan package and binding it from the delay table, and the plan state becomes LOADING. -/
  | planLoad (p : PartId)
  /-- LOAD_DONE (R71). The loader finishes its ordered checks and the plan state becomes LOADED, or becomes EMPTY with LOAD_ERROR set if a check failed. -/
  | loadDone (p : PartId) (img : PlanImage) (host : HostData)
  /-- PLAN_ARM (R70). An ARM written to PLAN_CTRL arms the plan to launch at LAUNCH_AT, or is refused with LAUNCH when LAUNCH_AT is fewer than 65,536 hall ticks away. -/
  | planArm (p : PartId)
  /-- PLAN_STOP (R68). A STOP written to PLAN_CTRL asks the running plan to stop at the next step boundary. -/
  | planStop (p : PartId)
  /-- PLAN_UNLOAD (R186). An UNLOAD written to PLAN_CTRL discards the plan once every flue entry already issued has completed. -/
  | planUnload (p : PartId)
  /-- UNLOAD_COMPLETE (R186). The last flue entry still outstanding after an accepted UNLOAD completes, and the plan state becomes EMPTY. -/
  | unloadComplete (p : PartId)
  /-- REBIND (R61). A REBIND written to PLAN_CTRL validates a new delay table and makes it pending for the next step boundary, or refuses it and reports the failing hop in LOAD_ERROR. -/
  | rebind (p : PartId) (host : HostData)
  /-- LAUNCH (R70). The hall count reaches LAUNCH_AT for an armed plan, the plan counter starts at 0 and step 0 begins. -/
  | launch (p : PartId)
  /-- SF_CLEAR (R74). A write to SF_CLEAR clears SF_INFO.VALID and SF_INFO.MORE without changing the plan state. -/
  | sfClear (p : PartId)
  /-- BEAT (R341). A hall tick that is a beat under the damper setting advances the partition's plan counter by one, unless a hold or a boundary wait stops it. -/
  | beat (p : PartId)
  /-- STEP_BOUNDARY (R225). The plan counter reaches the start of a new step and the boundary actions of the partition are carried out in their fixed order. -/
  | stepBoundary (p : PartId)
  /-- LOOP_ENTRY (R86). The program position reaches a loop's first bundle, and the loop latches its count or stops the partition with LOOP_BOUND. -/
  | loopEntry (at_ : Issue) (ag : Fin 4) (level : Fin 6)
  /-- LOOP_SPAN_END (R86). A loop's declared tick span ends: the loop stops running, INDEX returns to 0 and a pending SHADOW count is copied to COUNT. -/
  | loopSpanEnd (t : TileId) (ag : Fin 4) (level : Fin 6)
  /-- FLUE_BUDGET_WINDOW (R177). A new 256-tick flue budget window begins and every group's near-memory and turf counts restart from 0. -/
  | flueBudgetWindow (p : PartId)
  /-- WLD (R106). The MXE weight loader loads a 128 KiB stationary image from local store into the inactive stationary buffer. -/
  | wld (at_ : Issue) (src : Opnd) (form : ImgOpnd) (consume : Bool)
  /-- WLD_WITH_OVERLAY (R115). The MXE weight loader loads a base stationary image while the merge stage adds the shavings of an overlay image into it. -/
  | wldWithOverlay (at_ : MxeIssue) (src : Opnd) (form : ImgOpnd) (ovl : Opnd) (d : Density) (chunks : Fin 512) (consume : Bool)
  /-- WSW (R107). The active and inactive stationary buffers are exchanged at the end of the issue tick. -/
  | wsw (at_ : Issue)
  /-- MMA_ACC (R109). One activation row passes through the array and its 128 column sums are added into an accumulator row. -/
  | mmaAcc (at_ : MxeIssue) (row : Fin 256) (src : Opnd) (fmt : StreamFmt) (consume : Bool)
  /-- MMA_START (R109). One activation row passes through the array and its 128 column sums replace an accumulator row, whose INEXACT bit is cleared. -/
  | mmaStart (at_ : MxeIssue) (row : Fin 256) (src : Opnd) (fmt : StreamFmt) (consume : Bool)
  /-- ACZ (R109). An accumulator row is zeroed, its mode is set and its INEXACT bit is cleared. -/
  | acz (at_ : Issue) (row : Fin 256) (exact : Bool)
  /-- DRN (R112). An accumulator row is drained to local store, rounded to FP32 or to a narrower format. -/
  | drn (at_ : MxeIssue) (row : Fin 256) (dst : Opnd) (fmt : DrainFmt)
  /-- DRW (R113). An accumulator row is drained to local store as 128 wide partials of 18 bytes each. -/
  | drw (at_ : MxeIssue) (row : Fin 256) (dst : Opnd)
  /-- VOP (R147). An elementwise vector operation, including the conversions and the wide forms, is applied over the lanes of its operands. -/
  | vop (at_ : Issue) (op : VecOp) (vd va vb vc : Fin 16)
  /-- VSF (R150). A special function such as exp, log or rsqrt is computed over 2,048 elements. -/
  | vsf (at_ : Issue) (fn : SpecFn) (vd va : Fin 16)
  /-- VRD (R148). The segments of a register are reduced in the fixed tree to one value each. -/
  | vrd (at_ : Issue) (op : RedOp) (seg : Fin 8) (vd va : Fin 16)
  /-- VRG (R152). Philox-4x32-10 is computed over 512 counters, giving 2,048 32-bit values. -/
  | vrg (at_ : Issue) (vd vc : Fin 16) (key : Fin 32)
  /-- VTK (R149). A top-k pass merges 2,048 candidates into the running list of best values. -/
  | vtk (at_ : Issue) (k : Fin 64) (vd vcand vlist : Fin 16) (base : Fin 32)
  /-- VLD (R93). 8 KiB are loaded from local store into a vector register. -/
  | vld (at_ : Issue) (vd : Fin 16) (src : Opnd) (consume : Bool)
  /-- VST (R93). A vector register is stored as 8 KiB to local store. -/
  | vst (at_ : Issue) (va : Fin 16) (dst : Opnd)
  /-- SND (R159). A send engine injects a transfer of `n + 1` bytes as 512-byte beats toward a tile, a cord port or an Ember mailbox. -/
  | snd (at_ : Issue) (eng : Fin 2) (src : Opnd) (n : Nat) (dst : SndDst) (tag : BitVec 4) (consume : Bool)
  /-- DRAW (R171). The flue port issues a draw of `n + 1` bytes that reads memory into local store, occupying slot t mod 2,048. -/
  | draw (at_ : Issue) (mem dst : Opnd) (n : Fin 4096)
  /-- LAY (R174). The flue port issues a lay of `n + 1` bytes that writes local store to memory. -/
  | lay (at_ : Issue) (src mem : Opnd) (n : Fin 4096) (consume : Bool)
  /-- AWT (R172). The flue port awaits the entry of a named slot, holding the partition if that entry is not yet complete. -/
  | awt (at_ : Issue) (slot : Fin 2048)
  /-- SCL_ALU (R507). The scalar unit performs an integer arithmetic, logic, shift or compare operation. -/
  | sclAlu (at_ : Issue) (op : AluOp) (rd : Fin 32) (a b : Opnd)
  /-- SCL_MUL (R41). The scalar unit performs a 64-bit integer multiply. -/
  | sclMul (at_ : Issue) (rd : Fin 32) (a b : Opnd)
  /-- SCL_DIV (R507). The divider performs a 64-bit integer divide or remainder. -/
  | sclDiv (at_ : Issue) (op : DivOp) (rd : Fin 32) (a b : Opnd)
  /-- SCL_LD (R81). The scalar unit loads 8 bytes from the tile's scalar address space. -/
  | sclLd (at_ : Issue) (rd : Fin 32) (src : Opnd) (consume : Bool)
  /-- SCL_ST (R81). The scalar unit stores 8 bytes into the tile's scalar address space, including writes to a stream BASE. -/
  | sclSt (at_ : Issue) (rs : Fin 32) (dst : Opnd)
  /-- CNT (R89). A count register of a loop level is written, going to SHADOW instead while a loop bound to that level is running. -/
  | cnt (at_ : Issue) (ag : Fin 4) (level : Fin 6) (v : Opnd)
  /-- PCR (R41). The scalar unit reads the plan counter. -/
  | pcr (at_ : Issue) (rd : Fin 32)
  /-- MBX (R96). The scalar unit sends one 64-bit value with a tag toward an Ember core of the tile's own die. -/
  | mbx (at_ : Issue) (rs : Fin 32) (core : CoreId) (mtag : Byte)
  /-- LANDING_BEAT (R48). A beat of a transfer lands in a landing buffer, which may become VALID and may release a consuming read that was holding. -/
  | landingBeat (t : TileId) (landing : Fin 512) (ecc : EccEvent)
  /-- FLUE_ENTRY_COMPLETE (R181). A flue draw or lay completes in memory, releasing any await, slot-reuse wait or boundary wait that was holding on it. -/
  | flueEntryComplete (t : TileId) (slot : Fin 2048) (ecc : FlueEcc) (word : Nat)
  /-- MAILBOX_ENTRY_ARRIVAL (R97). An MBX entry reaches the Ember core's ring after its travel time, or is dropped and counted when the ring is full. -/
  | mailboxEntryArrival (core : CoreId)
  /-- TMBX_WRITE (R194). An Ember core writes a word of a tile's inbound mailbox pending copy. -/
  | tmbxWrite (core : CoreId) (tile : TileId) (word : Fin 16) (half : Option (Fin 2)) (v : BitVec 64)
  /-- MB_TAIL_WRITE (R193). Firmware advances the mailbox ring TAIL, which is ignored if it would pass HEAD. -/
  | mbTailWrite (core : CoreId) (tail : Fin 128)
  /-- EMBER_HALT (R197). An Ember core that takes a trap while an earlier trap is unhandled, or with mtvec 0, halts and EMBER_EXCEPTION is logged. -/
  | emberHalt (core : CoreId) (mcause mepc mtval : BitVec 64)
  /-- HALT (R195). HALT written to SRV_CTRL holds every Ember core of the partition in reset. -/
  | halt (p : PartId)
  /-- START (R195). START written to SRV_CTRL starts the Elvune Ember image from Collier flash on every core of the partition. -/
  | start (p : PartId)
  /-- START_IMAGE (R227). START_IMAGE written to SRV_CTRL measures the image at EMBER_IMAGE_BASE and starts every core of the partition on it. -/
  | startImage (p : PartId)
  /-- STE_COUNT (R227). The frame builder counts the entries of the STE table that are not FREE and updates STE_IN_USE. -/
  | steCount (p : PartId)
  /-- SQ_PUSH (R198). A write to SQ_PUSH appends an entry to the writing core's steal queue, or is refused. -/
  | sqPush (core : CoreId) (word1 : BitVec 64)
  /-- SQ_POP (R198). A read of SQ_POP removes the oldest entry of the reading core's own queue. -/
  | sqPop (core : CoreId)
  /-- SQ_STEAL (R198). A read of SQ_STEAL removes the oldest entry of the fullest other queue of the partition. -/
  | sqSteal (core : CoreId)
  /-- ALLOC (R210). A read of PA_ALLOC allocates a FREE page of the group, which becomes OWNED with REFS 1. -/
  | alloc (core : CoreId) (g : GroupId)
  /-- FREE (R210). The page operation FREE moves an OWNED page with REFS 1 to RELEASING. -/
  | free (core : CoreId) (h : BitVec 32)
  /-- REF_INC (R210). The page operation REF_INC raises a page's reference count by one. -/
  | refInc (core : CoreId) (h : BitVec 32)
  /-- REF_DEC (R210). The page operation REF_DEC lowers a page's reference count by one, making it RELEASING when it reaches 0. -/
  | refDec (core : CoreId) (h : BitVec 32)
  /-- SHARE (R210). The page operation SHARE moves an OWNED page to SHARED. -/
  | share (core : CoreId) (h : BitVec 32)
  /-- QUERY (R211). The page operation QUERY reports a page's state and reference count in PA_RESULT without changing it. -/
  | query (core : CoreId) (h : BitVec 32)
  /-- PAGE_POOL_ENABLE (R211). Setting PA_CFG.ENABLE checks every group's pool and header array and enables the pools with every page FREE, or sets CFG_BAD. -/
  | pagePoolEnable (p : PartId)
  /-- SEAL (R216). SEAL written to FB_CMD makes the OPEN shadow frame SEALING and starts its slot checks, digest and mirror copy. -/
  | seal (core : CoreId)
  /-- SEAL_COMPLETE (R216). A seal finishes its checks, digest and mirror copy, the shadow becomes SEALED and SEAL_DONE is raised. -/
  | sealComplete (p : PartId)
  /-- UNSEAL (R216). UNSEAL written to FB_CMD returns a SEALING or SEALED shadow to OPEN. -/
  | unseal (core : CoreId)
  /-- RELEASE (R217). A plain release written to FB_RELEASE voids the sequence's slot in the shadow and queues its release for the next boundary. -/
  | release (core : CoreId) (ste : Fin 65536)
  /-- CANCEL (R217). A cancelling release written to FB_RELEASE sets CANCEL and CANCEL_STEP at once, voids the shadow slot and queues the release. -/
  | cancel (core : CoreId) (ste : Fin 65536)
  /-- TRIM (R217). A trim written to FB_RELEASE queues, for the next boundary, the return of the sequence's pages beyond its reach. -/
  | trim (core : CoreId) (ste : Fin 65536)
  /-- RELEASE_WALK_END (R217). A release walk finishes returning its sequence's pages, the STE becomes FREE with GEN incremented, and RELEASE_DONE is raised. -/
  | releaseWalkEnd (p : PartId)
  /-- BT_BALANCE_READ (R219). A read of BT_BALANCE applies the due refill to the selected budget entry before returning its balance. -/
  | btBalanceRead (a : Agent)
  /-- BT_ADD (R221). A write to BT_ADD adds a signed amount to the selected entry's balance after refill, saturating. -/
  | btAdd (a : Agent) (delta : BitVec 32)
  /-- LOOKUP (R237). The prefix hash unit hashes and looks up a sequence's blocks in the directory, mapping each confirmed hit into its page table. -/
  | lookup (core : CoreId)
  /-- LOOKUP_HANDLE (R238). A LOOKUP with USE_HANDLE maps the whole chain named by a client handle, then continues hashing from the handle's head. -/
  | lookupHandle (core : CoreId)
  /-- INSERT (R239). The prefix hash unit enters a sequence's committed blocks into the directory and shares their pages. -/
  | insert (core : CoreId)
  /-- REMOVE (R240). The prefix hash unit removes a directory block entry or handle entry and releases its references. -/
  | remove (core : CoreId)
  /-- REGISTER (R240). The prefix hash unit creates a handle entry for a block entry and adds one pin to it. -/
  | register (core : CoreId)
  /-- PREFIX_ENABLE (R242). Setting PH_DIR_CFG.ENABLE checks the directory and share-group table placement and locks their configuration. -/
  | prefixEnable (p : PartId)
  /-- PH_SG_INVAL (R230). A write to PH_SG_INVAL drops the cached prefix key of a share group. -/
  | phSgInval (core : CoreId) (sg : Fin 65536)
  /-- BANK (R245). A BANK command reserves turf slots for a PAUSED sequence's private pages and makes it BANKING, or defers it. -/
  | bank (core : CoreId)
  /-- BANK_MOVE_START (R245). At the first boundary whose active frame no longer holds the sequence, the banking engine starts sealing its pages into turf. -/
  | bankMoveStart (p : PartId)
  /-- BANK_DONE (R245). The last page of a banked sequence is moved, STE.TTL is written, the sequence becomes BANKED and a DONE record is written. -/
  | bankDone (p : PartId)
  /-- MIGRATE (R246). While turf slots in use exceed BK_HIGH, the engine migrates the oldest BANKED sequence whole to the far pool. -/
  | migrate (p : PartId)
  /-- REKINDLE (R248). A REKINDLE command allocates pages in a target group for a BANKED sequence and makes it REKINDLING, or reports NO_PAGES. -/
  | rekindle (core : CoreId)
  /-- REKINDLE_DONE (R248). Every banked page of a sequence has been opened or has failed its tag, the sequence becomes PAUSED and a record is written. -/
  | rekindleDone (p : PartId) (far : List (List Byte))
  /-- BANK_ENABLE (R251). Setting BK_CFG.ENABLE checks the pools and tag table and locks their configuration, or sets CFG_BAD. -/
  | bankEnable (p : PartId)
  /-- BANK_CQ_SPACE (R250). Firmware advances BK_CQ_TAIL so that a banking engine stalled on a full completion ring resumes. -/
  | bankCqSpace (core : CoreId) (tail : BitVec 32)
  /-- CONTEXT_ARM (R258). ARM of a shard context checks its record and makes it ARMED or sets a refusal status. -/
  | contextArm (core : CoreId) (ctx : Fin 256)
  /-- CONTEXT_DISARM (R261). DISARM of a shard context aborts it if ARMED or READY, or reports its final status. -/
  | contextDisarm (core : CoreId) (ctx : Fin 256)
  /-- SHARD_WINDOW_WRITE (R259). A write to an ARMED OPEN context window is decrypted into near memory and the tag is compared once COUNT reaches LENGTH. -/
  | shardWindowWrite (p : PartId) (ctx : Fin 256) (off : Nat) (bytes : List Byte) (from_ : Option (BitVec 15))
  /-- SHARD_WINDOW_READ (R260). A read of a READY RESEAL context window returns ciphertext computed from the source at that moment. -/
  | shardWindowRead (p : PartId) (ctx : Fin 256) (off n : Nat)
  /-- RESEAL_VERIFY_DONE (R260). The verifying pass of a RESEAL context ends, and the context becomes READY or TAG_FAIL. -/
  | resealVerifyDone (p : PartId) (ctx : Fin 256)
  /-- LAYER_OPEN (R263). OPEN_CMD written to WL_LAYER opens a layer, clears its verified-index record and aborts its RESEAL contexts. -/
  | layerOpen (core : CoreId) (layer : Fin 256) (value : BitVec 16)
  /-- EPOCH_SET (R263). SET written to FB_EPOCH_CMD changes the weight epoch at once and closes every layer. -/
  | epochSet (core : CoreId) (epoch : Byte) (compat : Bool)
  /-- EPOCH_ARM (R263). ARM written to FB_EPOCH_CMD arms a weight epoch flip for the boundary that begins step S. -/
  | epochArm (core : CoreId) (epoch : Byte) (compat : Bool)
  /-- EPOCH_DISARM (R263). DISARM written to FB_EPOCH_CMD cancels an armed flip that has not yet taken effect. -/
  | epochDisarm (core : CoreId)
  /-- INSTALL (R271). INSTALL on an overlay handle records a new generation as PENDING, or PENDING_AT_FLIP when AT_FLIP is set. -/
  | install (core : CoreId) (h : BitVec 24) (atFlip : Bool) (tenant : BitVec 16)
  /-- PIN (R271). PIN raises the pin count of a handle's CURRENT generation and returns that generation. -/
  | pin (core : CoreId) (h : BitVec 24)
  /-- UNPIN (R271). UNPIN lowers the pin count of a named generation of an overlay handle. -/
  | unpin (core : CoreId) (h : BitVec 24) (gen : Byte)
  /-- WITHDRAW (R271). WITHDRAW registers a handle's CURRENT generation to become DRAINING at the next boundary with no successor. -/
  | withdraw (core : CoreId) (h : BitVec 24)
  /-- SEGMENT_SEND (R296). In each hall tick a cord egress port chooses and sends one segment for the slot's owner, or FILL. -/
  | segmentSend (c : CordId) (fit : Bool)
  /-- SEGMENT_RECEIVE (R284). A segment arrives at an ingress port and is checked, acknowledged, requested again by NACK or passed to the ingress port. -/
  | segmentReceive (c : CordId) (bytes : List Byte) (waves waits : List Nat) (fec : LaneReport)
  /-- REPLAY_TIMEOUT (R289). The cumulative ACK makes no progress for 2 × RTT + 256 hall ticks, and the oldest unacknowledged segment is queued for retransmission. -/
  | replayTimeout (c : CordId)
  /-- NACK_REPEAT (R287). A sequence number NACKed and still missing RTT + 32 hall ticks later is NACKed again. -/
  | nackRepeat (c : CordId)
  /-- LANE_FAILING (R279). A receiving end declares a lane failing on loss of lock, error ratio or uncorrectable codewords, and sends LANE_REQ. -/
  | laneFailing (c : CordId) (lane : Fin 8) (cond : Fin 3) (fit : Bool)
  /-- WAVELENGTH_RESTORE (R280). A wavelength under test has been FIT for 10 s and is restored as a lane or as the spare. -/
  | wavelengthRestore (c : CordId) (wave : Fin 9)
  /-- LANE_REQ (R299). A LANE_REQ message asks the sender to swap a failing lane onto the spare or to drop it. -/
  | laneReq (c : CordId)
  /-- LANE_CMD (R298). A LANE_CMD message announces a new lane map, width and effective sequence number S to the receiver. -/
  | laneCmd (c : CordId)
  /-- LANE_DONE (R299). A LANE_DONE message confirms that markers of the new generation arrived on every lane. -/
  | laneDone (c : CordId)
  /-- LANE_CMD_RETRY (R299). No LANE_DONE arrives within 2 × RTT + 256 hall ticks and the sender resends LANE_CMD. -/
  | laneCmdRetry (c : CordId)
  /-- SYNC (R298). A SYNC CTL message carries the effective sequence number S of a lane map change when no new segment is ready. -/
  | sync (c : CordId)
  /-- IDENT (R301). An IDENT message in training exchanges module ID, cord number and highest cord protocol level. -/
  | ident (c : CordId) (module : BitVec 15) (number : CordId) (level : Byte)
  /-- TRAINING_DONE (R301). A cord completes training and enters MEASURING, or stays DOWN with reason PROTO. -/
  | trainingDone (c : CordId)
  /-- MEASURING_DONE (R302). A cord completes delay measurement and enters UP, or stays DOWN with reason TOO_LONG. -/
  | measuringDone (c : CordId)
  /-- CORD_DOWN (R304). A cord's down timer reaches LINK_DOWN_TIME, or a direction would fall below width 7, and the cord goes DOWN. -/
  | cordDown (c : CordId)
  /-- LEASE_PROPOSE (R310). A LEASE_PROPOSE message offers to grant or release slots of a cord to a pair of partitions at hall count H. -/
  | leasePropose (c : CordId)
  /-- LEASE_ACK (R310). A LEASE_ACK message accepts or refuses a proposal, after which the proposer commits or aborts. -/
  | leaseAck (c : CordId)
  /-- LEASE_COMMIT (R311). A LEASE_COMMIT message confirms an accepted lease to the receiver. -/
  | leaseCommit (c : CordId)
  /-- LEASE_ABORT (R310). A LEASE_ABORT message makes the receiver free its reservation. -/
  | leaseAbort (c : CordId)
  /-- LEASE_DONE (R311). A LEASE_DONE message tells the proposer that the receiver now sends or has stopped sending in the slots. -/
  | leaseDone (c : CordId)
  /-- LEASE_EFFECTIVE (R311). The hall count H of a committed lease arrives and each end changes acceptance and sending of the slots. -/
  | leaseEffective (c : Option CordId)
  /-- PACKET_COMPLETE (R320). A REQ or RSP packet becomes complete at an ingress port and is delivered, forwarded, deflected or dropped. -/
  | packetComplete (c : CordId)
  /-- RD_REQ (R323). A read request reaches its destination partition and is answered with RD_RSP packets or a NACK. -/
  | rdReq (p : PartId) (room : Bool) (host : Cells)
  /-- WR_REQ (R324). A write request packet reaches its destination and is applied once, deduplicated or NACKed via the completion table. -/
  | wrReq (p : PartId)
  /-- RD_RSP (R325). A read response packet reaches the requester and its bytes are counted toward completing the read. -/
  | rdRsp (p : PartId)
  /-- WR_RSP (R327). A write response reaches the requester and the write ends DONE. -/
  | wrRsp (p : PartId) (host : Cells)
  /-- NACK (R326). A NACK reaches the requester, which starts the next attempt or ends the request as refused. -/
  | nack (p : PartId)
  /-- ATTEMPT_TIMEOUT (R326). REQ_TIMEOUT ÷ 4 passes since an attempt was sent without completion, and the next attempt starts. -/
  | attemptTimeout (p : PartId)
  /-- REQ_TIMEOUT (R327). REQ_TIMEOUT passes from a request's first send, and the request ends timed out or with outcome unknown. -/
  | reqTimeout (p : PartId)
  /-- COMPLETION_ENTRY_EXPIRY (R324). A write completion table entry is freed 32,000 hall ticks after its creation. -/
  | completionEntryExpiry (p : PartId)
  /-- ROUTE_INVAL (R317). A write of INVAL in the routing record drops every cached route and homing entry of the partition. -/
  | routeInval (p : PartId)
  /-- TIME_EXCHANGE_START (R333). Every 16,384 hall ticks a cord starts a time exchange by sending TIME_REQ. -/
  | timeExchangeStart (c : CordId)
  /-- TIME_REQ (R333). A TIME_REQ message is timestamped at arrival and answered with TIME_RSP. -/
  | timeReq (c : CordId) (frac : Fin 64)
  /-- TIME_RSP (R333). A TIME_RSP message completes an exchange and the requester derives delays and offset and steers its hall clock. -/
  | timeRsp (c : CordId) (frac : Fin 64)
  /-- TIME_LABEL (R338). A TIME_LABEL message pairing a hall count with TAI time is kept and forwarded down the sync tree. -/
  | timeLabel (c : CordId)
  /-- HOLDOVER_LIMIT (R337). A module stays in HOLDOVER longer than HOLDOVER_LIMIT and suffers a time loss. -/
  | holdoverLimit
  /-- NTP_REQUEST (R339). An NTPv4 client request on the management port is answered with time from the latest label. -/
  | ntpRequest (req : List Byte)
  /-- DAMPER_UP (R343). A DAMPER_UP message reports a subtree minimum of the desired damper setting toward the domain root. -/
  | damperUp (c : CordId)
  /-- DAMPER_SET (R342). A DAMPER_SET message announces a new damper setting m and its effective hall count H to every member. -/
  | damperSet (c : CordId)
  /-- DAMPER_CHANGE (R342). The effective hall count H of a pending damper setting arrives and the new m applies. -/
  | damperChange (p : PartId)
  /-- DESIRED_DAMPER_UPDATE (R343). On its 1 ms or 100 ms period the Collier adjusts its desired m from temperatures and input power. -/
  | desiredDamperUpdate (slow : Bool)
  /-- FREEZE (R344). A junction at 105 °C or a regulator overcurrent warning freezes every partition on the die. -/
  | freeze (d : DieId) (warn : Option (Fin 8))
  /-- FREEZE_LIFT (R344). Every junction of the die is below 103 °C and the warning has cleared, and the freeze is lifted. -/
  | freezeLift (d : DieId) (warn : Bool)
  /-- SLIP_REQ (R349). A SLIP_REQ message raises seen(j) and is forwarded on the domain tree when its amount is larger. -/
  | slipReq (c : CordId)
  /-- DOMAIN_BEACON (R358). A DOMAIN_BEACON message carries the damper sequence and slip total, which each member checks against its own. -/
  | domainBeacon (c : CordId)
  /-- DOMAIN_BEACON_SEND (R358). Every 500,000 hall ticks the domain root sends DOMAIN_BEACON down the domain tree. -/
  | domainBeaconSend (p : PartId)
  /-- BEACON_TIMEOUT (R365). 2,000,000 hall ticks pass without a DOMAIN_BEACON and the member suffers a time loss of cause BEACON. -/
  | beaconTimeout (p : PartId)
  /-- CNT_CLEAR (R356). A write to CNT_CLEAR clears the determinism counters and DEBT_MAX. -/
  | cntClear (p : PartId)
  /-- JOIN (R362). JOIN in the domain record makes the partition MEMBER at the root, or JOINING with DOMAIN_JOIN sent on the parent cord. -/
  | join (p : PartId)
  /-- JOIN_RETRY (R362). Every 500,000 hall ticks a JOINING partition repeats DOMAIN_JOIN until a DOMAIN_ACK arrives. -/
  | joinRetry (p : PartId)
  /-- JOIN_TIMEOUT (R362). No DOMAIN_ACK arrives within 1 s and the partition returns to NONE with ERROR TIMEOUT. -/
  | joinTimeout (p : PartId)
  /-- DOMAIN_JOIN (R362). A DOMAIN_JOIN message is checked at the parent and answered with DOMAIN_ACK once the parent is MEMBER. -/
  | domainJoin (c : CordId)
  /-- DOMAIN_ACK (R362). A DOMAIN_ACK message makes the joining partition MEMBER on ACCEPT. -/
  | domainAck (c : CordId)
  /-- DOMAIN_COUNT (R362). A DOMAIN_COUNT message updates MEMBERS_SUB, and FORMED at the root. -/
  | domainCount (c : CordId)
  /-- LEAVE (R382). LEAVE in the domain record schedules the partition to leave the domain at hall count H_T. -/
  | leave (p : PartId)
  /-- LEAVE_TAKE_EFFECT (R382). The hall count H_T arrives: the plan stops, the partition is fenced and becomes LEAVING, and lease releases begin. -/
  | leaveTakeEffect (p : PartId)
  /-- PARTITION_TEARDOWN (R384). Every lease of a leaving partition has ended and the Collier dissolves it, destroys its keys and scrubs its groups. -/
  | partitionTeardown (p : PartId) (bank : BankVolt)
  /-- SHADOW_START (R376). SHADOW_START makes a loaded member a shadow of the primary, to start at step K. -/
  | shadowStart (p : PartId)
  /-- SHADOW_SYNC (R376). A SHADOW_SYNC message gives the shadow the hall count of beat G(K − 1), from which it counts beats. -/
  | shadowSync (c : CordId)
  /-- SHADOW_DIGEST (R380). A SHADOW_DIGEST message carries the primary's step digest, which the shadow compares with its own. -/
  | shadowDigest (c : CordId)
  /-- SWAP (R381). SWAP in the shadow's domain record schedules the shadow and primary to exchange roles at step S. -/
  | swap (p : PartId)
  /-- SWAP_TAKE_EFFECT (R381). At beat G(S) the shadow becomes MEMBER, the primary becomes its shadow and mirrored twins become ALIAS_MIRROR. -/
  | swapTakeEffect (p : PartId)
  /-- EPOCH_ADVANCE (R370). EPOCH_ADVANCE at the root raises the fault epoch and sends FAULT_EPOCH down the tree. -/
  | epochAdvance (p : PartId)
  /-- FAULT_EPOCH (R370). A FAULT_EPOCH message makes a module clear its set of reported keys. -/
  | faultEpoch (c : CordId)
  /-- FAULT_REPORT (R371). A fault report is merged into an open merge entry, forwarded to the parent, or added to the root table. -/
  | faultReport (c : CordId)
  /-- MERGE_CLOSE (R371). A merge entry's closing hall count arrives, its pending count is reported and the entry is freed. -/
  | mergeClose
  /-- TWIN_MODE_WRITE (R375). A write of a twin record is checked for binding and takes effect at the neighbour's next scheduled step start. -/
  | twinModeWrite (c : CordId) (valid : Bool) (b : CordId) (mode : Fin 4) (swap : BitVec 64)
  /-- CMS_READ (R446). A CMS READ returns bytes of one record instance. -/
  | cmsRead (r : CmsReq) (type : Byte) (inst : BitVec 16) (off count : BitVec 32)
  /-- CMS_WRITE (R446). A CMS WRITE applies bytes to one record instance whole or not at all. -/
  | cmsWrite (r : CmsReq) (type : Byte) (inst : BitVec 16) (off : BitVec 32) (data : List Byte)
  /-- CREATE (R390). The CMS command CREATE assigns free groups to a new partition and applies partition reset. -/
  | create (r : CmsReq) (args : List Byte)
  /-- DISSOLVE (R390). The CMS command DISSOLVE fences an idle partition, destroys its keys and starts scrubbing its groups. -/
  | dissolve (r : CmsReq) (args : List Byte)
  /-- MOVE (R442). The CMS command MOVE binds an idle partition to another host port. -/
  | move (r : CmsReq) (args : List Byte)
  /-- LEASE (R448). The CMS command LEASE asks the Collier to grant or release cord or pass-through lane slots for a pair. -/
  | lease (r : CmsReq) (args : List Byte)
  /-- ENABLE_TEST (R406). The CMS command ENABLE_TEST returns a nonce, or with a valid authorization stops and zeroizes everything and enables the test port. -/
  | enableTest (r : CmsReq) (args : List Byte)
  /-- STAGE_BEGIN (R468). The CMS command STAGE_BEGIN erases the image area of the inactive bank. -/
  | stageBegin (r : CmsReq) (args : List Byte)
  /-- STAGE_WRITE (R468). The CMS command STAGE_WRITE writes a header or body bytes of an image slot in the inactive bank. -/
  | stageWrite (r : CmsReq) (args : List Byte)
  /-- STAGE_COPY (R468). The CMS command STAGE_COPY copies the active bank's image of one type into the inactive bank. -/
  | stageCopy (r : CmsReq) (args : List Byte)
  /-- STAGE_END (R468). The CMS command STAGE_END verifies all five slots and marks the inactive bank STAGED. -/
  | stageEnd (r : CmsReq) (args : List Byte)
  /-- ACTIVATE (R469). The CMS command ACTIVATE schedules activation of the staged bank at hall count H. -/
  | activate (r : CmsReq) (args : List Byte)
  /-- CANCEL_ACTIVATE (R469). The CMS command CANCEL_ACTIVATE cancels a scheduled activation. -/
  | cancelActivate (r : CmsReq) (args : List Byte)
  /-- ACTIVATION_RETEST (R469). At H − 250,000,000 the hold-up bank is tested again and the activation is cancelled on failure. -/
  | activationRetest (bank : BankVolt)
  /-- ACTIVATION (R469). At H the partitions stop, the pointer becomes TRIAL on the staged bank and module reset is applied. -/
  | activation
  /-- CONFIRM (R470). The CMS command CONFIRM allows a trial image to confirm itself. -/
  | confirm (r : CmsReq) (args : List Byte)
  /-- HEALTH_CONFIRM (R470). A trial image that has reached OPEN with its bank verified commits the pointer as CONFIRMED. -/
  | healthConfirm (bank : BankVolt)
  /-- TRIAL_TIMEOUT (R470). The 600 s trial window expires without HEALTH_CONFIRM and the Collier reverts to the previous bank. -/
  | trialTimeout
  /-- RESTART (R443). The CMS command RESTART restarts the Collier, which is a module reset. -/
  | restart (r : CmsReq) (args : List Byte)
  /-- PERSIST_NOW (R448). The CMS command PERSIST_NOW commits the cinder history to flash. -/
  | persistNow (r : CmsReq) (args : List Byte)
  /-- HOLDUP_TEST (R458). The CMS command HOLDUP_TEST measures the hold-up bank and reports its energy and pass or fail. -/
  | holdupTest (r : CmsReq) (args : List Byte)
  /-- HOLDUP_RETEST (R459). Every 60 s while changes are pending, the Collier retests the hold-up bank and commits them on a pass. -/
  | holdupRetest (bank : BankVolt)
  /-- CINDER_PERSIST (R460). Hourly, after a hold-up test, the Collier commits the cinder history. -/
  | cinderPersist (bank : BankVolt)
  /-- FUSE_REPAIR (R474). The CMS command FUSE_REPAIR burns a group's soft repairs into fuses and removes them from the repair record. -/
  | fuseRepair (r : CmsReq) (args : List Byte) (stackFull : Bool)
  /-- SELFTEST (R475). The CMS command SELFTEST starts a run-time test of an unused group, cord or die. -/
  | selftest (r : CmsReq) (args : List Byte)
  /-- SELFTEST_DONE (R476). A run-time test ends, and its group passes through the scrub to FREE or becomes WITHHELD. -/
  | selftestDone (found : TestResult) (sram stack : Nat) (waves : List (Bool × Fin 9)) (bank : BankVolt)
  /-- CINDER_CLEAR (R479). The CMS command CINDER_CLEAR clears the cinder counters of a unit or of every unit. -/
  | cinderClear (r : CmsReq) (args : List Byte)
  /-- SCRUB_DONE (R404). The scrub of a SCRUBBING group completes and the group becomes FREE. -/
  | scrubDone (g : GroupId)
  /-- COALESCE_CLOSE (R481). The 1 s coalescing window of a fault log entry closes and the entry is written with its event count. -/
  | coalesceClose
  /-- KEY_INSTALL (R402). INSTALL written to KEY_CMD opens a wrapped-key blob and writes the key into a slot. -/
  | keyInstall (p : PartId) (slot : Fin 32) (host : Cells)
  /-- ERASE (R402). ERASE written to KEY_CMD zeroes a key slot and aborts the shard contexts that use it. -/
  | erase (p : PartId) (slot : Fin 32)
  /-- HOST_WINDOW_ENABLE (R393). A write to HW_CTRL.ENABLE maps or unmaps a host window, or is refused when the window is invalid. -/
  | hostWindowEnable (p : PartId) (w : Fin 8) (v : BitVec 3)
  /-- GO (R416). GO written to STK_SH_CTRL arms the shadow transfer, or promotes it at once when the channel is IDLE. -/
  | go (a : Agent) (ch : Fin 8) (host : Cells)
  /-- STOKE_CANCEL (R416). CANCEL written to STK_SH_CTRL disarms a shadow transfer not yet promoted. -/
  | stokeCancel (a : Agent) (ch : Fin 8)
  /-- PROMOTION (R416). A transfer ends with the shadow armed, and the shadow is promoted into the active set and checked. -/
  | promotion (g : GroupId) (ch : Fin 8) (host : Cells)
  /-- ABORT (R421). ABORT written to STK_CTRL ends the active transfer with an ABORTED record unless it has already reached DONE. -/
  | abort (a : Agent) (ch : Fin 8)
  /-- RESUME (R420). RESUME written to STK_CTRL re-issues the failing unit of a HALTED channel and continues. -/
  | resume (a : Agent) (ch : Fin 8) (host : Cells)
  /-- SKIP (R420). SKIP written to STK_CTRL skips the rest of the failing entry of a HALTED channel and continues. -/
  | skip (a : Agent) (ch : Fin 8) (host : Cells)
  /-- STOKE_UNIT_DONE (R414). A Stoke unit's write leaves the engine, and the last one makes the channel write its DONE record. -/
  | stokeUnitDone (g : GroupId) (ch : Fin 8) (unit : Nat) (host : Cells)
  /-- STOKE_UNIT_FAIL (R419). A Stoke unit fails on its read or write side and the channel halts with a halt record. -/
  | stokeUnitFail (g : GroupId) (ch : Fin 8) (unit : Nat) (write : Bool) (cause : StkCause) (off : Nat)
  /-- SETTLE_READ_DONE (R417). The last settling read of a transfer returns and the SETTLED record is written. -/
  | settleReadDone (g : GroupId) (ch : Fin 8) (err : Bool)
  /-- STOKE_CQ_SPACE (R423). Software advances STK_CQ_TAIL so that a channel waiting in CQ_WAIT writes its record and continues. -/
  | stokeCqSpace (a : Agent) (ch : Fin 8) (tail : BitVec 32)
  /-- DOORBELL (R432). A write to a queue's doorbell sets the host index and its HQ_PENDING bit, or is refused and counted. -/
  | doorbell (p : PartId) (q : Fin 256) (v : BitVec 32)
  /-- HQ_DEV_IDX_WRITE (R436). Ember firmware writes a queue's device index, which is accepted within the ring bounds or refused. -/
  | hqDevIdxWrite (core : CoreId) (v : BitVec 32)
  /-- HQ_RAISE (R435). A write to HQ_RAISE sets a queue's Q_EVENT bit, which may send its MSI-X message. -/
  | hqRaise (core : CoreId) (q : Fin 256)
  /-- EVENT_CLEAR (R437). A W1C write to EV_STATUS or Q_EVENT clears event bits, with a simultaneous new event still winning. -/
  | eventClear (p : PartId) (w : Option (Fin 8)) (v same : BitVec 32)
  /-- EVENT_ENABLE (R437). A write that sets an event enable bit or MSG_EN sends the MSI-X message of a status bit already set. -/
  | eventEnable (p : PartId) (r : EvReg) (v : BitVec 32)
  /-- FUNCTION_LEVEL_RESET (R438). A function-level reset resets the host-interface state of one partition function. -/
  | functionLevelReset (h : PortId) (p : PartId)
  /-- PERST (R438). PERST# or a hot reset of a port resets the host-interface state of every function of the port. -/
  | perst (h : PortId) (pin : Option Bool)
  /-- HOST_LINK_UP (R440). A host port reaches link-up within 20 ms of PERST# deassertion and rail sequencing. -/
  | hostLinkUp (h : PortId) (speed : LinkSpeed) (width : LinkWidth) (cxl : Bool)
  /-- HOST_LINK_DOWN (R438). A host port's link drops, including by surprise removal, and every function of the port resets its host-interface state. -/
  | hostLinkDown (h : PortId)
  /-- GENERIC_REGISTER_WRITE (R17). A write to a register that has no row of its own is applied field by field per its access types, including RWL lock counting. -/
  | genericRegisterWrite (w : RegWrite) (host : Cells)
  /-- POWER_UP (R463). Aux power arrives and the boot ROM starts kindling in the ROM phase. -/
  | powerUp
  /-- KINDLE_ROM_DONE (R467). The boot ROM finishes checking and starting a Collier image, falling back to the other bank if needed. -/
  | kindleRomDone
  /-- KINDLE_RAILS (R489). 54 V becomes present and the Collier sequences the rail groups, halting kindling if one misses its window. -/
  | kindleRails (late : Option (Fin 8))
  /-- KINDLE_SELFTEST (R471). The rails phase ends and the Collier runs the kindling tests, repairs, spare substitution and withholding. -/
  | kindleSelftest (f : SelfFail) (bank : BankVolt)
  /-- KINDLE_LOAD (R463). Self-test ends and the Collier migrates records, loads microcode and optical firmware and starts cord training. -/
  | kindleLoad (resets : List (Fin 11)) (bank : BankVolt)
  /-- KINDLE_SYNC (R464). The load phase ends and the module waits to become LOCKED, ROOT or FREE. -/
  | kindleSync
  /-- KINDLE_PARTITIONS (R465). Sync and the scrub end and the Collier re-creates the valid partition layout entries, then opens. -/
  | kindlePartitions
  /-- MODULE_RESET (R443). A lockstep mismatch or watchdog expiry restarts the Collier, which is a module reset stopping every partition. -/
  | moduleReset (watchdog : Bool)
  /-- INPUT_POWER (R485). An input undervoltage, overvoltage, overcurrent, aux loss or MATED opening stops the module and commits from the hold-up bank. -/
  | inputPower (c : Fin 5)
  /-- INRUSH_RAMP (R487). MATED and the 54 V input have been valid for 50 ms and the inrush limiter ramps its output. -/
  | inrushRamp
  /-- REGULATOR_LIMIT (R491). A die-rail regulator at its current limit or out of regulation for 50 µs turns off the die's rail groups. -/
  | regulatorLimit (d : DieId) (rail : DieRail)
  /-- THERMAL_TRIP (R493). A junction, stack or optical engine sensor reaches its trip threshold and the die's rails or the engine's lasers turn off. -/
  | thermalTrip (sensor : TripSensor)
  /-- SENSOR_READ (R495). Every millisecond the Collier reads every sensor. -/
  | sensorRead (readings : List (Byte × Int))
  /-- LOSS_OF_SYMBOL_LOCK (R303). An active lane of a cord direction loses symbol lock and the cord's down timer starts running. -/
  | lossOfSymbolLock (c : CordId) (ingress : Bool) (lane : Fin 8)
  /-- SYMBOL_LOCK_REGAINED (R303). Every active lane of a cord holds symbol lock again and the down timer resets. -/
  | symbolLockRegained (c : CordId)
  /-- SPDM_REQUEST (R399). An SPDM request over PCIe DOE to a function is answered with versions, certificates, signed challenges or measurement blocks. -/
  | spdmRequest (h : PortId) (fn : Fin 17) (req : List Byte)
  /-- ROM_PLDM_UPDATE (R467). With both flash images failing, the boot ROM accepts a Collier image by PLDM firmware update over SMBus into SRAM, checks it and starts it. -/
  | romPldmUpdate (hdr body : List Byte)
  /-- SHARED_CLOCK_LOSS (R366). A die loses its shared clock and every partition with a group on that die is stopped and fenced. -/
  | sharedClockLoss (d : DieId)
  /-- INPUT_POWER_RECOVERY (R485). After an INPUT_POWER fault both inputs have been within their operating ranges for 100 ms and the Collier starts kindling with RESTART_CAUSE 0. -/
  | inputPowerRecovery
  /-- TIME_LABEL_SEND (R338). Once every 500,000,000 hall ticks the synchronised hall root sends TIME_LABEL down the sync tree. -/
  | timeLabelSend (tai : BitVec 64) (utc : BitVec 16)
  /-- LEASE_ACCEPT_END (R312). DELAY_RX + 2 hall ticks after a RELEASE receiver stops sending, it stops accepting the pair's segments and the slots return to the module. -/
  | leaseAcceptEnd (c : CordId)
  /-- LEAVE_RELEASE_TIMEOUT (R383). If no RELEASE from the lower-ID end has arrived by H_T + 5,000,000, the other end proposes the RELEASE of the leaving pair's slots. -/
  | leaveReleaseTimeout (p : PartId)
  /-- KINDLE_SYNC_TIMEOUT (R464). A module not LOCKED within 10 s of the start of SYNC opens with its time unit FREE and sets SYNC_FREE. -/
  | kindleSyncTimeout
deriving DecidableEq, Repr

end Sys2Proof
end

