-- ==== Sys2Proof/Config.lean ====
section
/-! DEFINITION. What one stepping fixes (R3) and the free values: constants without a body, which no
proof can evaluate, for every value the spec leaves open or names without defining it. -/

namespace Sys2Proof.Config

/-- Highest PCL the module implements, stepping A1 (R3). -/
def maxPcl : Nat := 1

/-- The latency padding of a unit for a PCL other than 1, from that PCL's contract table, which the spec does not print. -/
opaque padOther : Nat → Nat → Nat
/-- The latency padding of a unit of a tile (R76) for a plan's PCL: 0 on stepping A1 with PCL 1 (R62). -/
def padding (pcl unit : Nat) : Nat := if pcl = 1 then 0 else padOther pcl unit

/-! ### Named functions the spec does not define (BLAKE3, AES-GCM, HPKE, SHA-384, signatures) -/

/-- BLAKE3-256 of a byte string (R64, R212, R229). -/
opaque blake3 : List Byte → BitVec 256
/-- BLAKE3 keyed hash, 256 bits (R230). -/
opaque blake3Keyed : BitVec 256 → List Byte → BitVec 256
/-- BLAKE3 derive_key: context, key material (R230). -/
opaque blake3Derive : List Byte → List Byte → BitVec 256
/-- AES-256-GCM encryption: key, nonce, additional data, plaintext; ciphertext then tag (R244, R256). -/
opaque gcmSeal : BitVec 256 → List Byte → List Byte → List Byte → List Byte × BitVec 128
/-- AES-256-GCM decryption of bytes at an offset of a message: key, nonce, offset, ciphertext (R257). -/
opaque gcmStream : BitVec 256 → List Byte → Nat → List Byte → List Byte
/-- HPKE opening of a wrapped-key blob by the wrapping key of a generation: `none` when it does not open (R401). -/
opaque hpkeOpen : Nat → List Byte → Option (BitVec 256)
/-- SHA-384 (R397, R450). -/
opaque sha384 : List Byte → BitVec 384
/-- CDI₁: HMAC-SHA-384 keyed with the unique device secret of a DeviceID serial (R398). -/
opaque cdi : Nat → List Byte → BitVec 384
/-- Elvune's PCI-SIG vendor ID (R429). -/
opaque vendorId : BitVec 16
/-- Whether a signature over a message verifies under a key of a serial number (R406, R450). -/
opaque verify : Nat → List Byte → List Byte → Bool

/-! ### Free values -/

/-- The contribution of an MMA to a column when a row it reads is recorded in another class: a
function of its operands, the same on every run (R506). Arguments: accumulator column, streamed row,
stationary bytes' serial. -/
opaque mmaOther : Nat → List Byte → List (Nat × Nat) → Int × Int
/-- The same for the 16-bit class: an FP32 column sum. -/
opaque mmaOther32 : Nat → List Byte → List (Nat × Nat) → BitVec 32
/-- Which of the values within its error bound a special function returns (R150): a choice below a bound. -/
opaque specPick : SpecFn → BitVec 32 → Nat
/-- A vector shift by 32 or more, on which R147 is silent. -/
opaque vecShift : VecOp → BitVec 32 → BitVec 32 → BitVec 32
/-- A byte of a line that an outstanding draw is filling (R174): the draw's serial number, the byte. -/
opaque drawByte : Nat → Nat → Byte
/-- Which FREE page an allocation takes (R210): a choice below a bound, from a running counter. -/
opaque pageChoice : Nat → Nat
/-- A turf byte read under a key that did not write it (R397, R404). -/
opaque turfByte : Nat → Nat → Byte
/-- A result field that a command leaves open when it fails (R211): from a running counter. -/
opaque openField : Nat → Nat
/-- A byte a Stoke transfer writes when its source and destination overlap (R413): transfer serial, stream offset. -/
opaque stokeByte : Nat → Nat → Byte
/-- Whether bytes parse as an X.509 certificate in DER with the CA basic constraint (R454). -/
opaque caParses : List Byte → Bool
/-- The body of an SPDM response, whose bytes DSP0274 defines (R399): function, request, measured content. -/
opaque spdmBody : Nat → List Byte → List Byte → List Byte
/-- A byte of host memory that an assist reads where no operand of a command carries it: address, running counter. -/
opaque hostByte : Nat → Nat → Byte
/-- Where the Elvune Ember image starts (R195). -/
opaque elvuneEntry : BitVec 64
/-- A value drawn from the module's random bit generator (R396), from a running counter. -/
opaque random : Nat → BitVec 256

end Sys2Proof.Config
end

