-- ==== Sys2Proof/Machine/Tab.lean ====
section
/-! DEFINITION. Sparse tables and byte memories in one canonical form: keys strictly rising, no entry
equal to what an unlisted key holds. -/

namespace Sys2Proof.Machine

/-- The value at key `k`; `d` is what an unlisted key holds. -/
def tabGet {α : Type} (d : α) (t : Tab α) (k : Nat) : α :=
  match t with
  | [] => d
  | (j, v) :: r => if j = k then v else tabGet d r k

/-- Remove key `k`. -/
def tabErase {α : Type} (t : Tab α) (k : Nat) : Tab α :=
  match t with
  | [] => []
  | (j, v) :: r => if j = k then tabErase r k else (j, v) :: tabErase r k

/-- Put a pair in its place among rising keys. -/
def tabInsert {α : Type} (t : Tab α) (k : Nat) (v : α) : Tab α :=
  match t with
  | [] => [(k, v)]
  | (j, w) :: r => if k < j then (k, v) :: (j, w) :: r else (j, w) :: tabInsert r k v

/-- Store `v` at key `k`; storing what an unlisted key holds removes the entry. -/
def tabSet {α : Type} [DecidableEq α] (d : α) (t : Tab α) (k : Nat) (v : α) : Tab α :=
  if v = d then tabErase t k else tabInsert (tabErase t k) k v

/-- Change the value at key `k`. -/
def tabUpd {α : Type} [DecidableEq α] (d : α) (t : Tab α) (k : Nat) (f : α → α) : Tab α :=
  tabSet d t k (f (tabGet d t k))

/-- The table of `f` over keys 0 to n − 1. -/
def tabOf {α : Type} [DecidableEq α] (d : α) (n : Nat) (f : Nat → α) : Tab α :=
  (List.range n).filterMap fun k => if f k = d then none else some (k, f k)

/-- Keys strictly rise and exceed `lo`; no entry holds `d`. -/
def tabWfFrom {α : Type} [DecidableEq α] (d : α) (lo : Nat) (t : Tab α) : Bool :=
  match t with
  | [] => true
  | (j, v) :: r => decide (lo ≤ j) && decide (v ≠ d) && tabWfFrom d (j + 1) r

/-- The canonical form of a table. -/
def tabWf {α : Type} [DecidableEq α] (d : α) (t : Tab α) : Bool := tabWfFrom d 0 t

/-! ### Bytes -/

/-- The byte at address `a`; an unlisted address reads 0. -/
def rdByte (m : Cells) (a : Nat) : Byte := tabGet 0#8 m a

/-- Store one byte. -/
def wrByte (m : Cells) (a : Nat) (b : Byte) : Cells := tabSet 0#8 m a b

/-- The `n` bytes from address `a`. -/
def rdBytes (m : Cells) (a : Nat) : Nat → List Byte
  | 0 => []
  | n + 1 => rdByte m a :: rdBytes m (a + 1) n

/-- Store a list of bytes from address `a`. -/
def wrBytes (m : Cells) (a : Nat) : List Byte → Cells
  | [] => m
  | b :: r => wrBytes (wrByte m a b) (a + 1) r

/-- The little-endian value of a list of bytes (R16). -/
def leNat : List Byte → Nat
  | [] => 0
  | b :: r => b.toNat + 256 * leNat r

/-- The low `n` bytes of a number, little-endian (R16). -/
def leBytes (n : Nat) (v : Nat) : List Byte :=
  match n with
  | 0 => []
  | k + 1 => BitVec.ofNat 8 v :: leBytes k (v / 256)

/-- The little-endian number in the `n` bytes from `a`. -/
def rdLe (m : Cells) (a n : Nat) : Nat := leNat (rdBytes m a n)

/-- Bits [msb:lsb] of a number. -/
def bitsOf (v msb lsb : Nat) : Nat := (v / 2 ^ lsb) % 2 ^ (msb + 1 - lsb)

/-- A saturating increment of a counter of `w` bits. -/
def satInc (w v : Nat) : Nat := min (2 ^ w - 1) (v + 1)

/-- Round up to a multiple. -/
def roundUp (v m : Nat) : Nat := (v + m - 1) / m * m

/-- Division rounded up. -/
def ceilDiv (v m : Nat) : Nat := (v + m - 1) / m

end Sys2Proof.Machine
end

