-- ==== Sys2Proof/Machine/Arith.lean ====
section
/-! DEFINITION. Number formats, rounding, exact accumulation and the vector arithmetic of
05_arithmetic (R127 to R154). -/

namespace Sys2Proof.Machine

/-- A number read from an element: a finite value (−1)^neg × m × 2^q, an infinity, or NaN. -/
inductive Num where
  | fin (neg : Bool) (m : Nat) (q : Int)
  | inf (neg : Bool)
  | nan
deriving DecidableEq, Repr

/-- The layout of a floating format: exponent and mantissa bits, bias. -/
structure FloatFmt where
  eb : Nat
  mb : Nat
  bias : Nat

/-- The layouts of R127; integer formats have none. -/
def floatFmt : ElemFmt → Option FloatFmt
  | .fp32 => some ⟨8, 23, 127⟩
  | .bf16 => some ⟨8, 7, 127⟩
  | .fp16 => some ⟨5, 10, 15⟩
  | .e4m3 => some ⟨4, 3, 7⟩
  | .e5m2 => some ⟨5, 2, 15⟩
  | .e3m2 => some ⟨3, 2, 3⟩
  | .e2m3 => some ⟨2, 3, 1⟩
  | .e2m1 => some ⟨2, 1, 1⟩
  | _ => none

/-- Bits of an element (R127). -/
def elemBits : ElemFmt → Nat
  | .fp32 | .int32 => 32
  | .bf16 | .fp16 => 16
  | .e4m3 | .e5m2 | .int8 | .mxint8 => 8
  | .e3m2 | .e2m3 => 6
  | .e2m1 | .int4 => 4

/-- The step exponent q of R127: the weight of the least significant bit of the smallest subnormal. -/
def stepExp : ElemFmt → Int
  | .fp32 => -149
  | .bf16 => -133
  | .fp16 => -24
  | .e4m3 => -9
  | .e5m2 => -16
  | .e3m2 => -4
  | .e2m3 => -3
  | .e2m1 => -1
  | .int8 | .int4 | .int32 => 0
  | .mxint8 => -6

/-- Which codes of a format are infinities and NaNs (R127): IEEE codes, NaN at all ones only, or neither. -/
inductive Specials where
  | ieee | nanOnly | none
deriving DecidableEq

def specials : ElemFmt → Specials
  | .fp32 | .bf16 | .fp16 | .e5m2 => .ieee
  | .e4m3 => .nanOnly
  | _ => .none

/-- The signed value of the low `n` bits. -/
def signedOf (n v : Nat) : Int :=
  if v % 2 ^ n < 2 ^ (n - 1) then (v % 2 ^ n : Nat) else (v % 2 ^ n : Nat) - (2 ^ n : Nat)

/-- A signed integer times 2^q as a number; zero is +0. -/
def numOfInt (n q : Int) : Num := .fin (n < 0) n.natAbs q

/-- The value an element code holds (R127, R128: subnormals honoured). -/
def decodeElem (f : ElemFmt) (c : Nat) : Num :=
  match floatFmt f with
  | none => numOfInt (signedOf (elemBits f) c) (stepExp f)
  | some ⟨eb, mb, _⟩ =>
    let neg := c / 2 ^ (eb + mb) % 2 = 1
    let e := c / 2 ^ mb % 2 ^ eb
    let m := c % 2 ^ mb
    if specials f = .ieee ∧ e = 2 ^ eb - 1 then (if m = 0 then .inf neg else .nan)
    else if specials f = .nanOnly ∧ e = 2 ^ eb - 1 ∧ m = 2 ^ mb - 1 then .nan
    else if e = 0 then .fin neg m (stepExp f)
    else .fin neg (2 ^ mb + m) (stepExp f + (e - 1 : Nat))

/-- m ÷ 2^k rounded to nearest, ties to even (R128). -/
def roundEven (m k : Nat) : Nat :=
  let q := m / 2 ^ k
  let r := m % 2 ^ k
  if 2 * r < 2 ^ k then q else if 2 * r > 2 ^ k then q + 1 else q + q % 2

/-- A signed integer ÷ 2^k rounded to nearest, ties to even. -/
def roundEvenInt (s : Int) (k : Nat) : Int :=
  if s < 0 then -(roundEven s.natAbs k : Int) else (roundEven s.natAbs k : Int)

/-- m × 2^q as an integer count of steps 2^t, rounded to nearest even. -/
def scaleTo (m : Nat) (q t : Int) : Nat :=
  if t ≤ q then m * 2 ^ (q - t).toNat else roundEven m (t - q).toNat

/-- The largest finite code of a floating format, sign excluded (R127). -/
def maxCode (f : ElemFmt) (eb mb : Nat) : Nat :=
  match specials f with
  | .ieee => (2 ^ eb - 1) * 2 ^ mb - 1
  | .nanOnly => 2 ^ (eb + mb) - 2
  | .none => 2 ^ (eb + mb) - 1

/-- The canonical NaN of a format (R127); formats without one give 0 (R131). -/
def nanCode : ElemFmt → Nat
  | .fp32 => 0x7FC00000
  | .bf16 => 0x7FC0
  | .fp16 => 0x7E00
  | .e4m3 => 0x7F
  | .e5m2 => 0x7E
  | _ => 0

/-- Magnitude code of a finite value in a floating format before any overflow rule. -/
def magCode (f : ElemFmt) (mb m : Nat) (q : Int) : Nat :=
  if m = 0 then 0
  else
    let lsb := max ((Nat.log2 m : Int) + q - mb) (stepExp f)
    (lsb - stepExp f).toNat * 2 ^ mb + scaleTo m q lsb

/-- One conversion, rounded once to nearest even, with the table of R131. -/
def encodeElem (f : ElemFmt) (v : Num) : Nat :=
  match floatFmt f with
  | some ⟨eb, mb, _⟩ =>
    let sign (neg : Bool) : Nat := if neg then 2 ^ (eb + mb) else 0
    let infCode := (2 ^ eb - 1) * 2 ^ mb
    match v with
    | .nan => nanCode f
    | .inf neg => sign neg + (if specials f = .ieee then infCode else maxCode f eb mb)
    | .fin neg m q =>
      let c := magCode f mb m q
      if c ≤ maxCode f eb mb then sign neg + c
      else if f = .fp32 ∨ f = .bf16 ∨ f = .fp16 then sign neg + infCode
      else sign neg + maxCode f eb mb
  | none =>
    let n := elemBits f
    let top : Int := 2 ^ (n - 1) - 1
    let bot : Int := -(2 ^ (n - 1))
    let wrap (i : Int) : Nat := (i % (2 ^ n : Nat)).toNat
    match v with
    | .nan => 0
    | .inf neg => wrap (if neg then bot else top)
    | .fin neg m q =>
      let k : Int := scaleTo m q (stepExp f)
      let s := if neg then -k else k
      wrap (max bot (min top s))

/-! ### FP32 arithmetic, each result rounded once (R128, R147) -/

def num32 (b : BitVec 32) : Num := decodeElem .fp32 b.toNat
def code32 (v : Num) : BitVec 32 := BitVec.ofNat 32 (encodeElem .fp32 v)

def Num.neg : Num → Num
  | .fin n m q => .fin (!n) m q
  | .inf n => .inf (!n)
  | .nan => .nan

/-- Exact sum of two numbers, with the IEEE signs of zero under round to nearest. -/
def Num.add : Num → Num → Num
  | .nan, _ => .nan
  | _, .nan => .nan
  | .inf a, .inf b => if a = b then .inf a else .nan
  | .inf a, _ => .inf a
  | _, .inf b => .inf b
  | .fin a m p, .fin b n q =>
    let lo := min p q
    let x : Int := m * 2 ^ (p - lo).toNat
    let y : Int := n * 2 ^ (q - lo).toNat
    let s := (if a then -x else x) + (if b then -y else y)
    if s = 0 then .fin (if m = 0 ∧ n = 0 then a && b else false) 0 lo
    else .fin (s < 0) s.natAbs lo

/-- Exact product. -/
def Num.mul : Num → Num → Num
  | .nan, _ => .nan
  | _, .nan => .nan
  | .inf a, .inf b => .inf (a ^^ b)
  | .inf a, .fin b n _ => if n = 0 then .nan else .inf (a ^^ b)
  | .fin a m _, .inf b => if m = 0 then .nan else .inf (a ^^ b)
  | .fin a m p, .fin b n q => .fin (a ^^ b) (m * n) (p + q)

/-- Quotient, exact or with a sticky bit below every format's precision, so one later rounding is right. -/
def Num.div : Num → Num → Num
  | .nan, _ => .nan
  | _, .nan => .nan
  | .inf _, .inf _ => .nan
  | .inf a, .fin b _ _ => .inf (a ^^ b)
  | .fin a _ _, .inf b => .fin (a ^^ b) 0 0
  | .fin a m p, .fin b n q =>
    if n = 0 then (if m = 0 then .nan else .inf (a ^^ b))
    else .fin (a ^^ b) (2 * (m * 2 ^ 80 / n) + (if m * 2 ^ 80 % n = 0 then 0 else 1)) (p - q - 81)

/-- Order of two numbers that are not NaN: −1, 0 or 1, with both zeros equal. -/
def Num.cmp : Num → Num → Int
  | .inf true, .inf true => 0
  | .inf false, .inf false => 0
  | .inf a, _ => if a then -1 else 1
  | _, .inf b => if b then 1 else -1
  | .fin a m p, .fin b n q =>
    let lo := min p q
    let x : Int := m * 2 ^ (p - lo).toNat
    let y : Int := n * 2 ^ (q - lo).toNat
    let u := if a then -x else x
    let v := if b then -y else y
    if u < v then -1 else if v < u then 1 else 0
  | _, _ => 0

def add32 (a b : BitVec 32) : BitVec 32 := code32 ((num32 a).add (num32 b))
def sub32 (a b : BitVec 32) : BitVec 32 := code32 ((num32 a).add (num32 b).neg)
def mul32 (a b : BitVec 32) : BitVec 32 := code32 ((num32 a).mul (num32 b))
def fma32 (a b c : BitVec 32) : BitVec 32 := code32 (((num32 a).mul (num32 b)).add (num32 c))

def isNan32 (a : BitVec 32) : Bool := num32 a = .nan

/-- IEEE 754-2019 minimum and maximum: NaN if either is NaN, −0 below +0 (R147). -/
def minMax32 (wantMax : Bool) (a b : BitVec 32) : BitVec 32 :=
  if isNan32 a || isNan32 b then 0x7FC00000#32
  else
    let c := (num32 a).cmp (num32 b)
    let aLess := c < 0 || (c = 0 && a.msb)
    if aLess = wantMax then b else a

/-- A mask lane. -/
def maskOf (b : Bool) : BitVec 32 := if b then 0xFFFFFFFF#32 else 0#32

def fcmp32 (c : Cmp) (a b : BitVec 32) : Bool :=
  if isNan32 a || isNan32 b then false
  else
    let o := (num32 a).cmp (num32 b)
    match c with
    | .eq => o = 0
    | .lt => o < 0
    | .le => o ≤ 0

def icmp32 (c : Cmp) (a b : BitVec 32) : Bool :=
  match c with
  | .eq => a = b
  | .lt => a.slt b
  | .le => a.sle b

/-- Sum of a list by the balanced binary tree of R140 and R148, FP32 rounding at each node; `fuel` levels. -/
def treeSum : Nat → List (BitVec 32) → List (BitVec 32)
  | 0, l => l
  | n + 1, l => treeSum n (pairs l)
where
  pairs : List (BitVec 32) → List (BitVec 32)
    | a :: b :: r => add32 a b :: pairs r
    | l => l

/-- Root of the tree over a list of 2^levels values. -/
def treeRoot (levels : Nat) (l : List (BitVec 32)) : BitVec 32 := (treeSum levels l).headD 0

/-! ### The exact accumulator (R134 to R138) -/

/-- An accumulator in EXACT mode: the window `a` and its exponent `e`; e = 0x3FF is special (R134). -/
structure Acc where
  a : Int := 0
  e : Nat := 0x3FE
deriving DecidableEq, Repr

def accInf (neg : Bool) : Acc := ⟨if neg then 2 else 1, 0x3FF⟩
def accNan : Acc := ⟨3, 0x3FF⟩

/-- A term: an exact value n × 2^p, an infinity or NaN (R135, R138). -/
inductive Term where
  | num (n p : Int)
  | inf (neg : Bool)
  | nan
deriving DecidableEq, Repr

/-- The value of a wide partial as one term with p = e − 512 (R145). -/
def termOfAcc (x : Acc) : Term :=
  if x.e = 0x3FF then (if x.a = 1 then .inf false else if x.a = 2 then .inf true else .nan)
  else .num x.a (x.e - 512)

/-- The window holds −2^127 to 2^127 − 1. -/
def fitsWin (s : Int) : Bool := -(2 ^ 127 : Int) ≤ s && s < (2 ^ 127 : Int)

/-- The smallest k > 0 whose rounding of s fits the window, searched upward (R136). -/
def shiftUp (s : Int) : Nat → Nat → Nat
  | 0, k => k
  | fuel + 1, k => if fitsWin (roundEvenInt s k) then k else shiftUp s fuel (k + 1)

/-- Add one term to an accumulator; the flag says the addition fell back (R136, R138). -/
def addTerm (x : Acc) (t : Term) : Acc × Bool :=
  match termOfAcc x, t with
  | .nan, _ => (accNan, false)
  | _, .nan => (accNan, false)
  | .inf a, .inf b => (if a = b then accInf a else accNan, false)
  | .inf a, .num _ _ => (accInf a, false)
  | .num _ _, .inf b => (accInf b, false)
  | .num a q, .num n p =>
    let lo := min q p
    let s := a * 2 ^ (q - lo).toNat + n * 2 ^ (p - lo).toNat
    if fitsWin s then (⟨s, (lo + 512).toNat⟩, false)
    else
      let k := shiftUp s (Nat.log2 s.natAbs) 1
      let e := lo + k + 512
      if e > 0x3FE then (accInf (s < 0), true) else (⟨roundEvenInt s k, e.toNat⟩, true)

/-- Add terms in order; the flag says any fell back. -/
def addTerms (x : Acc) : List Term → Acc × Bool
  | [] => (x, false)
  | t :: r =>
    let y := addTerm x t
    let z := addTerms y.1 r
    (z.1, y.2 || z.2)

/-- The wide partial of an FP32 value (R144). -/
def accOf32 (b : BitVec 32) : Acc :=
  match num32 b with
  | .nan => accNan
  | .inf n => accInf n
  | .fin n m q => if m = 0 then {} else ⟨if n then -(m : Int) else m, (q + 512).toNat⟩

/-- The value an accumulator holds, for the drains. -/
def numOfAcc (x : Acc) : Num :=
  match termOfAcc x with
  | .nan => .nan
  | .inf n => .inf n
  | .num a p => if a = 0 then .fin false 0 0 else numOfInt a p

def drainElem : DrainFmt → ElemFmt
  | .fp32 => .fp32
  | .bf16 => .bf16
  | .fp16 => .fp16
  | .e4m3 => .e4m3
  | .e5m2 => .e5m2
  | .int8 => .int8

/-- DRN's rounding (R143): once, from the exact value; an FP8 target saturates finite values. -/
def drainCode (f : DrainFmt) (v : Num) : Nat := encodeElem (drainElem f) v

/-- The 18 bytes of a wide partial (R113). -/
def wideBytes (x : Acc) (inexact : Bool) : List Byte :=
  leBytes 16 (x.a % (2 ^ 128 : Nat)).toNat ++ leBytes 2 (x.e + if inexact then 0x8000 else 0)

/-- A wide partial read from 18 bytes: the accumulator and bit 15. -/
def wideOf (l : List Byte) : Acc × Bool :=
  let w := leNat ((l.drop 16).take 2)
  (⟨signedOf 128 (leNat (l.take 16)), w % 1024⟩, w / 0x8000 % 2 = 1)

/-! ### MX blocks (R129, R132) -/

/-- Exponent of the largest normal value of an MX element type (R132). -/
def mxEmax : ElemFmt → Int
  | .e4m3 => 8
  | .e5m2 => 15
  | .e3m2 => 4
  | .e2m3 => 2
  | .e2m1 => 2
  | _ => 0

/-- ⌊log₂⌋ of a finite non-zero number's magnitude. -/
def numLog (m : Nat) (q : Int) : Int := (Nat.log2 m : Int) + q

/-- The scale code of a block (R132). -/
def mxScale (f : ElemFmt) (vs : List Num) : Nat :=
  if vs.any fun v => match v with | .fin _ _ _ => false | _ => true then 0xFF
  else if vs.all fun v => match v with | .fin _ m _ => m = 0 | _ => false then 0
  else
    let top := vs.foldl (fun acc v => match v with
      | .fin _ m q => if m = 0 then acc else (match acc with | none => some (numLog m q) | some t => some (max t (numLog m q)))
      | _ => acc) (none : Option Int)
    (max 0 (min 254 (top.getD 0 - mxEmax f + 127))).toNat

/-- An element times 2^k. -/
def Num.scale (k : Int) : Num → Num
  | .fin n m q => .fin n m (q + k)
  | v => v

/-- The codes of a block under its scale (R132): all +0 for a block of zeros or under the scale 0xFF. -/
def mxBlock (f : ElemFmt) (vs : List Num) : List Nat :=
  let s := mxScale f vs
  if s = 0xFF ∨ vs.all fun v => match v with | .fin _ m _ => m = 0 | _ => false then vs.map fun _ => 0
  else vs.map fun v => encodeElem f (v.scale (127 - (s : Int)))

/-- An MX element's value (R129). -/
def mxValue (f : ElemFmt) (s c : Nat) : Num :=
  if s = 0xFF then .nan else (decodeElem f c).scale ((s : Int) - 127)

/-! ### Philox-4x32-10 (R152) -/

/-- One round: counter words and key words. -/
def philoxRound (c : BitVec 32 × BitVec 32 × BitVec 32 × BitVec 32) (k0 k1 : BitVec 32) :
    BitVec 32 × BitVec 32 × BitVec 32 × BitVec 32 :=
  let p0 := 0xD2511F53 * c.1.toNat
  let p1 := 0xCD9E8D57 * c.2.2.1.toNat
  (BitVec.ofNat 32 (p1 / 2 ^ 32) ^^^ c.2.1 ^^^ k0, BitVec.ofNat 32 p1,
   BitVec.ofNat 32 (p0 / 2 ^ 32) ^^^ c.2.2.2 ^^^ k1, BitVec.ofNat 32 p0)

/-- `n` rounds, the key bumped after each. -/
def philoxRounds : Nat → BitVec 32 × BitVec 32 × BitVec 32 × BitVec 32 → BitVec 32 → BitVec 32 →
    BitVec 32 × BitVec 32 × BitVec 32 × BitVec 32
  | 0, c, _, _ => c
  | n + 1, c, k0, k1 => philoxRounds n (philoxRound c k0 k1) (k0 + 0x9E3779B9#32) (k1 + 0xBB67AE85#32)

/-- Philox-4x32-10 of a counter under a 64-bit key. PRESUMED constants of the published generator. -/
def philox (c : BitVec 32 × BitVec 32 × BitVec 32 × BitVec 32) (key : BitVec 64) :
    BitVec 32 × BitVec 32 × BitVec 32 × BitVec 32 :=
  philoxRounds 10 c (key.setWidth 32) ((key >>> 32).setWidth 32)

/-! ### Special functions (R150) -/

/-- The special cases R150 states; `none` where only an error bound holds. -/
def specCase (f : SpecFn) (b : BitVec 32) : Option (BitVec 32) :=
  let one := 0x3F800000#32
  let pInf := 0x7F800000#32
  let nInf := 0xFF800000#32
  let qnan := 0x7FC00000#32
  match num32 b with
  | .nan => some qnan
  | .inf n => match f with
    | .exp => some (if n then 0 else pInf)
    | .log => some (if n then qnan else pInf)
    | .recip => some (if n then 0x80000000#32 else 0)
    | .rsqrt => some (if n then qnan else 0)
    | .sigmoid => some (if n then 0 else one)
    | .tanh | .erf => some (if n then 0xBF800000#32 else one)
  | .fin n m q =>
    match f with
    | .exp =>
      if m = 0 then some one
      else if !n && ((Num.fin n m q).mul (.fin false 1000000 0)).cmp (.fin false 88722839 0) > 0 then some pInf
      else none
    | .log =>
      if m = 0 then some nInf else if n then some qnan
      else if b = one then some 0 else none
    | .recip => some (code32 ((Num.fin false 1 0).div (.fin n m q)))
    | .rsqrt => if m = 0 then some (if n then nInf else pInf) else if n then some qnan else none
    | .sigmoid => none
    | .tanh | .erf => if m = 0 then some b else none

end Sys2Proof.Machine
end

