-- ==== Sys2Proof/Machine/State.lean ====
section
/-! DEFINITION. The state of the block: plain data, everything the spec gives the TM-16. -/

namespace Sys2Proof.Machine

/-! ### Reasons to stop -/

/-- Why a command stops: none does. The operand types of Syntax.lean hold what the spec gives a meaning, and a command that finds
nothing to act on changes nothing. -/
inductive Fault where
deriving DecidableEq, Repr

/-- Why a command has no meaning here. -/
inductive Refusal where
  /-- The command has no meaning in this model yet. Raised by its arm in Machine/Dispatch.lean. Safe. -/
  | notModelled (mnemonic : String)
deriving DecidableEq, Repr

/-! ### Logs, counters and reports (13, 18) -/

/-- A fault log entry (R480). `part` 255: the module. `tile` 0xFFFF: none. -/
structure LogEntry where
  seq       : Nat := 0
  hall      : Nat := 0
  cls       : Nat := 0
  kind      : Nat := 0
  index     : Nat := 0
  part      : Nat := 255
  stopped   : Bool := false
  previous  : Bool := false
  coalesced : Bool := false
  cause     : Nat := 0
  tile      : Nat := 0xFFFF
  addr      : Nat := 0
  tick      : Nat := 0
  detail    : List Byte := []
deriving DecidableEq, Repr

/-- A fault report (R369, R370). `okind`: 0 MODULE, 1 PARTITION, 2 CORD, 3 STEP. -/
structure Report where
  domain   : Nat
  epoch    : Nat
  cls      : Nat
  omodule  : Nat
  okind    : Nat
  oindex   : Nat
  count    : Nat
  first    : Nat
  reporter : Nat
  detail   : List Byte
deriving DecidableEq, Repr

/-- An open merge entry (R371). -/
structure MergeEntry where
  rep     : Report
  pending : Nat
  closing : Nat
deriving DecidableEq, Repr

/-- A root table entry (R372). -/
structure RootEntry where
  rep     : Report
  count   : Nat
  updated : Nat
deriving DecidableEq, Repr

/-! ### A tile (02, 03, 04, 05, 06) -/

/-- One loop level of an address generator (R91), with the loop now running at it (R86). -/
structure AgLevel where
  count   : Nat := 0
  max     : Nat := 0
  latched : Nat := 0
  index   : Nat := 0
  shadow  : Nat := 0
  running : Bool := false
  waiting : Bool := false      -- AG_STATUS.PENDING
  idle    : Bool := false
  entry   : Nat := 0           -- E, while running
  body    : Nat := 0           -- B, while running
  first   : Nat := 0           -- first bundle, while running
  after   : Nat := 0           -- bundle after the loop, while running
deriving DecidableEq, Repr

/-- One address stream (R84, R85). -/
structure Stream where
  base    : BitVec 64 := 0
  strides : List (BitVec 32) := []
deriving DecidableEq, Repr

/-- The operation that last issued to a unit (R76, R77). -/
structure UnitUse where
  issue  : Nat := 0
  ends   : Nat := 0             -- first tick after its occupancy
  reads  : Option Nat := none   -- landing buffer of a consuming read not yet completed
deriving DecidableEq, Repr

/-- States of a landing buffer (R48). -/
inductive LState where
  | empty | filling | valid
deriving DecidableEq, Repr

/-- Where a transfer came from, as SF_SOURCE reports it (R75). -/
structure Src where
  tile   : Nat := 0xFF
  module : Nat := 0
  cord   : Nat := 0
  via    : Bool := false
  route  : Nat := 0
deriving DecidableEq, Repr

/-- A landing buffer (R47, R48, R51). `size` 0: not declared. -/
structure Landing where
  base    : Nat := 0
  size    : Nat := 0
  st      : LState := .empty
  landed  : Nat := 0
  total   : Nat := 0
  tag     : BitVec 4 := 0
  src     : Src := {}
  xfer    : Nat := 0          -- the transfer that fills it
  retx    : Nat := 0          -- segments of the transfer accepted with RETX = 1 (R354)
deriving DecidableEq, Repr

/-- A column's contribution of one MMA: exact terms, or an FP32 column sum (R135, R140). -/
inductive ColSum where
  | terms (l : List Term)
  | f32 (c : BitVec 32)
deriving DecidableEq, Repr

/-- A track of a die's mesh (R158, R163): a tile's track port, a link between two routers, a bridge row (`east`: from die 0
to die 1), or the port link of a cord port; `out` and `into` give the direction. -/
inductive Track where
  | port (tile : Nat) (out : Bool) (k : Nat)
  | link (die x y : Nat) (side : Side) (k : Nat)
  | bridge (row : Nat) (east : Bool) (k : Nat)
  | cordLink (cord : Nat) (into : Bool) (k : Nat)
deriving DecidableEq, Repr

/-- A track that a beat uses at a tick: a plan tick for a scheduled beat, a hall tick for a beat on a circuit (R159, R166). -/
structure Claim where
  tick  : Nat
  track : Track
deriving DecidableEq, Repr

/-- What an operation in flight does at a later tick. The `rd…` acts run at the start of their tick,
every other one at its end (R41, R93). -/
inductive Act where
  | rdWld (src i : Nat) (buf : Bool) (form : ImgForm)
  | rdOvl (src i : Nat)
  | rdVld (v addr : Nat) (first : List Byte)
  | rdSnd (addr i n : Nat) (dst : SndDst) (tag : BitVec 4)
  | wrStat (buf : Bool) (form : ImgForm) (off : Nat) (bytes : List Byte)
  | merge (buf : Bool) (form : ImgForm) (d : Density) (chunks : Nat)
  | consumed (landing : Nat)
  | wrLine (addr : Nat) (bytes : List Byte)
  | wrVreg (v : Nat) (lanes : Tab (BitVec 32))
  | wrScalar (r : Nat) (v : BitVec 64)
  | wrDmem (idx : Nat) (v : BitVec 64)
  | wrBase (ag stream : Nat) (v : BitVec 64)
  | count (ag level v : Nat)
  | accZero (row : Nat) (exact : Bool)
  | accAdd (row : Nat) (start wide : Bool) (cols : List ColSum)
  | swap
  | flueGo (entry : Nat)
  | loopEnd (ag level : Nat)
  | eccHit (e : MxeEcc)
deriving DecidableEq, Repr

/-- An act with its tick and the operation it belongs to. -/
structure Work where
  tick   : Nat
  unit   : Nat
  issue  : Nat
  slot   : Nat
  bundle : Nat
  act    : Act
deriving DecidableEq, Repr

/-- A bank access of the current tick (R93 to R95). `ovl`: the overlay side of a WLD with overlay (R116). -/
structure Access where
  line   : Nat        -- local-store line number; its bank is `line % 32`
  write  : Bool
  slot   : Nat
  issue  : Nat
  bundle : Nat
  ovl    : Bool := false
deriving DecidableEq, Repr

/-- A stationary row: its recorded format, element codes and, for an MX form, the block scale of each
column that covers it (R506). -/
structure StatRow where
  fmt    : Option MxeFmt := none
  elems  : Tab Nat := []
  scales : Tab Nat := []
deriving DecidableEq, Repr

/-- An accumulator row (R109, R134). -/
structure AccRow where
  exact   : Bool := true
  inexact : Bool := false
  win     : Tab Acc := []
  f32     : Tab (BitVec 32) := []
deriving DecidableEq, Repr

/-- A flue entry (R172 to R176, R184, R185). -/
structure FlueEntry where
  used     : Bool := false
  draw     : Bool := false
  issue    : Nat := 0
  ls       : Nat := 0
  n        : Nat := 0
  addr     : Nat := 0
  inRange  : Bool := false
  complete : Bool := false
  awaited  : Bool := false
  failed   : Bool := false     -- its re-read failed (R184)
  reread   : Bool := false     -- it needs a re-read, so no bound holds (R181, R183)
  data     : List Byte := []   -- what a draw writes
  taken    : Bool := false     -- it has read or written memory, as it does at the end of its issue tick
deriving DecidableEq, Repr

/-- What holds a tile's bundle: a consuming read, an await, or a slot reuse (R50, R172, R173). -/
inductive Wait where
  | landing (l : Nat)
  | await (slot : Nat)
  | reuse (slot : Nat)
deriving DecidableEq, Repr

/-- A write of an inbound mailbox word that no step boundary has copied yet: its half of the word, or all of it (R98). -/
structure MboxWrite where
  word : Nat
  half : Option Nat
  val  : BitVec 64
  hall : Nat
deriving DecidableEq, Repr

/-- A tile: sequencer, local store, matrix engine, vector unit, flue. -/
structure Tile where
  scalars : Tab (BitVec 64) := []
  dmem    : Tab (BitVec 64) := []
  mbox    : Tab (BitVec 64) := []            -- visible inbound mailbox
  mboxIn  : List MboxWrite := []             -- writes of the pending copy, in order of arrival (R98)
  levels  : Tab AgLevel := []                -- key 6a + l
  streams : Tab Stream := []                 -- key 8a + s
  loops   : List LoopDecl := []
  bundles : List (BitVec 16) := []           -- wait count of each bundle of the store (R82)
  pos     : Nat := 0                         -- program position: the next bundle to issue (R78)
  gap     : Nat := 0                         -- ticks of a wait count still to pass before it (R82)
  slots   : List Nat := []                   -- slots used in the standing plan tick (R76)
  ended   : Bool := false                    -- the standing plan tick has ended in this tile
  loopBad : Bool := false                    -- a loop entry of the standing tick failed its bound (R87)
  store   : Cells := []                      -- local store
  units   : Tab UnitUse := []
  work    : List Work := []
  accs    : List Access := []
  lands   : Tab Landing := []
  wait    : Option Wait := none
  held    : List Instr := []                 -- operations that wait with it (R80)
  stat0   : Tab StatRow := []
  stat1   : Tab StatRow := []
  active  : Bool := false                    -- active stationary buffer
  ovl     : List (Nat × List Byte) := []     -- overlay bytes read by each WLD in progress, by its issue tick
  accRows : Tab AccRow := []
  vregs   : Tab (Tab (BitVec 32)) := []
  flue    : Tab FlueEntry := []
deriving DecidableEq, Repr

/-! ### The plan of a partition (02) -/

/-- Plan states (R68). RUNNING and HOLDING are one here: HOLDING is shown while the counter is frozen. -/
inductive PlanState where
  | empty | loading | loaded | armed | running | stopped | faulted
deriving DecidableEq, Repr

/-- A hop of the hop table (R65). -/
structure Hop where
  route    : Nat
  hop      : Nat
  module   : Nat
  cord     : Nat
  interval : Nat
  slack    : Nat
  fixed    : Nat
deriving DecidableEq, Repr

/-- A ceiling class (R66). -/
structure CeilClass where
  first    : Nat
  size     : Nat
  tokens   : Nat
  ctxPages : Nat
  ovlCeil  : Nat
deriving DecidableEq, Repr

/-- What the loader copied from a plan package (R64 to R66, R179). -/
structure Loaded where
  pcl      : Nat := 0
  slotCeil : Nat := 0
  members  : Nat := 0
  len      : Nat := 0            -- L
  margin   : Nat := 0            -- M
  flags    : Nat := 0
  digest   : List Byte := []
  hops     : List Hop := []
  classes  : List CeilClass := []
  budgets  : Tab (Nat × Nat) := []   -- per group: near memory, turf (R179)
  fbArea   : Nat := 0
  fbMirror : Nat := 0
  fbOut    : Nat := 0
  image    : PlanImage := ⟨[], [], []⟩
deriving DecidableEq, Repr

/-- The schedule-fault record (R75). -/
structure SchedRec where
  valid    : Bool := false
  more     : Bool := false
  cls      : Nat := 0
  tile     : Nat := 0
  slot     : Nat := 0
  bundle   : Nat := 0
  tagExp   : Nat := 0
  tagGot   : Nat := 0
  planTick : Nat := 0
  hall     : Nat := 0
  src      : Src := {}
  detLo    : Nat := 0     -- SF_DETAIL[15:0]
  detMid   : Nat := 0     -- SF_DETAIL[31:16]
  detHi    : Nat := 0     -- SF_DETAIL[63:32]
deriving DecidableEq, Repr

/-- The plan control block (R75) and the plan's run-time state. -/
structure Plan where
  st         : PlanState := .empty
  base       : Nat := 0
  len        : Nat := 0
  errCode    : Nat := 0
  errDetail  : Nat := 0
  launchAt   : Nat := 0
  pc         : Nat := 0
  step       : Nat := 0
  delayBase  : Nat := 0
  delayLen   : Nat := 0
  spareMin   : Nat := 0xFFFF
  spareHop   : Nat := 0
  sf         : SchedRec := {}
  failOpen   : Bool := false        -- checks of the faulting plan tick may still fail (R73)
  loaded     : Option Loaded := none
  spares     : List Nat := []       -- per hop, recorded at bind (R58)
  rebind     : Option (List Nat) := none   -- spares of a validated table awaiting the boundary (R61)
  stopReq    : Bool := false
  unloadWait : Bool := false        -- an accepted UNLOAD waits for flue entries (R186)
  near       : Tab (Nat × Nat) := []  -- per group: window, counted bytes (R177)
  turf       : Tab (Nat × Nat) := []
  circuits   : List Nat := []       -- routes whose landing circuit is held, by index in the image (R166)
  passes     : List Nat := []       -- routes that hold a crossbar path, and a lane where they change die (R167)
  arrived    : Tab Nat := []        -- by route and INDEX, the segments that have come since the plan began (R60)
  firstStep  : Nat := 0             -- the step it began in
  contract   : Nat := 0             -- PCL whose contract table the loader took, 0 for none (R62)
  pads       : Tab Nat := []        -- latency-padding registers, by logical tile × 16 + unit of R76 (R62)
deriving DecidableEq, Repr

/-- The determinism counters of R355 (64 bits, saturating); TDC_TOTAL is their sum less HOLD_TICKS. -/
structure Counters where
  holdEvents : Nat := 0
  holdTicks  : Nat := 0
  slipsIssued : Nat := 0
  slipsApplied : Nat := 0
  retries    : Nat := 0
  lateAwaits : Nat := 0
  damper     : Nat := 0
  steals     : Nat := 0
  inexact    : Nat := 0
deriving DecidableEq, Repr

/-- The time block of a partition (R356) with its step schedule (R346, R348, R352). -/
structure Clock where
  m          : Nat := 16
  mNext      : Nat := 16         -- the first pending change: M_NEXT, its sequence number, its H
  pend       : Bool := false
  seq        : Nat := 0          -- last applied DAMPER_SET sequence number
  seqNext    : Nat := 0
  damperAt   : Nat := 0
  queued     : List (Nat × Nat × Nat) := []   -- changes set while one was pending: sequence number, m, H
  slipLead   : Nat := 0x200      -- units of 64 beats
  slipMax    : Nat := 0x7A120
  slipWindow : Nat := 0x12A05F200
  stepStart  : Nat := 0
  beat       : Nat := 0          -- index of the next beat since launch
  lastBeat   : Option Nat := none  -- hall tick whose beat is used
  started    : Bool := false     -- beat 0, or a shadow's first step, has begun
  sched      : Nat := 0          -- the last step whose scheduled start has passed
  fixed      : Nat := 0          -- the last step whose slip is final (R349)
  xs         : Tab Nat := []     -- X(n)
  seen       : Tab Nat := []     -- seen(j)
  asked      : Tab Nat := []     -- own requests by tag: the largest amount
  seenFrom   : Tab Nat := []     -- module of the largest request by tag
  lag        : Nat := 0
  stepHeld   : Nat := 0          -- held beats of the current step
  debtMax    : Nat := 0
  workDone   : Bool := false     -- the step's work has ended
  winIndex   : Nat := 0
  winSum     : Nat := 0
  holdCause  : Nat := 0
  holdTile   : Nat := 0xFF
  inHold     : Bool := false     -- the previous beat was held
  bndLate    : Bool := false     -- the boundary's wait for flue entries has been counted (R182)
  cnt        : Counters := {}
deriving DecidableEq, Repr
/-! ### Domain record of a partition (13) -/

/-- STATE of the domain record (R361). -/
inductive DomState where
  | none | joining | member | shadow | leaving
deriving DecidableEq, Repr

/-- The domain record (R361). `planAs`: none until written, when it reads MODULE_ID. -/
structure Dom where
  st          : DomState := .none
  root        : Bool := false
  fenced      : Bool := false
  formed      : Bool := false
  domainId    : Nat := 0
  planAs      : Option Nat := none
  parent      : Nat := 0
  parentValid : Bool := false
  depth       : Nat := 0
  pcl         : Nat := 0
  proto       : Nat := 0
  children    : Nat := 0
  expect      : Nat := 0
  membersSub  : Nat := 0
  error       : Nat := 0
  at_         : Nat := 0
  primary     : Nat := 0
  primaryPart : Nat := 0
  digestKey   : Nat := 0
  matchTarget : Nat := 64
  matched     : Nat := 0
  mismatches  : Nat := 0
  lateSteps   : Nat := 0
  lastDigest  : Nat := 0
  epoch       : Nat := 0
  reportsSent : Nat := 0
  merged      : Nat := 0
  mergeOverflow : Nat := 0
  reportDrop  : Nat := 0
  beaconHall  : Nat := 0
  beaconStep  : Nat := 0             -- step and X of the last beacon
  beaconX     : Nat := 0
  beaconSent  : Option Nat := none  -- root: hall count of its last DOMAIN_BEACON (R358)
  pair        : Nat := 0
  pairValid   : Bool := false
  rootModule  : Nat := 0
  rootPart    : Nat := 0
  joinFrom    : Nat := 0             -- hall count of the JOIN
  joinSent    : Nat := 0             -- hall count of the last DOMAIN_JOIN
  leaving     : Option Nat := none   -- H_T of an accepted LEAVE
  startStep   : Option Nat := none   -- K of SHADOW_START
  syncHall    : Option Nat := none   -- hall count of beat G(K − 1)
  swapAt      : Option Nat := none   -- S of an accepted SWAP
  digSums     : Tab Nat := []        -- digest sums of steps not yet ended (R379)
  ownDigs     : List (Nat × Nat) := []   -- shadow: its digests not yet compared
  farDigs     : List (Nat × Nat) := []   -- shadow: digests received
deriving DecidableEq, Repr

/-! ### Host function of a partition (16) -/

/-- A queue (R432, R434). -/
structure Queue where
  base    : Nat := 0
  enable  : Bool := false
  output  : Bool := false        -- KIND: false SUBMIT, true OUTPUT
  log2    : Nat := 0
  esize   : Nat := 0
  vector  : Nat := 0
  hostIdx : BitVec 32 := 0
  devIdx  : BitVec 32 := 0
  dbBad   : Nat := 0
  pend    : Bool := false        -- HQ_PENDING
deriving DecidableEq, Repr

/-- An MSI-X table entry with its pending bit. `masked` at reset: PRESUMED, the PCIe reset value. -/
structure Msix where
  addr   : BitVec 64 := 0
  data   : BitVec 32 := 0
  masked : Bool := true
  pend   : Bool := false
deriving DecidableEq, Repr

/-- The host function p + 1 (R429 to R438). `fnState` is FN_STATUS.STATE (R431). -/
structure Fn where
  fnState   : Nat := 0
  msgEn     : Bool := false
  evStatus  : BitVec 16 := 0
  evEnable  : BitVec 16 := 0
  evVec     : Tab Nat := []
  qEvent    : BitVec 256 := 0
  qEvEnable : BitVec 256 := 0
  queues    : Tab Queue := []
  msix      : Tab Msix := []
  qSel      : Nat := 0
  hqGen     : Nat := 0
deriving DecidableEq, Repr

/-! ### Serving assists of a partition (07) -/

/-- Page states (R210). -/
inductive PageSt where
  | free | owned | shared | releasing
deriving DecidableEq, Repr

/-- A page's state and reference count (R210). -/
structure Page where
  st   : PageSt := .free
  refs : Nat := 0
deriving DecidableEq, Repr

/-- A group's page pool (R211). -/
structure Pool where
  base  : Nat := 0
  hdr   : Nat := 0
  pages : Nat := 0
  low   : Nat := 0
deriving DecidableEq, Repr

/-- The page allocator (R211). Pages are keyed 2^22 × group + page, as handles are (R209). -/
structure Alloc where
  shift    : Nat := 0
  enable   : Bool := false
  cfgBad   : Bool := false
  badGroup : Nat := 0
  pools    : Tab Pool := []
  pages    : Tab Page := []
deriving DecidableEq, Repr

/-- A queued release or trim (R217). -/
structure RelCmd where
  ste    : Nat
  cancel : Bool
  trim   : Bool
deriving DecidableEq, Repr

/-- SHADOW of FB_STATUS (R218). -/
inductive Shadow where
  | open_ | sealing | sealed
deriving DecidableEq, Repr

/-- The frame builder (R212, R216 to R218). -/
structure Frame where
  area      : Nat := 0
  mirror    : Nat := 0
  out       : Nat := 0
  ste       : Nat := 0
  missHold  : Bool := false
  slotCeil  : Nat := 0
  shadow    : Shadow := .open_
  shadowBuf : Nat := 0
  voidLast  : Nat := 0
  target    : Nat := 0
  missed    : Nat := 0
  voided    : Nat := 0
  digest    : Nat := 0
  queue     : List RelCmd := []     -- commands for the next boundary
  walks     : List Nat := []        -- release walks not yet ended, by STE
  latched   : Tab Nat := []         -- budget latched per slot of the frame being sealed (R216)
  sealer    : Nat := 0              -- core whose SEAL is in progress or complete
  active    : Option Nat := none    -- buffer of the active frame
  sealWait  : Bool := false         -- a boundary waits for the seal (R225)
  launchWait : Bool := false        -- a launch under MISS_HOLD waits for the seal (R225, R228)
  launched  : Bool := false         -- the loaded plan has been launched (R228)
deriving DecidableEq, Repr

/-- The serving block (R227). `srvState`: 0 HALTED, 1 Elvune image, 2 replacement, 3 FAULTED. -/
structure Serving where
  srvState : Nat := 1
  held     : Bool := false          -- every core held in reset (HALT)
  elvune   : Bool := true           -- the image the cores run
  error    : Nat := 0
  imgBase  : Nat := 0
  imgLen   : Nat := 0
  inUse    : Nat := 0               -- STE_IN_USE
  measure  : BitVec 384 := 0        -- measurement of the image started
  btSel    : Nat := 0               -- BT_SEL of the host window
deriving DecidableEq, Repr

/-- A budget entry (R219). -/
structure Budget where
  balance : Int := 0
  refill  : Nat := 0
  cap     : Nat := 0
  tenant  : Nat := 0
  grace   : Nat := 0
  period  : Nat := 0
  next    : Nat := 0
  charged : Nat := 0
deriving DecidableEq, Repr

/-- Run state of an Ember core (R197). -/
inductive CoreRun where
  | running | halted | held
deriving DecidableEq, Repr

/-! ### Keys and host windows of a partition (14) -/

/-- A key slot (R396, R408). `use`: 0 none, 1 MODEL, 2 DIGEST, 3 PREFIX, 4 BANK. -/
structure KeySlot where
  valid : Bool := false
  use   : Nat := 0
  drawn : Bool := false
  keyId : Nat := 0
  key   : BitVec 256 := 0
deriving DecidableEq, Repr

/-- A host window (R393). -/
structure HostWin where
  base     : Nat := 0
  size     : Nat := 0
  target   : Nat := 0
  enable   : Bool := false
  cxl      : Bool := false
  readOnly : Bool := false
deriving DecidableEq, Repr

/-- The security block (R408) and the partition's keys (R396). The key pairs are held as the serial
numbers of their draws. -/
structure Security where
  slots    : Tab KeySlot := []
  wrapGen  : Nat := 0
  wrapPair : Nat := 0
  attPair  : Nat := 0
  blobBase : Nat := 0
  code     : Nat := 0           -- KEY_RESULT
  slot     : Nat := 0
  wins     : Tab HostWin := []
deriving DecidableEq, Repr

/-! ### Prefix hash unit and banking engine of a partition (08) -/

/-- The prefix hash unit (R242), with the derived keys it caches (R230). -/
structure PrefixUnit where
  base        : Nat := 0
  bits        : Nat := 0
  enable      : Bool := false
  cfgBad      : Bool := false
  sgBase      : Nat := 0
  sgCount     : Nat := 0
  confirmFail : Nat := 0
  keys        : List (Nat × BitVec 256) := []
deriving DecidableEq, Repr

/-- A transfer of the banking engine in progress (R245, R248). -/
structure BankJob where
  ste    : Nat
  bank   : Bool               -- BANK, else REKINDLE
  ttl    : Nat := 0
  ready  : Bool := false      -- a boundary has passed whose active frame holds no slot of it
  moving : Bool := false
  slots  : List Nat := []     -- turf slots reserved (BANK)
  pages  : List Nat := []     -- pages allocated (REKINDLE)
  retort : Nat := 0           -- the Retort engine that seals or opens its pages (R30)
deriving DecidableEq, Repr

/-- A command written while the engine waits on a full ring (R250). -/
structure BankCmd where
  core  : Nat
  bank  : Bool
  ste   : Nat
  group : Nat
  ttl   : Nat
deriving DecidableEq, Repr

/-- The banking engine (R251). -/
structure Banking where
  turfBase  : Nat := 0
  turfSlots : Nat := 0
  farBase   : Nat := 0
  farSlots  : Nat := 0
  tagBase   : Nat := 0
  enable    : Bool := false
  cfgBad    : Bool := false
  high      : Nat := 0xFFFFFF
  low       : Nat := 0xFFFFFF
  cqBase    : Nat := 0
  cqLog2    : Nat := 0
  cqHead    : Nat := 0
  cqTail    : Nat := 0
  deferred  : Nat := 0
  stalls    : Nat := 0
  stalled   : Bool := false       -- a wait on the full ring is in progress
  nonce     : Nat := 0            -- pages sealed (R244)
  turfUsed  : List Nat := []      -- slots in use or reserved
  farUsed   : List Nat := []
  order     : List Nat := []      -- BANKED sequences in order of completion (R246)
  jobs      : List BankJob := []
  recs      : List (List Byte) := []   -- records that wait for room in the ring
  waiting   : List BankCmd := []
  migrating : Bool := false       -- above BK_HIGH, not yet down to BK_LOW
deriving DecidableEq, Repr

/-! ### Weights, epochs and overlays of a partition (09) -/

/-- A shard context (R257 to R261): what the module latched at ARM. `st` is its STATUS. -/
structure ShardCtx where
  st      : Nat := 0
  opened  : Bool := false        -- OPEN, else RESEAL
  keySlot : Nat := 0
  retort  : Nat := 0             -- the engine's index, 4 × die + engine (R478)
  layer   : Nat := 0
  index   : Nat := 0
  len     : Nat := 0
  count   : Nat := 0
  addr    : Nat := 0
  nonce   : List Byte := []
  tag     : BitVec 128 := 0
  aad     : List Byte := []
  got     : List (Nat × Nat) := []    -- ranges received: offset, length
  cipher  : Cells := []               -- ciphertext received
  storage : Bool := false             -- the last write came from storage through the host
  source  : Nat := 0                  -- its module
deriving DecidableEq, Repr

/-- A layer (R263): WL_LAYER with its verified-index record. -/
structure Layer where
  pending  : Nat := 0
  opened   : Bool := true
  verified : List Nat := []
deriving DecidableEq, Repr

/-- The weight ledger, the epoch registers and the overlay registers (R257, R263, R270). -/
structure Weights where
  ctxBase  : Nat := 0
  dropped  : Nat := 0
  ctxs     : Tab ShardCtx := []
  layers   : Tab Layer := []
  active   : Nat := 0
  prev     : Nat := 0
  kvCompat : Bool := false
  armed    : Bool := false
  next     : Nat := 0
  nextKv   : Bool := false
  armStep  : Nat := 0            -- the step of the armed flip
  armSame  : Bool := false       -- its epoch was ACTIVE at the ARM: the flip only closes layers
  stepReg  : Nat := 0            -- FB_EPOCH_STEP
  errCode  : Nat := 0
  errLayer : Nat := 0
  swapViol : Nat := 0
  ovBase   : Nat := 0
  ovCount  : Nat := 0
  handles  : List Nat := []      -- handles whose entry is LIVE
  withdraw : List Nat := []      -- handles with a registered withdrawal (R271)
deriving DecidableEq, Repr

/-! ### Cords (10) -/

/-- STATE of a cord (R301). -/
inductive CordSt where
  | down | training | measuring | up
deriving DecidableEq, Repr

/-- A sequenced segment in the replay buffer (R285). `info` is CLASS_INFO. -/
structure Kept where
  seq     : Nat
  owner   : Nat
  cls     : Nat
  info    : Nat
  payload : List Byte
  sent    : Nat := 0          -- hall count of its last departure
deriving DecidableEq, Repr

/-- A PLAN segment waiting in egress staging for its slot (R165, R60). -/
structure Staged where
  part    : Nat
  route   : Nat
  index   : Nat
  tag     : Nat
  payload : List Byte
  planned : Nat               -- plan tick of its planned departure
  ready   : Nat               -- plan tick from which it can depart
  readyHall : Nat := 0        -- hall count from which a passed-through segment can depart
  retx    : Bool := false     -- passed through, accepted with RETX = 1 (R354)
deriving DecidableEq, Repr

/-- A transfer an egress port is repacking (R165). -/
structure Repack where
  part   : Nat
  tile   : Nat
  issue  : Nat
  eng    : Nat
  beats  : Nat                -- beats taken so far
  next   : Nat                -- INDEX of the next segment
  bytes  : List Byte
deriving DecidableEq, Repr

/-- A packet waiting to leave on a cord, as its remaining segments (R315, R318). -/
structure OutPkt where
  owner   : Nat
  cls     : Nat               -- 2 REQ, 3 RSP
  transit : Bool              -- it takes a place in the owner's transit store
  begun   : Bool              -- its first segment has left
  segs    : List (Nat × List Byte)   -- CLASS_INFO, payload
  req     : Option Nat        -- REQ_ID of the owner's own request it belongs to
  nack    : Bool := false     -- a NACK, which leaves even while its partition is fenced (R321, R367)
  hdr     : List Byte := []   -- its header
deriving DecidableEq, Repr

/-- A segment held for its stream's order (R290). -/
structure Held where
  seq     : Nat
  owner   : Nat
  cls     : Nat
  retx    : Bool
  info    : Nat
  payload : List Byte
  waits   : List Nat := []    -- missing numbers of its stream
  hall    : Nat := 0          -- hall count of its arrival
deriving DecidableEq, Repr

/-- A CTL message in a receive buffer (R294). -/
structure CtlMsg where
  bytes : List Byte
  hall  : Nat
deriving DecidableEq, Repr

/-- A packet complete, or filling, at an ingress port (R315, R318): the partner partition and class. -/
structure InPkt where
  part  : Nat
  cls   : Nat
  bytes : List Byte
  whole : Bool
deriving DecidableEq, Repr

/-- A landing transfer's segments at an ingress port (R166, R290). -/
structure PlanAsm where
  part  : Nat
  route : Nat
  got   : List (Nat × List Byte)     -- INDEX, payload
  retx  : Nat := 0                   -- segments with RETX = 1 that no whole beat has counted yet (R354)
deriving DecidableEq, Repr

/-- A lane map change not yet confirmed (R298, R299). -/
structure LaneChange where
  action : Nat
  gen    : Bool
  width  : Nat
  s      : Nat
  map    : List Nat
  sentAt : Option Nat         -- hall count at which LANE_CMD last left
  begun  : Bool               -- sequence number S has been sent
  logCls : Nat                -- class logged when the change acts
deriving DecidableEq, Repr

/-- An open lease of a cord end (R310 to R312). -/
structure Lease where
  id       : Nat
  proposer : Bool
  grant    : Bool
  mine     : Nat              -- partition at this end
  theirs   : Nat
  domain   : Nat
  h        : Nat
  slots    : List Nat
  accepted : Bool := false    -- an ACCEPT has been sent or received
  commit   : Bool := false    -- COMMIT sent or received
  begun    : Bool := false    -- this end has acted at H
  done     : Bool := false    -- DONE sent or received
  endAt    : Nat := 0         -- hall count at which a releasing receiver stops accepting
deriving DecidableEq, Repr

/-- A cord end (10, 11). Slot map bytes are those of R330; an unlisted slot is the module's (0x10). -/
structure Cord where
  st        : CordSt := .down
  reason    : Nat := 0
  proto     : Nat := 0
  egWidth   : Nat := 8
  inWidth   : Nat := 8
  egGen     : Bool := false
  inGen     : Bool := false
  spare     : Option Nat := some 8
  spareSt   : Nat := 0              -- 0 FIT, 1 TESTING, 2 NONE, 3 UNFIT
  inSpare   : Option Nat := some 8  -- spare wavelength of the ingress direction
  inFit     : Bool := true          -- the ingress spare is FIT at this end (R278)
  alarm     : Bool := false         -- an ingress lane is failing (R279)
  peerModule : Nat := 0
  peerCord  : Nat := 0
  delayTx   : Nat := 0
  delayRx   : Nat := 0
  downTime  : Nat := 20             -- LINK_DOWN_TIME, µs
  txMap     : List Nat := [0, 1, 2, 3, 4, 5, 6, 7]
  inMap     : List Nat := [0, 1, 2, 3, 4, 5, 6, 7]
  retEg     : List Nat := []
  retIn     : List Nat := []
  testEg    : List Nat := []        -- wavelengths taken out and under test (R280)
  testIn    : List (Nat × Nat) := []   -- ingress wavelengths under test: wavelength, hall count since
  failed    : List (Bool × Nat × Nat) := []   -- declarations: ingress?, wavelength, hall count
  unlocked  : List (Bool × Nat) := []         -- active lanes without lock: ingress?, lane
  lostAt    : Option Nat := none              -- the down timer's start (R303)
  lostSince : List (Nat × Nat) := []          -- ingress lanes without lock: lane, hall count since (R279)
  retxSent  : Nat := 0
  hdrErr    : Nat := 0
  crcErr    : Nat := 0
  nackSent  : Nat := 0
  replayTo  : Nat := 0
  stallTicks : Nat := 0
  dupDiscard : Nat := 0
  ackBad    : Nat := 0
  fecUncorr : Nat := 0
  laneSwaps : Nat := 0
  stageDrop : Nat := 0
  nextSeq   : Nat := 0
  kept      : List Kept := []       -- replay buffer, oldest first
  retxQ     : List Nat := []        -- sequence numbers queued for retransmission
  ackHall   : Nat := 0              -- the replay timer's start
  ctlSent   : Nat := 0              -- C (R294)
  farFreed  : Nat := 0              -- F
  sentHall  : Option Nat := none    -- hall tick of the last departure
  cum       : Nat := 0              -- cumulative point A (R286)
  got       : List Nat := []        -- received beyond it
  ackShown  : Nat := 0              -- the cumulative point that departing headers show (R288)
  ackLog    : List (Nat × Nat) := []   -- later points: hall count reached, value
  nackQ     : List (Nat × Nat) := []   -- at most 64: number, hall count queued
  nackOut   : List (Nat × Nat) := []   -- NACKed: number, hall count of departure
  reorder   : List Held := []
  elsewhere : List (Nat × Nat × Nat) := []   -- missing numbers known to be of no given stream: number, OWNER, CLASS (R290)
  laneErrs  : List (Nat × Nat × Nat) := []   -- bit errors before the outer code: ingress lane, hall count, errors (R279)
  laneFec   : List (Nat × Nat) := []         -- uncorrectable RS codewords: ingress lane, hall count
  freed     : Nat := 0              -- CTL_FREED
  ctlIn     : List CtlMsg := []
  ctlOut    : List (List Byte) := []   -- CTL payloads waiting for a credit and a slot
  ctlPart   : List (Nat × List Byte) := []   -- CTL payloads of a partition, which may also take its slots (R293)
  staged    : List Staged := []
  repack    : List Repack := []
  outPkts   : List OutPkt := []
  inPkts    : List InPkt := []
  asm       : List PlanAsm := []
  change    : Option LaneChange := none
  narrow    : Bool := false         -- a direction would fall below width 7 (R299)
  peerProto : Nat := 0              -- level of the peer's IDENT
  slots     : Tab Nat := []         -- SLOT[i]; unlisted: 0x10
  partner   : Tab Nat := []         -- PARTNER[p] with VALID at bit 7
  leases    : List Lease := []
  leaseId   : Nat := 0              -- the model's own: the next LEASE_ID this end proposes
  exchange  : Nat := 0              -- time exchanges started (R333)
  exT1      : Nat := 0              -- T1 of the exchange in progress
  exWait    : Bool := false
  exHall    : Option Nat := none    -- hall count of the last exchange started
  exTx      : List Nat := []        -- d_tx of the exchanges counted (R334)
  exRx      : List Nat := []
  theta     : Int := 0              -- last θ, 1/64 tick
  peerSync  : Nat := 0              -- the peer's sync state, from its messages
  peerDepth : Nat := 0
  twin      : Nat := 0              -- TWIN with VALID at bit 7 (R374)
  twinMode  : Nat := 0
  twinNext  : Option Nat := none    -- MODE written, for the next scheduled step start
  twinErr   : Nat := 0
  swapStep  : Nat := 0
deriving DecidableEq, Repr

/-! ### Packets of a partition (11) -/

/-- An outstanding request (R322, R325). -/
structure Req where
  id      : Nat
  write   : Bool
  module  : Nat
  part    : Nat
  addr    : Nat
  len     : Nat
  data    : List Byte           -- a write's bytes
  attempt : Nat := 0
  first   : Nat := 0            -- hall count of the first send
  sent    : Nat := 0            -- hall count of the current attempt
  got     : List (Nat × List Byte) := []   -- RD_RSP packets of the current attempt
  cords   : List Nat := []      -- cords its packets left on
  left    : Option Nat := none  -- hall count at which the current attempt left its source (R314)
  unit    : Nat × Nat           -- the Stoke channel, 8g + k, and the unit that asked
deriving DecidableEq, Repr

/-- A write entry of a responder's completion table (R324). -/
structure WrEntry where
  module  : Nat
  part    : Nat
  id      : Nat
  created : Nat
  seen    : List Nat            -- indices recorded
  bytes   : Nat
  len     : Nat
  done    : Bool := false
deriving DecidableEq, Repr

/-- A packet delivered to a partition: its ingress cord, the partner it came to, its bytes (R320). -/
structure InMsg where
  cord  : Nat
  via   : Nat
  bytes : List Byte
deriving DecidableEq, Repr

/-- The routing record of a partition (R330) with its requester and responder. -/
structure Routing where
  identValid : Bool := false
  identDomain : Nat := 0
  timeout    : Nat := 64
  routeBase  : Nat := 0
  homeBase   : Nat := 0
  detours    : Nat := 0
  fwdDrops   : Nat := 0
  nackRx     : Nat := 0
  reissues   : Nat := 0
  timeouts   : Nat := 0
  unknown    : Nat := 0
  dedup      : Nat := 0
  pktBad     : Nat := 0
  routes     : List (Nat × List Byte) := []   -- cached route entries (R317)
  homes      : List (Nat × Nat) := []         -- cached homing entries
  nextReq    : Nat := 0
  used       : List (Nat × Nat) := []         -- request IDs in use or recent: ID, first send
  reqs       : List Req := []
  inbox      : List InMsg := []               -- packets delivered to the partition
  waiting    : List Req := []                 -- requests beyond 4,096 outstanding (R322)
  table      : List WrEntry := []
deriving DecidableEq, Repr

/-! ### The time unit and the damper of the module (12) -/

/-- Sync states (R336). -/
inductive SyncSt where
  | free | acquiring | locked | holdover | root | recovering
deriving DecidableEq, Repr

/-- The time record (R357), configuration. `asym` is in 1/64 tick. -/
structure TimeRec where
  role      : Nat := 0
  parent    : Nat := 0
  alt       : Nat := 0
  holdLimit : Nat := 40
  mCap      : Nat := 16
  powerCap  : Nat := 3600
  asym      : Tab Int := []
deriving DecidableEq, Repr

/-- The time unit (R336 to R338, R356) with the damper logic (R343, R344). -/
structure TimeUnit where
  st        : SyncSt := .free
  role      : Nat := 0             -- ROLE, PARENT and ALT in force since kindling
  parent    : Nat := 0
  altRec    : Nat := 0
  useAlt    : Bool := false        -- TIME_STATUS.ALT
  depth     : Nat := 0
  acq       : List Int := []       -- θ of the exchanges while ACQUIRING
  good      : Nat := 0             -- consecutive exchanges with |θ| below 0.2 tick
  stepped   : Bool := false        -- the count has been set while ACQUIRING
  holdFrom  : Nat := 0             -- hall count at which HOLDOVER began
  lost      : Bool := false        -- a time loss of sync has not yet ended in LOCKED
  labelValid : Bool := false
  labelHall : Nat := 0
  labelTai  : Nat := 0
  labelUtc  : Nat := 0
  labelNo   : Nat := 0
  labelSent : Option Nat := none   -- hall count of the root's last label (R338)
  mLocal    : Nat := 16
  lowerAt   : Option Nat := none   -- hall counts of the desired m's last step down and up (R343)
  riseAt    : Option Nat := none
  children  : List (Nat × Nat × Nat) := []   -- latest DAMPER_UP: domain, cord, m
  lastUp    : List (Nat × Nat) := []         -- last sent: domain, m
  raiseAt   : List (Nat × Nat) := []         -- root: domain, hall count since which the minimum is above m
  frozen    : List Nat := []                 -- dies under a freeze (R344)
deriving DecidableEq, Repr

/-! ### Stoke engines (15) -/

/-- A list entry (R411). -/
structure StkEntry where
  addr   : Nat
  len    : Nat
  remote : Bool := false
  module : Nat := 0
  part   : Nat := 0
deriving DecidableEq, Repr

/-- A register set (R424): active or shadow. -/
structure StkRegs where
  src    : Nat := 0
  dst    : Nat := 0
  srcN   : Nat := 0
  dstN   : Nat := 0
  settle : Bool := false
  irq    : Bool := false
  tag    : BitVec 64 := 0
deriving DecidableEq, Repr

/-- States of a channel (R415). `ended`: the transfer has ended with the shadow armed, before its promotion.
CQ_WAIT is shown while records wait. -/
inductive StkSt where
  | idle | running | halted | settling | ended
deriving DecidableEq, Repr

/-- A unit (R414). `src` and `dst` start at its first byte; `at_` is its offset in the streams. -/
structure StkUnit where
  uid  : Nat
  at_  : Nat
  len  : Nat
  si   : Nat                        -- list index and offset of its first byte, per side
  so   : Nat
  di   : Nat
  do_  : Nat
  src  : StkEntry
  dst  : StkEntry
  data : Option (List Byte) := none -- what a remote read has returned
deriving DecidableEq, Repr

/-- The failure that halts a channel (R419). -/
structure StkFail where
  unit  : StkUnit
  off   : Nat                       -- first failing byte within the unit
  dst   : Bool
  cause : Nat
deriving DecidableEq, Repr

/-- A channel (R409 to R424). -/
structure StkChan where
  host     : Bool := false
  st       : StkSt := .idle
  armed    : Bool := false
  cqBad    : Bool := false
  cause    : Nat := 0
  act      : StkRegs := {}
  sh       : StkRegs := {}
  seq      : Nat := 0
  haltAddr : Nat := 0
  haltOff  : Nat := 0
  haltIdx  : Nat := 0
  haltDst  : Bool := false
  cqBase   : Nat := 0
  cqLog2   : Nat := 0
  cqHead   : Nat := 0
  cqTail   : Nat := 0
  cqStalls : Nat := 0
  recs     : List (Bool × List Byte) := []   -- records that wait for room in the ring, with their IRQ
  srcL     : List StkEntry := []         -- the lists read at promotion
  dstL     : List StkEntry := []
  mixed    : Bool := false               -- source and destination overlap in memory (R413)
  next     : Nat := 0                    -- stream offset of the next unit
  again    : List (Nat × Nat) := []      -- ranges to issue again: offset, length
  flight   : List StkUnit := []
  moved    : List (Nat × Nat) := []      -- ranges whose writes have left
  skips    : List (Nat × Nat) := []      -- ranges skipped
  fail     : Option StkFail := none
  ending   : Option Nat := none          -- status of the final record that waits for units in flight
  fenced   : Bool := false               -- FENCED of that record
  fenceSh  : Option (BitVec 64) := none  -- TAG of a shadow that a fence discarded, its record yet to come
  settleErr : Bool := false
  orphans  : List StkUnit := []          -- units in flight of a transfer that a reset stopped (R422)
deriving DecidableEq, Repr

/-! ### Host ports (16) -/

/-- A port's link (R426, R431). -/
structure HostPort where
  up    : Bool := false
  speed : Nat := 0
  width : Nat := 0
  cxl   : Bool := false
  perst : Bool := true           -- PERST# asserted
  bme   : List Nat := []         -- partitions whose function here has Bus Master Enable 1
deriving DecidableEq, Repr

/-! ### The Collier: flash, kindling, update, supplies (17 to 19) -/

/-- An image slot of a bank (R450, R461). -/
structure ImgSlot where
  hdr  : List Byte := []               -- its 256 header bytes, once written
  body : Cells := []
  got  : List (Nat × Nat) := []        -- body ranges written: offset, length
deriving DecidableEq, Repr

/-- The pointer record (R451). `false` is bank A. -/
structure Pointer where
  active  : Bool := false
  prev    : Bool := false
  trial   : Bool := false
  boots   : Nat := 0
  reverted : Bool := false
  actHall : Nat := 0
  dataVer : Nat := 0
deriving DecidableEq, Repr

/-- A partition layout entry (R453). -/
structure Layout where
  valid  : Bool := false
  port   : Nat := 0
  groups : Nat := 0
  first  : Nat := 0
  count  : Nat := 0
  retort : Nat := 0
deriving DecidableEq, Repr

/-- What the flash records in force hold (R451, R452). `seqs`: SEQ of each record, by the model's number of it. -/
structure Persist where
  pointer  : Pointer := {}
  ident    : Cells := [(3, 1#8), (4, 1#8)]   -- SMBUS_CMS and AUTO_CONFIRM are 1 at manufacture (R454)
  repairs  : Tab (Nat × Nat) := []     -- per group: soft repairs of SRAM, of stacks
  cinder   : Tab Nat := []
  stops    : List LogEntry := []       -- the newest 256 entries with STOPPED set (R482)
  layout   : Tab Layout := []
  timeRec  : TimeRec := {}
  down     : Tab Nat := []             -- LINK_DOWN_TIME of each cord
  standing : List (List Byte) := []    -- arguments of standing leases
  seqs     : Tab Nat := []
deriving DecidableEq, Repr

/-- Kindling (R455, R463, R466). `phase`: 0 ROM, 1 RAILS, 2 SELFTEST, 3 LOAD, 4 SYNC, 5 PARTITIONS, 6 OPEN, 7 HALTED. -/
structure Kindle where
  phase       : Nat := 0
  halt        : Nat := 0
  cause       : Nat := 0               -- RESTART_CAUSE (R443)
  configReset : Bool := false
  migrated    : Bool := false
  romFallback : Bool := false
  syncFree    : Bool := false
  bank        : Bool := false          -- the bank running
  sram        : Option ImgSlot := none -- a Collier image received by the boot ROM into SRAM (R467)
  syncFrom    : Nat := 0               -- hall count at which SYNC began
  cdi         : BitVec 384 := 0        -- CDI₁, from which the Alias key pair is derived (R398)
deriving DecidableEq, Repr

/-- Staging and activation (R455, R468 to R470). -/
structure Update where
  stage     : Nat := 0                 -- 0 NOT_STAGED, 1 STAGING, 2 STAGED
  activation : Nat := 0                -- 0 none, 1 scheduled, 2 cancelled for HOLDUP, 3 by CANCEL_ACTIVATE
  at_       : Nat := 0
  window    : Nat := 0                 -- hall count at which an unconfirmed trial reverts; 0: none
  confirm   : Bool := false            -- CONFIRM received
deriving DecidableEq, Repr

/-- The hold-up bank (R455, R458, R459). -/
structure HoldUp where
  hall : Option Nat := none            -- hall count of the last test
  mj   : Nat := 0
  pass : Bool := false
  last : Option Nat := none            -- hall count of the last pass
  retest : Nat := 0                    -- hall count from which 60 s run to the next retest (R459)
  hourly : Nat := 0                    -- hall count of the last hourly persistence, or of the start (R460)
  full : Option Nat := none            -- hall count from which the bank is charged; none: empty (R488)
  dark : Option Nat := none            -- hall count from which both inputs are absent and the bank bleeds (R488)
deriving DecidableEq, Repr

/-- Supplies and rails (R485 to R493). -/
structure Power where
  aux     : Bool := false              -- the aux supply is present
  ramp    : Option Nat := none         -- hall count at which the inrush limiter began its ramp (R487)
  rails   : Nat := 0                   -- rail groups of R489 brought up
  fault   : Bool := false              -- held in reset after INPUT_POWER (R485)
  dieOff  : List Nat := []             -- dies whose rails are off until module reset
  lasers  : List Nat := []             -- optical engines whose lasers a trip turned off until module reset
  opticsBad : List Nat := []           -- optical engines that failed the tests at kindling (R472)
  warn    : List Nat := []             -- dies with an overcurrent warning
  gap     : Bool := false              -- the last input loss left the cinder history unwritten (R460)
deriving DecidableEq, Repr

/-- The run-time test (R475, R477). -/
structure RunTest where
  target : Nat := 0
  index  : Nat := 0
  st     : Nat := 0                    -- 0 IDLE, 1 RUNNING, 2 PASS, 3 REPAIRED, 4 FAIL
  added  : Nat := 0
  hall   : Nat := 0
deriving DecidableEq, Repr

/-- The test access port and the module's fuses (R406, R407). -/
structure TestPort where
  production : Bool := false           -- the PRODUCTION fuse
  debug   : Bool := false              -- debug state
  scope   : Nat := 0                   -- instructions enabled: bit 0 IEEE 1149.1, bit 1 IEEE 1687
  nonce   : Option Nat := none         -- serial of the nonce outstanding
  device  : Nat := 0                   -- serial of the DeviceID key pair
  revoked : List Nat := []             -- image keys revoked by fuse (R461)
deriving DecidableEq, Repr

/-! ### A partition -/

/-- Everything the spec keeps for one partition number. -/
structure Part where
  live   : Bool := false        -- the partition exists (R390)
  port   : Nat := 0
  plan   : Plan := {}
  clock  : Clock := {}
  dom    : Dom := {}
  fn     : Fn := {}
  flLog  : List LogEntry := []   -- the partition's ring of 1,024 entries (R482)
  flHead : Nat := 0
  flSel  : Nat := 0
  cinSel : Nat := 0x10
  alloc  : Alloc := {}
  frame  : Frame := {}
  serving : Serving := {}
  btFirst : Nat := 0            -- budget range (R221, R390)
  btCount : Nat := 0
  ending  : Bool := false   -- dissolved once its Stoke transfers have ended (R390)
  retorts : Nat := 0        -- Retort engines its weight and banking traffic is assigned to, bit e for engine e (R30)
  keysReady : Bool := false     -- SEC_STATUS.KEYS_READY (R408)
  sec    : Security := {}
  phu    : PrefixUnit := {}
  bank   : Banking := {}
  wts    : Weights := {}
  routing : Routing := {}
deriving DecidableEq, Repr

/-- Group states (R389). -/
inductive GroupState where
  | scrubbing | free | assigned | withheld
deriving DecidableEq, Repr

/-- A group (R389). -/
structure Group where
  st    : GroupState := .scrubbing
  owner : Nat := 0              -- partition, while ASSIGNED
  reason : Nat := 0             -- why it is withheld (R477)
  coresOff : Nat := 0           -- bit i: core 4g + i is disabled (R472)
  repSram : Nat := 0            -- soft repairs held (R473): on-die SRAM
  repStack : Nat := 0           -- of its near-memory stack and turf channel pair
deriving DecidableEq, Repr

/-- A coalescing window of the fault log (R481). -/
structure Coalesce where
  entry : LogEntry
  count : Nat
deriving DecidableEq, Repr

/-- An on-plan beat on its way to a landing buffer or an egress port (R159, R166). -/
structure Beat where
  part    : Nat
  circuit : Bool            -- due in hall ticks on a landing circuit; else in plan ticks
  due     : Nat
  tile    : Nat             -- consumer tile
  landing : Nat
  total   : Nat
  tag     : BitVec 4
  src     : Src
  off     : Nat             -- byte offset in the buffer
  bytes   : List Byte
  xfer    : Nat             -- names the transfer
  retx    : Nat := 0                -- segments accepted with RETX = 1 that this beat completes (R354)
  claims  : List Claim := []        -- tracks it has yet to use
deriving DecidableEq, Repr

/-- A beat on its way to an egress port (R159, R165). -/
structure EgBeat where
  part  : Nat
  cord  : Nat
  due   : Nat             -- plan tick at which it reaches the port
  route : Nat
  tag   : BitVec 4
  tile  : Nat
  issue : Nat
  eng   : Nat             -- send engine
  index : Nat             -- beat number of the transfer
  last  : Bool            -- the transfer's last beat
  deps  : List Nat        -- planned departure of each segment, ticks after issue
  bytes : List Byte
  claims : List Claim := []
deriving DecidableEq, Repr

/-- A mailbox entry on its way (R96, R97). -/
structure MbEntry where
  part  : Nat
  core  : Nat
  due   : Nat
  bytes : List Byte
deriving DecidableEq, Repr

/-- The command registers of the prefix hash unit that a core holds (R242). -/
structure PhRegs where
  sg       : Nat := 0
  ste      : Nat := 0
  tokens   : Nat := 0
  handle   : Nat := 0
  blocks   : Nat := 0
  first    : Nat := 0
  plist    : Nat := 0
  entry    : Nat := 0
  taken    : Option Nat := none   -- hall count at which the core's last command was accepted; BUSY in that tick
  code     : Nat := 0
  hit      : Nat := 0          -- PH_RESULT.BLOCKS
  existing : Nat := 0
  chain    : BitVec 128 := 0
deriving DecidableEq, Repr

/-- The command registers of the banking engine (R251) and of the weight ledger (R257, R270) that a
core holds. -/
structure AsRegs where
  bkSte   : Nat := 0
  bkGroup : Nat := 0
  bkTtl   : Nat := 0
  bkRes   : Nat := 0
  wlRes   : Nat := 0
  ovArg   : Nat := 0
  ovCode  : Nat := 0
  ovGen   : Nat := 0
  ovPins  : Nat := 0
deriving DecidableEq, Repr

/-- Privilege mode of an Ember core (R188). -/
inductive CoreMode where
  | machine
  | user
deriving DecidableEq, Repr

/-- A load or store access fault raised in an Ember core (R20, R190). -/
structure AccessFault where
  store : Bool
  addr  : Nat          -- in the core's own view
deriving DecidableEq, Repr

/-- An Ember core (R188), its local block (R192) and the assist registers it holds. -/
structure Core where
  event     : BitVec 6 := 0
  eventEn   : BitVec 6 := 0
  mbHead    : Nat := 0
  mbTail    : Nat := 0
  mbDropped : Nat := 0
  ring      : Tab (List Byte) := []
  run       : CoreRun := .running
  mode      : CoreMode := .machine
  pc        : BitVec 64 := 0
  xs        : Tab (BitVec 64) := []  -- integer registers x1 to x31
  fs        : Tab (BitVec 64) := []  -- floating-point registers f0 to f31
  vs        : Tab (BitVec 256) := [] -- vector registers v0 to v31, VLEN = 256 (R188)
  mtvec     : BitVec 64 := 0
  fault     : Option AccessFault := none   -- the last access fault raised in it since it started
  mcause    : BitVec 64 := 0         -- of the trap that halted it
  mepc      : BitVec 64 := 0
  mtval     : BitVec 64 := 0
  sqWord0   : BitVec 64 := 0
  sqLatch   : BitVec 64 := 0
  sqRefused : Bool := false
  sqVictim  : Nat := 0
  hqSel     : Nat := 0               -- HQ_SEL (R435)
  sq        : List (BitVec 64 × BitVec 64) := []   -- steal queue, oldest first
  paStatus  : Nat := 0
  paState   : Nat := 0
  paRefs    : Nat := 0
  btSel     : Nat := 0
  ph        : PhRegs := {}
  reg       : AsRegs := {}
  priv      : Cells := []            -- its private data memory of 256 KiB (R189)
deriving DecidableEq, Repr

/-- A lease of pass-through lane slots, to be applied at `h` (R308). -/
structure LaneLease where
  lane  : Nat
  grant : Bool
  part  : Nat
  h     : Nat
  slots : List Nat
deriving DecidableEq, Repr

/-- What the module sends out of itself at a step: host memory writes, MSI-X messages, replies. -/
inductive Out where
  | msix (part vector : Nat) (addr : BitVec 64) (data : BitVec 32)
  | coreRead (core : Nat) (value : Nat)       -- what an Ember core's read returned
  | hostRead (part : Nat) (value : Nat)       -- what a host read returned
  | hostWrite (part : Nat) (addr : Nat) (bytes : List Byte)
  | ident (cord module number level : Nat)    -- an IDENT message in training (R301)
  | shardRead (part ctx : Nat) (data : Option (List Byte))   -- a window read: none is an error
  | cms (number result detail : Nat) (data : List Byte)   -- a reply of the management service (R446)
  | ntp (bytes : List Byte)                   -- an NTPv4 response (R339)
  | spdm (port fn : Nat) (bytes : List Byte)  -- an SPDM response (R399)
  | hostWriteCxl (part : Nat) (addr : Nat) (bytes : List Byte)   -- the same as an ItoMWr request (R427)
  | segment (cord : Nat) (lanes : List Nat) (bytes : List Byte)
deriving DecidableEq, Repr

/-- The block. -/
structure State where
  pending  : List Instr := []       -- commands waiting, first in, first out
  hall     : Nat := 0               -- hall count (R11)
  moduleId : Nat := 0
  parts    : Tab Part := []
  groups   : Tab Group := []
  tiles    : Tab Tile := []
  cores    : Tab Core := []
  cords    : Tab Cord := []
  lanes    : Tab (Tab Nat) := []    -- slot maps of the four pass-through lanes (R330)
  laneLeases : List LaneLease := []
  budgets  : Tab Budget := []       -- the module's 4,096 entries (R219)
  mem      : Cells := []            -- near memory and Ember store by MPA
  turf     : Cells := []            -- turf bytes written under the turf key now in use
  badWords : List Nat := []         -- MPAs of codewords whose re-read failed (R184)
  beats    : List Beat := []
  egBeats  : List EgBeat := []
  mail     : List MbEntry := []
  outbox   : List Out := []
  cinder   : Tab Nat := []          -- cinder counters (R478)
  log      : List LogEntry := []    -- the module ring (R482)
  logSeq   : Nat := 0
  coalesce : List Coalesce := []
  reported : List Report := []      -- reported keys (R370)
  merge    : List MergeEntry := []
  rootTab  : List RootEntry := []
  rootDrop : Nat := 0
  reportQ  : List (Nat × List Byte) := []   -- reports waiting to leave by a parent cord (R371)
  ports    : Tab HostPort := []
  fn0      : Tab Bool := []         -- MSG_EN of function 0 of each port
  stoke    : Tab StkChan := []      -- key 8g + k
  images   : Tab ImgSlot := []      -- key 8 × bank + image type (R450)
  flash    : Persist := {}          -- the records in force
  ident    : Cells := [(3, 1#8), (4, 1#8)]   -- the module identity record (R454) as written
  layout   : Tab Layout := []       -- partition layout with changes not yet committed
  standing : List (List Byte) := [] -- standing leases, the same
  stood    : List (List Byte) := [] -- standing leases proposed since kindling (R448)
  unsaved  : List Nat := []         -- records with changes not yet committed (R459)
  kindle   : Kindle := {}
  update   : Update := {}
  holdup   : HoldUp := {}
  power    : Power := {}
  sensors  : Tab Int := []          -- last readings by sensor code (R495)
  test     : RunTest := {}
  tap      : TestPort := {}
  retortOff : List Nat := []        -- disabled Retort engines (R472)
  fuses    : Tab Nat := []          -- fuse pool entries used, per die (R473)
  spare    : Tab Nat := []          -- per band 4d + q: 1 + logical tile the spare carries (R168)
  time     : TimeUnit := {}
  timeRec  : TimeRec := {}
  joinHeld : List (Nat × List Byte) := []     -- DOMAIN_JOIN requests held, by cord (R362)
  subCount : List (Nat × Nat × Nat) := []     -- MEMBERS_SUB of children: domain, cord, count
  turfKey  : Tab Nat := []          -- per group: serial of the turf key in use (R396)
  latches  : Tab Nat := []          -- high halves latched by reads of a counter's low half, by reader and offset (R21)
  serial   : Nat := 0               -- the model's own: counter that free values are drawn from
deriving DecidableEq, Repr

/-- The machine right after reset. -/
def State.reset : State := {}

end Sys2Proof.Machine
end

