-- ==== Sys2Proof/Machine/Ops.lean ====
section
/-! DEFINITION. Named operations every family uses: access to the tables of State, the partition
address map (R391), events and MSI-X (R437), the fault log and cinder counters (R478 to R482), and
fault reports toward the root (R369 to R372). -/

namespace Sys2Proof.Machine

/-! ### Access -/

def State.part (s : State) (p : Nat) : Part := tabGet {} s.parts p
def State.updPart (s : State) (p : Nat) (f : Part → Part) : State := { s with parts := tabUpd {} s.parts p f }
def State.group (s : State) (g : Nat) : Group := tabGet {} s.groups g
def State.updGroup (s : State) (g : Nat) (f : Group → Group) : State := { s with groups := tabUpd {} s.groups g f }
def State.tile (s : State) (t : Nat) : Tile := tabGet {} s.tiles t
def State.updTile (s : State) (t : Nat) (f : Tile → Tile) : State := { s with tiles := tabUpd {} s.tiles t f }
def State.core (s : State) (c : Nat) : Core := tabGet {} s.cores c
def State.updCore (s : State) (c : Nat) (f : Core → Core) : State := { s with cores := tabUpd {} s.cores c f }
def State.cord (s : State) (c : Nat) : Cord := tabGet {} s.cords c
def State.updCord (s : State) (c : Nat) (f : Cord → Cord) : State := { s with cords := tabUpd {} s.cords c f }

def State.updPlan (s : State) (p : Nat) (f : Plan → Plan) : State := s.updPart p fun P => { P with plan := f P.plan }
def State.updClock (s : State) (p : Nat) (f : Clock → Clock) : State := s.updPart p fun P => { P with clock := f P.clock }
def State.updDom (s : State) (p : Nat) (f : Dom → Dom) : State := s.updPart p fun P => { P with dom := f P.dom }
def State.updFn (s : State) (p : Nat) (f : Fn → Fn) : State := s.updPart p fun P => { P with fn := f P.fn }
def State.updCnt (s : State) (p : Nat) (f : Counters → Counters) : State :=
  s.updClock p fun c => { c with cnt := f c.cnt }

def State.send (s : State) (o : Out) : State := { s with outbox := s.outbox ++ [o] }

/-- Queue a CTL message on a cord (R294, R295). -/
def State.sendCtl (s : State) (c : Nat) (payload : List Byte) : State :=
  s.updCord c fun x => { x with ctlOut := x.ctlOut ++ [payload] }

/-- Queue a CTL message of a partition: it may leave in an unused slot of the partition too (R293, R296). -/
def State.sendCtlOf (s : State) (p c : Nat) (payload : List Byte) : State :=
  s.updCord c fun x => { x with ctlPart := x.ctlPart ++ [(p, payload)] }

/-- Draw the next number for a free value. -/
def State.fresh (s : State) : State := { s with serial := s.serial + 1 }

/-! ### Groups, tiles, cores -/

/-- Partition `p` owns group `g` (R28, R389). -/
def State.owns (s : State) (p g : Nat) : Bool := (s.group g).st = .assigned && (s.group g).owner = p

/-- The groups of a partition, ascending. -/
def State.groupsOf (s : State) (p : Nat) : List Nat := (List.range 16).filter fun g => s.owns p g

/-- The partition that owns a group. -/
def State.ownerOf (s : State) (g : Nat) : Option Nat :=
  if (s.group g).st = .assigned then some (s.group g).owner else none

/-- The partition of a tile (R27, R28). -/
def State.tilePart (s : State) (t : Nat) : Option Nat := s.ownerOf (t / 12)

/-- The tiles of a partition. -/
def State.tilesOf (s : State) (p : Nat) : List Nat :=
  (s.groupsOf p).flatMap fun g => (List.range 12).map fun i => 12 * g + i

/-- The Ember cores of a partition (R27). -/
def State.coresOf (s : State) (p : Nat) : List Nat :=
  (s.groupsOf p).flatMap fun g => (List.range 4).map fun i => 4 * g + i

/-- Apply `f` to every tile of a list. -/
def State.onTiles (s : State) (ts : List Nat) (f : Tile → Tile) : State :=
  ts.foldl (fun s t => s.updTile t f) s

/-! ### Module physical addresses and the partition address map (R28, R170, R391) -/

def gib : Nat := 2 ^ 30
def mib : Nat := 2 ^ 20

/-- What a partition address reaches. -/
inductive Reach where
  | near (g mpa : Nat)
  | turf (g mpa : Nat)
  | store (g mpa : Nat)
  | shard (ctx off : Nat)
  | host (addr : Nat)
  | unmapped
deriving DecidableEq, Repr

/-- The enabled host window that covers an address (R393). -/
def State.hostWin (s : State) (p a : Nat) : Option HostWin :=
  ((s.part p).sec.wins.find? fun w => w.2.enable && w.2.base ≤ a && a < w.2.base + w.2.size).map (·.2)

/-- The map of R391 for a partition. -/
def State.reach (s : State) (p a : Nat) : Reach :=
  let w := 0x1000000000
  if a < 0x10000000000 then
    let g := a / w
    if s.owns p g ∧ a % w < 48 * gib then .near g a else .unmapped
  else if a < 0x20000000000 then
    let g := (a - 0x10000000000) / w
    if s.owns p g then .turf g a else .unmapped
  else if 0x30000000000 ≤ a ∧ a < 0x30200000000 then
    let d := (a - 0x30000000000) / 0x100000000
    let o := (a - 0x30000000000) % 0x100000000
    let g := 8 * d + o / (4 * mib)
    if o < 32 * mib ∧ s.owns p g then .store g a else .unmapped
  else if 0x40000000000 ≤ a ∧ a < 0x41000000000 then
    .shard ((a - 0x40000000000) / 0x10000000) ((a - 0x40000000000) % 0x10000000)
  else match s.hostWin p a with
    | some w => .host (w.target + (a - w.base))
    | none => .unmapped

/-- A byte of near memory, turf or Ember store at an MPA. A turf byte nothing has written under the
turf key in use reads as a free value of the key's serial (R397, R404). -/
def State.memByte (s : State) (a : Nat) : Byte :=
  if 0x10000000000 ≤ a ∧ a < 0x20000000000 then
    match s.turf.find? (fun c => c.1 = a) with
    | some c => c.2
    | none => Config.turfByte (tabGet 0 s.turfKey ((a - 0x10000000000) / 0x1000000000)) a
  else rdByte s.mem a

/-- Store a byte at an MPA; a codeword written again is no longer bad (R184). -/
def State.wrMem (s : State) (a : Nat) (b : Byte) : State :=
  let s := { s with badWords := s.badWords.filter fun w => w ≠ a / 32 * 32 }
  if 0x10000000000 ≤ a ∧ a < 0x20000000000 then
    { s with turf := tabInsert (tabErase s.turf a) a b }
  else { s with mem := wrByte s.mem a b }

def State.memBytes (s : State) (a n : Nat) : List Byte := (List.range n).map fun i => s.memByte (a + i)

def State.wrMems (s : State) (a : Nat) : List Byte → State
  | [] => s
  | b :: r => (s.wrMem a b).wrMems (a + 1) r

/-- A partition address that near memory, turf or the Ember store holds, at the same MPA. -/
def State.mapped (s : State) (p a : Nat) : Bool :=
  match s.reach p a with
  | .near _ _ | .turf _ _ | .store _ _ => true
  | _ => false

/-- Within a block of 2 MiB all addresses reach one thing: group windows end at multiples of 4 MiB (R391) and host windows
at multiples of 2 MiB (R393). -/
def mapBlock : Nat := 2 * mib

/-- The parts of a range, cut at block boundaries: address and length. -/
def blocksOf (a n : Nat) : List (Nat × Nat) :=
  if n = 0 then []
  else (List.range ((a + n - 1) / mapBlock - a / mapBlock + 1)).map fun i =>
    let b := max a ((a / mapBlock + i) * mapBlock)
    (b, min (a + n) ((a / mapBlock + i + 1) * mapBlock) - b)

/-- All of `n` bytes from `a` are in memory the partition owns. -/
def State.mappedRange (s : State) (p a n : Nat) : Bool := (blocksOf a n).all fun b => s.mapped p b.1

/-- All of `n` bytes lie in near memory of groups the partition owns. -/
def State.nearRange (s : State) (p a n : Nat) : Bool :=
  (blocksOf a n).all fun b => match s.reach p b.1 with | .near _ _ => true | _ => false

/-- All of `n` bytes lie in Ember store slices of groups the partition owns. -/
def State.storeRange (s : State) (p a n : Nat) : Bool :=
  (blocksOf a n).all fun b => match s.reach p b.1 with | .store _ _ => true | _ => false

/-- All of `n` bytes are mapped by R391, whatever they reach. -/
def State.anyRange (s : State) (p a n : Nat) : Bool := (blocksOf a n).all fun b => s.reach p b.1 != .unmapped

/-- The number in `n` bytes of memory at `a`, little-endian (R16). -/
def State.memLe (s : State) (a n : Nat) : Nat := leNat (s.memBytes a n)

/-- Store the low `n` bytes of a number at `a`. -/
def State.wrLe (s : State) (a n v : Nat) : State := s.wrMems a (leBytes n v)

/-- Accesses through the partition's host windows succeed: its port's link is up and Bus Master Enable is
1 (R439). -/
def State.hostUp (s : State) (p : Nat) : Bool :=
  let x := tabGet {} s.ports (s.part p).port
  x.up && x.bme.contains p

/-- An access at `a` through a host window can succeed: as above, and a CXL window needs CXL.cache (R427). -/
def State.winUp (s : State) (p a : Nat) : Bool :=
  s.hostUp p && match s.hostWin p a with
    | some w => !w.cxl || (tabGet {} s.ports (s.part p).port).cxl
    | none => false

/-- Write bytes that lie in one block at a partition address: memory of the module, or the host through a window that is not
READ_ONLY. Anything else has no effect (R391 to R393). A fenced partition sends the host nothing but Stoke records
(`rec`) and MSI-X messages (R367). -/
def State.putBlock (s : State) (p a : Nat) (bytes : List Byte) (rec : Bool) : State :=
  match s.reach p a with
  | .near _ m | .turf _ m | .store _ m => s.wrMems m bytes
  | .host h =>
    if ¬ s.winUp p a ∨ ((s.hostWin p a).map (·.readOnly)).getD true ∨ ((s.part p).dom.fenced ∧ ¬ rec) then s
    else if ((s.hostWin p a).map (·.cxl)).getD false then s.send (.hostWriteCxl p h bytes)
    else s.send (.hostWrite p h bytes)
  | _ => s

/-- Write bytes at a partition address, part by part where they cross a block. -/
def State.putMem (s : State) (p a : Nat) (bytes : List Byte) (rec : Bool := false) : State :=
  (blocksOf a bytes.length).foldl (fun s b => s.putBlock p b.1 ((bytes.drop (b.1 - a)).take b.2) rec) s

/-- All of `n` bytes from `a` lie in enabled host windows. -/
def State.hostRange (s : State) (p a n : Nat) : Bool :=
  (blocksOf a n).all fun b => match s.reach p b.1 with | .host _ => true | _ => false

/-- Bytes that a partition's assist reads at an address that the tenant gave: of its own memory; unmapped bytes read 0 (R392).
Bytes of host memory, which no command carries here, are free values. -/
def State.pBytes (s : State) (p a n : Nat) : List Byte :=
  (blocksOf a n).flatMap fun b => match s.reach p b.1 with
    | .near _ m | .turf _ m | .store _ m => s.memBytes m b.2
    | .host h => (List.range b.2).map fun i => Config.hostByte (h + i) s.serial
    | _ => List.replicate b.2 0#8

/-- The number in those bytes. -/
def State.pLe (s : State) (p a n : Nat) : Nat := leNat (s.pBytes p a n)

/-- Store the low `n` bytes of a number at a partition address; unmapped bytes keep nothing (R392). -/
def State.pWrLe (s : State) (p a n v : Nat) : State := s.putMem p a (leBytes n v)

/-! ### Events and MSI-X (R437) -/

/-- Send the message of a vector; a masked vector keeps it pending. -/
def State.sendMsix (s : State) (p v : Nat) : State :=
  let m := tabGet {} (s.part p).fn.msix v
  if m.masked then s.updFn p fun f => { f with msix := tabSet {} f.msix v { m with pend := true } }
  else s.send (.msix p v m.addr m.data)

/-- Set EV_STATUS bit `b`; a change from 0 to 1 while enabled sends the message. -/
def State.raiseEv (s : State) (p b : Nat) : State :=
  let f := (s.part p).fn
  if f.evStatus.getLsbD b then s
  else
    let s := s.updFn p fun f => { f with evStatus := f.evStatus ||| BitVec.ofNat 16 (2 ^ b) }
    if f.evEnable.getLsbD b && f.msgEn then s.sendMsix p (tabGet 0 f.evVec b) else s

def evPlan : Nat := 0
def evDomain : Nat := 1
def evFault : Nat := 2
def evServing : Nat := 3
def evState : Nat := 4

/-- Set Q_EVENT bit `q`. -/
def State.raiseQ (s : State) (p q : Nat) : State :=
  let f := (s.part p).fn
  if f.qEvent.getLsbD q then s
  else
    let s := s.updFn p fun f => { f with qEvent := f.qEvent ||| BitVec.ofNat 256 (2 ^ q) }
    if f.qEvEnable.getLsbD q && f.msgEn then s.sendMsix p (tabGet {} f.queues q).vector else s

/-- FN_STATUS.STATE a partition function should show (R431). -/
def State.fnStateOf (s : State) (p : Nat) : Nat :=
  let P := s.part p
  if !P.live then 2 else if !P.keysReady then 0 else if P.dom.fenced then 3 else 1

/-- Host writes act on every block (R431). -/
def State.fnReady (s : State) (p : Nat) : Bool := s.fnStateOf p = 1

/-- Host writes act on the plan control and fault blocks: READY or FENCED (R367, R431). -/
def State.fnPlan (s : State) (p : Nat) : Bool := s.fnStateOf p = 1 || s.fnStateOf p = 3

/-- Bring FN_STATUS.STATE up to date; a change sets EV_STATUS.STATE. -/
def State.refreshFn (s : State) (p : Nat) : State :=
  if (s.part p).fn.fnState = s.fnStateOf p then s
  else (s.updFn p fun f => { f with fnState := s.fnStateOf p }).raiseEv p evState

/-- Set an EVENT bit of an Ember core (R192). -/
def State.raiseCore (s : State) (c b : Nat) : State :=
  s.updCore c fun x => { x with event := x.event ||| BitVec.ofNat 6 (2 ^ b) }

/-- Set an EVENT bit of every Ember core of a partition. -/
def State.raiseCores (s : State) (p b : Nat) : State :=
  (s.coresOf p).foldl (fun s c => s.raiseCore c b) s

/-! ### Fault classes -/

def cSchedTag : Nat := 0x01
def cSchedBank : Nat := 0x02
def cLoopBound : Nat := 0x03
def cLandingOverrun : Nat := 0x04
def cFlueBudget : Nat := 0x05
def cHold : Nat := 0x08
def cSlip : Nat := 0x09
def cSlipLimit : Nat := 0x0A
def cMemCe : Nat := 0x10
def cMemUe : Nat := 0x11
def cSramUe : Nat := 0x12
def cCordRetry : Nat := 0x18
def cLaneSwap : Nat := 0x19
def cWidthDrop : Nat := 0x1A
def cCordDown : Nat := 0x1B
def cRouteDrop : Nat := 0x1C
def cFence : Nat := 0x48
def cTimeLoss : Nat := 0x50

/-- Unit kinds (R478). -/
def kTile : Nat := 0x01
def kCore : Nat := 0x02
def kNear : Nat := 0x03
def kTurf : Nat := 0x04
def kCord : Nat := 0x05
def kStoke : Nat := 0x06
def kRetort : Nat := 0x07
def kOptic : Nat := 0x08
def kPort : Nat := 0x09
def kPart : Nat := 0x10
def kAssist : Nat := 0x11
def kKeys : Nat := 0x12
def kModule : Nat := 0x13

/-! ### Cinder counters and the fault log -/

/-- The physical tile that carries a logical tile (R168, R478). -/
def State.physTile (s : State) (t : Nat) : Nat :=
  let d := t / 96
  let q := t % 96 % 48 / 12
  if tabGet 0 s.spare (4 * d + q) = t + 1 then 100 * d + 96 + q else 100 * d + t % 96

/-- The key of a counter: unit kind, index, class. -/
def cinderKey (kind index cls : Nat) : Nat := (kind * 256 + index) * 128 + cls

/-- Count one event of a unit; 16 bits, saturating (R478). -/
def State.cinderInc (s : State) (kind index cls : Nat) : State :=
  { s with cinder := tabUpd 0 s.cinder (cinderKey kind index cls) (satInc 16) }

/-- Count one event of a logical tile. -/
def State.cinderTile (s : State) (t cls : Nat) : State := s.cinderInc kTile (s.physTile t) cls

/-- The newest `n` entries of a ring. -/
def ringKeep {α : Type} (n : Nat) (l : List α) : List α := l.drop (l.length - n)

/-- Put an entry into a partition's ring, which raises EV_STATUS.FAULT (R482). -/
def State.ringPut (s : State) (e : LogEntry) (p : Nat) : State :=
  (s.updPart p fun P =>
    { P with flLog := ringKeep 1024 (P.flLog ++ [e]), flHead := (P.flHead + 1) % 2 ^ 32 }).raiseEv p evFault

/-- Write an entry into the module ring and the rings of the partitions it names (R482). -/
def State.logPut (s : State) (e : LogEntry) (affects : List Nat) : State :=
  let e := { e with seq := s.logSeq }
  let s := { s with log := ringKeep 16384 (s.log ++ [e]), logSeq := s.logSeq + 1 }
  (if e.part < 16 then [e.part] else affects).foldl (fun s p => s.ringPut e p) s

/-- Classes whose events are coalesced (R481). -/
def coalesces (e : LogEntry) : Bool :=
  e.cls = cMemCe || e.cls = cCordRetry || e.cls = cRouteDrop || (e.cls = cFence && e.cause = 1)

/-- Bytes padded with zeros to a length. -/
def padTo (n : Nat) (b : List Byte) : List Byte := b ++ List.replicate (n - b.length) 0#8

/-- The entry of a window that closes: DETAIL bytes 16 to 19 count its events. -/
def Coalesce.close (c : Coalesce) : LogEntry :=
  { c.entry with coalesced := true, detail := (padTo 16 c.entry.detail).take 16 ++ leBytes 4 c.count ++ leBytes 4 0 }

/-- The coalescing window of a unit and class. -/
def Coalesce.isOf (c : Coalesce) (e : LogEntry) : Bool :=
  c.entry.kind = e.kind && c.entry.index = e.index && c.entry.cls = e.cls

/-- The window of an event: one still open takes it, one open for longer than 1 s is written first (R481). -/
def State.joinWindow (s : State) (e : LogEntry) : State :=
  let late (c : Coalesce) : Bool := c.isOf e && decide (c.entry.hall + 500000000 < e.hall)
  let s := (s.coalesce.filter late).foldl (fun s c => s.logPut c.close []) s
  let rest := s.coalesce.filter fun c => !late c
  { s with
    coalesce := if rest.any fun c => c.isOf e then
        rest.map fun c => if c.isOf e then { c with count := c.count + 1 } else c
      else rest ++ [⟨e, 1⟩] }

/-- Log an event: its unit's counter, and one entry at once or a coalesced one (R480, R481). -/
def State.logEv (s : State) (e : LogEntry) (affects : List Nat := []) : State :=
  let e := { e with hall := s.hall }
  let s := s.cinderInc e.kind e.index e.cls
  if coalesces e then s.joinWindow e
  else s.logPut e affects

/-- Log an event of the module for which the spec gives no class and no cause: both are free values. -/
def State.logOpen (s : State) : State :=
  let s := s.fresh
  let cls := Config.openField s.serial % 256
  let s := s.fresh
  s.logEv { cls := cls, cause := Config.openField s.serial % 256, kind := kModule }

/-- Log an event under a logical tile. -/
def State.logTile (s : State) (t : Nat) (e : LogEntry) : State :=
  s.logEv { e with kind := kTile, index := s.physTile t, tile := t }

/-- A write ignored and counted as R19 states. -/
def State.fenceInc (s : State) (kind index : Nat) : State := s.cinderInc kind index cFence

/-- An unmapped access: counted for the agent's unit and entered in the fault log (R392, R480, R481). -/
def State.unmapped (s : State) (kind index p a : Nat) : State :=
  s.logEv { cls := cFence, kind := kind, index := index, part := p, cause := 1, addr := a }

/-- A write to an assist register ignored and counted as R19 states. -/
def State.assistFence (s : State) (p : Nat) : State := s.fenceInc kAssist p

/-! ### Fault reports (R369 to R372) -/

/-- Two reports with one key. -/
def sameKey (a b : Report) : Bool :=
  a.domain = b.domain && a.epoch = b.epoch && a.cls = b.cls && a.omodule = b.omodule &&
  a.okind = b.okind && a.oindex = b.oindex

/-- The payload of FAULT_REPORT (R388). -/
def msgFaultReport (r : Report) : List Byte :=
  leBytes 1 0x30 ++ leBytes 2 r.domain ++ leBytes 2 r.epoch ++ leBytes 1 r.cls ++ leBytes 1 r.okind ++
  leBytes 2 r.omodule ++ leBytes 1 r.oindex ++ leBytes 2 r.count ++ leBytes 8 r.first ++
  leBytes 2 r.reporter ++ (r.detail ++ List.replicate 8 0#8).take 8 ++ leBytes 2 0

/-- Partitions of the module that are members of a domain, ascending (R361). -/
def State.membersOf (s : State) (dom : Nat) : List Nat :=
  (List.range 16).filter fun p =>
    (s.part p).live && ((s.part p).dom.st = .member || (s.part p).dom.st = .shadow) && (s.part p).dom.domainId = dom

/-- Send a report toward the tree parent: queued in Collier memory, at most 4,096 (R371). -/
def State.reportUp (s : State) (p : Nat) (r : Report) : State :=
  if s.reportQ.length < 4096 then
    { s with reportQ := s.reportQ ++ [((s.part p).dom.parent, msgFaultReport r)] }.updDom p fun d =>
      { d with reportsSent := satInc 32 d.reportsSent }
  else s.updDom p fun d => { d with reportDrop := satInc 32 d.reportDrop }

/-- Raise an event of every member partition of a domain. -/
def State.raiseMembers (s : State) (dom b : Nat) : State :=
  (s.membersOf dom).foldl (fun s p => s.raiseEv p b) s

/-- Add a report to the root table (R372): a new entry or a higher count raises the domain event. -/
def State.rootAdd (s : State) (r : Report) : State :=
  if s.rootTab.any (fun e => sameKey e.rep r) then
    let t : State :=
      { s with
        rootTab := s.rootTab.map fun e =>
          if sameKey e.rep r then
            { e with
              count := min (2 ^ 32 - 1) (e.count + r.count)
              rep := { e.rep with first := min e.rep.first r.first }
              updated := s.hall }
          else e }
    t.raiseMembers r.domain evDomain
  else if s.rootTab.length < 1024 then
    let t : State := { s with rootTab := s.rootTab ++ [⟨r, r.count, s.hall⟩] }
    t.raiseMembers r.domain evDomain
  else { s with rootDrop := s.rootDrop + 1 }

/-- What a module does on a report, arriving or made locally (R371). -/
def State.onReport (s : State) (p : Nat) (r : Report) : State :=
  if (s.part p).dom.root then s.rootAdd r
  else if s.merge.any (fun e => sameKey e.rep r) then
    let t : State :=
      { s with
        merge := s.merge.map fun e =>
          if sameKey e.rep r then { e with pending := min 65535 (e.pending + r.count) } else e }
    t.updDom p fun d => { d with merged := satInc 32 d.merged }
  else if s.merge.length < 256 then
    let t : State := { s with merge := s.merge ++ [⟨r, 0, s.hall + 5000000⟩] }
    t.reportUp p r
  else (s.reportUp p r).updDom p fun d => { d with mergeOverflow := satInc 32 d.mergeOverflow }

/-- Make a local report once per domain, class and origin in a fault epoch (R370). -/
def State.reportLocal (s : State) (p cls omodule okind oindex : Nat) (detail : List Byte) : State :=
  let d := (s.part p).dom
  if d.st = .member ∨ d.st = .shadow then
    let r : Report := ⟨d.domainId, d.epoch, cls, omodule, okind, oindex, 1, s.hall, s.moduleId, detail⟩
    let same (k : Report) : Bool := k.domain = r.domain && k.cls = r.cls && k.omodule = r.omodule &&
      k.okind = r.okind && k.oindex = r.oindex
    if s.reported.any same then s
    else
      let s := if (s.reported.filter fun k => k.domain = r.domain).length < 256
        then { s with reported := s.reported ++ [r] } else s
      s.onReport p r
  else s

end Sys2Proof.Machine
end

