-- ==== Sys2Proof/Machine/Frame.lean ====
section
/-! DEFINITION. Pages, page tables, sequence table entries, frames and budgets (07): the operations the
frame builder, the page allocator and the step boundary share. -/

namespace Sys2Proof.Machine

def State.updAlloc (s : State) (p : Nat) (f : Alloc → Alloc) : State := s.updPart p fun P => { P with alloc := f P.alloc }
def State.updFrame (s : State) (p : Nat) (f : Frame → Frame) : State := s.updPart p fun P => { P with frame := f P.frame }
def State.updServing (s : State) (p : Nat) (f : Serving → Serving) : State :=
  s.updPart p fun P => { P with serving := f P.serving }

/-! ### Pages (R209, R210) -/

/-- The table key of a page: its handle (R209). -/
def pageKey (g k : Nat) : Nat := g * 2 ^ 22 + k

def Alloc.page (a : Alloc) (h : Nat) : Page := tabGet {} a.pages h
def Alloc.pool (a : Alloc) (g : Nat) : Pool := tabGet {} a.pools g

/-- Page size in bytes. -/
def Alloc.size (a : Alloc) : Nat := 2 ^ (a.shift + 14)

/-- FREE pages of a group (PA_FREE). -/
def Alloc.freeCount (a : Alloc) (g : Nat) : Nat :=
  if a.enable then
    (a.pool g).pages - (a.pages.filter fun e => e.1 / 2 ^ 22 = g ∧ e.2.st ≠ .free).length
  else 0

/-- A handle that names a page of an enabled pool of the partition (R209, R211). -/
def State.handleOk (s : State) (p h : Nat) : Bool :=
  let a := (s.part p).alloc
  a.enable && h < 2 ^ 26 && s.owns p (h / 2 ^ 22) && h % 2 ^ 22 < (a.pool (h / 2 ^ 22)).pages

/-- Set a page. LOW_PAGES is raised when a group's FREE count falls from LOW_WATER or above to below it. -/
def State.setPage (s : State) (p h : Nat) (x : Page) : State :=
  let a := (s.part p).alloc
  let g := h / 2 ^ 22
  let b : Alloc := { a with pages := tabSet {} a.pages h x }
  let t := s.updAlloc p fun _ => b
  if (a.pool g).low ≤ a.freeCount g ∧ b.freeCount g < (a.pool g).low then t.raiseCores p 5 else t

/-- Lower a page's count; at 0 it becomes RELEASING, or FREE at once for a walk or a trim (R210, R217). -/
def State.refDec (s : State) (p h : Nat) (atOnce : Bool) : State :=
  let x := (s.part p).alloc.page h
  if s.handleOk p h ∧ (x.st = .owned ∨ x.st = .shared) then
    if x.refs ≤ 1 then s.setPage p h { st := if atOnce then .free else .releasing, refs := 0 }
    else s.setPage p h { x with refs := x.refs - 1 }
  else s

/-- Item 6 of R225: RELEASING pages become FREE. -/
def State.freeReleasing (s : State) (p : Nat) : State :=
  s.updAlloc p fun a => { a with pages := a.pages.filter fun e => e.2.st ≠ .releasing }

/-! ### Sequence table entries (R200) -/

/-- Address of an STE. -/
def State.steAddr (s : State) (p i : Nat) : Nat := (s.part p).frame.ste + 128 * i

/-- The STE lies wholly in mapped memory of the partition. -/
def State.steMapped (s : State) (p i : Nat) : Bool := s.mappedRange p (s.steAddr p i) 128

def State.steWord (s : State) (p i : Nat) : Nat := s.pLe p (s.steAddr p i) 4
def State.steState (s : State) (p i : Nat) : Nat := s.steWord p i % 16
def State.steGen (s : State) (p i : Nat) : Nat := bitsOf (s.steWord p i) 31 16

/-- Replace STATE of an STE. -/
def State.setSteState (s : State) (p i v : Nat) : State :=
  let w := s.steWord p i
  s.pWrLe p (s.steAddr p i) 4 (w - w % 16 + v)

def steFree : Nat := 0
def steAdmitted : Nat := 1
def steActive : Nat := 2
def stePaused : Nat := 3
def steBanking : Nat := 4
def steBanked : Nat := 5
def steRekindling : Nat := 6
def steReleasing : Nat := 7

/-- Layers NL of an STE; 0 means 256. -/
def State.steLayers (s : State) (p i : Nat) : Nat :=
  let l := s.pLe p (s.steAddr p i + 0x1D) 1
  if l = 0 then 256 else l

def State.stePdir (s : State) (p i : Nat) : Nat := s.pLe p (s.steAddr p i + 0x20) 8 % 2 ^ 52
def State.steRootBlocks (s : State) (p i : Nat) : Nat := s.pLe p (s.steAddr p i + 0x1E) 2 % 1024
def State.steCommitted (s : State) (p i : Nat) : Nat := s.pLe p (s.steAddr p i + 0x04) 4 % 2 ^ 24
def State.steTentative (s : State) (p i : Nat) : Nat := s.pLe p (s.steAddr p i + 0x08) 4 % 2 ^ 24

/-- FREE with GEN incremented: the end of a release walk (R201, R217). -/
def State.steToFree (s : State) (p i : Nat) : State :=
  s.pWrLe p (s.steAddr p i) 4 ((s.steGen p i + 1) % 65536 * 65536)

/-! ### Page tables (R202, R203) -/

/-- Address of page table entry `i` of a root; none when its directory block is unmapped. -/
def State.pteAddr (s : State) (p pdir i : Nat) : Option Nat :=
  let d := s.pLe p (pdir + 8 * (i / 256)) 8 % 2 ^ 52
  if d = 0 then none else some (d + 16 * (i % 256))

/-- LOC of an entry; 5 to 7 are treated as unmapped. -/
def State.pteLoc (s : State) (p a : Nat) : Nat :=
  let l := s.pLe p a 1 % 8
  if l ≤ 4 then l else 0

def State.pteHandle (s : State) (p a : Nat) : Nat := s.pLe p (a + 4) 4
def State.pteTarget (s : State) (p a : Nat) : Nat := s.pLe p (a + 8) 8 % 2 ^ 52

/-- Write an entry's fields. -/
def State.wrPte (s : State) (p a loc ro handle target : Nat) : State :=
  s.putMem p a (leBytes 4 (loc + 8 * ro) ++ leBytes 4 handle ++ leBytes 8 target)

/-- Addresses of the mapped entries of a sequence's page table, in entry order. -/
def State.pteAddrs (s : State) (p i : Nat) : List Nat :=
  (List.range (s.steRootBlocks p i * 512)).flatMap fun k =>
    let d := s.pLe p (s.stePdir p i + 8 * k) 8 % 2 ^ 52
    if d = 0 then [] else (List.range 256).map fun e => d + 16 * e

/-- The unmapped 4 KiB blocks that the first `n` entries of a page table lie in or are reached through: blocks of the root,
then directory blocks. -/
def State.tableGaps (s : State) (p pdir n : Nat) : List Nat :=
  let roots := ((List.range (ceilDiv n (512 * 256))).map fun k => pdir + 4096 * k).filter fun a => !s.anyRange p a 4096
  let dirs := (List.range (ceilDiv n 256)).filterMap fun k =>
    let d := s.pLe p (pdir + 8 * k) 8 % 2 ^ 52
    if d = 0 ∨ s.anyRange p d 4096 then none else some d
  roots ++ dirs

/-- Entries that the root of a sequence has room for. -/
def State.tableSize (s : State) (p i : Nat) : Nat := s.steRootBlocks p i * 512 * 256

/-- Count an unmapped access for each address (R392). -/
def State.unmappedAll (s : State) (kind index p : Nat) (l : List Nat) : State := l.foldl (fun s a => s.unmapped kind index p a) s

/-! ### Frames (R212 to R216) -/

/-- FRAME_STRIDE (R212). -/
def frameStride (slotCeil : Nat) : Nat := roundUp (1024 + 64 * slotCeil) 4096

/-- OUT_STRIDE (R212). -/
def outStride (slotCeil : Nat) : Nat := roundUp (192 * slotCeil) 4096

def Frame.buf (f : Frame) (b : Nat) : Nat := f.area + b * frameStride f.slotCeil
def Frame.mbuf (f : Frame) (b : Nat) : Nat := f.mirror + b * frameStride f.slotCeil
def slotAt (base i : Nat) : Nat := base + 1024 + 64 * i

/-- The occupied slots of the frame at `base`: FIRST to FIRST + min(OCC, SIZE) − 1 of each class (R213). -/
def State.occupied (s : State) (p base : Nat) : List Nat :=
  let cs := ((s.part p).plan.loaded.getD {}).classes
  cs.zipIdx.flatMap fun c =>
    let occ := bitsOf (s.memLe (base + 0x20 + 8 * c.2) 8) 47 32
    (List.range (min occ c.1.size)).map fun i => c.1.first + i

/-- Void a slot in place: VOID set, TOKENS, DRAFTS and CTX_PAGES 0 (R216). -/
def State.voidSlot (s : State) (a : Nat) : State :=
  let w4 := s.memLe (a + 4) 4
  let w8 := s.memLe (a + 8) 4
  let wc := s.memLe (a + 12) 4
  let w4' := w4 - w4 % 2 ^ 17 + (if bitsOf w4 25 25 = 0 then 2 ^ 25 else 0)
  ((s.wrLe (a + 4) 4 w4').wrLe (a + 8) 4 (w8 % 2 ^ 24)).wrLe (a + 12) 4 (wc - wc % 2 ^ 19)

/-- A slot's bytes with PDIR and TOKEN_LIST taken as 0 (R216). -/
def State.slotForDigest (s : State) (a : Nat) : List Byte :=
  s.memBytes a 16 ++ leBytes 8 (s.memLe (a + 16) 8 / 2 ^ 52 * 2 ^ 52) ++
  leBytes 8 (s.memLe (a + 24) 8 / 2 ^ 52 * 2 ^ 52) ++ s.memBytes (a + 32) 32

/-- DIGEST of the frame at `base` (R216). -/
def State.frameDigest (s : State) (p base : Nat) : Nat :=
  (Config.blake3 (s.memBytes (base + 0x10) 0x250 ++
    (s.occupied p base).flatMap fun i => s.slotForDigest (slotAt base i))).toNat % 2 ^ 64

/-- Copy a frame to its mirror buffer, if there is one. -/
def State.mirrorFrame (s : State) (p b : Nat) : State :=
  let f := (s.part p).frame
  if f.mirror = 0 then s else s.wrMems (f.mbuf b) (s.memBytes (f.buf b) (1024 + 64 * f.slotCeil))

/-- Is a slot VOID. -/
def State.slotVoid (s : State) (a : Nat) : Bool := bitsOf (s.memLe (a + 4) 4) 25 25 = 1
def State.slotTokens (s : State) (a : Nat) : Nat := s.memLe (a + 4) 4 % 2 ^ 17
def State.slotSte (s : State) (a : Nat) : Nat := s.memLe a 2 % 2 ^ 14

/-! ### Budgets (R219, R220) -/

/-- Refill due at hall count `h` (R219). -/
def Budget.refillAt (b : Budget) (h : Nat) : Budget :=
  if b.period > 0 ∧ b.next ≤ h then
    let k := (h - b.next) / b.period + 1
    { b with
      balance := if b.balance < b.cap then min (b.cap : Int) (b.balance + (k * b.refill : Nat)) else b.balance
      next := b.next + k * b.period }
  else b

/-- A balance saturates at both ends of signed 32 bits (R220, R221). -/
def satBalance (x : Int) : Int := max (-(2 ^ 31 : Int)) (min (2 ^ 31 - 1 : Int) x)

/-- Charge tokens to an entry, after its refill (R220). -/
def Budget.charge (b : Budget) (h tokens : Nat) : Budget :=
  let b := b.refillAt h
  { b with balance := satBalance (b.balance - tokens), charged := (b.charged + tokens) % 2 ^ 64 }

def State.budget (s : State) (i : Nat) : Budget := tabGet {} s.budgets i
def State.updBudget (s : State) (i : Nat) (f : Budget → Budget) : State := { s with budgets := tabUpd {} s.budgets i f }

/-- Item 5 of R225: charge every non-voided occupied slot of the new active frame, in slot order. -/
def State.chargeFrame (s : State) (p base : Nat) : State :=
  (s.occupied p base).foldl (fun s i =>
    let a := slotAt base i
    if s.slotVoid a then s
    else s.updBudget (tabGet 0 (s.part p).frame.latched i) fun b => b.charge s.hall (s.slotTokens a)) s

end Sys2Proof.Machine
end

