-- ==== Sys2Proof/Machine/WeightCore.lean ====
section
/-! DEFINITION. The weight ledger's shared operations (09): contexts, layers, the epoch flip and the
adoption of overlays at a step boundary. -/

namespace Sys2Proof.Machine

def State.updWts (s : State) (p : Nat) (f : Weights → Weights) : State := s.updPart p fun P => { P with wts := f P.wts }

/-! ### Retort engines (R30, R472) -/

/-- The default engine of a group: its own while that works, else the lowest-numbered working one of its die. -/
def State.defaultRetort (s : State) (g : Nat) : Nat :=
  let e := 4 * (g / 8) + g % 8 / 2
  if ¬ s.retortOff.contains e then e
  else (((List.range 4).map fun i => 4 * (g / 8) + i).find? fun i => ¬ s.retortOff.contains i).getD e

/-- The Retort engines the Collier assigns to the weight and banking traffic of a set of groups: their defaults. R30 lets it
assign any engine of the partition's dies, but no command or field sets another (DESIGN CHOICE, entry 52). -/
def State.retortMask (s : State) (gs : List Nat) : Nat :=
  ((gs.map fun g => s.defaultRetort g).dedup).foldl (fun a e => a + 2 ^ e) 0

/-- The engine that serves a partition's traffic at a group: its default where assigned, else the lowest assigned of its die. -/
def State.servingRetort (s : State) (p g : Nat) : Nat :=
  let m := (s.part p).retorts
  let e := s.defaultRetort g
  if m.testBit e then e else (((List.range 4).map fun i => 4 * (g / 8) + i).find? fun i => m.testBit i).getD e

/-- The host port that serves a group by default (R30). CREATE always names one. -/
def defaultPort (g : Nat) : Nat := g / 4

/-! ### Shard contexts -/

def cxIdle : Nat := 0
def cxArmed : Nat := 1
def cxReady : Nat := 2
def cxOk : Nat := 3
def cxTagFail : Nat := 4
def cxAborted : Nat := 5
def cxLayer : Nat := 6
def cxKey : Nat := 7
def cxRange : Nat := 8

def Weights.ctx (w : Weights) (c : Nat) : ShardCtx := tabGet {} w.ctxs c
def Weights.layer (w : Weights) (l : Nat) : Layer := tabGet {} w.layers l

/-- Address of a context record (R257). -/
def State.ctxAddr (s : State) (p c : Nat) : Nat := (s.part p).wts.ctxBase + 128 * c

/-- Set a context; STATUS and COUNT of its record follow. -/
def State.setCtx (s : State) (p c : Nat) (x : ShardCtx) : State :=
  let t := s.updWts p fun w => { w with ctxs := tabSet {} w.ctxs c x }
  (t.putMem p (t.ctxAddr p c) (leBytes 1 x.st)).putMem p (t.ctxAddr p c + 0x0C) (leBytes 4 x.count)

/-- Abort the contexts that satisfy a test, without a fault record (R261, R402). -/
def State.abortCtxs (s : State) (p : Nat) (f : ShardCtx → Bool) : State :=
  ((s.part p).wts.ctxs.filter fun e => f e.2).foldl (fun s e => s.setCtx p e.1 { e.2 with st := cxAborted }) s

/-- Every ARMED OPEN context is aborted at an accepted ARM or SET (R261). -/
def State.abortOpens (s : State) (p : Nat) : State := s.abortCtxs p fun x => x.opened && x.st = cxArmed

/-! ### Layers and the epoch (R263) -/

/-- The lowest OPEN layer with PENDING above 0. -/
def Weights.openPending (w : Weights) : Option Nat :=
  (List.range 256).find? fun l => (w.layer l).opened && 0 < (w.layer l).pending

/-- Some layer is OPEN. -/
def Weights.anyOpen (w : Weights) : Bool := (List.range 256).any fun l => (w.layer l).opened

/-- An epoch change takes effect: PREV, ACTIVE, KV_COMPAT, every layer CLOSED; where E was ACTIVE at the ARM
the flip only closes (R263). -/
def Weights.takeEpoch (w : Weights) (e : Nat) (kv same : Bool) : Weights :=
  let w := { w with layers := tabOf {} 256 fun l => { w.layer l with opened := false } }
  if same then w else { w with prev := w.active, active := e, kvCompat := kv }

/-! ### The overlay table (R270 to R272) -/

def State.ovAddr (s : State) (p h : Nat) : Nat := (s.part p).wts.ovBase + 64 * h

/-- Offset of generation record A or B. -/
def ovRec (b : Bool) : Nat := if b then 0x18 else 0x08

def State.ovGen (s : State) (p a : Nat) (b : Bool) : Nat := s.pLe p (a + ovRec b) 1
def State.ovGst (s : State) (p a : Nat) (b : Bool) : Nat := s.pLe p (a + ovRec b + 1) 1
def State.ovPins (s : State) (p a : Nat) (b : Bool) : Nat := s.pLe p (a + ovRec b + 2) 2
def State.ovCurrent (s : State) (p a : Nat) : Nat := s.pLe p (a + 1) 1

def gFree : Nat := 0
def gPending : Nat := 1
def gCurrent : Nat := 2
def gDraining : Nat := 3
def gAtFlip : Nat := 4

def State.setGst (s : State) (p a : Nat) (b : Bool) (v : Nat) : State := s.pWrLe p (a + ovRec b + 1) 1 v

/-- Item 1 of R272 for one record: it becomes CURRENT, and the record that was becomes DRAINING. -/
def State.ovAdopt (s : State) (p a : Nat) (b : Bool) (flipped : Bool) : State :=
  let g := s.ovGst p a b
  if g = gPending ∨ (g = gAtFlip ∧ flipped) then
    let s := if s.ovGst p a (!b) = gCurrent then s.setGst p a (!b) gDraining else s
    (s.setGst p a b gCurrent).pWrLe p (a + 1) 1 (s.ovGen p a b)
  else s

/-- Item 2 for one record, of a handle with a registered withdrawal: whichever record is CURRENT by then, one that item 1 has
just adopted too. -/
def State.ovWithdraw (s : State) (p a : Nat) (b : Bool) : State :=
  if s.ovGst p a b = gCurrent then (s.setGst p a b gDraining).pWrLe p (a + 1) 1 0 else s

/-- Item 3 for one record. -/
def State.ovDrain (s : State) (p a : Nat) (b : Bool) : State :=
  if s.ovGst p a b = gDraining ∧ s.ovPins p a b = 0 then s.setGst p a b gFree else s

/-- The changes of R272 to one entry. -/
def State.ovBoundary (s : State) (p h : Nat) (flipped : Bool) : State :=
  let a := s.ovAddr p h
  let drop := (s.part p).wts.withdraw.contains h
  let s := (s.ovAdopt p a false flipped).ovAdopt p a true flipped
  let s := if drop then (s.ovWithdraw p a false).ovWithdraw p a true else s
  let s := (s.ovDrain p a false).ovDrain p a true
  if s.ovGst p a false = gFree ∧ s.ovGst p a true = gFree then
    (s.pWrLe p a 1 0).updWts p fun w => { w with handles := w.handles.filter fun k => k ≠ h }
  else s

/-- Item 4 of R225 at the boundary that begins step `n`: the armed flip, then the overlay table. -/
def State.weightBoundary (s : State) (p n : Nat) : State :=
  let w := (s.part p).wts
  let flip := w.armed && w.armStep = n
  let s := if flip then s.updWts p fun w => { w.takeEpoch w.next w.nextKv w.armSame with armed := false } else s
  (w.handles.foldl (fun s h => s.ovBoundary p h flip) s).updWts p fun w => { w with withdraw := [] }

/-- An armed flip is cancelled: PENDING_AT_FLIP records return to FREE (R263, R272). -/
def State.cancelFlip (s : State) (p : Nat) : State :=
  if (s.part p).wts.armed then
    let s := s.updWts p fun w => { w with armed := false }
    (s.part p).wts.handles.foldl (fun s h =>
      let a := s.ovAddr p h
      let one (s : State) (b : Bool) : State := if s.ovGst p a b = gAtFlip then s.setGst p a b gFree else s
      one (one s false) true) s
  else s

end Sys2Proof.Machine
end

