-- ==== Sys2Proof/Machine/KeyCore.lean ====
section
/-! DEFINITION. The key store's shared operations (14): slots, drawn keys, key pairs, the serving state. -/

namespace Sys2Proof.Machine

def State.updSec (s : State) (p : Nat) (f : Security → Security) : State := s.updPart p fun P => { P with sec := f P.sec }

def State.keySlot (s : State) (p k : Nat) : KeySlot := tabGet {} (s.part p).sec.slots k

/-- The model key of a slot (R258). -/
def State.modelKey (s : State) (p k : Nat) : Option (BitVec 256) :=
  let x := s.keySlot p k
  if k < 32 ∧ x.valid ∧ x.use = 1 then some x.key else none

/-- The banking key, slot 0 (R396). -/
def State.bankKey (s : State) (p : Nat) : BitVec 256 := (s.keySlot p 0).key

/-- ERASE of a slot: zeroed, and every ARMED or READY shard context that names it is aborted (R402). -/
def State.eraseSlot (s : State) (p k : Nat) : State :=
  let s := s.updSec p fun x => { x with slots := tabSet {} x.slots k {} }
  s.abortCtxs p fun x => x.keySlot = k && (x.st = cxArmed || x.st = cxReady)

/-- New wrapping and attestation key pairs with a WRAP_GEN that differs from the last (R403). -/
def State.redrawPairs (s : State) (p : Nat) : State :=
  let s := s.fresh
  let n := s.serial
  let s := s.fresh
  let g := (Config.random n).toNat % 2 ^ 32
  s.updSec p fun x =>
    { x with wrapPair := n, attPair := s.serial, wrapGen := if g = x.wrapGen then (g + 1) % 2 ^ 32 else g }

/-- What START and START_IMAGE do before any core runs (R403). -/
def State.restartKeys (s : State) (p : Nat) : State :=
  ((List.range 30).foldl (fun s k => s.eraseSlot p (k + 2)) s).redrawPairs p

/-- A new turf key for a group: what the old key wrote can no longer be read (R397). -/
def State.newTurfKey (s : State) (g : Nat) : State :=
  let s := s.fresh
  let base := 0x10000000000 + g * 0x1000000000
  { s with
    turfKey := tabSet 0 s.turfKey g s.serial
    turf := s.turf.filter fun c => ¬ (base ≤ c.1 ∧ c.1 < base + 0x1000000000) }

/-- The keys drawn at partition reset (R396). -/
def State.drawKeys (s : State) (p : Nat) : State :=
  let s := s.fresh
  let a := Config.random s.serial
  let s := s.fresh
  let b := Config.random s.serial
  let bank : KeySlot := { valid := true, use := 4, drawn := true, key := a }
  let pfx : KeySlot := { valid := true, use := 3, drawn := true, key := b }
  let s := s.updSec p fun x => { x with slots := [(0, bank), (1, pfx)] }
  (s.groupsOf p).foldl (fun s g => s.newTurfKey g) (s.redrawPairs p)

/-- An Ember core that self-test disabled is never started (R472). -/
def State.coreOff (s : State) (c : Nat) : Bool := (s.group (c / 4)).coresOff.testBit (c % 4)

/-- Set SRV_STATUS.STATE; a change raises the SERVING event (R437). -/
def State.setSrv (s : State) (p v : Nat) : State :=
  if (s.part p).serving.srvState = v then s
  else (s.updServing p fun x => { x with srvState := v }).raiseEv p evServing

end Sys2Proof.Machine
end

