-- ==== Sys2Proof/Machine/BankCore.lean ====
section
/-! DEFINITION. The banking engine's shared operations (08): slots, tag records, completion records,
and what a release does to a transfer in progress. -/

namespace Sys2Proof.Machine

def State.updBank (s : State) (p : Nat) (f : Banking → Banking) : State := s.updPart p fun P => { P with bank := f P.bank }

/-- Bytes of a slot: a page's data and its 512-byte header (R243). -/
def slotSize (a : Alloc) : Nat := a.size + 512

def State.turfSlotAddr (s : State) (p k : Nat) : Nat := (s.part p).bank.turfBase + k * slotSize (s.part p).alloc
def State.farSlotAddr (s : State) (p k : Nat) : Nat := (s.part p).bank.farBase + k * slotSize (s.part p).alloc

/-- Address of a tag record: turf slot `k`, or far slot `k` after them (R243). -/
def State.tagAddr (s : State) (p k : Nat) (far : Bool) : Nat :=
  let b := (s.part p).bank
  b.tagBase + 32 * (if far then b.turfSlots + k else k)

/-- The slot at an address of a pool. -/
def slotIndex (base size a : Nat) : Nat := (a - base) / size

/-- Some free slots of a pool: which are taken is left open, so the choice starts at a free value. -/
def freeSlots (used : List Nat) (total n seed : Nat) : List Nat :=
  let free := (List.range total).filter fun k => ¬ used.contains k
  let r := Config.pageChoice seed % (if free.length = 0 then 1 else free.length)
  (free.drop r ++ free.take r).take n

/-- Records that still fit the completion ring (R250). -/
def Banking.room (b : Banking) : Nat := 2 ^ b.cqLog2 - (b.cqHead + 2 ^ 32 - b.cqTail) % 2 ^ 32

/-- The 16 bytes of a completion record (R250). -/
def bankRec (ste gen op status moved last : Nat) : List Byte :=
  leBytes 4 (ste + gen * 65536) ++ leBytes 1 op ++ leBytes 1 status ++ leBytes 2 0 ++ leBytes 4 moved ++ leBytes 4 last

/-- Put a record into the ring. -/
def State.bankPut (s : State) (p : Nat) (r : List Byte) : State :=
  let b := (s.part p).bank
  (s.putMem p (b.cqBase + 16 * (b.cqHead % 2 ^ b.cqLog2)) r).updBank p fun b => { b with cqHead := (b.cqHead + 1) % 2 ^ 32 }

/-- A wait on the full ring begins; it is counted once (R250). -/
def State.bankStall (s : State) (p : Nat) : State :=
  s.updBank p fun b => if b.stalled then b else { b with stalled := true, stalls := satInc 32 b.stalls }

/-- Write a record, or keep it waiting (R250). -/
def State.bankRecord (s : State) (p : Nat) (r : List Byte) : State :=
  let b := (s.part p).bank
  if b.recs = [] ∧ 0 < b.room then s.bankPut p r
  else (s.updBank p fun b => { b with recs := b.recs ++ [r] }).bankStall p

/-- Write the waiting records that now fit. -/
def State.bankDrain (s : State) (p : Nat) : State :=
  let rs := (s.part p).bank.recs
  rs.foldl (fun s r =>
    let b := (s.part p).bank
    if 0 < b.room then (s.updBank p fun b => { b with recs := b.recs.tail }).bankPut p r else s) s

/-- The engine accepts a command or finishes a transfer. -/
def Banking.canRun (b : Banking) : Bool := b.recs = [] && 0 < b.room

/-- Where the watermarks stand (R246): migration runs from above BK_HIGH until the slots in use are at or below BK_LOW. -/
def Banking.watch (b : Banking) : Banking :=
  { b with migrating := decide (b.high < b.turfUsed.length) || (b.migrating && decide (b.low < b.turfUsed.length)) }

/-- Return slots to the turf pool. -/
def State.freeTurf (s : State) (p : Nat) (ks : List Nat) : State :=
  s.updBank p fun b => ({ b with turfUsed := b.turfUsed.filter fun k => ¬ ks.contains k } : Banking).watch

/-- A page table entry of a sequence: its index in the table, its address. -/
def State.ptes (s : State) (p ste : Nat) : List (Nat × Nat) :=
  (List.range (s.steRootBlocks p ste * 512)).flatMap fun k =>
    let d := s.pLe p (s.stePdir p ste + 8 * k) 8 % 2 ^ 52
    if d = 0 then [] else (List.range 256).map fun e => (256 * k + e, d + 16 * e)

/-- The entries a BANK moves: LOC 1 with RO 0 (R245). -/
def State.toMove (s : State) (p ste : Nat) : List (Nat × Nat) :=
  (s.ptes p ste).filter fun e => s.pteLoc p e.2 = 1 && bitsOf (s.pLe p e.2 1) 3 3 = 0

/-- The entries at LOC 2 and LOC 3. -/
def State.banked (s : State) (p ste : Nat) : List (Nat × Nat) :=
  (s.ptes p ste).filter fun e => s.pteLoc p e.2 = 2 || s.pteLoc p e.2 = 3

/-- Slots of the far pool; a base of 0 means none (R251). -/
def Banking.farTotal (b : Banking) : Nat := if b.farBase = 0 then 0 else b.farSlots

/-- The additional data of a seal (R244), from the fields of a tag record. -/
def bankAad (p ste gen block layer : Nat) : List Byte :=
  leBytes 1 (p % 16) ++ leBytes 2 (ste % 2 ^ 14) ++ leBytes 2 gen ++ leBytes 3 block ++ leBytes 1 layer ++ leBytes 1 1

def bankNonce (n : Nat) : List Byte := leBytes 8 n ++ leBytes 4 0

/-- Far bytes a transfer reads while the partition's windows reach the host: a fenced one sends no read (R367, R439). -/
def State.farReadable (s : State) (p : Nat) : Bool := s.winUp p (s.part p).bank.farBase && !(s.part p).dom.fenced

/-- Seal the page of one entry into slot `k` (R244, R245). -/
def State.sealPage (s : State) (p ste i e k : Nat) : State :=
  let nl := s.steLayers p ste
  let h := s.pteHandle p e
  let gen := s.steGen p ste
  let n := (s.part p).bank.nonce
  let plain := s.pBytes p (s.pteTarget p e) (s.part p).alloc.size ++ s.memBytes (((s.part p).alloc.pool (h / 2 ^ 22)).hdr + 512 * (h % 2 ^ 22)) 512
  let z := Config.gcmSeal (s.bankKey p) (bankNonce n) (bankAad p ste gen (i / nl) (i % nl)) plain
  let s := s.updBank p fun b => { b with nonce := b.nonce + 1 }
  let s := s.wrMems (s.turfSlotAddr p k) z.1
  let s := s.wrMems (s.tagAddr p k false) (leBytes 8 n ++ leBytes 16 z.2.toNat ++ leBytes 4 (ste + gen * 65536) ++
    leBytes 4 (i / nl + i % nl * 2 ^ 24))
  (s.wrPte p e 2 0 0 (s.turfSlotAddr p k)).setPage p h { st := .releasing, refs := 0 }

/-- The pages a transfer moves, one slot each; a page not OWNED with REFS 1 is left and counted. -/
def State.sealAll (s : State) (p ste : Nat) : List (Nat × Nat) → List Nat → Nat → Nat → State × Nat × Nat × List Nat
  | [], ks, m, sk => (s, m, sk, ks)
  | _ :: _, [], m, sk => (s, m, sk, [])
  | e :: r, k :: ks, m, sk =>
    let x := (s.part p).alloc.page (s.pteHandle p e.2)
    if x.st = .owned ∧ x.refs = 1 then (s.sealPage p ste e.1 e.2 k).sealAll p ste r ks (m + 1) sk
    else s.sealAll p ste r (k :: ks) m (sk + 1)

/-- Open the slot of one entry into page `h` (R248). `far`: what the host returned for a far slot, none when it
cannot be read (R439). Whether the tag matched. -/
def State.openPage (s : State) (p e h : Nat) (far : Option (List Byte)) : State × Bool :=
  let a := (s.part p).alloc
  let b := (s.part p).bank
  let size := slotSize a
  let inFar := s.pteLoc p e = 3
  let k := slotIndex (if inFar then b.farBase else b.turfBase) size (s.pteTarget p e)
  let t := s.tagAddr p k inFar
  let cipher := if inFar then far else some (s.pBytes p (s.turfSlotAddr p k) size)
  let w := s.pLe p (t + 0x18) 4
  let v := s.pLe p (t + 0x1C) 4
  let nonce := bankNonce (s.pLe p t 8)
  let s1 := if inFar then s.updBank p fun b => { b with farUsed := b.farUsed.filter fun x => x ≠ k } else s.freeTurf p [k]
  let fail : State × Bool := ((((s1.setPage p h {}).wrPte p e 0 0 0 0).cinderInc kAssist p cMemUe), false)
  match cipher with
  | none => fail
  | some c =>
    let plain := Config.gcmStream (s.bankKey p) nonce 0 c
    let tag := (Config.gcmSeal (s.bankKey p) nonce (bankAad p w (w / 65536) v (v / 2 ^ 24)) plain).2
    if tag.toNat = s.pLe p (t + 8) 16 then
      let pool := a.pool (h / 2 ^ 22)
      let at_ := pool.base + h % 2 ^ 22 * a.size
      (((s1.wrMems at_ (plain.take a.size)).wrMems (pool.hdr + 512 * (h % 2 ^ 22)) (plain.drop a.size)).wrPte p e 1 0 h at_, true)
    else fail

/-- Open every entry in order, each into its page; far slots take the next bytes of `far`. -/
def State.openAll (s : State) (p nl : Nat) : List (Nat × Nat) → List Nat → List (List Byte) → Nat → Option Nat → State × Nat × Option Nat
  | e :: r, h :: hs, far, m, bad =>
    let isFar := s.pteLoc p e.2 = 3
    let z := s.openPage p e.2 h (if s.farReadable p then far.head?.filter fun b => b.length = slotSize (s.part p).alloc else none)
    let far' := if isFar then far.tail else far
    if z.2 then z.1.openAll p nl r hs far' (m + 1) bad
    else z.1.openAll p nl r hs far' m (some (bad.getD (e.1 / nl)))
  | _, _, _, m, bad => (s, m, bad)

/-- A release of a BANKING or REKINDLING sequence takes effect after the page in progress (R249). How many of its pages have
moved by then is open, since R250 gives averages: the count is a free value, and a far slot's bytes are too. Reserved slots and
allocated pages that are left return, and a RELEASED record is written. -/
def State.bankRelease (s : State) (p ste : Nat) : State :=
  match (s.part p).bank.jobs.find? fun j => j.ste = ste with
  | none => s
  | some j =>
    let s := s.fresh
    let es := if j.bank then s.toMove p ste else s.banked p ste
    let n := if j.bank ∧ ¬ j.moving then 0 else Config.openField s.serial % (es.length + 1)
    let size := slotSize (s.part p).alloc
    let far (i : Nat) : List Byte := (List.range size).map fun k => Config.hostByte (size * i + k) s.serial
    let s := s.updBank p fun b => { b with jobs := b.jobs.filter fun j => j.ste ≠ ste }
    let z : State × Nat × Nat := if j.bank then
        let z := s.sealAll p ste (es.take n) j.slots 0 0
        (z.1.freeTurf p z.2.2.2, z.2.1, z.2.2.1)
      else
        let z := s.openAll p (s.steLayers p ste) (es.take n) j.pages ((List.range n).map far) 0 none
        ((j.pages.drop n).foldl (fun s h => s.setPage p h {}) z.1, z.2.1, z.2.2.getD (Config.openField s.fresh.serial))
    let s := z.1.fresh
    s.bankRecord p (bankRec ste (s.steGen p ste) (if j.bank then 1 else 2) 3 z.2.1 z.2.2)

/-- Mark the transfers whose sequence has no slot in the frame just become active (R245). -/
def State.bankBoundary (s : State) (p : Nat) (active : List Nat) : State :=
  s.updBank p fun b => { b with jobs := b.jobs.map fun j =>
    if j.bank ∧ ¬ active.contains j.ste then { j with ready := true } else j }

end Sys2Proof.Machine
end

