-- ==== Sys2Proof/Machine/Bound.lean ====
section
/-! DEFINITION. What a step boundary, a launch, a stop and an unload do to frames, pages, budgets,
banking and weights (R225, R228, R252, R273). -/

namespace Sys2Proof.Machine

/-! ### The step boundary's share of the frame builder (R225, R228) -/

/-- Return a sealing or sealed shadow to OPEN; a seal in progress raises SEAL_DONE at its core. -/
def State.abandonSeal (s : State) (p : Nat) : State :=
  let f := (s.part p).frame
  let t := s.updFrame p fun f => { f with shadow := .open_ }
  if f.shadow = .sealing then t.raiseCore f.sealer 3 else t

/-- Item 2 under MISS_HOLD = 0: the shadow's header is rewritten as an empty frame of step `n` (R225). -/
def State.emptyFrame (s : State) (p b n : Nat) : State :=
  let f := (s.part p).frame
  let base := f.buf b
  let s := s.wrLe base 8 n
  let s := s.wrLe (base + 0x10) 2 0
  let s := (List.range 8).foldl (fun s c => s.wrLe (base + 0x20 + 8 * c + 4) 2 0) s
  let s := s.wrLe (base + 0x13) 1 0
  let s := s.wrLe (base + 8) 8 (s.frameDigest p base)
  if f.mirror = 0 then s else s.wrMems (f.mbuf b) (s.memBytes base 1024)

/-- The shadow frame is SEALED (R225 item 2). -/
def State.isSealed (s : State) (p : Nat) : Bool := (s.part p).frame.shadow = .sealed

/-- Item 2: buffer n mod 2 becomes active for step `n`; a wait that ends here has counted in FB_MISSED already. -/
def State.flip (s : State) (p n : Nat) : State :=
  let b := (s.part p).frame.shadowBuf
  if s.isSealed p then
    s.updFrame p fun f => { f with active := some b, sealWait := false }
  else
    let s := (s.abandonSeal p).updFrame p fun f => { f with missed := satInc 32 f.missed }
    (s.emptyFrame p b n).updFrame p fun f => { f with active := some b, latched := [] }

/-- START + TOKENS of a sequence's slot in the active frame, 0 when voided or absent (R217). -/
def State.activeReach (s : State) (p ste : Nat) : Nat :=
  match (s.part p).frame.active with
  | none => 0
  | some b =>
    let base := (s.part p).frame.buf b
    (s.occupied p base).foldl (fun m i =>
      let a := slotAt base i
      if s.slotSte a = ste ∧ ¬ s.slotVoid a then max m (s.memLe (a + 8) 4 % 2 ^ 24 + s.slotTokens a) else m) 0

/-- A trim: REF_DEC of every near-memory page of block b with 64b ≥ R, entries to LOC 0, TENTATIVE = R (R217). -/
def State.trim (s : State) (p ste : Nat) : State :=
  let r := max (s.steCommitted p ste) (s.activeReach p ste)
  let nl := s.steLayers p ste
  let n := s.tableSize p ste
  let s := s.unmappedAll kAssist p p (s.tableGaps p (s.stePdir p ste) n)
  let s := (List.range n).foldl (fun s i =>
    if r ≤ 64 * (i / nl) then
      match s.pteAddr p (s.stePdir p ste) i with
      | none => s
      | some a => if s.pteLoc p a = 1 then (s.refDec p (s.pteHandle p a) true).wrPte p a 0 0 0 0 else s
    else s) s
  let w := s.pLe p (s.steAddr p ste + 8) 4
  s.pWrLe p (s.steAddr p ste + 8) 4 (w / 2 ^ 24 * 2 ^ 24 + r % 2 ^ 24)

/-- Item 7: queued releases set their STEs RELEASING and their walks start; queued trims start (R217). -/
def State.startReleases (s : State) (p : Nat) : State :=
  let q := (s.part p).frame.queue
  let s := s.updFrame p fun f => { f with queue := [] }
  q.foldl (fun s c =>
    if c.trim then s.trim p c.ste
    else ((s.bankRelease p c.ste).setSteState p c.ste steReleasing).updFrame p fun f => { f with walks := f.walks ++ [c.ste] }) s

/-- Count the STE table's entries whose STATE is not FREE (R227). -/
def State.countSte (s : State) (p : Nat) : State :=
  s.updServing p fun v =>
    { v with inUse := if (s.part p).frame.ste = 0 then 0
        else ((List.range 16384).filter fun i => s.steState p i ≠ 0).length }

/-- The STEs of the active frame's slots that are not voided. -/
def State.liveStes (s : State) (p base : Nat) : List Nat :=
  (s.occupied p base).filterMap fun i =>
    if s.slotVoid (slotAt base i) then none else some (s.slotSte (slotAt base i))

/-- Items 5 to 9 of R225 after the flip to step `n`; item 9 raises BOUNDARY at every core. -/
def State.afterFlip (s : State) (p n : Nat) : State :=
  let f := (s.part p).frame
  let base := f.buf (n % 2)
  let s := s.chargeFrame p base
  let s := (s.freeReleasing p).startReleases p
  let s := s.updFrame p fun f =>
    { f with shadowBuf := (n + 1) % 2, shadow := .open_, target := n + 1, digest := s.memLe (base + 8) 8 }
  (s.countSte p).raiseCores p 0

/-- What a step boundary does to the assists after the flip to step `n`: items 4 to 9. A layer OPEN
under a frame with live slots counts in FB_SWAP_VIOL (R264); a banked sequence out of the frame may start
to move (R245). -/
def State.boundaryRest (s : State) (p n : Nat) : State :=
  let s := s.weightBoundary p n
  let live := s.liveStes p ((s.part p).frame.buf (n % 2))
  let s := if live ≠ [] ∧ (s.part p).wts.anyOpen
    then s.updWts p fun w => { w with swapViol := satInc 32 w.swapViol } else s
  (s.bankBoundary p live).afterFlip p n

/-- What a STOP or a fault stop does to the frame builder, the pages and the weights: items 6 and 7 act,
the shadow opens, an armed flip is cancelled, BOUNDARY is raised (R192, R228, R273). -/
def State.stopFrames (s : State) (p : Nat) : State :=
  let s := (((s.freeReleasing p).startReleases p).abandonSeal p).cancelFlip p
  (s.updFrame p fun f => { f with sealWait := false, launchWait := false }).raiseCores p 0

/-- LOAD accepted: geometry from the package, FB_TARGET 0, buffer 0 the OPEN shadow (R228). -/
def State.loadFrames (s : State) (p : Nat) (l : Loaded) : State :=
  (s.abandonSeal p).updFrame p fun f =>
    { f with
      area := l.fbArea, mirror := l.fbMirror, out := l.fbOut, slotCeil := l.slotCeil
      target := 0, shadowBuf := 0, active := none, latched := [], launched := false }

/-- The frame of a launch's first step `n`: items 2 and 5 to 9 of R225, unless MISS_HOLD waits for a seal (R228). -/
def State.launchFlip (s : State) (p n : Nat) : State :=
  let f := (s.part p).frame
  if f.missHold ∧ ¬ s.isSealed p then s.updFrame p fun f => { f with launchWait := true }
  else ((s.flip p n).afterFlip p n).updFrame p fun f => { f with launchWait := false }

/-- Launch (R228). At a relaunch buffer 0 is the shadow for step 0: a seal in progress is abandoned, and a
sealed frame is used only if its STEP is 0. -/
def State.launchFrames (s : State) (p : Nat) : State :=
  let f := (s.part p).frame
  let s := if f.launched then
      let s := if f.shadow = .sealing ∨ f.target ≠ 0 then s.abandonSeal p else s
      s.updFrame p fun f => { f with target := 0, shadowBuf := 0, active := none }
    else s
  (s.updFrame p fun f => { f with launched := true }).launchFlip p 0

/-- UNLOAD: geometry 0, shadow OPEN, an armed flip cancelled (R228, R273). -/
def State.unloadFrames (s : State) (p : Nat) : State :=
  ((s.abandonSeal p).cancelFlip p).updFrame p fun f =>
    { f with area := 0, mirror := 0, out := 0, slotCeil := 0, active := none, latched := [], launchWait := false }

end Sys2Proof.Machine
end

