-- ==== Sys2Proof/Machine/StokeCore.lean ====
section
/-! DEFINITION. A Stoke channel's records, the end of its transfers, and what a fence and a reset do to it (R415 to
R423). -/

namespace Sys2Proof.Machine

def State.chan (s : State) (k : Nat) : StkChan := tabGet {} s.stoke k
def State.updChan (s : State) (k : Nat) (f : StkChan → StkChan) : State := { s with stoke := tabUpd {} s.stoke k f }

/-- The partition a channel serves (R409). -/
def State.chanPart (s : State) (k : Nat) : Option Nat := s.ownerOf (k / 8)

/-- The host engine of a partition (R409). -/
def State.hostEngine (s : State) (p : Nat) : Option Nat := (s.groupsOf p).head?

/-- The channels of a partition's engines. -/
def State.chansOf (s : State) (p : Nat) : List Nat := (s.groupsOf p).flatMap fun g => (List.range 8).map fun k => 8 * g + k

def cStokeBus : Nat := 0x30

/-- Log STOKE_BUS of a channel with a halt cause and an address. -/
def State.stokeBus (s : State) (k cause addr : Nat) : State :=
  s.logEv { cls := cStokeBus, kind := kStoke, index := k / 8, part := (s.chanPart k).getD 255, cause := cause, addr := addr
            detail := leBytes 1 (k / 8) ++ leBytes 1 (k % 8) }

/-! ### Records (R423) -/

def srDone : Nat := 0
def srSettled : Nat := 1
def srAborted : Nat := 2
def srHaltRead : Nat := 3
def srHaltWrite : Nat := 4
def srListError : Nat := 5
def srPermission : Nat := 6

def stkRecord (k status flags cause seq : Nat) (tag : BitVec 64) (pos addr : Nat) : List Byte :=
  leBytes 1 status ++ leBytes 1 flags ++ leBytes 1 k ++ leBytes 1 cause ++ leBytes 4 seq ++ leBytes 8 tag.toNat ++
  leBytes 8 pos ++ leBytes 8 addr

def StkChan.full (x : StkChan) : Bool := (x.cqHead + 2 ^ 32 - x.cqTail) % 2 ^ 32 = 2 ^ x.cqLog2

/-- A write of 32 bytes at a partition address reaches memory or the host. -/
def State.canPut (s : State) (p a : Nat) : Bool :=
  (blocksOf a 32).all fun b =>
    s.mapped p b.1 || (s.winUp p b.1 && !((s.hostWin p b.1).map (·.readOnly)).getD true)

/-- Write a record at HEAD; one that fails is dropped and logged, and the channel goes on as though it were written. -/
def State.putRec (s : State) (k : Nat) (r : Bool × List Byte) : State :=
  match s.chanPart k with
  | none => s
  | some p =>
    let x := s.chan k
    let a := x.cqBase + 32 * (x.cqHead % 2 ^ x.cqLog2)
    let s := if s.canPut p a then s.putMem p a r.2 true else s.stokeBus k 7 a
    let s := s.updChan k fun x => { x with cqHead := (x.cqHead + 1) % 2 ^ 32 }
    if x.host && r.1 then s.raiseEv p (8 + k % 8) else s

/-- A record is written, or waits for room: each wait is counted once. -/
def State.record (s : State) (k : Nat) (irq : Bool) (r : List Byte) : State :=
  let x := s.chan k
  if x.recs = [] ∧ ¬ x.full then s.putRec k (irq, r)
  else s.updChan k fun x =>
    { x with recs := x.recs ++ [(irq, r)], cqStalls := if x.recs = [] then satInc 32 x.cqStalls else x.cqStalls }

/-- Write waiting records while the ring has room; what must wait again is a new wait. -/
def State.drainRecs (s : State) (k : Nat) : Nat → State
  | 0 => s
  | n + 1 =>
    let x := s.chan k
    match x.recs with
    | [] => s
    | r :: rest =>
      if x.full then s
      else
        let s := (s.updChan k fun x => { x with recs := rest }).putRec k r
        let y := s.chan k
        let s := if rest ≠ [] ∧ y.full then s.updChan k fun x => { x with cqStalls := satInc 32 x.cqStalls } else s
        s.drainRecs k n

/-! ### Bytes moved (R419 to R423) -/

def StkChan.total (x : StkChan) : Nat := (x.srcL.map (·.len)).sum
def StkChan.movedBytes (x : StkChan) : Nat := (x.moved.map (·.2)).sum
def StkChan.skippedBytes (x : StkChan) : Nat := (x.skips.map (·.2)).sum

/-- The end of the prefix from `pos` that a set of ranges covers. -/
def coverFrom (rs : List (Nat × Nat)) : Nat → Nat → Nat
  | 0, pos => pos
  | n + 1, pos => match rs.find? fun r => r.1 ≤ pos && pos < r.1 + r.2 with
    | some r => coverFrom rs n (r.1 + r.2)
    | none => pos

/-- BYTES of an ABORTED record: the longest prefix of the destination stream written, less bytes skipped (R421). -/
def StkChan.prefixBytes (x : StkChan) : Nat :=
  let rs := x.moved ++ x.skips
  let top := coverFrom rs rs.length 0
  top - ((x.skips.filter fun r => r.1 + r.2 ≤ top).map (·.2)).sum

/-- The part of a range that a set of ranges leaves uncovered, as ranges; `n` bounds the pieces. -/
def uncovered (rs : List (Nat × Nat)) : Nat → Nat → Nat → List (Nat × Nat)
  | 0, _, _ => []
  | n + 1, pos, top =>
    if top ≤ pos then []
    else match rs.find? fun r => r.1 ≤ pos && pos < r.1 + r.2 with
      | some r => uncovered rs n (r.1 + r.2) top
      | none =>
        let next := ((rs.filter fun r => pos < r.1).map (·.1)).foldl min top
        (pos, next - pos) :: uncovered rs n next top

/-! ### The end of a transfer (R415, R417) -/

def StkChan.flags (x : StkChan) : Nat :=
  (if x.act.settle then 1 else 0) + (if x.fenced then 2 else 0) + (if x.skips ≠ [] then 4 else 0) + if x.settleErr then 8 else 0

/-- A record of the active transfer that is no halt record. -/
def State.finalRec (s : State) (k status bytes : Nat) : State :=
  let x := s.chan k
  s.record k x.act.irq (stkRecord k status x.flags 0 x.seq x.act.tag bytes x.skippedBytes)

/-- The end of a transfer: a shadow that a fence discarded gets its record; an armed one awaits its promotion. The
SEQ of a transfer never promoted is left open. -/
def State.endTransfer (s : State) (k : Nat) : State :=
  let s := match (s.chan k).fenceSh with
    | some tag =>
      let s := s.fresh
      let r := stkRecord k srAborted (2 + if (s.chan k).sh.settle then 1 else 0) 0 (Config.openField s.serial % 2 ^ 32) tag 0 0
      (s.record k (s.chan k).sh.irq r).updChan k fun x => { x with fenceSh := none }
    | none => s
  s.updChan k fun x => { x with st := if x.armed then .ended else .idle, ending := none, fail := none, again := [] }

/-- Some destination entry is local: it takes a settling read (R417). -/
def StkChan.settles (x : StkChan) : Bool := x.dstL.any fun e => !e.remote && e.len ≠ 0

/-- Once no unit is in flight: the final record of a transfer that ends, the halt record of one that failed, DONE of
one that has moved everything. -/
def State.stkDrained (s : State) (k : Nat) : State :=
  let x := s.chan k
  if x.flight ≠ [] then s
  else match x.ending with
    | some st => (s.finalRec k st (if st = srAborted then x.prefixBytes else x.movedBytes)).endTransfer k
    | none =>
      if x.st ≠ .running then s
      else match x.fail with
        | some f =>
          let idx := if f.dst then f.unit.di else f.unit.si
          let off := (if f.dst then f.unit.do_ else f.unit.so) + f.off
          let a := (if f.dst then f.unit.dst.addr else f.unit.src.addr) + f.off
          let s := s.updChan k fun x =>
            { x with st := .halted, cause := f.cause, haltAddr := a, haltOff := off, haltIdx := idx, haltDst := f.dst }
          let pos := off % 2 ^ 32 + idx % 2 ^ 13 * 2 ^ 32 + if f.dst then 2 ^ 45 else 0
          let r := stkRecord k (if f.dst then srHaltWrite else srHaltRead) x.flags f.cause x.seq x.act.tag pos (a % 2 ^ 52)
          (s.record k x.act.irq r).stokeBus k f.cause a
        | none =>
          if x.next < x.total ∨ x.again ≠ [] then s
          else
            let s := s.finalRec k srDone x.movedBytes
            if ¬ x.act.settle then s.endTransfer k
            else if x.settles then s.updChan k fun x => { x with st := .settling }
            else (s.finalRec k srSettled x.movedBytes).endTransfer k

/-! ### Fence and resets (R422) -/

/-- The active transfer of a channel is to end with a status once its units in flight have completed. -/
def State.endWith (s : State) (k status : Nat) : State :=
  (s.updChan k fun x => { x with ending := some status, again := [], fail := none }).stkDrained k

/-- What a partition fence does to one channel. -/
def State.stkFenceChan (s : State) (k : Nat) : State :=
  let s := s.updChan k fun x =>
    if x.armed then { x with armed := false, fenceSh := some x.sh.tag } else x
  let x := s.chan k
  match x.st with
  | .running | .halted => (s.updChan k fun x => { x with fenced := true }).endWith k srAborted
  | .idle | .ended => s.endTransfer k
  | .settling => s

/-- What a partition fence does to its channels. -/
def State.stkFence (s : State) (p : Nat) : State := (s.chansOf p).foldl (fun s k => s.stkFenceChan k) s

/-- A channel stops after its units in flight, without a record, and takes its Reset values; `host`: its HOST bit. -/
def State.stkReset (s : State) (k : Nat) (host : Bool) : State :=
  s.updChan k fun x => { ({} : StkChan) with host := host, orphans := x.orphans ++ x.flight }

/-- Whether HOST of a channel resets to 1: channels 0 to 3 of the host engine (R410). -/
def State.hostAtReset (s : State) (k : Nat) : Bool :=
  k % 8 < 4 && match s.chanPart k with
    | some p => s.hostEngine p = some (k / 8)
    | none => false

end Sys2Proof.Machine
end

