-- ==== Sys2Proof/Machine/Stop.lean ====
section
/-! DEFINITION. Stopping a partition: the schedule-fault record (R72 to R74), the fence (R367), and what
a stop does to the plan's units (R99, R187). -/

namespace Sys2Proof.Machine

/-- A check of R72 that failed: what the schedule-fault record and the log would hold. -/
structure SchedFail where
  cls    : Nat
  tile   : Nat            -- logical tile of the log entry and of the order of R73
  slot   : Nat
  bundle : Nat := 0
  tick   : Nat
  tagExp : Nat := 0
  tagGot : Nat := 0
  src    : Src := {}
  detLo  : Nat := 0
  detMid : Nat := 0
  detHi  : Nat := 0
deriving DecidableEq, Repr

/-- The order of R73: class, tile, slot, low detail. -/
def failBefore (a b : SchedFail) : Bool :=
  let k (f : SchedFail) := ((f.cls * 256 + f.tile) * 8 + f.slot) * 65536 + f.detLo
  k a < k b

/-- The record of a failure (R75); FLUE_BUDGET names no tile and no bundle (R180). -/
def recOfFail (f : SchedFail) (hall : Nat) (more : Bool) : SchedRec :=
  let fl := f.cls = cFlueBudget
  { valid := true, more := more, cls := f.cls, tile := if fl then 0xFF else f.tile, slot := f.slot
    bundle := if fl then 0 else f.bundle, tagExp := f.tagExp, tagGot := f.tagGot, planTick := f.tick
    hall := hall, src := f.src, detLo := f.detLo, detMid := f.detMid, detHi := f.detHi }

/-- The order key of a record already held, with the tile FLUE_BUDGET hides taken as the lowest. -/
def recFail (r : SchedRec) : SchedFail :=
  { cls := r.cls, tile := r.tile % 0xFF, slot := r.slot, tick := r.planTick, detLo := r.detLo }

/-- SF_SOURCE as a word (R75). -/
def srcWord (x : Src) : Nat :=
  x.tile + x.module * 2 ^ 8 + x.cord * 2 ^ 23 + (if x.via then 2 ^ 28 else 0) + x.route * 2 ^ 32

/-- DETAIL of the log entry of a schedule fault (R480): SF_BUNDLE, SF_DETAIL, SF_SOURCE. -/
def failDetail (f : SchedFail) : List Byte :=
  leBytes 4 (f.bundle + f.tagExp * 2 ^ 16 + f.tagGot * 2 ^ 20) ++ leBytes 4 0 ++
  leBytes 8 (f.detLo + f.detMid * 2 ^ 16 + f.detHi * 2 ^ 32) ++ leBytes 8 (srcWord f.src)

/-- `n` bytes of local store; bits [21:0] of an address count (R84). -/
def Tile.rdLs (t : Tile) (a n : Nat) : List Byte :=
  let a := a % 2 ^ 22
  if a + n ≤ 2 ^ 22 then rdBytes t.store a n else rdBytes t.store a (2 ^ 22 - a) ++ rdBytes t.store 0 (a + n - 2 ^ 22)

/-- Store bytes in local store; bits [21:0] of an address count. -/
def Tile.wrLs (t : Tile) (a : Nat) (bytes : List Byte) : Tile :=
  let a := a % 2 ^ 22
  { t with
    store := if a + bytes.length ≤ 2 ^ 22 then wrBytes t.store a bytes
      else wrBytes (wrBytes t.store a (bytes.take (2 ^ 22 - a))) 0 (bytes.drop (2 ^ 22 - a)) }

/-- Bytes a completed draw writes (R171, R172). -/
def drawInto (t : Tile) (e : FlueEntry) : Tile := t.wrLs e.ls e.data

/-- Completed draws not yet awaited write their destinations (R186). -/
def settleDraws (t : Tile) : Tile :=
  t.flue.foldl (fun t e =>
    if e.2.used ∧ e.2.draw ∧ e.2.complete ∧ ¬ e.2.awaited then drawInto t e.2 else t) t

/-- Release what a stopped plan held on tiles and tracks: waits end, flue entries of the tick of the stop are not taken
(R72), circuits and crossbar paths are released, later arrivals are dropped (R99, R187, R367). A circuit beat already due
stays for the checks of the tick of the stop (R73), after which it is dropped too. -/
def State.freezeUnits (s : State) (p : Nat) : State :=
  let s := s.onTiles (s.tilesOf p) fun t => settleDraws
    { t with wait := none, held := [], flue := t.flue.filter fun e => !(e.2.used && !e.2.taken) }
  let s := s.updPlan p fun x => { x with circuits := [], passes := [] }
  { s with beats := s.beats.filter fun b => ¬ (b.part = p ∧ b.circuit ∧ s.hall < b.due) }

/-- A partition is fenced (R367, R422). -/
def State.fence (s : State) (p : Nat) : State :=
  ((s.updDom p fun d => { d with fenced := true }).stkFence p).refreshFn p

/-- The log entry of a slip (R352, R480). -/
def State.slipEntry (s : State) (p cls tag amount : Nat) (stop : Bool) : LogEntry :=
  { cls := cls, kind := kPart, index := p, part := p, stopped := stop, tick := (s.part p).plan.pc
    detail := leBytes 8 tag ++ leBytes 4 amount ++ leBytes 2 (tabGet 0 (s.part p).clock.seenFrom tag) }

/-- A stop makes final the partition's requests for steps not yet scheduled: they are logged (R352). -/
def State.flushSlips (s : State) (p : Nat) : State :=
  let c := (s.part p).clock
  let rest := c.asked.filter fun e => c.sched < e.1 + 2 ∧ 0 < e.2
  (rest.foldl (fun s e => s.logEv (s.slipEntry p cSlip e.1 e.2 false)) s).updClock p fun c => { c with asked := [] }

/-- A partition's plan stops under a fault: state FAULTED, partition fenced (R72, R366). -/
def State.faultStop (s : State) (p : Nat) : State :=
  let s := (s.flushSlips p).updPlan p fun x => { x with st := .faulted, stopReq := false, rebind := none }
  ((s.fence p).freezeUnits p).stopFrames p

/-- Record failed checks of one plan tick: log and count each, fill or merge the record, stop (R72 to R74). -/
def State.schedFail (s : State) (p : Nat) (fs : List SchedFail) : State :=
  let first := fs.foldl (fun (acc : Option SchedFail) f =>
    match acc with
    | none => some f
    | some b => if failBefore f b then some f else some b) none
  match first with
  | none => s
  | some f =>
    let old := (s.part p).plan.sf
    let running := (s.part p).plan.st = .running
    let merged : SchedRec :=
      if old.valid then
        (if (s.part p).plan.failOpen ∧ failBefore f (recFail old) then recOfFail f s.hall true
         else { old with more := true })
      else recOfFail f s.hall (fs.length > 1)
    let s := s.updPlan p fun x => { x with sf := merged, failOpen := true }
    let s := fs.foldl (fun s f => s.logTile f.tile
      { cls := f.cls, part := p, stopped := true, tick := f.tick, detail := failDetail f }) s
    let s := if old.valid then s else s.raiseEv p evPlan
    if running then
      (s.faultStop p).reportLocal p f.cls s.moduleId 1 p ((failDetail f).drop 8 |>.take 8)
    else s

end Sys2Proof.Machine
end

