-- ==== Sys2Proof/Machine/Operands.lean ====
section
/-! DEFINITION. The operand forms of the tile operations: immediates, scalar registers, streams (R84,
R85), local-store addresses (R93), consuming reads and the landing checks (R48 to R53), travel times
(R43 to R45). -/

namespace Sys2Proof.Machine

/-- A scalar register; s0 reads 0 (R81). -/
def Tile.scalar (t : Tile) (r : Nat) : BitVec 64 := if r = 0 then 0 else tabGet 0 t.scalars r

/-- Write a scalar register; a write to s0 is discarded (R81). -/
def Tile.setScalar (t : Tile) (r : Nat) (v : BitVec 64) : Tile :=
  if r = 0 then t else { t with scalars := tabSet 0 t.scalars r v }

def Tile.level (t : Tile) (a l : Nat) : AgLevel := tabGet {} t.levels (6 * a + l)
def Tile.updLevel (t : Tile) (a l : Nat) (f : AgLevel → AgLevel) : Tile :=
  { t with levels := tabUpd {} t.levels (6 * a + l) f }
def Tile.stream (t : Tile) (a i : Nat) : Stream := tabGet {} t.streams (8 * a + i)
def Tile.land (t : Tile) (l : Nat) : Landing := tabGet {} t.lands l
def Tile.updLand (t : Tile) (l : Nat) (f : Landing → Landing) : Tile := { t with lands := tabUpd {} t.lands l f }
def Tile.vreg (t : Tile) (v : Nat) : Tab (BitVec 32) := tabGet [] t.vregs v
def Tile.lane (t : Tile) (v i : Nat) : BitVec 32 := tabGet 0 (t.vreg v) i
def Tile.slotEntry (t : Tile) (i : Nat) : FlueEntry := tabGet {} t.flue i

/-- The address stream `i` of generator `a` produces: BASE + Σ STRIDE × INDEX, wrapping (R84). -/
def Tile.streamVal (t : Tile) (a i : Nat) : BitVec 64 :=
  let st := t.stream a i
  (List.range 6).foldl (fun acc l =>
    let x := t.level a l
    let stride : BitVec 32 := st.strides.getD l 0
    acc + (stride.signExtend 64) * BitVec.ofNat 64 (if x.running then x.index else 0)) st.base

/-- The value of an operand at issue (R85). -/
def Tile.opnd (t : Tile) : Opnd → BitVec 64
  | .imm v => v
  | .reg r => t.scalar r
  | .stream a i => t.streamVal a i

/-- A local-store address: bits [21:0], low bits below the alignment taken as 0 (R84, R93). -/
def lsAddr (v : BitVec 64) (align : Nat) : Nat := v.toNat % 2 ^ 22 / align * align

/-- Lines an access of `n` bytes at `a` touches. -/
def linesOf (a n : Nat) : List Nat :=
  if n = 0 then [] else (List.range ((a + n - 1) / 512 - a / 512 + 1)).map fun i => (a / 512 + i) % 8192

/-- The declared landing buffer that holds an address, if any (R47). -/
def Tile.landAt (t : Tile) (a : Nat) : Option Nat :=
  (t.lands.find? fun e => e.2.base ≤ a ∧ a < e.2.base + e.2.size).map (·.1)

/-- A range that wraps at 4 MiB meets a buffer (R84). -/
def Landing.meets (x : Landing) (a n : Nat) : Bool :=
  let a := a % 2 ^ 22
  (x.base < a + n && a < x.base + x.size) || x.base + 2 ^ 22 < a + n

/-- Landing buffers an access without the consume mark may not touch: FILLING or VALID ones its range
meets, `skip` apart (R48, R53). -/
def Tile.overruns (t : Tile) (a n : Nat) (skip : Option Nat) : List Nat :=
  (t.lands.filter fun e => e.2.st ≠ .empty ∧ 0 < n ∧ e.2.meets a n ∧ skip ≠ some e.1).map (·.1)

/-! ### Travel times (R43 to R45) -/

/-- Die column and row of a tile. -/
def tileXY (t : Nat) : Nat × Nat :=
  let j := t / 12 % 8
  (4 * (j % 4) + t % 4, 3 * (j / 4) + t % 12 / 4)

def tileDie (t : Nat) : Nat := t / 96

/-- Die column and row at which a cord port attaches (R44). -/
def cordXY (c : Nat) : Nat × Nat :=
  let j := c / 2 % 8
  (4 * (j % 4) + 1 + c % 2, if j < 4 then 0 else 5)

def cordDie (c : Nat) : Nat := c / 16

def absDiff (a b : Nat) : Nat := (a - b) + (b - a)

/-- Hop count between two points, each with its die. -/
def hops (d0 : Nat) (p0 : Nat × Nat) (d1 : Nat) (p1 : Nat × Nat) : Nat :=
  if d0 = d1 then absDiff p0.1 p1.1 + absDiff p0.2 p1.2
  else if d0 = 0 then (15 - p0.1) + p1.1 + absDiff p0.2 p1.2
  else (15 - p1.1) + p0.1 + absDiff p0.2 p1.2

/-- Travel time: 4 + h on one die, 10 + h across (R45). -/
def travel (d0 : Nat) (p0 : Nat × Nat) (d1 : Nat) (p1 : Nat × Nat) : Nat :=
  (if d0 = d1 then 4 else 10) + hops d0 p0 d1 p1

def travelTile (t u : Nat) : Nat := travel (tileDie t) (tileXY t) (tileDie u) (tileXY u)
def travelCord (t c : Nat) : Nat := travel (tileDie t) (tileXY t) (cordDie c) (cordXY c)

/-! ### Tracks (R158 to R161, R166) -/

/-- The tracks of a path from a router on, with the tick at which each is entered: one tick a link, six the bridge (R159);
then the die and router it ends at and the tick at which it leaves that router. `none`: a link that does not exist. -/
def walk : Nat → Nat × Nat → Nat → List TrackHop → Option (List Claim × Nat × (Nat × Nat) × Nat)
  | d, xy, t, [] => some ([], d, xy, t)
  | d, (x, y), t, h :: r =>
    let next (c : Track) (d' : Nat) (xy' : Nat × Nat) (n : Nat) : Option (List Claim × Nat × (Nat × Nat) × Nat) :=
      (walk d' xy' (t + n) r).map fun z => (⟨t, c⟩ :: z.1, z.2)
    match h.side with
    | .east =>
      if x < 15 then next (.link d x y .east h.track) d (x + 1, y) 1
      else if d = 0 then next (.bridge y true h.track) 1 (0, y) 6 else none
    | .west =>
      if 0 < x then next (.link d x y .west h.track) d (x - 1, y) 1
      else if d = 1 then next (.bridge y false h.track) 0 (15, y) 6 else none
    | .north => if 0 < y then next (.link d x y .north h.track) d (x, y - 1) 1 else none
    | .south => if y < 5 then next (.link d x y .south h.track) d (x, y + 1) 1 else none

/-- The tracks of a whole path for a beat that enters it at tick `t`: the first track, the links from 2 ticks later, the last
track for the ticks of ejection. `none` where the path does not lead to its end in the travel time of R45, so that the
beat never arrives. -/
def pathClaims (d0 : Nat) (p0 : Nat × Nat) (d1 : Nat) (p1 : Nat × Nat) (first last : Track) (t : Nat) (hs : List TrackHop) :
    Option (List Claim) :=
  match walk d0 p0 (t + 2) hs with
  | none => none
  | some (cs, d, xy, e) =>
    if d = d1 ∧ xy = p1 ∧ e + 2 = t + travel d0 p0 d1 p1 then some (⟨t, first⟩ :: cs ++ [⟨e, last⟩]) else none

/-- Tracks of a beat from a tile to a tile (R159). -/
def tileClaims (n u t : Nat) (x : Path) : Option (List Claim) :=
  pathClaims (tileDie n) (tileXY n) (tileDie u) (tileXY u) (.port n true x.out) (.port u false x.into) t x.hops

/-- Tracks of a beat from a tile to a cord port, whose port link has 2 tracks each way (R158). -/
def cordClaims (n c t : Nat) (x : Path) : Option (List Claim) :=
  pathClaims (tileDie n) (tileXY n) (cordDie c) (cordXY c) (.port n true x.out) (.cordLink c true (x.into % 2)) t x.hops

/-- Tracks of a beat on the landing circuit from a cord port to a tile (R166). -/
def circuitClaims (c u t : Nat) (x : Path) : Option (List Claim) :=
  pathClaims (cordDie c) (cordXY c) (tileDie u) (tileXY u) (.cordLink c false (x.out % 2)) (.port u false x.into) t x.hops

/-- Travel of a mailbox entry: 24 in the tile's own group, 32 in another group of the die (R45, R96). -/
def travelMbx (t core : Nat) : Nat := if t / 12 = core / 4 then 24 else 32

/-! ### Issuing (R76, R77, R80) -/

/-- Units of R76. -/
def uWld : Nat := 0
def uArray : Nat := 1
def uAcc : Nat := 2
def uValu : Nat := 3
def uVmem : Nat := 4
def uSend0 : Nat := 5
def uFlue : Nat := 7
def uScl : Nat := 8
def uDiv : Nat := 9
/-- No unit: what nothing cuts off. -/
def uNone : Nat := 15

/-- Slots, coded as SF_INFO.SLOT. -/
def sMxe : Nat := 0
def sVec : Nat := 1
def sFlu : Nat := 4
def sScl : Nat := 5
def sLand : Nat := 6

/-- Take a unit for `occ` ticks from `pc`. An operation still in its occupancy is cut off: its acts
and its accesses of this tick are dropped, a consuming read of it is abandoned (R77). -/
def Tile.takeUnit (t : Tile) (u slot pc occ : Nat) (reads : Option Nat := none) : Tile :=
  let old := tabGet {} t.units u
  let t := if pc < old.ends then
      { t with
        work := t.work.filter fun w => ¬ (w.unit = u ∧ w.issue = old.issue)
        accs := t.accs.filter fun a => ¬ (a.slot = slot ∧ a.issue = old.issue ∧ a.issue < pc)
        ovl := t.ovl.filter fun e => ¬ (u = uWld ∧ e.1 = old.issue) }
    else t
  { t with units := tabSet {} t.units u { issue := pc, ends := pc + occ, reads := reads } }

/-- Read accesses of this tick for the lines of a range. -/
def Tile.note (t : Tile) (i : Issue) (slot pc a n : Nat) (ovl : Bool := false) : Tile :=
  { t with accs := t.accs ++ (linesOf a n).map fun l => ⟨l, false, slot, pc, i.bundle, ovl⟩ }

/-- Schedule an act at a tick. -/
def Tile.later (t : Tile) (tick unit pc slot : Nat) (i : Issue) (a : Act) : Tile :=
  { t with work := t.work ++ [⟨tick, unit, pc, slot, i.bundle, a⟩] }

/-- The key of DIGEST_KEY, if its slot holds a step-digest key (R379, R402). -/
def State.digKey (s : State) (p : Nat) : Option (BitVec 256) :=
  let P := s.part p
  let k : KeySlot := tabGet {} P.sec.slots P.dom.digestKey
  if k.valid ∧ k.use = 2 then some k.key else none

/-- Add an item to the digest of step `n` (R379). -/
def State.digItem (s : State) (p n : Nat) (desc data : List Byte) : State :=
  match s.digKey p with
  | none => s
  | some k => s.updDom p fun d =>
      { d with digSums := tabUpd 0 d.digSums n fun x =>
          (x + (Config.blake3Keyed k (desc ++ data)).toNat % 2 ^ 64) % 2 ^ 64 }

/-- The outcome of an operation in its issue tick: the new state, failed checks, or a wait. -/
structure OpRes where
  st    : State
  fails : List SchedFail := []
  wait  : Option Wait := none

/-- A LANDING_OVERRUN of detail 2 by an access (R53). -/
def overrunFail (i : Issue) (slot pc l : Nat) : SchedFail :=
  { cls := cLandingOverrun, tile := i.tile, slot := slot, bundle := i.bundle, tick := pc, detLo := l, detMid := 2 }

/-! ### The program position and loops (R78, R82, R83, R86 to R88) -/

/-- Steps, in plan ticks, of the loaded plan. -/
def Plan.stepLen (x : Plan) : Nat := (x.loaded.getD {}).len
def Plan.margin (x : Plan) : Nat := (x.loaded.getD {}).margin

/-- The first tick of the standing step's margin: every bundle and every loop span lies before it (R83). -/
def Plan.workEnd (x : Plan) : Nat := (x.step + 1) * x.stepLen - x.margin

/-- A running loop of the tile is in its idle remainder, in which nothing issues (R86). -/
def Tile.idling (t : Tile) : Bool := t.levels.any fun e => e.2.running && e.2.idle

/-- The bundle at the program position issues in the standing tick: no wait count, no idle remainder, no failed loop entry,
and the tick has not ended (R78, R82, R87). -/
def Tile.bundleDue (t : Tile) : Bool :=
  t.pos < t.bundles.length && t.gap = 0 && !t.ended && !t.loopBad && !t.idling

/-- The running loops leave room for one more: six at most, its span inside the standing iteration of each and before
`stop` (R83, R88). -/
def Tile.loopFits (t : Tile) (pc stop : Nat) (d : LoopDecl) : Bool :=
  let ends := pc + d.max * d.body
  let run := t.levels.filter fun e => e.2.running
  run.length < 6 && d.body ≠ 0 && ends ≤ stop &&
    run.all fun e => ends ≤ e.2.entry + ((pc - e.2.entry) / e.2.body + 1) * e.2.body

/-- The outermost loop whose first bundle the position has reached and that is not yet running (R86, R88). -/
def Tile.dueLoop (t : Tile) (pc stop : Nat) : Option LoopDecl :=
  if t.bundleDue then
    t.loops.find? fun d => d.first.val = t.pos && !(t.level d.ag d.level).running && t.loopFits pc stop d
  else none

/-- Entry of a loop at tick `pc`: the count is latched, INDEX is 0, the loop runs; with a count of 0 it idles (R86, R87). -/
def Tile.enterLoop (t : Tile) (pc : Nat) (d : LoopDecl) : Tile :=
  t.updLevel d.ag d.level fun x =>
    { x with max := d.max, latched := x.count, index := 0, running := true, idle := x.count = 0
             entry := pc, body := d.body, first := d.first, after := d.after }

/-- A loop of tile `n` is entered, or its count is above MAX: it is latched and stops the partition (R55, R87, R90). -/
def State.enterLoop (s : State) (p n : Nat) (d : LoopDecl) : State :=
  let pc := (s.part p).plan.pc
  let x := (s.tile n).level d.ag d.level
  if d.max < x.count then
    (s.updTile n fun t => { t.updLevel d.ag d.level fun y => { y with latched := y.count } with loopBad := true }).schedFail p
      [{ cls := cLoopBound, tile := n, slot := sScl, bundle := d.first, tick := pc, detLo := d.ag * 8 + d.level, detHi := x.count }]
  else s.updTile n fun t => t.enterLoop pc d

/-- The plan runs, or is in the plan tick of its stop, whose checks are still made (R73). -/
def Plan.checks (x : Plan) : Bool := x.st = .running || (x.st = .faulted && x.failOpen)

/-- Every loop the position of a tile has reached is entered, outermost first (R88). -/
def State.enterDue (s : State) (p n : Nat) : Nat → State
  | 0 => s
  | fuel + 1 =>
    let pl := (s.part p).plan
    if pl.checks then
      match (s.tile n).dueLoop pl.pc pl.workEnd with
      | none => s
      | some d => (s.enterLoop p n d).enterDue p n fuel
    else s

/-- Move a running loop's index to tick `pc` (R86). -/
def loopAt (x : AgLevel) (pc : Nat) : AgLevel :=
  if x.running ∧ x.body ≠ 0 then
    { x with index := min x.latched ((pc - x.entry) / x.body), idle := x.entry + x.latched * x.body ≤ pc }
  else x

/-- The end of a loop's span: it stops running, INDEX is 0, a waiting SHADOW becomes COUNT (R86, R89). -/
def AgLevel.stop (x : AgLevel) : AgLevel :=
  { x with running := false, idle := false, index := 0
           count := if x.waiting then x.shadow else x.count
           waiting := false }

/-- Where tick `q` puts the position as far as a running loop decides: after the loop at the end of its span, at its first
bundle at a new iteration, unmoved in its idle remainder (R86). -/
def AgLevel.moves (x : AgLevel) (q pos : Nat) : Option Nat :=
  if ¬ x.running ∨ x.body = 0 then none
  else if x.entry + x.max * x.body ≤ q then some x.after
  else if x.entry + x.latched * x.body ≤ q then some pos
  else if (q - x.entry) % x.body = 0 then some x.first
  else none

/-- The program position of tick `q`: an outer loop decides before an inner one, and between their events the next bundle
follows when the wait count of the last one has passed (R78, R82). -/
def Tile.movePos (t : Tile) (q : Nat) : Tile :=
  match t.loops.findSome? fun d =>
      let x := t.level d.ag d.level
      if x.first = d.first.val then x.moves q t.pos else none with
  | some b => { t with pos := b, gap := 0 }
  | none =>
    if t.gap ≠ 0 then { t with gap := t.gap - 1 }
    else match t.bundles[t.pos]? with
      | some w => { t with pos := t.pos + 1, gap := w.toNat }
      | none => t

/-- Every running loop whose span ends with the tick before `q` stops. -/
def Tile.endSpans (t : Tile) (q : Nat) : Tile :=
  { t with levels := t.levels.map fun e =>
      (e.1, if e.2.running ∧ e.2.entry + e.2.max * e.2.body ≤ q then e.2.stop else e.2) }

/-- An operation of a bundle's slot may issue now: the plan's first step has begun, its bundle is the one at the program position and issues in this tick,
within the working part of the step, and the slot has issued nothing in it (R76, R78, R83). -/
def State.mayIssue (s : State) (p : Nat) (i : Issue) (slot : Nat) : Bool :=
  let t := s.tile i.tile
  let pl := (s.part p).plan
  (s.part p).clock.started && t.bundleDue && t.pos = i.bundle.val && !t.slots.contains slot && pl.pc < pl.workEnd

/-- What an operation's answer does to the state: a failed check stops the partition, and of the operation its accesses and
its acts stay, for the checks that end the tick (R73); a wait holds it with its bundle (R80); else it has issued. -/
def State.settleOp (s : State) (p slot : Nat) (i : Issue) (c : Instr) (r : OpRes) : State :=
  if r.fails ≠ [] then
    let t := r.st.tile i.tile
    (s.updTile i.tile fun x => { x with accs := t.accs, work := t.work, slots := slot :: x.slots }).schedFail p r.fails
  else match r.wait with
    | some w =>
      let s := match w with
        | .landing _ => s
        | _ => s.updCnt p fun c => { c with lateAwaits := satInc 64 c.lateAwaits }
      s.updTile i.tile fun t =>
        let t := match w with
          | .landing l => t.updLand l fun x => { x with retx := 0 }
          | _ => t
        { t with wait := some w, held := t.held ++ [c] }
    | none => r.st.updTile i.tile fun t => { t with slots := slot :: t.slots }

/-- Issue one operation of a slot of a tile. Only a RUNNING partition's tiles issue, each the bundle at its position; a tile
whose bundle waits holds later operations of the bundle with it (R80). In the plan tick of a stop, further operations
are only checked, there and then and with the checks that end the tick (R73). -/
def State.issue (s : State) (slot : Nat) (i : Issue) (c : Instr) (f : State → Nat → Nat → OpRes) : State :=
  match s.tilePart i.tile with
  | none => s
  | some p =>
    let s := if (s.part p).clock.started then s.enterDue p i.tile 7 else s
    let pl := (s.part p).plan
    if ¬ s.mayIssue p i slot then s
    else if pl.st = .running then
      if (s.tile i.tile).wait.isSome then s.updTile i.tile fun t => { t with held := t.held ++ [c] }
      else s.settleOp p slot i c (f s p pl.pc)
    else if pl.checks then
      let r := f s p pl.pc
      let t := r.st.tile i.tile
      (s.updTile i.tile fun x => { x with accs := t.accs, work := t.work, slots := slot :: x.slots }).schedFail p r.fails
    else s

/-- The read half of an operation: check the range, take the consume mark's buffer, note the bank accesses. A
consuming read completes at the end of its issue tick, where its tag is compared (R48, R51); `keep`: it completes
later (a WLD), and the operation schedules that itself (R108). DESIGN CHOICE: a consume mark on an address in no declared
landing buffer, on which R49 is silent, marks nothing: the read is an ordinary one. -/
def State.readLs (s : State) (i : Issue) (slot pc a n : Nat) (consume keep : Bool) : OpRes :=
  let t := s.tile i.tile
  let buf := if consume then t.landAt a else none
  let fail2 := (t.overruns a n buf).map (overrunFail i slot pc)
  match buf with
  | none => ⟨s.updTile i.tile fun t => t.note i slot pc a n, fail2, none⟩
  | some l =>
    let x := t.land l
    if x.st ≠ .valid then ⟨s, [], some (.landing l)⟩
    else if keep then ⟨s.updTile i.tile fun t => t.note i slot pc a n, fail2, none⟩
    else
      ⟨s.updTile i.tile fun t => (t.note i slot pc a n).later pc uNone pc slot i (.consumed l), fail2, none⟩

end Sys2Proof.Machine
end

