-- ==== Sys2Proof/Machine/Matrix.lean ====
section
/-! DEFINITION. What the matrix engine computes (04): stationary images, the merge stage, column sums,
accumulator rows and drains. -/

namespace Sys2Proof.Machine

/-- Reduction depth K (R102). -/
def depthOf : FmtClass → Nat
  | .c16 => 512
  | .c8 => 1024
  | .c4 => 2048
  | .mx8 => 992
  | .mx4 => 1920

/-- First stationary row an image writes (R105). -/
def imgStart (f : ImgForm) : Nat :=
  match f.half with
  | some h => (if f.fmt.cls = .mx4 then 960 else 1024) * h.val
  | none => 0

/-- Rows an image holds (R105). -/
def imgRows (f : ImgForm) : Nat :=
  match f.half with
  | some _ => if f.fmt.cls = .mx4 then 960 else 1024
  | none => depthOf f.fmt.cls

/-- Bytes of one stationary row in the image (R105). -/
def imgStride (f : ImgForm) : Nat :=
  match f.fmt.cls, f.half with
  | .c16, _ => 256
  | .c8, _ | .mx8, _ => 128
  | .c4, some _ | .mx4, some _ => 128
  | .c4, none | .mx4, none => 64

/-- Element code `k` of packed bytes (R103): 16-bit little-endian, one byte (6-bit in its low bits), or
two 4-bit elements a byte. -/
def packedElem (bits : Nat) (bytes : List Byte) (k : Nat) : Nat :=
  if bits = 16 then leNat ((bytes.drop (2 * k)).take 2)
  else if bits = 4 then ((bytes.getD (k / 2) 0).toNat / 16 ^ (k % 2)) % 16
  else (bytes.getD k 0).toNat % 2 ^ bits

/-- How an element is packed in an image or a row: 6-bit elements take a byte each. -/
def packBits (e : ElemFmt) : Nat := elemBits e

/-- Write one stationary row from its bytes, recording its format (R506). -/
def putRow (f : ImgForm) (rows : Tab StatRow) (j : Nat) (bytes : List Byte) : Tab StatRow :=
  tabUpd {} rows j fun r =>
    { r with fmt := some f.fmt, elems := tabOf 0 128 fun n => packedElem (packBits f.fmt.elem) bytes n }

/-- Write the scales of block `b` from 128 bytes to the rows it covers (R105). -/
def putScales (f : ImgForm) (rows : Tab StatRow) (b : Nat) (bytes : List Byte) : Tab StatRow :=
  (List.range 32).foldl (fun rows k =>
    tabUpd {} rows (imgStart f + 32 * b + k) fun r =>
      { r with scales := tabOf 0 128 fun n => (bytes.getD n 0).toNat }) rows

/-- Is the form an MX form. -/
def isMx (c : FmtClass) : Bool := c = .mx8 || c = .mx4

/-- Write a 4,096-byte chunk at image offset `off` (R105, R106). -/
def putChunk (f : ImgForm) (rows : Tab StatRow) (off : Nat) (bytes : List Byte) : Tab StatRow :=
  let st := imgStride f
  let elemEnd := imgRows f * st
  let rows := (List.range (4096 / st)).foldl (fun rows i =>
    if off + i * st < elemEnd then
      putRow f rows (imgStart f + off / st + i) ((bytes.drop (i * st)).take st)
    else rows) rows
  if isMx f.fmt.cls then
    (List.range 32).foldl (fun rows i =>
      let o := off + 128 * i
      if elemEnd ≤ o ∧ o < elemEnd + 128 * (imgRows f / 32) then
        putScales f rows ((o - elemEnd) / 128) ((bytes.drop (128 * i)).take 128)
      else rows) rows
  else rows

/-! ### The merge stage (R117 to R121) -/

/-- Weight tiles T of a form (R121). -/
def tilesT (f : ImgForm) : Nat := ceilDiv (imgRows f) 128

/-- 16 × d of a density class. -/
def dens16 : Density → Nat
  | .d16 => 1
  | .d8 => 2
  | .d4 => 4
  | .d2 => 8
  | .d1 => 16

/-- Occupancy of a WLD with overlay: max(32, 32 × T × d) (R121). -/
def ovlOcc (f : ImgForm) (d : Density) : Nat := max 32 (2 * tilesT f * dens16 d)

/-- Positions a bitmap marks, ascending. -/
def bitmapPos (bytes : List Byte) : List Nat :=
  (List.range 16384).filter fun p => (bytes.getD (p / 8) 0).toNat / 2 ^ (p % 8) % 2 = 1

def ascending : List Nat → Bool
  | a :: b :: r => a < b && ascending (b :: r)
  | _ => true

/-- Deltas of weight tile `i` of an overlay: positions with values, or none when R119 bars it; the
flag counts the tile. DESIGN CHOICE: R119 does not list an index with bits [15:14] set; the model reads the 16 bits as the
position, which lies beyond the tile, so that the tile is barred and counted. -/
def overlayTile (f : ImgForm) (d : Density) (chunks : Nat) (o : List Byte) (i : Nat) : List (Nat × Num) × Bool :=
  let e := leNat ((o.drop (8 * i)).take 8)
  let mode := e % 4
  let wide := bitsOf e 2 2 = 1
  let count := bitsOf e 22 8
  let off := bitsOf e 63 32
  let dlen := count * (if wide then 2 else 1)
  let head := if mode = 2 then 2048 else 2 * count
  let rowsIn := min 128 (imgRows f - 128 * i)
  if mode = 0 then ([], false)
  else if mode = 3 ∨ count > 1024 * dens16 d ∨ (0 < head + dlen ∧ off + head + dlen > 4096 * chunks) then ([], true)
  else
    let data := o.drop off
    let pos := if mode = 2 then bitmapPos (data.take 2048)
      else (List.range count).map fun k => leNat ((data.drop (2 * k)).take 2)
    let val (k : Nat) : Num :=
      if wide then decodeElem .bf16 (leNat ((data.drop (head + 2 * k)).take 2))
      else decodeElem .e4m3 (data.getD (head + k) 0).toNat
    if pos.length ≠ count ∨ ¬ ascending pos ∨ pos.any (fun p => p / 128 ≥ rowsIn) then ([], true)
    else (pos.zipIdx.map fun pk => (pk.1, val pk.2), false)

/-- Re-encode with saturation to the largest finite magnitude (R120). -/
def satElem (e : ElemFmt) (v : Num) : Nat :=
  match floatFmt e, v with
  | some ⟨eb, mb, _⟩, .inf neg => (if neg then 2 ^ (eb + mb) else 0) + maxCode e eb mb
  | some ⟨eb, mb, _⟩, .fin neg m q =>
    (if neg then 2 ^ (eb + mb) else 0) + min (magCode e mb m q) (maxCode e eb mb)
  | _, v => encodeElem e v

/-- One delta at column `n` of a stationary row (R120). -/
def mergeElem (f : ImgForm) (r : StatRow) (n : Nat) (delta : Num) : StatRow :=
  let c := tabGet 0 r.elems n
  let s := tabGet 0 r.scales n
  let mx := isMx f.fmt.cls
  let base := if mx then mxValue f.fmt.elem s c else decodeElem f.fmt.elem c
  if delta = .nan ∨ base = .nan ∨ (mx ∧ s = 0xFF) then r
  else
    let sum := base.add delta
    { r with elems := tabSet 0 r.elems n (satElem f.fmt.elem (if mx then sum.scale (127 - (s : Int)) else sum)) }

/-- Merge an overlay into the rows a WLD loaded; also the number of weight tiles R119 barred. -/
def mergeAll (f : ImgForm) (d : Density) (chunks : Nat) (o : List Byte) (rows : Tab StatRow) : Tab StatRow × Nat :=
  (List.range (tilesT f)).foldl (fun acc i =>
    let td := overlayTile f d chunks o i
    (td.1.foldl (fun rows pv =>
      tabUpd {} rows (imgStart f + 128 * i + pv.1 / 128) fun r => mergeElem f r (pv.1 % 128) pv.2) acc.1,
     if td.2 then acc.2 + 1 else acc.2)) (rows, 0)

/-! ### Column sums (R100, R135, R138, R140, R506) -/

/-- The format a stationary row is read in for a streamed class: its own, or zero elements. -/
def rowFmt (cls : FmtClass) (sfmt : MxeFmt) (r : StatRow) : Option MxeFmt :=
  match r.fmt with
  | none => some sfmt
  | some f => if f.cls = cls then some f else none

/-- A product as an integer count of steps 2^(qa + qw), or a special (R138). -/
def prodTerm (a w : Num) (p : Int) : Term :=
  match a.mul w with
  | .nan => .nan
  | .inf n => .inf n
  | .fin n m q => if m = 0 then .num 0 p else
      .num ((if n then -1 else 1) * (m * 2 ^ (q - p).toNat)) p

/-- Sum of products of one exponent: exact, with the special rules of R138. -/
def sumTerms (p : Int) (l : List Term) : Term :=
  l.foldl (fun acc t => match acc, t with
    | .nan, _ => .nan
    | _, .nan => .nan
    | .inf a, .inf b => if a = b then .inf a else .nan
    | .inf a, _ => .inf a
    | _, .inf b => .inf b
    | .num x _, .num y _ => .num (x + y) p) (.num 0 p)

/-- The column sums of one MMA: 128 entries (R100, R135, R140). -/
def columnSums (fmt : MxeFmt) (row : List Byte) (w : Tab StatRow) : List ColSum :=
  let k := depthOf fmt.cls
  let rows := (List.range k).map fun j => tabGet {} w j
  let other := rows.any fun r => (rowFmt fmt.cls fmt r).isNone
  let efmt (r : StatRow) : ElemFmt := ((rowFmt fmt.cls fmt r).getD fmt).elem
  let qa := stepExp fmt.elem
  let qw := rows.foldl (fun m r => min m (stepExp (efmt r))) (stepExp (efmt (rows.headD {})))
  let code (j : Nat) : Nat := packedElem (packBits fmt.elem) row j
  let av (j : Nat) : Num := decodeElem fmt.elem (code j)
  let wv (r : StatRow) (n : Nat) : Num := decodeElem (efmt r) (tabGet 0 r.elems n)
  let p := qa + qw
  (List.range 128).map fun n =>
    if other then
      let col := rows.zipIdx.map fun rj => (rj.2, tabGet 0 rj.1.elems n)
      if fmt.cls = .c16 then .f32 (Config.mmaOther32 n row col)
      else .terms [.num (Config.mmaOther n row col).1 (max (-512) (Config.mmaOther n row col).2)]
    else match fmt.cls with
    | .c16 => .f32 (treeRoot 9 (rows.zipIdx.map fun rj => code32 ((av rj.2).mul (wv rj.1 n))))
    | .c8 | .c4 => .terms [sumTerms p (rows.zipIdx.map fun rj => prodTerm (av rj.2) (wv rj.1 n) p)]
    | .mx8 | .mx4 =>
      .terms ((List.range (k / 32)).map fun b =>
        let sa := (row.getD ((if fmt.cls = .mx8 then 992 else 960) + b) 0).toNat
        let first := rows.getD (32 * b) {}
        let sw := if first.fmt.isNone then 127 else tabGet 0 first.scales n
        let sigma : Int := (sa : Int) - 127 + ((sw : Int) - 127)
        if sa = 0xFF ∨ sw = 0xFF then .nan
        else
          match sumTerms p ((List.range 32).map fun i =>
            prodTerm (av (32 * b + i)) (wv (rows.getD (32 * b + i) {}) n) p) with
          | .num x _ => .num x (p + sigma)
          | t => t)

/-! ### Accumulator rows (R109, R139, R141) -/

/-- Add one column's contribution; the flag says it fell back. -/
def addCol (r : AccRow) (start : Bool) (n : Nat) (c : ColSum) : AccRow × Bool :=
  if r.exact then
    let x := tabGet {} r.win n
    let y := match c with
      | .terms l => addTerms x l
      | .f32 v => addTerm x (termOfAcc (accOf32 v))
    ({ r with win := tabSet {} r.win n y.1 }, y.2)
  else
    let old := tabGet 0 r.f32 n
    match c with
    | .f32 v => ({ r with f32 := tabSet 0 r.f32 n (if start then v else add32 old v) }, false)
    | .terms l =>
      let y := addTerms {} l
      ({ r with f32 := tabSet 0 r.f32 n (add32 old (code32 (numOfAcc y.1))) }, y.2)

/-- An MMA's effect on its row (R109): START clears INEXACT, sets the mode and replaces the row. -/
def accAddRow (r : AccRow) (start wide : Bool) (cols : List ColSum) : AccRow :=
  let r := if start then { exact := !wide, inexact := false, win := [], f32 := [] } else r
  let z := cols.zipIdx.foldl (fun (acc : AccRow × Bool) cn =>
    let y := addCol acc.1 start cn.2 cn.1
    (y.1, acc.2 || y.2)) (r, false)
  { z.1 with inexact := z.1.inexact || z.2 }

/-- Accumulator `n` of a row as a number (R143). -/
def accNum (r : AccRow) (n : Nat) : Num :=
  if r.exact then numOfAcc (tabGet {} r.win n) else num32 (tabGet 0 r.f32 n)

/-- The bytes DRN writes (R112, R143). -/
def drainBytes (f : DrainFmt) (r : AccRow) : List Byte :=
  (List.range 128).flatMap fun n => leBytes (elemBits (drainElem f) / 8) (drainCode f (accNum r n))

/-- The 2,304 bytes DRW writes (R113). -/
def drwBytes (r : AccRow) : List Byte :=
  (List.range 128).flatMap fun n =>
    wideBytes (if r.exact then tabGet {} r.win n else accOf32 (tabGet 0 r.f32 n)) r.inexact

end Sys2Proof.Machine
end

