-- ==== Sys2Proof/Machine/Tick.lean ====
section
/-! DEFINITION. What happens in a tile between plan ticks: the bank check (R94, R95), the writes that
end a tick (R41, R79), loop indices (R86) and the reads that begin one (R93). -/

namespace Sys2Proof.Machine

/-- The acts that run at the start of their tick. -/
def isStart : Act → Bool
  | .rdWld .. | .rdOvl .. | .rdVld .. | .rdSnd .. => true
  | _ => false

/-- Write accesses the acts of a tick make. -/
def writeAccs (ws : List Work) : List Access :=
  ws.flatMap fun w => match w.act with
    | .wrLine a bytes => (linesOf a bytes.length).map fun l => ⟨l, true, w.slot, w.issue, w.bundle, false⟩
    | _ => []

/-- Order of accesses in a SCHED_BANK record: slot, then issue tick (R95). -/
def accBefore (a b : Access) : Bool := a.slot < b.slot || (a.slot = b.slot && a.issue < b.issue)

/-- The failure a bank's accesses of one tick make, if any (R94, R95). Base and overlay of one WLD with overlay in one bank are
two lines whatever their addresses (R116). DESIGN CHOICE: reads that break rule 1 and writes that break rule 2 of R94 in one
bank are one failure, ordered over both, since R95 gives a bank one record. -/
def bankFail (tile pc bank : Nat) (accs : List Access) : Option SchedFail :=
  let mine := accs.filter fun a => a.line % 32 = bank
  let rd := mine.filter fun a => !a.write
  let wr := mine.filter fun a => a.write
  let badRd := rd.any fun a => rd.any fun b => a.line ≠ b.line || (a.ovl ≠ b.ovl && a.slot = b.slot && a.issue = b.issue)
  let badWr := wr.length > 1
  let bad := (if badRd then rd else []) ++ (if badWr then wr else [])
  match bad with
  | [] => none
  | a :: r =>
    let first := r.foldl (fun x y => if accBefore y x then y else x) a
    let last := r.foldl (fun x y => if accBefore x y then y else x) a
    some { cls := cSchedBank, tile := tile, slot := last.slot, bundle := last.bundle, tick := pc
           detLo := bank, detMid := first.slot }

/-- Failed checks that end a tick of a tile: banks, writes into landing buffers (R53), tags of WLD
consuming reads (R108). -/
def tileFails (t : Tile) (tile pc : Nat) : List SchedFail :=
  let due := t.work.filter fun w => w.tick = pc && !isStart w.act
  ((List.range 32).filterMap fun b => bankFail tile pc b (t.accs ++ writeAccs due)) ++
  due.flatMap fun w => match w.act with
    | .wrLine a bytes => (t.overruns a bytes.length none).map fun l =>
        { cls := cLandingOverrun, tile := tile, slot := w.slot, bundle := w.bundle, tick := pc, detLo := l, detMid := 2 }
    | .consumed l =>
      let x := t.land l
      if x.tag.toNat = pc % 16 then []
      else [{ cls := cSchedTag, tile := tile, slot := w.slot, bundle := w.bundle, tick := pc, tagExp := pc % 16
              tagGot := x.tag.toNat, src := x.src, detLo := l, detMid := x.landed }]
    | _ => []

def Tile.stat (t : Tile) (b : Bool) : Tab StatRow := if b then t.stat1 else t.stat0
def Tile.setStat (t : Tile) (b : Bool) (x : Tab StatRow) : Tile := if b then { t with stat1 := x } else { t with stat0 := x }

/-- Write COUNT of a level, or its SHADOW while a loop bound to it runs (R89). The flag says shadow. -/
def Tile.writeCount (t : Tile) (a l v : Nat) : Tile × Bool :=
  if (t.level a l).running then (t.updLevel a l fun x => { x with shadow := v, waiting := true }, true)
  else (t.updLevel a l fun x => { x with count := v }, false)

/-- A flue entry of the tick reaches memory, its tick having passed its checks (R72): a lay writes what it read (R175), a
draw reads, and its destination is open until awaited (R174); one out of range makes no access, and is counted and
logged (R185). -/
def State.takeEntry (s : State) (p n slot : Nat) : State :=
  let e := (s.tile n).slotEntry slot
  if ¬ e.used ∨ e.taken then s
  else
    let e : FlueEntry := { e with taken := true, data := if e.draw ∧ e.inRange then s.memBytes e.addr e.n else e.data }
    let s := s.fresh
    let s := s.updTile n fun t =>
      let t := { t with flue := tabSet {} t.flue slot e }
      if e.draw then t.wrLs e.ls ((List.range e.n).map (Config.drawByte s.serial)) else t
    if ¬ e.inRange then s.logTile n { cls := cFence, part := p, cause := 1, addr := e.addr, tick := e.issue }
    else if e.draw then s
    else
      let step := (s.part p).plan.step
      (s.wrMems e.addr e.data).digItem p step
        (leBytes 8 2 ++ leBytes 8 step ++ leBytes 8 e.issue ++ leBytes 1 n ++ leBytes 7 e.addr) e.data

/-- Every entry of the partition that its tick has issued reaches memory, in tile order (R175). -/
def State.takeEntries (s : State) (p : Nat) : State :=
  (s.tilesOf p).foldl (fun s n => (s.tile n).flue.foldl (fun s e => s.takeEntry p n e.1) s) s

/-- The effect of one act at the end of its tick. -/
def State.applyAct (s : State) (p n : Nat) (w : Work) : State :=
  let t := s.tile n
  match w.act with
  | .rdWld .. | .rdOvl .. | .rdVld .. | .rdSnd .. => s
  | .wrStat b f off bytes => s.updTile n fun t => t.setStat b (putChunk f (t.stat b) off bytes)
  | .merge b f d chunks =>
    let mine := (t.ovl.filter fun e => e.1 = w.issue).flatMap (·.2)
    let z := mergeAll f d chunks mine (t.stat b)
    (List.range z.2).foldl (fun s _ => s.cinderTile n cLoopBound) (s.updTile n fun t =>
      { t.setStat b z.1 with ovl := t.ovl.filter fun e => e.1 ≠ w.issue })
  | .consumed l =>
    let s := s.updCnt p fun c => { c with retries := min (2 ^ 64 - 1) (c.retries + (t.land l).retx) }
    let routes := ((s.part p).plan.loaded.getD {}).image.routes
    let s := s.updPlan p fun x =>
      { x with circuits := x.circuits.filter fun i => (routes[i]?).any fun r => ¬ (r.tile.val = n ∧ r.landing.val = l) }
    s.updTile n fun t => t.updLand l fun x => { x with st := .empty, landed := 0, retx := 0 }
  | .wrLine a bytes => s.updTile n fun t => t.wrLs a bytes
  | .wrVreg v lanes => s.updTile n fun t => { t with vregs := tabSet [] t.vregs v lanes }
  | .wrScalar r v => s.updTile n fun t => t.setScalar r v
  | .wrDmem i v => s.updTile n fun t => { t with dmem := tabSet 0 t.dmem i v }
  | .wrBase a i v => s.updTile n fun t =>
      { t with streams := tabUpd {} t.streams (8 * a + i) fun x => { x with base := v } }
  | .count a l v =>
    let z := t.writeCount a l v
    let s := s.updTile n fun _ => z.1
    if z.2 then s.cinderTile n cLoopBound else s
  | .accZero r exact => s.updTile n fun t => { t with accRows := tabSet {} t.accRows r { exact := exact } }
  | .accAdd r start wide cols =>
    let old : AccRow := tabGet {} t.accRows r
    let new := accAddRow old start wide cols
    let s := s.updTile n fun t => { t with accRows := tabSet {} t.accRows r new }
    if new.inexact ∧ ¬ (old.inexact ∧ ¬ start) then s.updCnt p fun c => { c with inexact := satInc 64 c.inexact } else s
  | .swap => s.updTile n fun t => { t with active := !t.active }
  | .flueGo i => s.takeEntry p n i
  | .loopEnd a l => s.updTile n fun t => t.updLevel a l AgLevel.stop
  | .eccHit _ => s

/-- The order of acts that end one tick: ACZ before other acts of the row (R109), the merge after the base writes (R121), a
loop's end after the counts (R89); issue order between equals (R79). -/
def actRank : Act → Nat
  | .accZero .. => 0
  | .merge .. => 2
  | .loopEnd .. => 3
  | _ => 1

/-- The end of plan tick `pc` of a tile whose checks passed: what is due is written, the program position moves on, and loops
whose span ends with the tick stop (R79, R86). It happens once for each tick. -/
def State.endTick (s : State) (p pc n : Nat) : State :=
  if (s.tile n).ended then s
  else
    let due := (s.tile n).work.filter fun w => w.tick = pc && !isStart w.act
    let order := (List.range 4).flatMap fun r => due.filter fun w => actRank w.act = r
    let next := ((s.tile n).movePos (pc + 1))
    let s := order.foldl (fun s w => s.applyAct p n w) s
    s.updTile n fun t =>
      { t.endSpans (pc + 1) with
        work := t.work.filter fun w => w.tick ≠ pc
        accs := [], pos := next.pos, gap := next.gap, ended := true }

/-! ### Errors of the matrix engine's arrays (R124, R125) -/

/-- CAUSE of SRAM_UE for an array: stationary buffer 0 or 1, accumulator row, merge stage (R480). -/
def mxeCause (t : Tile) : MxeUnit → Nat
  | .stat => if t.active then 1 else 0
  | .accRow => 2
  | .merge => 3

/-- Errors in the words that a tile's operations use in tick `pc`. -/
def eccDue (t : Tile) (pc : Nat) : List MxeEcc :=
  t.work.filterMap fun w => match w.act with
    | .eccHit e => if w.tick = pc then some e else none
    | _ => none

/-- An error is counted, or logged where its code does not correct it (R124, R480). -/
def State.eccLog (s : State) (p pc n : Nat) (e : MxeEcc) : State :=
  if e.corrected then s.cinderTile n cMemCe
  else s.logTile n { cls := cSramUe, part := p, stopped := true, cause := mxeCause (s.tile n) e.unit, tick := pc
                     detail := leBytes 2 e.row.toNat }

/-! ### Tracks (R158, R161, R166, R167) -/

/-- The tracks that the landing circuits of a partition hold (R166). -/
def State.heldTracks (s : State) (p : Nat) : List Track :=
  let pl := (s.part p).plan
  pl.circuits.flatMap fun i => match ((pl.loaded.getD {}).image.routes)[i]? with
    | some r => ((circuitClaims r.ingress r.tile 0 r.path).getD []).map (·.track)
    | none => []

/-- Tracks a list of claims names at a tick. -/
def claimsAt (cs : List Claim) (t : Nat) : List Track := (cs.filter fun c => c.tick = t).map (·.track)

/-- Plan tick `pc` on the tracks: a track that two beats claim, or a beat and a circuit, carries none of them (R161, R166). -/
def State.trackTick (s : State) (p pc : Nat) : State :=
  let mine (b : Beat) : Bool := b.part = p && !b.circuit
  let used := (s.beats.flatMap fun b => if mine b then claimsAt b.claims pc else []) ++
    s.egBeats.flatMap fun b => if b.part = p then claimsAt b.claims pc else []
  let held := s.heldTracks p
  let bad (t : Track) : Bool := 1 < used.count t || held.contains t
  { s with
    beats := s.beats.filter fun b => !(if mine b then (claimsAt b.claims pc).any bad
      else b.part = p && (claimsAt b.claims s.hall).any used.contains)
    egBeats := s.egBeats.filter fun b => !(b.part = p && (claimsAt b.claims pc).any bad) }

/-- Plan tick `q` begins: routes whose arriving hop departs in it take their circuit, or their crossbar path and lane; a
path ends with the departure of the next hop (R166, R167). -/
def State.routeTick (s : State) (p q : Nat) : State :=
  let pl := (s.part p).plan
  let base := pl.step * pl.stepLen
  let routes := (pl.loaded.getD {}).image.routes.zipIdx
  let goes (fwd : Bool) : List Nat := (routes.filter fun r => r.1.fwd.isSome = fwd && base + r.1.dep = q).map (·.2)
  let gone (i : Nat) : Bool := routes.any fun r => r.2 = i && r.1.deps.head?.any fun d => base + d = q
  s.updPlan p fun x =>
    { x with circuits := x.circuits ++ goes false, passes := x.passes.filter (fun i => !gone i) ++ goes true }

/-- Beat `i` of a SND of engine `eng` leaves at tick `pc` (R159). A transfer to a mailbox carries its first 8 bytes, under
the rule of R96 for a core it cannot reach. -/
def State.sendBeat (s : State) (p n pc i len issue eng addr : Nat) (dst : SndDst) (tag : BitVec 4) : State :=
  let total := ceilDiv len 512
  let bytes := (s.tile n).rdLs addr (min 512 (len - 512 * i))
  let src : Src := { tile := n, module := s.moduleId }
  match dst with
  | .tile u l path => match tileClaims n u pc path with
    | none => s
    | some cs =>
      { s with beats := s.beats ++ [{ part := p, circuit := false, due := pc + travelTile n u, tile := u, landing := l
                                      total := total, tag := tag, src := src, off := 512 * i, bytes := bytes
                                      xfer := (issue * 192 + n) * 2 + eng, claims := cs }] }
  | .cord c route deps path => match cordClaims n c pc path with
    | none => s
    | some cs =>
      { s with egBeats := s.egBeats ++ [{ part := p, cord := c, due := pc + travelCord n c, route := route.toNat, tag := tag
                                          tile := n, issue := issue, eng := eng, index := i, last := i + 1 = total, deps := deps
                                          bytes := bytes, claims := cs }] }
  | .mailbox core mt =>
    if i ≠ 0 then s
    else if tileDie n = core.val / 32 ∧ s.owns p (core.val / 4) then
      { s with mail := s.mail ++ [{ part := p, core := core, due := pc + travelMbx n core
                                    bytes := bytes.take 8 ++ leBytes 1 n ++ [mt] ++ leBytes 2 (s.part p).plan.step ++
                                      leBytes 4 pc }] }
    else s.cinderTile n cFence

/-- One start-of-tick read at tick `pc`. -/
def State.startAct (s : State) (p n pc : Nat) (w : Work) : State :=
  let t := s.tile n
  let at_ : Issue := ⟨⟨n % 192, Nat.mod_lt _ (by decide)⟩, ⟨w.bundle % 2048, Nat.mod_lt _ (by decide)⟩⟩
  let noted (a len : Nat) (t : Tile) (ovl : Bool := false) : Tile :=
    { t with accs := t.accs ++ (linesOf a len).map fun l => ⟨l, false, w.slot, w.issue, w.bundle, ovl⟩ }
  match w.act with
  | .rdWld src i b f =>
    let a := src + 4096 * i
    s.updTile n fun t => noted a 4096 ({ t with
      work := t.work ++ [⟨pc + 2, w.unit, w.issue, w.slot, w.bundle, .wrStat b f (4096 * i) (t.rdLs a 4096)⟩] })
  | .rdOvl src i =>
    let a := src + 4096 * i
    s.updTile n fun t => noted a 4096 { t with ovl := t.ovl ++ [(w.issue, t.rdLs a 4096)] } true
  | .rdVld v a first =>
    let bytes := first ++ t.rdLs a 4096
    let lanes := tabOf (0 : BitVec 32) 2048 fun k => BitVec.ofNat 32 (leNat ((bytes.drop (4 * k)).take 4))
    s.updTile n fun t => (noted a 4096 t).later (pc + 2) w.unit w.issue w.slot at_ (.wrVreg v lanes)
  | .rdSnd a i len dst tag =>
    (s.updTile n fun t => noted a 512 t).sendBeat p n pc i len w.issue (w.unit - uSend0) a dst tag
  | _ => s

/-- Landing checks of the reads that begin tick `pc` (R53): a read without the consume mark of its own
operation. DESIGN CHOICE: the later reads of an operation whose consuming read completed in its issue tick (the second half
of a VLD, the later beats of a SND) are accesses without the mark, since that read is over (R48). -/
def startFails (t : Tile) (n pc : Nat) : List SchedFail :=
  (t.work.filter fun w => w.tick = pc && isStart w.act).flatMap fun w =>
    let u := tabGet {} t.units w.unit
    let skip := if u.issue = w.issue then u.reads else none
    let hit (a len : Nat) (skip : Option Nat) : List SchedFail := (t.overruns a len skip).map fun l =>
      { cls := cLandingOverrun, tile := n, slot := w.slot, bundle := w.bundle, tick := pc, detLo := l, detMid := 2 }
    match w.act with
    | .rdWld src i _ _ => hit (src + 4096 * i) 4096 skip
    | .rdOvl src i => hit (src + 4096 * i) 4096 none
    | .rdVld _ a _ => hit a 4096 none
    | .rdSnd a _ _ _ _ => hit a 512 none
    | _ => []

/-- The start of plan tick `pc` of a tile: loops move on, reads in progress take their lines. -/
def State.startTick (s : State) (p pc n : Nat) : State :=
  let s := s.updTile n fun t =>
    { t with levels := t.levels.map fun e => (e.1, loopAt e.2 pc)
             ended := false, loopBad := false, slots := [] }
  let due := (s.tile n).work.filter fun w => w.tick = pc && isStart w.act
  let s := due.foldl (fun s w => s.startAct p n pc w) s
  s.updTile n fun t => { t with work := t.work.filter fun w => ¬ (w.tick = pc ∧ isStart w.act) }

end Sys2Proof.Machine
end

