-- ==== Sys2Proof/Machine/Mxe.lean ====
section
/-! DEFINITION. The matrix engine's commands (04): WLD, WLD with overlay, WSW, MMA, ACZ, DRN, DRW. -/

namespace Sys2Proof.Machine

abbrev Out3 := Host.Outcome State Fault Refusal

/-- Begin a weight load (R106, R108): chunk 0 is read now, chunks 1 to 31 at the ticks that follow. -/
def State.loadWeights (s : State) (at_ : Issue) (pc a : Nat) (form : ImgForm) (consume : Bool) (occ : Nat) : OpRes :=
  let buf := if consume then (s.tile at_.tile).landAt a else none
  let s0 := s.updTile at_.tile fun t => t.takeUnit uWld sMxe pc occ
  let r := s0.readLs at_ sMxe pc a 4096 consume true
  match r.wait with
  | some w => ⟨s, [], some w⟩
  | none =>
    let s := r.st.updTile at_.tile fun t =>
      let b := !t.active
      let t := t.takeUnit uWld sMxe pc occ buf
      let t := t.later (pc + 2) uWld pc sMxe at_ (.wrStat b form 0 (t.rdLs a 4096))
      let t := (List.range 31).foldl (fun t i => t.later (pc + i + 1) uWld pc sMxe at_ (.rdWld a (i + 1) b form)) t
      match buf with
      | some l => t.later (pc + 31) uWld pc sMxe at_ (.consumed l)
      | none => t
    ⟨s, r.fails, none⟩

/-- WLD (R106): the inactive buffer is loaded over 32 ticks. -/
def execWld (at_ : Issue) (src : Opnd) (form : ImgOpnd) (consume : Bool) (s : State) : Out3 :=
  .next (s.issue sMxe at_ (.wld at_ src form consume) fun s _ pc =>
    s.loadWeights at_ pc (lsAddr ((s.tile at_.tile).opnd src) 4096) form.form consume 32)

/-- Chunks C that a WLD with overlay reads of its overlay: `chunks + 1`, at most the occupancy (R115). -/
def ovlChunks (form : ImgForm) (d : Density) (chunks : Fin 512) : Nat := min (chunks.val + 1) (ovlOcc form d)

/-- An error in a word that an operation uses, met at tick `tick`, if the operation uses that array (R125). -/
def Tile.eccAt (t : Tile) (units : List MxeUnit) (ecc : Option MxeEcc) (tick unit pc : Nat) (i : Issue) : Tile :=
  match ecc with
  | some e => if units.contains e.unit then t.later tick unit pc sMxe i (.eccHit e) else t
  | none => t

/-- WLD with overlay (R115 to R121): the overlay's chunks are read beside the base's. DESIGN CHOICE: the merged elements,
which R121 has land by the end of tick t + O + 1, land all at its end, and a WLD cut off before it merges none. -/
def execWldWithOverlay (at_ : MxeIssue) (src : Opnd) (form : ImgOpnd) (ovl : Opnd) (d : Density) (chunks : Fin 512)
    (consume : Bool) (s : State) : Out3 :=
  let i := at_.toIssue
  .next (s.issue sMxe i (.wldWithOverlay at_ src form ovl d chunks consume) fun s _ pc =>
    let f := form.form
    let c := ovlChunks f d chunks
    let o := lsAddr ((s.tile i.tile).opnd ovl) 4096
    let occ := ovlOcc f d
    let r := s.loadWeights i pc (lsAddr ((s.tile i.tile).opnd src) 4096) f consume occ
    match r.wait with
    | some w => ⟨s, [], some w⟩
    | none =>
      let hit := ((r.st.tile i.tile).overruns o 4096 none).map (overrunFail i sMxe pc)
      let s := r.st.updTile i.tile fun t =>
        let t := { t.note i sMxe pc o 4096 true with ovl := t.ovl.filter (fun (e : Nat × List Byte) => e.1 ≠ pc) ++ [(pc, t.rdLs o 4096)] }
        let t := (List.range (c - 1)).foldl
          (fun t k => t.later (pc + k + 1) uWld pc sMxe i (.rdOvl o (k + 1))) t
        (t.eccAt [.merge] at_.ecc (pc + occ + 1) uWld pc i).later (pc + occ + 1) uWld pc sMxe i (.merge (!t.active) f d c)
      ⟨s, r.fails ++ hit, none⟩)

/-- WSW (R107): the buffers are exchanged at the end of the issue tick. -/
def execWsw (at_ : Issue) (s : State) : Out3 :=
  .next (s.issue sMxe at_ (.wsw at_) fun s _ pc =>
    ⟨s.updTile at_.tile fun t => (t.takeUnit uWld sMxe pc 1).later pc uWld pc sMxe at_ .swap, [], none⟩)

/-- One activation row through the array (R100, R109): its sums reach row `row` at the end of tick u + 4. -/
def State.mma (s : State) (at_ : MxeIssue) (row : Fin 256) (src : Opnd) (fmt : MxeFmt) (consume start : Bool) (pc : Nat) : OpRes :=
  let i := at_.toIssue
  let a := lsAddr ((s.tile i.tile).opnd src) 1024
  let r := s.readLs i sMxe pc a 1024 consume false
  match r.wait with
  | some w => ⟨s, [], some w⟩
  | none =>
    ⟨r.st.updTile i.tile fun t =>
      let cols := columnSums fmt (t.rdLs a 1024) (t.stat t.active)
      let t := ((t.takeUnit uArray sMxe pc 1).eccAt [.stat] at_.ecc pc uArray pc i).eccAt [.accRow] at_.ecc (pc + 4) uArray pc i
      t.later (pc + 4) uArray pc sMxe i (.accAdd row start (fmt.cls = .c16) cols),
     r.fails, none⟩

/-- MMA ACC (R109). -/
def execMmaAcc (at_ : MxeIssue) (row : Fin 256) (src : Opnd) (fmt : StreamFmt) (consume : Bool) (s : State) : Out3 :=
  .next (s.issue sMxe at_.toIssue (.mmaAcc at_ row src fmt consume) fun s _ pc => s.mma at_ row src fmt.fmt consume false pc)

/-- MMA START (R109). -/
def execMmaStart (at_ : MxeIssue) (row : Fin 256) (src : Opnd) (fmt : StreamFmt) (consume : Bool) (s : State) : Out3 :=
  .next (s.issue sMxe at_.toIssue (.mmaStart at_ row src fmt consume) fun s _ pc => s.mma at_ row src fmt.fmt consume true pc)

/-- ACZ (R109): at the end of its issue tick the row is zero, in the mode named, INEXACT clear. -/
def execAcz (at_ : Issue) (row : Fin 256) (exact : Bool) (s : State) : Out3 :=
  .next (s.issue sMxe at_ (.acz at_ row exact) fun s _ pc =>
    ⟨s.updTile at_.tile fun t => (t.takeUnit uAcc sMxe pc 1).later pc uAcc pc sMxe at_ (.accZero row exact), [], none⟩)

/-- Alignment of a drain's address (R93). -/
def drainAlign : DrainFmt → Nat
  | .fp32 => 512
  | .bf16 | .fp16 => 256
  | .e4m3 | .e5m2 | .int8 => 128

/-- DRN (R110, R112): the row as it stands at the start of tick t, written at t + 3. -/
def execDrn (at_ : MxeIssue) (row : Fin 256) (dst : Opnd) (fmt : DrainFmt) (s : State) : Out3 :=
  let i := at_.toIssue
  .next (s.issue sMxe i (.drn at_ row dst fmt) fun s _ pc =>
    ⟨s.updTile i.tile fun t =>
      let a := lsAddr (t.opnd dst) (drainAlign fmt)
      ((t.takeUnit uAcc sMxe pc 1).eccAt [.accRow] at_.ecc pc uAcc pc i).later (pc + 3) uAcc pc sMxe i
        (.wrLine a (drainBytes fmt (tabGet {} t.accRows row))), [], none⟩)

/-- DRW (R110, R113): 18-byte wide partials, a line at each of t + 3 to t + 7. DESIGN CHOICE: R93 writes the first lines before
the result latency of R41 has passed, and a read of them in between returns the new contents (R94), where R41 says that a
destination keeps its previous contents until then. -/
def execDrw (at_ : MxeIssue) (row : Fin 256) (dst : Opnd) (s : State) : Out3 :=
  let i := at_.toIssue
  .next (s.issue sMxe i (.drw at_ row dst) fun s _ pc =>
    ⟨s.updTile i.tile fun t =>
      let a := lsAddr (t.opnd dst) 512
      let bytes := drwBytes (tabGet {} t.accRows row)
      (List.range 5).foldl (fun t k =>
        t.later (pc + 3 + k) uAcc pc sMxe i (.wrLine (a + 512 * k) ((bytes.drop (512 * k)).take 512)))
        ((t.takeUnit uAcc sMxe pc 5).eccAt [.accRow] at_.ecc pc uAcc pc i), [], none⟩)

end Sys2Proof.Machine
end

