-- ==== Sys2Proof/Machine/Special.lean ====
section
/-! DEFINITION. The special functions (R150): the exact result enclosed in integer arithmetic, and the FP32 values within the
stated error bound of it, among which the result is a free value of the function and its operand. -/

namespace Sys2Proof.Machine

/-- An enclosure of an exact positive value: lo × 2^e to hi × 2^e. -/
structure Encl where
  lo : Int
  hi : Int
  e  : Int

/-- One, in fixed point with 400 fraction bits. -/
def fxOne : Int := 2 ^ 400

/-- Σ z^(2i+1) ÷ (2i+1) over `n` terms, in fixed point: the area tangent. -/
def fxAtanh (n : Nat) (z : Int) : Int :=
  let zz := z * z / fxOne
  ((List.range n).foldl (fun (a : Int × Int) (i : Nat) => (a.1 + a.2 / (2 * i + 1 : Nat), a.2 * zz / fxOne)) (0, z)).1

/-- ln 2 in fixed point. -/
def fxLn2 : Int := 2 * fxAtanh 260 (fxOne / 3)

/-- e^x for x in fixed point, as k and T of T × 2^(k − 400), T from 2^400 to 2^401. -/
def fxExp (x : Int) : Int × Int :=
  let k := x / fxLn2
  let r := x - k * fxLn2
  (k, (List.range 120).foldl (fun (acc : Int) (i : Nat) => fxOne + r * acc / fxOne / (120 - i : Nat)) fxOne)

/-- 2 ÷ √π in fixed point. -/
def fxErf : Int :=
  2913756966668194800300214067270034030186276855045544562015353861004409627435460814446341471088463227900768995815277951550

/-- The integer square root of `n` below 2^b. -/
def isqrtBits (n : Nat) : Nat → Nat → Nat
  | 0, r => r
  | b + 1, r => isqrtBits n b (if (r + 2 ^ b) * (r + 2 ^ b) ≤ n then r + 2 ^ b else r)

/-- A value known to 2^100 units of 2^e. -/
def Encl.about (n e : Int) : Encl := ⟨n - 2 ^ 100, n + 2 ^ 100, e⟩

/-- A value below every FP32 step. -/
def Encl.tiny : Encl := ⟨0, 1, -400⟩

/-- A value below 1 by less than any FP32 step there. -/
def Encl.nearOne : Encl := ⟨2 ^ 400 - 2 ^ 340, 2 ^ 400, -400⟩

/-- m × 2^q in fixed point. -/
def fxOf (m : Nat) (q : Int) : Int := if 0 ≤ q + 400 then m * 2 ^ (q + 400).toNat else m / 2 ^ (-(q + 400)).toNat

/-- Sign and enclosure of a special function at (−1)^neg × m × 2^q, m not 0, outside the cases that R150 states. -/
def specEncl (f : SpecFn) (neg : Bool) (m : Nat) (q : Int) : Bool × Encl :=
  let big (n : Nat) : Bool := (Num.fin false m q).cmp (.fin false n 0) ≥ 0
  let x := fxOf m q
  match f with
  | .exp =>
    if neg ∧ big 200 then (false, .tiny)
    else
      let z := fxExp (if neg then -x else x)
      (false, .about z.2 (z.1 - 400))
  | .log =>
    let k := Nat.log2 m
    let l := 2 * fxAtanh 140 (((m : Int) - 2 ^ k) * fxOne / ((m : Int) + 2 ^ k)) + ((k : Int) + q) * fxLn2
    (l < 0, .about l.natAbs (-400))
  | .recip => (neg, .tiny)
  | .rsqrt =>
    let odd := q % 2 = 1
    let m' := if odd then 2 * m else m
    let q' := if odd then q - 1 else q
    (false, .about (isqrtBits (2 ^ 1000 / m') 501 0 : Nat) (-500 - q' / 2))
  | .sigmoid =>
    if big 200 then (false, if neg then .tiny else .nearOne)
    else
      let z := fxExp (-x)
      let d := fxOne + z.2 / 2 ^ (-z.1).toNat
      (false, if neg then .about (z.2 * fxOne / d) (z.1 - 400) else .about (fxOne * fxOne / d) (-400))
  | .tanh =>
    if big 50 then (neg, .nearOne)
    else
      let z := fxExp (-2 * x)
      let y := z.2 / 2 ^ (-z.1).toNat
      (neg, .about ((fxOne - y) * fxOne / (fxOne + y)) (-400))
  | .erf =>
    if big 7 then (neg, .nearOne)
    else
      let xx := x * x / fxOne
      let s := ((List.range 400).foldl (fun (a : Int × Int) (i : Nat) =>
        (a.1 + a.2 / (2 * i + 1 : Nat), -(a.2 * xx / fxOne / (i + 1 : Nat)))) (0, x)).1
      (neg, .about (s * fxErf / fxOne) (-400))

/-- Twice the error bound of R150, in units in the last place. -/
def specBound : SpecFn → Nat
  | .exp | .log | .rsqrt => 2
  | .recip => 1
  | .sigmoid | .tanh => 3
  | .erf => 4

/-- The FP32 value m × 2^q lies within `b2` half units in the last place of an enclosed exact value. -/
def Encl.within (x : Encl) (b2 m : Nat) (q : Int) : Bool :=
  let u := max (-126) ((Nat.log2 x.hi.natAbs : Int) + x.e) - 23
  let low := min (min x.e q) u
  let at_ (n e : Int) : Int := n * 2 ^ (e - low).toNat
  2 * (at_ m q - at_ x.hi x.e) ≤ at_ b2 u && 2 * (at_ x.lo x.e - at_ m q) ≤ at_ b2 u

/-- Codes of the finite magnitudes within the bound: at most three on either side of the nearest. -/
def specCodes (f : SpecFn) (x : Encl) : List Nat :=
  let c := encodeElem .fp32 (.fin false ((x.lo + x.hi) / 2).toNat x.e)
  ((List.range 7).filterMap fun i => if c + i < 3 then none else some (c + i - 3)).filter fun k =>
    k < 0x7F800000 && match decodeElem .fp32 k with
      | .fin _ m q => x.within (specBound f) m q
      | _ => false

/-- A special function's result (R150): its stated case, or some value within the bound. -/
def specResult (f : SpecFn) (b : BitVec 32) : BitVec 32 :=
  match specCase f b with
  | some v => v
  | none => match num32 b with
    | .fin n m q =>
      let z := specEncl f n m q
      let cs := specCodes f z.2
      BitVec.ofNat 32 ((if z.1 then 2 ^ 31 else 0) + cs.getD (Config.specPick f b % cs.length) 0)
    | _ => 0x7FC00000#32

end Sys2Proof.Machine
end

