-- ==== Sys2Proof/Machine/Vec.lean ====
section
/-! DEFINITION. The vector unit's commands (05): VOP, VSF, VRD, VRG, VTK, VLD, VST. -/

namespace Sys2Proof.Machine

/-- Bytes 0 to n − 1 of a vector register. -/
def vregBytes (v : Tab (BitVec 32)) (n : Nat) : List Byte :=
  (List.range n).map fun i => BitVec.ofNat 8 ((tabGet 0 v (i / 4)).toNat / 256 ^ (i % 4))

/-- The register whose bytes are `bytes`, 0 beyond them. -/
def vregOf (bytes : List Byte) : Tab (BitVec 32) :=
  tabOf (0 : BitVec 32) 2048 fun k => BitVec.ofNat 32 (leNat ((bytes.drop (4 * k)).take 4))

/-- Lanes 0 to 2,047 from a function. -/
def lanes (f : Nat → BitVec 32) : Tab (BitVec 32) := tabOf 0 2048 f

/-- Bytes of element codes packed as R103. -/
def packCodes (bits : Nat) (codes : List Nat) : List Byte :=
  if bits = 16 then codes.flatMap (leBytes 2)
  else if bits = 32 then codes.flatMap (leBytes 4)
  else if bits = 4 then
    (List.range (codes.length / 2)).map fun i => BitVec.ofNat 8 (codes.getD (2 * i) 0 + 16 * codes.getD (2 * i + 1) 0)
  else codes.map fun c => BitVec.ofNat 8 c

/-- Element code `k` of a packed register; 32-bit formats take a lane. -/
def packedCode (bits : Nat) (v : Tab (BitVec 32)) (k : Nat) : Nat :=
  if bits = 32 then (tabGet 0 v k).toNat else packedElem bits (vregBytes v 4096) k

/-- Bits an element takes when packed (R103): 6-bit elements take a byte. -/
def slotBits (e : ElemFmt) : Nat := if elemBits e = 6 then 8 else elemBits e

/-- One lane of the elementwise operations of R147. -/
def laneOp (op : VecOp) (a b c : BitVec 32) : BitVec 32 :=
  match op with
  | .fadd => add32 a b
  | .fsub => sub32 a b
  | .fmul => mul32 a b
  | .ffma => fma32 a b c
  | .fmin => minMax32 false a b
  | .fmax => minMax32 true a b
  | .fcmp k => maskOf (fcmp32 k a b)
  | .icmp k => maskOf (icmp32 k a b)
  | .select => if c ≠ 0 then a else b
  | .iadd => a + b
  | .isub => a - b
  | .iand => a &&& b
  | .ior => a ||| b
  | .ixor => a ^^^ b
  | .ishl => if b.toNat < 32 then a <<< b.toNat else Config.vecShift op a b
  | .ishr => if b.toNat < 32 then a >>> b.toNat else Config.vecShift op a b
  | .isar => if b.toNat < 32 then a.sshiftRight b.toNat else Config.vecShift op a b
  | _ => 0

/-- FP32 to MX: 64 blocks of 32, elements packed from byte 0, then the 64 scales (R132). -/
def toMx (f : ElemFmt) (v : Tab (BitVec 32)) : Tab (BitVec 32) :=
  let block (b : Nat) : List Num := (List.range 32).map fun i => num32 (tabGet 0 v (32 * b + i))
  vregOf (packCodes (slotBits f) ((List.range 64).flatMap fun b => mxBlock f (block b)) ++
    (List.range 64).map fun b => BitVec.ofNat 8 (mxScale f (block b)))

/-- MX to FP32 (R129). -/
def ofMx (f : ElemFmt) (v : Tab (BitVec 32)) : Tab (BitVec 32) :=
  let base := 2048 * slotBits f / 8
  let bytes := vregBytes v (base + 64)
  lanes fun k => code32 (mxValue f (bytes.getD (base + k / 32) 0).toNat (packedElem (slotBits f) bytes k))

/-- FP32 to KV-packed under the FP16 scale `d` (R133). -/
def toKv (d : Nat) (v : Tab (BitVec 32)) : Tab (BitVec 32) :=
  let dn := decodeElem .fp16 d
  let bad := dn = .nan || (match dn with | .fin _ m _ => m = 0 | _ => false)
  vregOf (packCodes 4 ((List.range 2048).map fun k =>
    if bad then 0 else encodeElem .e2m1 ((num32 (tabGet 0 v k)).div dn)))

/-- KV-packed to FP32 (R130). -/
def ofKv (d : Nat) (v : Tab (BitVec 32)) : Tab (BitVec 32) :=
  let bytes := vregBytes v 1024
  lanes fun k => code32 ((decodeElem .e2m1 (packedElem 4 bytes k)).mul (decodeElem .fp16 d))

/-- Wide partial `n` of a register (R145). -/
def widePart (bytes : List Byte) (n : Nat) : Acc × Bool := wideOf ((bytes.drop (18 * n)).take 18)

/-- The wide add of R145; it counts one where a result is newly inexact. -/
def wideAdd (a b : Tab (BitVec 32)) : Tab (BitVec 32) × Nat :=
  let ab := vregBytes a 2304
  let bb := vregBytes b 2304
  let one (n : Nat) : (Acc × Bool) × Bool :=
    let x := widePart ab n
    let y := widePart bb n
    let z := addTerm x.1 (termOfAcc y.1)
    ((z.1, x.2 || y.2 || z.2), z.2 && !x.2 && !y.2)
  (vregOf ((List.range 128).flatMap fun n => wideBytes (one n).1.1 (one n).1.2),
   if (List.range 128).any fun n => (one n).2 then 1 else 0)

/-- The result of a VOP, with the INEXACT counts of a wide add (R145, R147). -/
def vecResult (t : Tile) (op : VecOp) (a b c : Tab (BitVec 32)) : Tab (BitVec 32) × Nat :=
  match op with
  | .toElem f => (vregOf (packCodes (slotBits f) ((List.range 2048).map fun k => encodeElem f (num32 (tabGet 0 a k)))), 0)
  | .ofElem f => (lanes fun k => code32 (decodeElem f (packedCode (slotBits f) a k)), 0)
  | .toMx f => (toMx f.elem a, 0)
  | .ofMx f => (ofMx f.elem a, 0)
  | .toKv d => (toKv ((t.opnd d).toNat % 2 ^ 16) a, 0)
  | .ofKv d => (ofKv ((t.opnd d).toNat % 2 ^ 16) a, 0)
  | .wideAdd => wideAdd a b
  | .wideToF32 =>
    let ab := vregBytes a 2304
    (lanes fun k => if k < 128 then code32 (numOfAcc (widePart ab k).1) else 0, 0)
  | .f32ToWide => (vregOf ((List.range 128).flatMap fun n => wideBytes (accOf32 (tabGet 0 a n)) false), 0)
  | op => (lanes fun k => laneOp op (tabGet 0 a k) (tabGet 0 b k) (tabGet 0 c k), 0)

/-- Schedule a vector result (R41): operands are read at issue. -/
def State.vecOp (s : State) (at_ : Issue) (pc occ lat vd : Nat) (f : Tile → Tab (BitVec 32)) : OpRes :=
  ⟨s.updTile at_.tile fun t =>
    (t.takeUnit uValu sVec pc occ).later (pc + lat - 1) uValu pc sVec at_ (.wrVreg vd (f t)), [], none⟩

/-- VOP (R147). -/
def execVop (at_ : Issue) (op : VecOp) (vd va vb vc : Fin 16) (s : State) : Out3 :=
  .next (s.issue sVec at_ (.vop at_ op vd va vb vc) fun s p pc =>
    let t := s.tile at_.tile
    let z := vecResult t op (t.vreg va) (t.vreg vb) (t.vreg vc)
    let s := s.updCnt p fun c => { c with inexact := min (2 ^ 64 - 1) (c.inexact + z.2) }
    s.vecOp at_ pc 1 3 vd fun _ => z.1)

/-- VSF (R150). -/
def execVsf (at_ : Issue) (fn : SpecFn) (vd va : Fin 16) (s : State) : Out3 :=
  .next (s.issue sVec at_ (.vsf at_ fn vd va) fun s _ pc =>
    s.vecOp at_ pc 2 9 vd fun t => lanes fun k => specResult fn (t.lane va k))

/-- Order of R148 and R149: NaN below −Infinity. -/
def rankLt (a b : BitVec 32) : Bool :=
  if isNan32 b then false else if isNan32 a then true else (num32 a).cmp (num32 b) < 0

/-- The lowest lane index among the largest values (R148). -/
def argmaxOf (l : List (BitVec 32)) : Nat :=
  (l.zipIdx.foldl (fun (best : Option (BitVec 32 × Nat)) x =>
    match best with
    | none => some x
    | some b => if rankLt b.1 x.1 then some x else some b) none).elim 0 (·.2)

/-- One segment reduced (R148). -/
def reduceSeg (op : RedOp) (log2 : Nat) (l : List (BitVec 32)) : BitVec 32 :=
  match op with
  | .sum => treeRoot log2 l
  | .max => l.tail.foldl (minMax32 true) (l.headD 0)
  | .min => l.tail.foldl (minMax32 false) (l.headD 0)
  | .argmax => BitVec.ofNat 32 (argmaxOf l)

/-- The segment size a VRD names: 16 to 2,048 lanes, a power of two (R148). -/
def segSize (seg : Fin 8) : Nat := 2 ^ (seg.val + 4)

/-- The result of a VRD (R148): one value for each segment, in lane i for segment i, 0 in the others. -/
def vrdResult (op : RedOp) (seg : Fin 8) (lane : Nat → BitVec 32) : Tab (BitVec 32) :=
  let n := segSize seg
  lanes fun i =>
    if i < 2048 / n then
      let l := (List.range n).map fun k => lane (n * i + k)
      if op = .argmax then BitVec.ofNat 32 (n * i + argmaxOf l) else reduceSeg op (seg.val + 4) l
    else 0

/-- VRD (R148). -/
def execVrd (at_ : Issue) (op : RedOp) (seg : Fin 8) (vd va : Fin 16) (s : State) : Out3 :=
  .next (s.issue sVec at_ (.vrd at_ op seg vd va) fun s _ pc =>
    s.vecOp at_ pc 1 8 vd fun t => vrdResult op seg (t.lane va))

/-- The result of a VRG (R152): counter i is lanes 4i to 4i + 3; its four output words take the same lanes. -/
def vrgResult (lane : Nat → BitVec 32) (key : BitVec 64) : Tab (BitVec 32) :=
  lanes fun k =>
    let i := k / 4
    let x := philox (lane (4 * i), lane (4 * i + 1), lane (4 * i + 2), lane (4 * i + 3)) key
    match k % 4 with
    | 0 => x.1
    | 1 => x.2.1
    | 2 => x.2.2.1
    | _ => x.2.2.2

/-- VRG (R152). -/
def execVrg (at_ : Issue) (vd vc : Fin 16) (key : Fin 32) (s : State) : Out3 :=
  .next (s.issue sVec at_ (.vrg at_ vd vc key) fun s _ pc =>
    s.vecOp at_ pc 1 12 vd fun t => vrgResult (t.lane vc) (t.scalar key))

/-- Order of the running list: descending value, then ascending index (R149). -/
def topBefore (a b : BitVec 32 × BitVec 32) : Bool :=
  if rankLt b.1 a.1 then true else if rankLt a.1 b.1 then false else a.2.toNat < b.2.toNat

/-- Insert into an ordered list. -/
def topInsert (x : BitVec 32 × BitVec 32) : List (BitVec 32 × BitVec 32) → List (BitVec 32 × BitVec 32)
  | [] => [x]
  | y :: r => if topBefore x y then x :: y :: r else y :: topInsert x r

/-- The list of a VTK pass (R149): the `k` best of the running list and of 2,048 candidates whose indices begin at `base`. -/
def topList (k : Nat) (list cand : Nat → BitVec 32) (base : BitVec 64) : List (BitVec 32 × BitVec 32) :=
  let old := (List.range 64).map fun i => (list i, list (64 + i))
  let new := (List.range 2048).map fun i => (cand i, base.setWidth 32 + BitVec.ofNat 32 i)
  (old ++ new).foldl (fun l x => (topInsert x l).take k) []

/-- The register of a running list (R149): values in lanes 0 to 63, indices in lanes 64 to 127. -/
def topLanes (best : List (BitVec 32 × BitVec 32)) : Tab (BitVec 32) :=
  lanes fun i =>
    if i < 64 then (best.getD i (0xFF800000#32, 0)).1
    else if i < 128 then (best.getD (i - 64) (0, 0xFFFFFFFF#32)).2
    else 0

/-- VTK (R149): the K best of the candidates and the running list; K is `k + 1`, 1 to 64. -/
def execVtk (at_ : Issue) (k : Fin 64) (vd vcand vlist : Fin 16) (base : Fin 32) (s : State) : Out3 :=
  .next (s.issue sVec at_ (.vtk at_ k vd vcand vlist base) fun s _ pc =>
    s.vecOp at_ pc 4 16 vd fun t => topLanes (topList (k.val + 1) (t.lane vlist) (t.lane vcand) (t.scalar base)))

/-- VLD (R93): 8 lines at t, 8 at t + 1, the register at t + 4. -/
def execVld (at_ : Issue) (vd : Fin 16) (src : Opnd) (consume : Bool) (s : State) : Out3 :=
  .next (s.issue sVec at_ (.vld at_ vd src consume) fun s _ pc =>
    let a := lsAddr ((s.tile at_.tile).opnd src) 512
    let r := s.readLs at_ sVec pc a 4096 consume false
    match r.wait with
    | some w => ⟨s, [], some w⟩
    | none =>
      ⟨r.st.updTile at_.tile fun t =>
        (t.takeUnit uVmem sVec pc 2).later (pc + 1) uVmem pc sVec at_
          (.rdVld vd (a + 4096) (t.rdLs a 4096)), r.fails, none⟩)

/-- VST (R93): 8 lines at t + 1, 8 at t + 2. DESIGN CHOICE: a read of the first lines at t + 2 returns the new contents (R94),
where R41 says that a destination keeps its previous contents until the result latency of 3 has passed. -/
def execVst (at_ : Issue) (va : Fin 16) (dst : Opnd) (s : State) : Out3 :=
  .next (s.issue sVec at_ (.vst at_ va dst) fun s _ pc =>
    ⟨s.updTile at_.tile fun t =>
      let a := lsAddr (t.opnd dst) 512
      let bytes := vregBytes (t.vreg va) 8192
      let t := t.takeUnit uVmem sVec pc 2
      let t := t.later (pc + 1) uVmem pc sVec at_ (.wrLine a (bytes.take 4096))
      t.later (pc + 2) uVmem pc sVec at_ (.wrLine (a + 4096) (bytes.drop 4096)), [], none⟩)

end Sys2Proof.Machine
end

