-- ==== Sys2Proof/Machine/Scalar.lean ====
section
/-! DEFINITION. The send engines and the scalar unit (03, 06): SND, SCL operations, CNT, PCR, MBX. -/

namespace Sys2Proof.Machine

/-- A SND that another cuts off at this tick sends no beat of it (R77). -/
def State.cutSend (s : State) (n pc eng : Nat) : State :=
  let old := tabGet {} (s.tile n).units (uSend0 + eng)
  if pc < old.ends ∧ old.issue < pc then
    { s with
      beats := s.beats.filter fun b => ¬ (b.xfer = (old.issue * 192 + n) * 2 + eng ∧ b.off = 512 * (pc - old.issue))
      egBeats := s.egBeats.filter fun b =>
        ¬ (b.tile = n ∧ b.eng = eng ∧ b.issue = old.issue ∧ b.index = pc - old.issue) }
  else s

/-- SND (R159): beat i leaves at tick t + i. The transfer has `n + 1` bytes. -/
def execSnd (at_ : Issue) (eng : Fin 2) (src : Opnd) (n : Nat) (dst : SndDst) (tag : BitVec 4) (consume : Bool)
    (s : State) : Out3 :=
  .next (s.issue (2 + eng.val) at_ (.snd at_ eng src n dst tag consume) fun s p pc =>
    let u := uSend0 + eng
    let slot := 2 + eng.val
    let len := n + 1
    let a := lsAddr ((s.tile at_.tile).opnd src) 512
    let r := s.readLs at_ slot pc a (min len 512) consume false
    match r.wait with
    | some w => ⟨s, [], some w⟩
    | none =>
      let s := (r.st.cutSend at_.tile pc eng).updTile at_.tile fun t =>
        (List.range (ceilDiv len 512 - 1)).foldl (fun t i =>
          t.later (pc + i + 1) u pc slot at_ (.rdSnd (a + 512 * (i + 1)) (i + 1) len dst tag))
          (t.takeUnit u slot pc (ceilDiv len 512))
      ⟨s.sendBeat p at_.tile pc 0 len pc eng a dst tag, r.fails, none⟩)

/-- The scalar ALU (R41, R507). -/
def aluVal (op : AluOp) (a b : BitVec 64) : BitVec 64 :=
  let sh := b.toNat % 64
  match op with
  | .add => a + b
  | .sub => a - b
  | .band => a &&& b
  | .bor => a ||| b
  | .bxor => a ^^^ b
  | .sll => a <<< sh
  | .srl => a >>> sh
  | .sra => a.sshiftRight sh
  | .slt => if a.slt b then 1 else 0
  | .sltu => if a.ult b then 1 else 0
  | .seq => if a = b then 1 else 0

/-- Divide and remainder with the edge cases of R507. -/
def divVal (op : DivOp) (a b : BitVec 64) : BitVec 64 :=
  match op with
  | .divu => if b = 0 then BitVec.allOnes 64 else a / b
  | .remu => if b = 0 then a else a % b
  | .div => if b = 0 then BitVec.allOnes 64 else a.sdiv b
  | .rem => if b = 0 then a else a.srem b

/-- Schedule a scalar result readable `lat` ticks after issue. -/
def Tile.sclResult (t : Tile) (at_ : Issue) (u pc occ lat rd : Nat) (v : BitVec 64) : Tile :=
  (t.takeUnit u sScl pc occ).later (pc + lat - 1) u pc sScl at_ (.wrScalar rd v)

/-- SCL ALU: one tick. -/
def execSclAlu (at_ : Issue) (op : AluOp) (rd : Fin 32) (a b : Opnd) (s : State) : Out3 :=
  .next (s.issue sScl at_ (.sclAlu at_ op rd a b) fun s _ pc =>
    ⟨s.updTile at_.tile fun t => t.sclResult at_ uScl pc 1 1 rd (aluVal op (t.opnd a) (t.opnd b)), [], none⟩)

/-- SCL MUL: the low 64 bits of the product, three ticks. -/
def execSclMul (at_ : Issue) (rd : Fin 32) (a b : Opnd) (s : State) : Out3 :=
  .next (s.issue sScl at_ (.sclMul at_ rd a b) fun s _ pc =>
    ⟨s.updTile at_.tile fun t => t.sclResult at_ uScl pc 1 3 rd (t.opnd a * t.opnd b), [], none⟩)

/-- SCL DIV: eighteen ticks of the divider. -/
def execSclDiv (at_ : Issue) (op : DivOp) (rd : Fin 32) (a b : Opnd) (s : State) : Out3 :=
  .next (s.issue sScl at_ (.sclDiv at_ op rd a b) fun s _ pc =>
    ⟨s.updTile at_.tile fun t => t.sclResult at_ uDiv pc 18 18 rd (divVal op (t.opnd a) (t.opnd b)), [], none⟩)

/-- The regions of the scalar address space (R81), the address's low three bits taken as 0. -/
inductive SclAddr where
  | dmem (idx : Nat)
  | mbox (w : Nat)
  | ag (a off : Nat)
  | store (a : Nat)
  | none
deriving DecidableEq, Repr

def sclAddr (v : BitVec 64) : SclAddr :=
  let a := v.toNat / 8 * 8
  if a < 0x4000 then .dmem (a / 8)
  else if 0x10000 ≤ a ∧ a < 0x10080 then .mbox ((a - 0x10000) / 8)
  else if 0x20000 ≤ a ∧ a < 0x21000 then .ag ((a - 0x20000) / 0x400) (a % 0x400)
  else if 0x400000 ≤ a ∧ a < 0x800000 then .store (a - 0x400000)
  else .none

/-- AG_STATUS (R91). -/
def agStatus (x : AgLevel) : Nat :=
  (if x.running then 1 else 0) + (if x.waiting then 2 else 0) + (if x.running && x.idle then 4 else 0)

/-- Eight bytes of the address-generator window (R91). -/
def Tile.agRead (t : Tile) (a off : Nat) : BitVec 64 :=
  let two (lo hi : Nat) : BitVec 64 := BitVec.ofNat 64 (lo % 2 ^ 32 + 2 ^ 32 * (hi % 2 ^ 32))
  if off < 0xC0 then
    let x := t.level a (off / 0x20)
    match off % 0x20 with
    | 0x00 => two x.count x.max
    | 0x08 => two x.latched (if x.running then x.index else 0)
    | 0x10 => two x.shadow (agStatus x)
    | _ => 0
  else if 0x100 ≤ off ∧ off < 0x300 then
    let st := t.stream a ((off - 0x100) / 0x40)
    let stride (l : Nat) : Nat := (st.strides.getD l 0).toNat
    match (off - 0x100) % 0x40 with
    | 0x00 => st.base
    | 0x08 => two (stride 0) (stride 1)
    | 0x10 => two (stride 2) (stride 3)
    | 0x18 => two (stride 4) (stride 5)
    | _ => 0
  else 0

/-- SCL LD (R81, R93): two ticks, whatever it addresses. -/
def execSclLd (at_ : Issue) (rd : Fin 32) (src : Opnd) (consume : Bool) (s : State) : Out3 :=
  .next (s.issue sScl at_ (.sclLd at_ rd src consume) fun s _ pc =>
    let done (s : State) (v : Tile → BitVec 64) (fails : List SchedFail) : OpRes :=
      ⟨s.updTile at_.tile fun t => t.sclResult at_ uScl pc 1 2 rd (v t), fails, none⟩
    match sclAddr ((s.tile at_.tile).opnd src) with
    | .dmem i => done s (fun t => tabGet 0 t.dmem i) []
    | .mbox w => done s (fun t => tabGet 0 t.mbox w) []
    | .ag a off => done s (fun t => t.agRead a off) []
    | .none => done s (fun _ => 0) []
    | .store a =>
      let r := s.readLs at_ sScl pc a 8 consume false
      match r.wait with
      | some w => ⟨s, [], some w⟩
      | none => done r.st (fun t => BitVec.ofNat 64 (leNat (t.rdLs a 8))) r.fails)

/-- SCL ST (R81, R85, R93): data memory and local store at t + 1; a stream BASE from t + 1 on. -/
def execSclSt (at_ : Issue) (rs : Fin 32) (dst : Opnd) (s : State) : Out3 :=
  .next (s.issue sScl at_ (.sclSt at_ rs dst) fun s _ pc =>
    ⟨s.updTile at_.tile fun t =>
      let v := t.scalar rs
      let t' := t.takeUnit uScl sScl pc 1
      match sclAddr (t.opnd dst) with
      | .dmem i => t'.later (pc + 1) uScl pc sScl at_ (.wrDmem i v)
      | .store a => t'.later (pc + 1) uScl pc sScl at_ (.wrLine a (leBytes 8 v.toNat))
      | .ag a off =>
        if 0x100 ≤ off ∧ off < 0x300 ∧ off % 0x40 = 0 then
          t'.later pc uScl pc sScl at_ (.wrBase a ((off - 0x100) / 0x40) v)
        else t'
      | _ => t', [], none⟩)

/-- CNT (R89): COUNT, or SHADOW while the loop runs, at the end of the tick. -/
def execCnt (at_ : Issue) (ag : Fin 4) (level : Fin 6) (v : Opnd) (s : State) : Out3 :=
  .next (s.issue sScl at_ (.cnt at_ ag level v) fun s _ pc =>
    ⟨s.updTile at_.tile fun t =>
      (t.takeUnit uScl sScl pc 1).later pc uScl pc sScl at_ (.count ag level ((t.opnd v).toNat % 2 ^ 32)), [], none⟩)

/-- PCR: the plan counter at the tick it issues (R80). -/
def execPcr (at_ : Issue) (rd : Fin 32) (s : State) : Out3 :=
  .next (s.issue sScl at_ (.pcr at_ rd) fun s _ pc =>
    ⟨s.updTile at_.tile fun t => t.sclResult at_ uScl pc 1 1 rd (BitVec.ofNat 64 pc), [], none⟩)

/-- The 16 bytes of a mailbox entry (R97). -/
def mbEntry (v : BitVec 64) (tile : Nat) (mt : Byte) (step pc : Nat) : List Byte :=
  leBytes 8 v.toNat ++ leBytes 1 tile ++ [mt] ++ leBytes 2 step ++ leBytes 4 pc

/-- MBX (R96, R97): a core of the other die or of a group not owned discards the entry and counts. -/
def execMbx (at_ : Issue) (rs : Fin 32) (core : CoreId) (mtag : Byte) (s : State) : Out3 :=
  .next (s.issue sScl at_ (.mbx at_ rs core mtag) fun s p pc =>
    let s := s.updTile at_.tile fun t => t.takeUnit uScl sScl pc 1
    if tileDie at_.tile = core.val / 32 ∧ s.owns p (core.val / 4) then
      ⟨{ s with mail := s.mail ++ [{ part := p, core := core, due := pc + travelMbx at_.tile core
                                     bytes := mbEntry ((s.tile at_.tile).scalar rs) at_.tile mtag (s.part p).plan.step pc }] },
       [], none⟩
    else ⟨s.cinderTile at_.tile cFence, [], none⟩)

end Sys2Proof.Machine
end

