-- ==== Sys2Proof/Machine/Flue.lean ====
section
/-! DEFINITION. Flues and landings (06, 02): DRAW, LAY, AWT, the completion of an entry, the landing of
a beat, and the release of what waited on them. -/

namespace Sys2Proof.Machine

/-- An uncorrectable error stops a partition with no schedule-fault record (R72, R125, R184). -/
def State.ueStop (s : State) (p cls : Nat) (detail : List Byte) : State :=
  if (s.part p).plan.st = .running then
    (s.faultStop p).reportLocal p cls s.moduleId 1 p detail
  else s

/-- The detail of MEM_UE: the group whose memory failed (R480). -/
def groupDetail (a : Nat) : List Byte := leBytes 1 (a / 0x1000000000 % 16)

/-- Memory a flue entry targets: group and turf bit; none when out of range (R170). -/
def State.flueTarget (s : State) (p die a n : Nat) : Option (Nat × Bool) :=
  let at1 (x : Nat) : Option (Nat × Bool) := match s.reach p x with
    | .near g _ => if g / 8 = die then some (g, false) else none
    | .turf g _ => if g / 8 = die then some (g, true) else none
    | _ => none
  match at1 a, at1 (a + n - 1) with
  | some x, some _ => some x
  | _, _ => none

/-- Bytes an entry counts: 64 per 64-byte block it touches (R177). -/
def flueCount (a n : Nat) : Nat := 64 * ((a + n - 1) / 64 - a / 64 + 1)

/-- A window's count of a memory so far (R177). -/
def winCount (t : Tab (Nat × Nat)) (g w : Nat) : Nat :=
  let x := tabGet (0, 0) t g
  if x.1 = w then x.2 else 0

/-- An entry counts as awaited (R172, R173, R176): a draw's destination holds its data, and a failed
re-read stops the partition with MEM_UE (R184). -/
def State.awaitEntry (s : State) (p n slot : Nat) : State :=
  let e := (s.tile n).slotEntry slot
  let s := s.updTile n fun t =>
    let t := if e.draw then drawInto t e else t
    { t with flue := tabSet {} t.flue slot { e with awaited := true } }
  if e.failed then s.ueStop p cMemUe (groupDetail e.addr) else s

/-- Issue a flue entry: the slot wait of R173, range (R170), budget (R177, R180); a lay reads its source now, the memory
access comes at the end of the tick (`takeEntry`). -/
def State.flueEntry (s : State) (at_ : Issue) (p pc mem ls n : Nat) (draw : Bool) : OpRes :=
  let slot := pc % 2048
  let old := (s.tile at_.tile).slotEntry slot
  if old.used ∧ ¬ old.awaited ∧ ¬ old.complete then ⟨s, [], some (.reuse slot)⟩
  else
    let s := if old.used ∧ ¬ old.awaited then s.awaitEntry p at_.tile slot else s
    if old.used ∧ ¬ old.awaited ∧ old.failed then ⟨s, [], none⟩
    else
      let s := s.updTile at_.tile fun t => t.takeUnit uFlue sFlu pc 1
      let w := pc / 256
      match s.flueTarget p (tileDie at_.tile) mem n with
      | none =>
        -- out of range: zeros drawn, a lay discarded (R185)
        let e : FlueEntry := { used := true, draw := draw, issue := pc, ls := ls, n := n, addr := mem
                               data := List.replicate n 0#8 }
        ⟨s.updTile at_.tile fun t => { t with flue := tabSet {} t.flue slot e }.later pc uNone pc sFlu at_ (.flueGo slot), [], none⟩
      | some (g, turf) =>
        let plan := (s.part p).plan
        let tab := if turf then plan.turf else plan.near
        let cnt := winCount tab g w + flueCount mem n
        let budget := tabGet (0, 0) ((plan.loaded.getD {}).budgets) g
        if cnt > (if turf then budget.2 else budget.1) then
          ⟨s, [{ cls := cFlueBudget, tile := at_.tile, slot := sFlu, bundle := at_.bundle, tick := pc
                 detLo := g + (if turf then 256 else 0), detMid := w % 65536, detHi := cnt }], none⟩
        else
          let s := s.updPlan p fun x =>
            if turf then { x with turf := tabSet (0, 0) x.turf g (w, cnt) }
            else { x with near := tabSet (0, 0) x.near g (w, cnt) }
          let e : FlueEntry := { used := true, draw := draw, issue := pc, ls := ls, n := n, addr := mem, inRange := true
                                 data := if draw then [] else (s.tile at_.tile).rdLs ls n }
          ⟨s.updTile at_.tile fun t => { t with flue := tabSet {} t.flue slot e }.later pc uNone pc sFlu at_ (.flueGo slot), [], none⟩

/-- DRAW (R170 to R177): reads memory into local store; until its AWT completes the destination is open. N is `n + 1`. -/
def execDraw (at_ : Issue) (mem dst : Opnd) (n : Fin 4096) (s : State) : Out3 :=
  .next (s.issue sFlu at_ (.draw at_ mem dst n) fun s p pc =>
    let t := s.tile at_.tile
    s.flueEntry at_ p pc ((t.opnd mem).toNat % 2 ^ 52) (lsAddr (t.opnd dst) 512) (n.val + 1) true)

/-- LAY (R171, R174): reads its source lines at its issue tick. N is `n + 1`. -/
def execLay (at_ : Issue) (src mem : Opnd) (n : Fin 4096) (consume : Bool) (s : State) : Out3 :=
  .next (s.issue sFlu at_ (.lay at_ src mem n consume) fun s p pc =>
    let t := s.tile at_.tile
    let a := lsAddr (t.opnd src) 512
    let len := n.val + 1
    let old := t.slotEntry (pc % 2048)
    if old.used ∧ ¬ old.awaited ∧ ¬ old.complete then ⟨s, [], some (.reuse (pc % 2048))⟩
    else
      let r := s.readLs at_ sFlu pc a len consume false
      match r.wait with
      | some w => ⟨s, [], some w⟩
      | none =>
        let z := r.st.flueEntry at_ p pc ((t.opnd mem).toNat % 2 ^ 52) a len false
        ⟨z.st, r.fails ++ z.fails, z.wait⟩)

/-- AWT (R172). -/
def execAwt (at_ : Issue) (slot : Fin 2048) (s : State) : Out3 :=
  .next (s.issue sFlu at_ (.awt at_ slot) fun s p pc =>
    let e := (s.tile at_.tile).slotEntry slot
    if e.used ∧ ¬ e.awaited then
      if e.complete then
        ⟨(s.updTile at_.tile fun t => t.takeUnit uFlue sFlu pc 1).awaitEntry p at_.tile slot, [], none⟩
      else ⟨s, [], some (.await slot)⟩
    else ⟨s.updTile at_.tile fun t => t.takeUnit uFlue sFlu pc 1, [], none⟩)

/-! ### Ending a wait -/

/-- The meaning of a tile operation, for the operations a wait kept back. -/
def tileExec (c : Instr) (s : State) : State :=
  let st (o : Out3) : State := match o with
    | .next t => t
    | _ => s
  match c with
  | .wld a b f k => st (execWld a b f k s)
  | .wldWithOverlay a b f o d n k => st (execWldWithOverlay a b f o d n k s)
  | .wsw a => st (execWsw a s)
  | .mmaAcc a r b f k => st (execMmaAcc a r b f k s)
  | .mmaStart a r b f k => st (execMmaStart a r b f k s)
  | .acz a r e => st (execAcz a r e s)
  | .drn a r d f => st (execDrn a r d f s)
  | .drw a r d => st (execDrw a r d s)
  | .vop a o d x y z => st (execVop a o d x y z s)
  | .vsf a f d x => st (execVsf a f d x s)
  | .vrd a o g d x => st (execVrd a o g d x s)
  | .vrg a d x k => st (execVrg a d x k s)
  | .vtk a k d x y b => st (execVtk a k d x y b s)
  | .vld a d b k => st (execVld a d b k s)
  | .vst a x d => st (execVst a x d s)
  | .snd a e b n d g k => st (execSnd a e b n d g k s)
  | .draw a m d n => st (execDraw a m d n s)
  | .lay a b m n k => st (execLay a b m n k s)
  | .awt a l => st (execAwt a l s)
  | .sclAlu a o d x y => st (execSclAlu a o d x y s)
  | .sclMul a d x y => st (execSclMul a d x y s)
  | .sclDiv a o d x y => st (execSclDiv a o d x y s)
  | .sclLd a d b k => st (execSclLd a d b k s)
  | .sclSt a r d => st (execSclSt a r d s)
  | .cnt a g l v => st (execCnt a g l v s)
  | .pcr a d => st (execPcr a d s)
  | .mbx a r c g => st (execMbx a r c g s)
  | _ => s

/-- A wait is over when its buffer is VALID or its entry complete. -/
def Tile.waitOver (t : Tile) : Bool :=
  match t.wait with
  | none => false
  | some (.landing l) => (t.land l).st = .valid
  | some (.await i) | some (.reuse i) => (t.slotEntry i).complete

/-- The bundle that waited issues whole, at the plan tick it was scheduled for (R50, R80). -/
def State.resume (s : State) (n : Nat) : State :=
  if (s.tile n).waitOver then
    let held := (s.tile n).held
    held.foldl (fun s c => tileExec c s) (s.updTile n fun t => { t with wait := none, held := [] })
  else s

/-! ### A beat lands (R47 to R53, R159, R162, R166) -/

/-- A beat may land now: on plan time while the plan runs or is in the tick of its stop, or on hall time on a circuit. -/
def State.beatDue (s : State) (b : Beat) : Bool :=
  if b.circuit then b.due ≤ s.hall
  else (s.part b.part).plan.checks && b.due ≤ (s.part b.part).plan.pc

/-- Remove the first beat that satisfies a test. -/
def takeBeat (f : Beat → Bool) : List Beat → Option (Beat × List Beat)
  | [] => none
  | b :: r => if f b then some (b, r) else (takeBeat f r).map fun x => (x.1, b :: x.2)

/-- The detail of R53 under which a beat may not land: the buffer is VALID, or FILLING from another transfer. -/
def landBad (x : Landing) (b : Beat) : Option Nat :=
  if x.st = .valid then some 0 else if x.st = .filling ∧ x.xfer ≠ b.xfer then some 1 else none

/-- The buffer after a beat (R48). `waiting`: a consuming read holds on it, so a retransmission is no longer absorbed (R354). -/
def landStep (x : Landing) (b : Beat) (waiting : Bool) : Landing :=
  let landed := (if x.st = .empty then 0 else x.landed) + 1
  { x with
    st := if landed ≥ b.total then .valid else .filling
    landed := landed, total := b.total, tag := b.tag, src := b.src, xfer := b.xfer
    retx := (if x.st = .empty then 0 else x.retx) + (if waiting then 0 else b.retx) }

/-- A beat reaches its buffer's fill port: EMPTY → FILLING → VALID, or LANDING_OVERRUN (R48, R53). In the plan tick of a stop
it is only checked (R73). DESIGN CHOICE: a beat to a buffer that the plan does not declare, on which R48 is silent, is
dropped. -/
def State.landBeat (s : State) (b : Beat) : State :=
  let t := s.tile b.tile
  let x := t.land b.landing
  if x.size = 0 then s
  else match landBad x b with
    | some d =>
      s.schedFail b.part [{ cls := cLandingOverrun, tile := b.tile, slot := sLand, tick := (s.part b.part).plan.pc, src := b.src
                            detLo := b.landing, detMid := d }]
    | none =>
      if (s.part b.part).plan.st ≠ .running then s
      else
        s.updTile b.tile fun t =>
          let t := { t with lands := tabSet {} t.lands b.landing (landStep x b (t.wait = some (.landing b.landing))) }
          if b.off < x.size then t.wrLs (x.base + b.off) b.bytes else t

/-- An uncorrectable error of a beat stops the partition in the tick of its write, with its log entry (R162, R480). -/
def State.beatUe (s : State) (b : Beat) : State :=
  let pl := (s.part b.part).plan
  if pl.checks then
    let detail := leBytes 2 ((((s.tile b.tile).land b.landing).base + b.off) / 512 % 32)
    let s := s.logTile b.tile { cls := cSramUe, part := b.part, stopped := true, cause := 5, tick := pl.pc, detail := detail }
    s.ueStop b.part cSramUe detail
  else s

/-- LANDING_BEAT: the earliest beat due at this buffer lands; a read that held on it is released. -/
def execLandingBeat (t : TileId) (landing : Fin 512) (ecc : EccEvent) (s : State) : Out3 :=
  .next (match takeBeat (fun b => b.tile = t.val ∧ b.landing = landing.val ∧ s.beatDue b) s.beats with
    | none => s
    | some (b, rest) =>
      let s : State := { s with beats := rest }
      match ecc with
      | .uncorrectable => s.beatUe b
      | .corrected => ((s.cinderTile t cMemCe).landBeat b).resume t
      | .none => (s.landBeat b).resume t)

/-! ### A flue entry completes (R172, R175, R181 to R186) -/

/-- Zero the destination lines a bad codeword reaches (R184). -/
def zeroLines (e : FlueEntry) (cw : Nat) : List Byte :=
  e.data.zipIdx.map fun bi =>
    if (cw - e.addr) / 512 ≤ bi.2 / 512 ∧ bi.2 / 512 ≤ (cw + 31 - e.addr) / 512 then 0 else bi.1

/-- Some tile of the partition still has an entry in flight (R186). -/
def State.flueBusy (s : State) (p : Nat) : Bool :=
  (s.tilesOf p).any fun n => (s.tile n).flue.any fun e => e.2.used && !e.2.complete

/-- After a stop a completed draw writes its destination at once (R186). -/
def drawIfDone (x : Tile) (slot : Nat) : Tile :=
  let e := x.slotEntry slot
  if e.draw then drawInto x e else x

/-- The codewords a draw reads (R183); a lay and an entry out of range read none. -/
def FlueEntry.words (e : FlueEntry) : List Nat :=
  if e.inRange ∧ e.draw then
    (List.range ((e.addr + e.n - 1) / 32 - e.addr / 32 + 1)).map fun i => (e.addr / 32 + i) * 32 else []

/-- The unit a memory error is logged under: the near-memory stack, or the turf stack, that holds the address (R184). -/
def memUnit (a : Nat) (c : LogEntry) : LogEntry :=
  let g := a / 0x1000000000 % 16
  let turf := a ≥ 0x10000000000
  { c with kind := if turf then kTurf else kNear, index := if turf then g / 2 else g }

/-- The entry in a slot completes in memory; `ecc` is what its codeword `word` met (R183, R184). A codeword known to be bad
fails its re-read again. -/
def State.flueComplete (s : State) (p n slot : Nat) (ecc : FlueEcc) (word : Nat) : State :=
  let e := (s.tile n).slotEntry slot
  if ¬ e.used ∨ e.complete then s
  else
    let s := if e.taken then s else s.takeEntries p
    let e := (s.tile n).slotEntry slot
    let set (s : State) (e : FlueEntry) : State := s.updTile n fun x => { x with flue := tabSet {} x.flue slot e }
    let words := e.words
    let named := e.addr / 32 * 32 + 32 * (word % (if words.length = 0 then 1 else words.length))
    let bads := (if words ≠ [] ∧ ecc = .uncorrectable then [named] else []) ++
      words.filter fun w => s.badWords.contains w
    let g := e.addr / 0x1000000000 % 16
    match bads with
    | cw :: _ =>
      let s := s.logEv (memUnit e.addr { cls := cMemUe, part := p, stopped := true, addr := cw, tile := n, tick := e.issue
                                         detail := leBytes 1 g })
      let e' := { e with complete := true, failed := true, data := bads.foldl (fun d w => zeroLines { e with data := d } w) e.data }
      { set s e' with badWords := if s.badWords.contains cw then s.badWords else s.badWords ++ [cw] }
    | [] =>
      if ecc = .reread ∧ words ≠ [] then set s { e with reread := true }
      else
        let s := if ecc = .corrected ∧ words ≠ [] then
          s.logEv (memUnit e.addr { cls := cMemCe, part := p, addr := named, tile := n, tick := e.issue, detail := leBytes 1 g })
          else s
        set s { e with complete := true }

/-- FLUE_ENTRY_COMPLETE: the entry in a slot completes, or is found to need a re-read; whatever waited on it is released. -/
def execFlueEntryComplete (t : TileId) (slot : Fin 2048) (ecc : FlueEcc) (word : Nat) (s : State) : Out3 :=
  .next (
    let e := (s.tile t).slotEntry slot
    match s.tilePart t with
    | none => s
    | some p =>
      let z := s.flueComplete p t slot ecc word
      if ¬ e.used ∨ e.complete ∨ ¬ ((z.tile t).slotEntry slot).complete then z
      else if (z.part p).plan.st = .running then z.resume t
      else z.updTile t fun x => drawIfDone x slot)

/-- Plan ticks after issue by which an entry is complete: 2,000 for turf, 600 for near memory and for an entry out of range
(R181, R185). -/
def FlueEntry.bound (e : FlueEntry) : Nat := if e.inRange ∧ 0x10000000000 ≤ e.addr then 2000 else 600

/-- The stack that serves an entry reports at most 85 °C, and the entry needs no re-read (R181). -/
def State.boundHolds (s : State) (e : FlueEntry) : Bool :=
  let g := e.addr / 0x1000000000 % 16
  let code := if 0x10000000000 ≤ e.addr then 0x30 + g / 2 else 0x20 + g
  !e.inRange || (tabGet 0 s.sensors code ≤ 8500 && !e.reread && !(e.words.any fun w => s.badWords.contains w))

/-- At the start of plan tick `q` the entries whose bound is reached complete, where R181 and R185 hold them to it. -/
def State.flueBounds (s : State) (p q : Nat) : State :=
  (s.tilesOf p).foldl (fun s n => (s.tile n).flue.foldl (fun s x =>
    if x.2.used ∧ ¬ x.2.complete ∧ x.2.issue + x.2.bound ≤ q ∧ s.boundHolds x.2 then s.flueComplete p n x.1 .none 0 else s) s) s

end Sys2Proof.Machine
end

