-- ==== Sys2Proof/Machine/Plan.lean ====
section
/-! DEFINITION. The plan control block (02): loading, binding, arming, launch, stop and unload; loops
(R86 to R90) and flue budget windows (R177). -/

namespace Sys2Proof.Machine

/-! ### Plan states and LOAD_ERROR (R68, R71) -/

/-- PLAN_STATUS.STATE (R68): HOLDING is RUNNING while the counter is frozen. -/
def State.planCode (s : State) (p : Nat) : Nat :=
  match (s.part p).plan.st with
  | .empty => 0
  | .loading => 1
  | .loaded => 2
  | .armed => 3
  | .running => if (s.part p).clock.inHold then 5 else 4
  | .stopped => 6
  | .faulted => 7

/-- Set LOAD_ERROR. -/
def State.loadErr (s : State) (p code detail : Nat) : State :=
  s.updPlan p fun x => { x with errCode := code, errDetail := detail % 2 ^ 24 }

/-- An action not accepted in the current state (R68). -/
def State.planRefuse (s : State) (p : Nat) : State := s.loadErr p 0x0C (s.planCode p)

/-- The plan state accepts an action: it is one of the states listed and no accepted UNLOAD waits. -/
def State.planAccepts (s : State) (p : Nat) (sts : List PlanState) : Bool :=
  sts.contains (s.part p).plan.st && !(s.part p).plan.unloadWait

/-! ### The package (R64 to R66, R179) -/

/-- Bytes of a wholly mapped range of partition addresses (R391): module memory, or what the loader's reads through a host or
shard window returned. -/
def State.rdRange (s : State) (p a n : Nat) (host : List Byte) : Option (List Byte) :=
  if s.anyRange p a n then
    some ((List.range n).map fun i => if s.mapped p (a + i) then s.memByte (a + i) else host.getD i 0)
  else none

/-- The little-endian number in `n` bytes at offset `o` of a byte list. -/
def leAt (b : List Byte) (o n : Nat) : Nat := leNat ((b.drop o).take n)

/-- A hop table entry (R65). -/
def readHop (b : List Byte) (o : Nat) : Hop :=
  let w := leAt b o 16
  { route := bitsOf w 15 0, hop := bitsOf w 19 16, module := bitsOf w 34 20, cord := bitsOf w 39 35
    interval := bitsOf w 87 64, slack := bitsOf w 111 88, fixed := bitsOf w 127 112 }

/-- A ceiling class entry (R66), and whether its reserved bits are 0. -/
def readClass (b : List Byte) (o : Nat) : CeilClass × Bool :=
  let w := leAt b o 16
  ({ first := bitsOf w 15 0, size := bitsOf w 31 16, tokens := bitsOf w 48 32, ctxPages := bitsOf w 82 64
     ovlCeil := bitsOf w 101 96 },
   bitsOf w 63 49 = 0 && bitsOf w 95 83 = 0 && bitsOf w 127 102 = 0)

/-- A class in range that begins where the previous one ended and stays within the slot ceiling. -/
def classOk (at_ ceil : Nat) (x : CeilClass × Bool) : Bool :=
  let c := x.1
  x.2 && c.first = at_ && 1 ≤ c.size && c.size ≤ 4096 && 1 ≤ c.tokens && c.tokens ≤ 65536 &&
  1 ≤ c.ctxPages && c.ctxPages ≤ 262144 && c.ovlCeil ≤ 32 && at_ + c.size ≤ ceil

/-- The offset of the first class entry that breaks R66, or the one past the last when slots are left. -/
def classFail (ceil : Nat) : Nat → Nat → List (CeilClass × Bool) → Option Nat
  | i, at_, [] => if at_ = ceil then none else some (16 * i)
  | i, at_, x :: r => if classOk at_ ceil x then classFail ceil (i + 1) (at_ + x.1.size) r else some (16 * i)

/-- Two buffers of a stride lie 4 KiB aligned in near memory (R66, R212). -/
def State.bufOk (s : State) (p a stride : Nat) : Bool := a % 4096 = 0 && s.nearRange p a (2 * stride)

/-- A package as the loader reads it: what it keeps, or the first check that fails (R71). -/
inductive LoadRes where
  | fail (code detail : Nat)
  | ok (l : Loaded) (spares : List Nat)

/-- DIGEST of a package: the hash with bytes 0x08 to 0x27 taken as 0 (R64). -/
def packageDigest (b : List Byte) : List Byte :=
  leBytes 32 (Config.blake3 (b.take 8 ++ List.replicate 32 0#8 ++ b.drop 40)).toNat

/-- The images of one tile fit its stores (R47, R81, R82). -/
def tileFits (s : State) (p : Nat) (x : TileImage) : Bool :=
  s.tilePart x.tile = some p && x.bundles.length ≤ 2048 && x.dmem.length ≤ 2048 && x.landings.length ≤ 512 &&
  x.store.all (fun c => c.1 < 4194304) &&
  x.landings.all fun d => d.base % 512 = 0 && d.size % 512 = 0 && 512 ≤ d.size && d.size ≤ 262144 &&
    d.base + d.size ≤ 4194304

/-- SLOT[i] of a cord end or a pass-through lane (R330). -/
def slotByte (t : Tab Nat) (i : Nat) : Nat := tabGet 0x10 t i

/-- Partition `p` may send in the slot (R313). -/
def maySend (t : Tab Nat) (p i : Nat) : Bool := slotByte t i % 32 = p && slotByte t i / 128 = 1

/-- The plan's use of a slot is leased to its partition (R71 SLOTS, R167). -/
def State.slotOk (s : State) (p : Nat) (u : SlotUse) : Bool :=
  if u.lane then u.index.val < 4 && maySend (tabGet [] s.lanes u.index) p u.slot
  else maySend (s.cord u.index).slots p u.slot

/-! ### The measured delay table (R67) and binding (R57, R58) -/

/-- The table's entries, or DETAIL of TABLE. DESIGN CHOICE: of several bad entries, malformed or duplicate, the lowest index is
reported, on which R67 is silent. -/
def State.readTable (s : State) (p : Nat) (b : List Byte) : Except Nat (List (Nat × Nat × Nat)) :=
  if b = [] then .ok []
  else
    let d := (s.part p).dom
    let n := leAt b 0 4
    if b.length < 16 ∨ b.length < 16 + 8 * n ∨ leAt b 8 2 ≠ (if d.st = .none then 0 else d.domainId) ∨ leAt b 10 6 ≠ 0 then
      .error 0xFFFFFF
    else
      let es := (List.range n).map fun i =>
        let w := leAt b (16 + 8 * i) 8
        (bitsOf w 14 0, bitsOf w 19 15, bitsOf w 47 32, w)
      let bad := es.zipIdx.find? fun x =>
        bitsOf x.1.2.2.2 31 20 ≠ 0 || bitsOf x.1.2.2.2 63 48 ≠ 0 || x.1.2.2.1 = 0 ||
        (es.take x.2).any fun y => y.1 = x.1.1 && y.2.1 = x.1.2.1
      match bad with
      | some x => .error x.2
      | none => .ok (es.map fun x => (x.1, x.2.1, x.2.2.1))

/-- Bind one hop: its spare, or the error code (R57). -/
def bindHop (tab : List (Nat × Nat × Nat)) (h : Hop) : Except Nat Nat :=
  match tab.find? fun e => e.1 = h.module ∧ e.2.1 = h.cord with
  | none => .error 0x09
  | some e => if e.2.2 + h.slack + h.fixed ≤ h.interval then .ok (h.interval - h.slack - h.fixed - e.2.2) else .error 0x0A

/-- Bind every hop in table order: NO_DELAY is checked for the whole table before CEILING (R71). -/
def bindAll (tab : List (Nat × Nat × Nat)) (hops : List Hop) : Except (Nat × Nat) (List Nat) :=
  let bad (code : Nat) := hops.zipIdx.find? fun h => match bindHop tab h.1 with
    | .error c => c = code
    | .ok _ => false
  match bad 0x09 with
  | some x => .error (0x09, x.2)
  | none => match bad 0x0A with
    | some x => .error (0x0A, x.2)
    | none => .ok (hops.map fun h => match bindHop tab h with | .ok v => v | .error _ => 0)

/-- TABLE, NO_DELAY and CEILING of a delay table (R71). -/
def State.bindTable (s : State) (p : Nat) (hops : List Hop) (b : List Byte) : Except (Nat × Nat) (List Nat) :=
  match s.readTable p b with
  | .error d => .error (0x0D, d)
  | .ok tab => bindAll tab hops

/-- The first RANGE failure of the header and the ceiling classes (R39, R56, R66), in the order R71 names them: step
length, margin, ceilings, then the frame areas. -/
def State.rangeFail (s : State) (p : Nat) (b : List Byte) (classes : List (CeilClass × Bool)) : Option Nat :=
  let ceil := leAt b 0x2A 2
  let len := leAt b 0x30 4
  let m0 := leAt b 0x34 4
  let m := if m0 = 0 then 8192 else m0
  let n := leAt b 0x5C 4
  if len % 64 ≠ 0 ∨ len < 16384 ∨ 2147483584 < len then some 0x30
  else if m % 64 ≠ 0 ∨ m < 1024 ∨ len / 2 < m then some 0x34
  else if ceil < 1 ∨ 4096 < ceil then some 0x2A
  else if n < 1 ∨ 8 < n then some 0x5C
  else match classFail ceil 0 0 classes with
    | some o => some (0x1000 + o)
    | none =>
      if ¬ s.bufOk p (leAt b 0x60 8) (frameStride ceil) then some 0x60
      else if leAt b 0x68 8 ≠ 0 ∧ ¬ s.bufOk p (leAt b 0x68 8) (frameStride ceil) then some 0x68
      else if ¬ s.bufOk p (leAt b 0x70 8) (outStride ceil) then some 0x70
      else none

/-- The checks of R71 from FORMAT on, in its order. DESIGN CHOICE: a package shorter than its header answers FORMAT with DETAIL
0, and a table that begins inside the package and ends beyond it counts as outside, since R71 speaks of a table offset. -/
def State.checkPackage (s : State) (p : Nat) (b : List Byte) (img : PlanImage) (tbl : List Byte) : LoadRes :=
  let inside (o n : Nat) : Bool := o + n ≤ b.length
  let hopsN := leAt b 0x2E 2
  let groups := leAt b 0x28 2
  let nCls := leAt b 0x5C 4
  if b.length < 128 ∨ leAt b 0 4 ≠ 0x4E435352 then .fail 0x01 0
  else if leAt b 4 2 ≠ 1 then .fail 0x01 4
  else if ¬ inside (leAt b 0x38 8) (16 * hopsN) then .fail 0x01 0x38
  else if ¬ inside (leAt b 0x40 8) (16 * nCls) then .fail 0x01 0x40
  else if ¬ inside (leAt b 0x48 8) (8 * groups) then .fail 0x01 0x48
  else if ¬ inside (leAt b 0x50 8) 0 then .fail 0x01 0x50
  else if Config.maxPcl < leAt b 6 2 then .fail 0x02 (leAt b 6 2)
  else if packageDigest b ≠ (b.drop 8).take 32 then .fail 0x03 0
  else
    let gs := s.groupsOf p
    if groups ≠ gs.length then .fail 0x04 gs.length
    else
      let classes := (List.range nCls).map fun i => readClass b (leAt b 0x40 8 + 16 * i)
      match s.rangeFail p b classes with
      | some d => .fail 0x05 d
      | none =>
        match img.tiles.find? fun t => t.loops.any fun l => l.max = 0 || 2 ^ 32 ≤ l.max with
        | some t => .fail 0x05 (0x800000 + t.tile)
        | none =>
          match img.tiles.find? fun t => !tileFits s p t with
          | some t => .fail 0x06 t.tile
          | none =>
            let budget (i : Nat) : Nat × Nat :=
              let w := leAt b (leAt b 0x48 8 + 8 * i) 8
              (w % 2 ^ 32, w / 2 ^ 32)
            let buds := gs.zipIdx.map fun g => (g.1, budget g.2)
            match buds.find? fun e => 917504 < e.2.1 || 57344 < e.2.2 with
            | some e => .fail 0x07 e.1
            | none =>
              match img.slots.find? fun u => !s.slotOk p u with
              | some u => .fail 0x08 (if u.lane then 32 + u.index else u.index)
              | none =>
                let hops := (List.range hopsN).map fun i => readHop b (leAt b 0x38 8 + 16 * i)
                match s.bindTable p hops tbl with
                | .error e => .fail e.1 e.2
                | .ok spares =>
                  let m0 := leAt b 0x34 4
                  .ok { pcl := leAt b 6 2, slotCeil := leAt b 0x2A 2, members := leAt b 0x2C 2, len := leAt b 0x30 4
                        margin := if m0 = 0 then 8192 else m0
                        flags := leAt b 0x58 4, digest := (b.drop 8).take 32, hops := hops
                        classes := classes.map (·.1), budgets := buds, fbArea := leAt b 0x60 8
                        fbMirror := leAt b 0x68 8, fbOut := leAt b 0x70 8, image := img } spares

/-! ### Tiles by event (R99, R126, R187) -/

/-- What LOAD and a launch both write to a tile: data memory, counts and bases from the package, the rest 0. The pending
copies of the inbound mailbox stay for the first boundary (R98). DESIGN CHOICE: where the program binds several loops to one
level, AG_MAX at launch, a "package value" to R91, is that of the first declared. -/
def launchTile (x : TileImage) (t : Tile) : Tile :=
  { t with
    scalars := []
    dmem := tabOf 0 2048 fun i => x.dmem.getD i 0
    mbox := []
    levels := tabOf {} 24 fun k => { count := ((x.levels.find? fun l => l.ag.val * 6 + l.level.val = k).map fun l => l.count.toNat).getD 0
                                     max := ((x.loops.find? fun l => l.ag.val * 6 + l.level.val = k).map (·.max)).getD 0 }
    streams := tabOf {} 32 fun k =>
      match x.streams.find? fun u => u.ag.val * 8 + u.stream.val = k with
      | some u => { base := u.base, strides := u.strides }
      | none => {}
    pos := 0, gap := 0, slots := [], ended := false, loopBad := false
    units := [], work := [], accs := [], wait := none, held := []
    lands := tabOf {} 512 fun i => match x.landings[i]? with
      | some d => { base := d.base, size := d.size }
      | none => {}
    stat0 := [], stat1 := [], active := false, ovl := [], accRows := [], flue := [] }

/-- LOAD accepted: the launch state, with the bundle store and the local-store image written. -/
def loadTile (x : TileImage) (t : Tile) : Tile :=
  { launchTile x t with
    loops := x.loops, bundles := x.bundles
    store := x.store.foldl (fun m c => wrByte m c.1 c.2) t.store }

/-- UNLOAD: every store cleared (R99); the vector registers are named by no event and stay. -/
def unloadTile (t : Tile) : Tile := { ({} : Tile) with vregs := t.vregs }

def emptyImage (t : Nat) : TileImage :=
  ⟨⟨t % 192, Nat.mod_lt _ (by decide)⟩, [], [], [], [], [], [], []⟩

/-- The image of a tile in the loaded plan. -/
def tileImage (img : PlanImage) (t : Nat) : TileImage :=
  (img.tiles.find? fun x => x.tile.val = t).getD (emptyImage t)

/-- Apply a per-tile initialiser over the partition. -/
def State.initTiles (s : State) (p : Nat) (img : PlanImage) (f : TileImage → Tile → Tile) : State :=
  (s.tilesOf p).foldl (fun s t => s.updTile t fun x => f (tileImage img t) x) s

/-- Discard what a plan has in flight: beats, staged segments, mailbox entries stay on their way (R187). -/
def State.dropFlight (s : State) (p : Nat) : State :=
  { s with
    beats := s.beats.filter fun b => b.part ≠ p
    egBeats := s.egBeats.filter fun b => b.part ≠ p
    cords := s.cords.map fun c =>
      (c.1, { c.2 with
              staged := c.2.staged.filter fun x => x.part ≠ p
              repack := c.2.repack.filter fun x => x.part ≠ p
              asm := c.2.asm.filter fun x => x.part ≠ p }) }

/-- The binding in force: spares, SPARE_MIN and SPARE_HOP (R58, R75). -/
def State.setBinding (s : State) (p : Nat) (sp : List Nat) : State :=
  let m := sp.foldl min (sp.headD 0xFFFF)
  s.updPlan p fun x =>
    { x with spares := sp, spareMin := min m 0xFFFF, spareHop := if sp = [] then 0 else sp.idxOf m }

/-! ### The actions of PLAN_CTRL (R68) -/

/-- LOAD: the plan state becomes LOADING (R68). -/
def execPlanLoad (p : PartId) (s : State) : Out3 :=
  .next (if ¬ s.fnPlan p then s else if s.planAccepts p [.empty] then
      (s.loadErr p 0 0).updPlan p fun x => { x with st := .loading }
    else s.planRefuse p)

/-- The padding registers of every unit of the partition's tiles for a PCL (R62). With its padding a unit takes exactly the
published occupancy and latency, which are what every operation below counts. -/
def State.padsFor (s : State) (p pcl : Nat) : Tab Nat :=
  (s.tilesOf p).foldl (fun m t => (List.range 10).foldl (fun m u => tabSet 0 m (16 * t + u) (Config.padding pcl u)) m) []

/-- LOAD_DONE (R71): LOADED, or EMPTY with the first check that failed. `img` is what the private
sections hold (R7); `host` is what reads through a host window returned. -/
def execLoadDone (p : PartId) (img : PlanImage) (host : HostData) (s : State) : Out3 :=
  .next (
    let pl := (s.part p).plan
    if pl.st ≠ .loading then s
    else
      let refuse (code detail : Nat) : State := (s.loadErr p code detail).updPlan p fun x => { x with st := .empty }
      match s.rdRange p pl.base pl.len host.pkg with
      | none => refuse 0x0E 0
      | some b => match s.rdRange p pl.delayBase pl.delayLen host.tbl with
        | none => refuse 0x0E 1
        | some tbl => match s.checkPackage p b img tbl with
          | .fail c d => refuse c d
          | .ok l spares =>
            let s := s.updPlan p fun x =>
              { x with st := .loaded, loaded := some l, near := [], turf := [], failOpen := false, rebind := none
                       circuits := [], passes := [], arrived := []
                       contract := l.pcl, pads := s.padsFor p l.pcl }
            let s := ((s.initTiles p img loadTile).dropFlight p).setBinding p spares
            s.loadFrames p l)

/-- ARM (R70): refused with STATE while the domain record is JOINING or LEAVING (R364), with LAUNCH
when LAUNCH_AT is fewer than 65,536 hall ticks away. -/
def execPlanArm (p : PartId) (s : State) : Out3 :=
  .next (if ¬ s.fnPlan p then s else 
    let P := s.part p
    if s.planAccepts p [.loaded, .stopped] ∧ P.dom.st ≠ .joining ∧ P.dom.st ≠ .leaving then
      if P.plan.launchAt < s.hall + 65536 then s.loadErr p 0x0B 0
      else (s.loadErr p 0 0).updPlan p fun x => { x with st := .armed }
    else s.planRefuse p)

/-- STOP (R68): the plan stops at the next step boundary. -/
def execPlanStop (p : PartId) (s : State) : Out3 :=
  .next (if ¬ s.fnPlan p then s else if s.planAccepts p [.running] then s.updPlan p fun x => { x with stopReq := true } else s.planRefuse p)

/-- The plan is discarded: tile stores, landings, flight, records and geometry (R68, R75, R186, R187);
a fence a fault made ends (R368). -/
def State.unloadNow (s : State) (p : Nat) : State :=
  let s := (s.onTiles (s.tilesOf p) unloadTile).dropFlight p
  let s := s.updPlan p fun x =>
    { x with
      st := .empty, loaded := none, spares := [], spareMin := 0xFFFF, spareHop := 0, sf := {}, failOpen := false
      rebind := none, stopReq := false, unloadWait := false, near := [], turf := [], circuits := [], passes := [], arrived := [] }
  let s := s.updDom p fun d => if d.st = .leaving then d else { d with fenced := false }
  (s.unloadFrames p).refreshFn p

/-- UNLOAD (R68, R186): at once, or when the last flue entry completes. -/
def execPlanUnload (p : PartId) (s : State) : Out3 :=
  .next (if ¬ s.fnPlan p then s else if s.planAccepts p [.loaded, .armed, .stopped, .faulted] then
      if s.flueBusy p then s.updPlan p fun x => { x with unloadWait := true } else s.unloadNow p
    else s.planRefuse p)

/-- UNLOAD_COMPLETE (R186): no entry of the partition is in flight any more. -/
def execUnloadComplete (p : PartId) (s : State) : Out3 :=
  .next (if (s.part p).plan.unloadWait ∧ ¬ s.flueBusy p then s.unloadNow p else s)

/-- REBIND (R61): a validated table waits for the next boundary; a refusal leaves what is bound and what
is pending. -/
def execRebind (p : PartId) (host : HostData) (s : State) : Out3 :=
  .next (if ¬ s.fnPlan p then s else if s.planAccepts p [.running] then
      let pl := (s.part p).plan
      match s.rdRange p pl.delayBase pl.delayLen host.tbl with
      | none => s.loadErr p 0x0E 1
      | some b => match s.bindTable p (pl.loaded.getD {}).hops b with
        | .error e => s.loadErr p e.1 e.2
        | .ok sp => (s.loadErr p 0 0).updPlan p fun x => { x with rebind := some sp }
    else s.planRefuse p)

/-- LAUNCH (R70, R99, R126, R187, R228): the plan counter starts at 0 and step 0 begins. -/
def execLaunch (p : PartId) (s : State) : Out3 :=
  .next (
    let pl := (s.part p).plan
    if pl.st = .armed ∧ pl.launchAt ≤ s.hall then
      let img := (pl.loaded.getD {}).image
      let s := (s.initTiles p img launchTile).dropFlight p
      let s := s.updPlan p fun x =>
        { x with st := .running, pc := 0, step := 0, near := [], turf := [], stopReq := false, failOpen := false
                 circuits := [], passes := [], arrived := [], firstStep := 0 }
      let s := s.updDom p fun d => { d with beaconStep := 0, beaconX := 0 }
      let s := s.updClock p fun c =>
        { c with started := false, stepStart := s.hall, beat := 0, lastBeat := none, sched := 0, fixed := 0, xs := [], seen := [], asked := []
                 seenFrom := [], lag := 0, stepHeld := 0, debtMax := 0, workDone := false, winIndex := 0, winSum := 0
                 holdCause := 0, holdTile := 0xFF, inHold := false, bndLate := false, cnt := {} }
      s.launchFrames p
    else s)

/-- SF_CLEAR (R74). -/
def execSfClear (p : PartId) (s : State) : Out3 :=
  .next (if ¬ s.fnPlan p then s else s.updPlan p fun x => { x with sf := { x.sf with valid := false, more := false } })

/-! ### Loops (R86 to R90) -/

/-- LOOP_ENTRY: the program position reaches the first bundle of the loop bound to a level, outer loops first (R86 to R88).
Loops that no command names are entered with the first operation of their bundle, or when the tick ends. -/
def execLoopEntry (at_ : Issue) (ag : Fin 4) (level : Fin 6) (s : State) : Out3 :=
  .next (match s.tilePart at_.tile with
    | none => s
    | some p =>
      let pl := (s.part p).plan
      match (s.tile at_.tile).dueLoop pl.pc pl.workEnd with
      | none => s
      | some d =>
        if pl.checks ∧ (s.part p).clock.started ∧ d.ag = ag ∧ d.level = level ∧ d.first = at_.bundle then s.enterLoop p at_.tile d else s)

/-- LOOP_SPAN_END: at the end of tick E + S − 1, with S = MAX × B and after the counts of that tick, the loop stops
running, INDEX returns to 0 and a waiting SHADOW is copied to COUNT (R86, R89). A span end that no command names comes
with the end of its tick all the same (`endTick`). -/
def execLoopSpanEnd (t : TileId) (ag : Fin 4) (level : Fin 6) (s : State) : Out3 :=
  .next (match s.tilePart t with
    | none => s
    | some p =>
      let pl := (s.part p).plan
      let x := (s.tile t).level ag level
      if pl.st = .running ∧ ¬ (s.tile t).ended ∧ x.running ∧ x.entry + x.max * x.body ≤ pl.pc + 1 then
        s.updTile t fun t => { t with work := t.work ++ [⟨pl.pc, uNone, pl.pc, sScl, 0, .loopEnd ag level⟩] }
      else s)

/-- FLUE_BUDGET_WINDOW: counts of earlier windows are dropped (R177). -/
def execFlueBudgetWindow (p : PartId) (s : State) : Out3 :=
  .next (s.updPlan p fun x =>
    let w := x.pc / 256
    { x with near := x.near.filter fun e => e.2.1 = w
             turf := x.turf.filter fun e => e.2.1 = w })

end Sys2Proof.Machine
end

