-- ==== Sys2Proof/Machine/Sched.lean ====
section
/-! DEFINITION. The step schedule (12): scheduled starts, slip requests, held beats, time losses. -/

namespace Sys2Proof.Machine

/-! ### Beats and scheduled starts (R340, R346) -/

/-- Hall tick `h` is a beat at damper setting `m` (R340). -/
def isBeat (m h : Nat) : Bool :=
  let j := h % 16
  (j + 1) * m / 16 > j * m / 16

/-- s(n): the largest slip request tagged n − 2 seen so far. -/
def Clock.slip (c : Clock) (n : Nat) : Nat := if n < 2 then 0 else tabGet 0 c.seen (n - 2)

/-- X(n): fixed from the beat before G(n), else as currently known (R346, R349). -/
def Clock.x (c : Clock) (n : Nat) : Nat :=
  if n ≤ c.fixed then tabGet 0 c.xs n
  else (List.range (n - c.fixed)).foldl (fun a i => a + c.slip (c.fixed + 1 + i)) (tabGet 0 c.xs c.fixed)

/-- G(n) as currently known. -/
def Clock.g (c : Clock) (len n : Nat) : Nat := n * len + c.x n

/-! ### Slip requests (R348, R349) -/

/-- Cords to the domain-tree neighbours of a member's module. -/
def treeCords (d : Dom) : List Nat :=
  (if d.parentValid then [d.parent] else []) ++ (List.range 32).filter fun c => d.children.testBit c

/-- The payload of SLIP_REQ (R358). -/
def msgSlip (dom tag amount module part : Nat) : List Byte :=
  leBytes 1 0x15 ++ leBytes 2 dom ++ leBytes 8 tag ++ leBytes 4 (amount / 64) ++ leBytes 2 module ++
  leBytes 1 part ++ leBytes 6 0

/-- A partition's message on each cord of a list. -/
def State.sendAllOf (s : State) (p : Nat) (cs : List Nat) (m : List Byte) : State := cs.foldl (fun s c => s.sendCtlOf p c m) s

/-- Send a CTL message on each cord of a list. -/
def State.sendAll (s : State) (cs : List Nat) (m : List Byte) : State := cs.foldl (fun s c => s.sendCtl c m) s

/-- Raise seen(j) of a partition. -/
def State.see (s : State) (p tag amount module : Nat) : State :=
  s.updClock p fun c =>
    { c with seen := tabSet 0 c.seen tag amount, seenFrom := tabSet 0 c.seenFrom tag module }

/-- Causes of TIME_LOSS (R480). -/
def tlHoldover : Nat := 1
def tlOffset : Nat := 2
def tlDamper : Nat := 3
def tlSlip : Nat := 4
def tlBeacon : Nat := 5
def tlMismatch : Nat := 6

/-- A partition of a sync domain of more than one member whose plan a time loss stops (R337). -/
def State.inLoss (s : State) (p : Nat) : Bool :=
  let P := s.part p
  let d := P.dom
  P.live && (d.st = .member || d.st = .shadow || d.st = .leaving) && (!d.root || 1 < d.membersSub) &&
  (P.plan.st = .armed || P.plan.st = .running)

/-- The cord exchanges segments. -/
def Cord.active (x : Cord) : Bool := x.st = .up || x.st = .measuring

/-- The cord that a PARENT or ALT byte names. -/
def cordOf (b : Nat) : Option Nat := if b / 128 % 2 = 1 then some (b % 32) else none

/-- The peer of a cord is LOCKED or ROOT. -/
def State.peerOk (s : State) (c : Nat) : Bool :=
  let x := s.cord c
  x.active && (x.peerSync = 2 || x.peerSync = 4)

/-- The cord a PARENT or ALT byte names has a usable peer. -/
def State.refOk (s : State) (b : Nat) : Bool :=
  match cordOf b with
  | some c => s.peerOk c
  | none => false

/-- After a time loss of sync the time unit recovers on a usable reference, the parent before the alternate; with none it
stays in HOLDOVER (R337). -/
def State.lostSync (s : State) : State :=
  let t := s.time
  { s with time := { t with
      lost := true
      st := if s.refOk t.parent || s.refOk t.altRec then .recovering else .holdover
      useAlt := if s.refOk t.parent then false else if s.refOk t.altRec then true else t.useAlt } }

/-- A time loss (R337): one module entry, every such partition stopped and fenced, the reports of R369;
after a loss of sync the time unit recovers when a reference is usable. -/
def State.timeLoss (s : State) (cause : Nat) (theta : Int) : State :=
  let hit := (List.range 16).filter fun p => s.inLoss p
  let s := s.logEv { cls := cTimeLoss, kind := kModule, index := 0, stopped := hit ≠ [], cause := cause
                     detail := leBytes 8 (theta % 2 ^ 64).toNat } hit
  let s := hit.foldl (fun s p =>
    let d := (s.part p).dom
    (s.faultStop p).reportLocal p cTimeLoss (if cause = tlBeacon then d.rootModule else s.moduleId) 0 0
      (leBytes 8 (theta % 2 ^ 64).toNat)) s
  if cause = tlHoldover ∨ cause = tlOffset then s.lostSync else s

/-- A slip request reaches the member partitions of its domain, one excepted: raised where larger, a time
loss where it is too late (R349). -/
def State.slipAt (s : State) (dom tag amount module : Nat) (but : Option Nat) : State :=
  let qs := (s.membersOf dom).filter fun q => but ≠ some q
  let late := qs.any fun q =>
    let c := (s.part q).clock
    tabGet 0 c.seen tag < amount && tag + 2 ≤ c.fixed && (s.part q).plan.st = .running
  let s := qs.foldl (fun s q =>
    let c := (s.part q).clock
    if tabGet 0 c.seen tag < amount ∧ ¬ (tag + 2 ≤ c.fixed ∧ (s.part q).plan.st = .running) then s.see q tag amount module
    else s) s
  if late then s.timeLoss tlSlip 0 else s

/-- A member's own request: to every tree neighbour and to the module's other members (R349). -/
def State.slipAsk (s : State) (p tag need : Nat) : State :=
  let d := (s.part p).dom
  let first := tabGet 0 (s.part p).clock.asked tag = 0
  let s := s.updClock p fun c => { c with asked := tabSet 0 c.asked tag need }
  let s := s.see p tag need s.moduleId
  let s := if first then s.updCnt p fun c => { c with slipsIssued := satInc 64 c.slipsIssued } else s
  if d.st = .member then
    (s.sendAllOf p (treeCords d) (msgSlip d.domainId tag need s.moduleId p)).slipAt d.domainId tag need s.moduleId (some p)
  else s

/-- Carry the projection of R348 forward while its deadlines have passed. -/
def carry (c : Clock) (len margin b : Nat) : Nat → Nat → Nat → Nat × Nat
  | 0, j, e => (j, e)
  | fuel + 1, j, e =>
    if c.g len (j + 1) + len ≤ b + 64 * c.slipLead then
      carry c len margin b fuel (j + 1) (max (c.g len (j + 2)) (e + len - margin))
    else (j, e)

/-- The projection at beat `b`, and the request it makes (R348). A shadow requests nothing (R378). -/
def State.slipProject (s : State) (p b : Nat) : State :=
  let P := s.part p
  let len := P.plan.stepLen
  let m := P.plan.margin
  let n := P.plan.step
  let c := P.clock
  let work := n * len + len - m
  let w := if P.plan.pc < work then work - P.plan.pc
    else if c.g len (n + 1) ≤ b then 1 else 0
  let z := carry c len m b 300 n (max (c.g len (n + 1)) (b + w))
  let need := (z.2 - c.g len (z.1 + 1) + 63) / 64 * 64
  if tabGet 0 c.seen z.1 < need ∧ P.dom.st ≠ .shadow then s.slipAsk p z.1 need else s

/-! ### The scheduled start (R346, R352) -/

/-- A twin's MODE write takes effect at the next scheduled step start, and MIRROR becomes ALIAS_MIRROR at
SWAP_STEP (R374). -/
def Cord.twinStart (x : Cord) (n : Nat) : Cord :=
  let x := match x.twinNext with
    | some m => { x with twinMode := m, twinNext := none }
    | none => x
  if x.swapStep ≠ 0 ∧ x.swapStep = n ∧ x.twinMode = 1 then { x with twinMode := 3 } else x

/-- Some slot of the cord is the partition's. -/
def Cord.hasSlot (x : Cord) (p : Nat) : Bool := x.slots.any fun e => e.2 % 32 = p

/-- SHADOW_SYNC (R376, R388). -/
def msgShadowSync (dom step hall p : Nat) : List Byte :=
  leBytes 1 0x35 ++ leBytes 2 dom ++ leBytes 8 step ++ leBytes 8 hall ++ leBytes 1 p ++ leBytes 4 0

/-- Beat `b` is the scheduled start of the next step: the primary of a shadow tells it the hall count, X is fixed, the slip is counted and, beyond SLIP_MAX,
the partition stops (R352). A step's own request is logged with its final amount. -/
def State.schedule (s : State) (p b : Nat) : State :=
  let P := s.part p
  let n := P.clock.sched + 1
  if b < P.clock.g P.plan.stepLen n then s
  else
    let slip := P.clock.slip n
    let tag := n - 2
    let win := s.hall / P.clock.slipWindow
    let sum := (if P.clock.winIndex = win then P.clock.winSum else 0) + slip
    let s := s.updClock p fun c =>
      { c with
        xs := tabSet 0 c.xs n (c.x n), sched := n, fixed := max c.fixed n
        winIndex := if slip = 0 then c.winIndex else win
        winSum := if slip = 0 then c.winSum else sum }
    let d := P.dom
    let s := if d.st = .member ∧ d.pairValid then s.sendCtlOf p d.pair (msgShadowSync d.domainId n s.hall p) else s
    let s := { s with cords := s.cords.map fun e => (e.1, if e.2.hasSlot p then e.2.twinStart n else e.2) }
    let s := if d.st = .member ∧ ¬ d.root ∧ d.beaconStep = n ∧ d.beaconHall ≠ 0 ∧ d.beaconX ≠ P.clock.x n
      then s.timeLoss tlMismatch 0 else s
    if slip = 0 then s
    else
      let asked := tabGet 0 P.clock.asked tag
      let s := s.updCnt p fun c => { c with slipsApplied := satInc 64 c.slipsApplied }
      let s := if asked = 0 then s else s.logEv (s.slipEntry p cSlip tag asked false)
      if P.clock.slipMax < sum then
        ((s.logEv (s.slipEntry p cSlipLimit tag slip true)).faultStop p).reportLocal p cSlipLimit
          (if P.dom.root then s.moduleId else P.dom.rootModule) 3 (n % 256) (leBytes 8 (tabGet 0 P.clock.seenFrom tag))
      else s

/-- After beat `b` the next beat is G(n): s(n) is final as it now stands (R349). -/
def State.fixNext (s : State) (p b : Nat) : State :=
  s.updClock p fun c =>
    let n := c.sched + 1
    if c.fixed < n ∧ c.g (s.part p).plan.stepLen n ≤ b + 1 then { c with xs := tabSet 0 c.xs n (c.x n), fixed := n } else c

/-! ### Damper changes (R342) -/

/-- The first pending change of the damper is applied, and the next one set takes its place. -/
def Clock.nextDamper (c : Clock) : Clock :=
  let c := { c with m := c.mNext, seq := c.seqNext, cnt := if c.mNext = c.m then c.cnt else { c.cnt with damper := satInc 64 c.cnt.damper } }
  match c.queued with
  | [] => { c with pend := false }
  | e :: r => { c with seqNext := e.1, mNext := e.2.1, damperAt := e.2.2, queued := r }

/-- Every change whose H has come by hall count `h`. -/
def Clock.damperDue (c : Clock) (h : Nat) : Nat → Clock
  | 0 => c
  | n + 1 => if c.pend ∧ c.damperAt ≤ h then c.nextDamper.damperDue h n else c

/-- The changes of a partition's damper setting that are due now. -/
def State.damperNow (s : State) (p : Nat) : State := s.updClock p fun c => c.damperDue s.hall (c.queued.length + 1)

/-! ### Held beats (R345) -/

def hcLanding : Nat := 1
def hcFlue : Nat := 2
def hcBoundary : Nat := 3
def hcSeal : Nat := 4
def hcFreeze : Nat := 5

/-- Count a held beat; the first of a run is a hold event. -/
def State.heldBeat (s : State) (p cause tile : Nat) : State :=
  let first := !(s.part p).clock.inHold
  let s := s.updClock p fun c =>
    { c with
      stepHeld := c.stepHeld + 1, inHold := true
      holdCause := if first then cause else c.holdCause
      holdTile := if first then tile else c.holdTile
      cnt := { c.cnt with
               holdTicks := satInc 64 c.cnt.holdTicks
               holdEvents := if first then satInc 64 c.cnt.holdEvents else c.cnt.holdEvents } }
  if first then s.cinderInc kPart p cHold else s

/-- A beat that is not held ends a run. -/
def State.freeBeat (s : State) (p : Nat) : State := s.updClock p fun c => { c with inHold := false }

/-- The lowest tile of the partition that waits, with its cause. -/
def State.waiting (s : State) (p : Nat) : Option (Nat × Nat) :=
  (s.tilesOf p).findSome? fun t => match (s.tile t).wait with
    | none => none
    | some (.landing _) => some (t, hcLanding)
    | some _ => some (t, hcFlue)

/-- A die of the partition is frozen (R344). -/
def State.frozen (s : State) (p : Nat) : Bool := s.time.frozen.any fun d => (s.groupsOf p).any fun g => g / 8 = d

end Sys2Proof.Machine
end

