-- ==== Sys2Proof/Machine/Beat.lean ====
section
/-! DEFINITION. BEAT (R341) and STEP_BOUNDARY (R225): one plan tick of a partition, and the passage from one
step to the next. -/

namespace Sys2Proof.Machine

/-! ### Egress staging (R165, R374, R379) -/

/-- Cords that carry what a plan sends on cord `c`, by its twin record, the cord of its planned slots first (R374). -/
def State.twinCords (s : State) (c : Nat) : List Nat :=
  let x := s.cord c
  let b := x.twin % 32
  if x.twin / 128 = 0 then [c]
  else match x.twinMode with
    | 0 => [c]
    | 1 => [c, b]
    | 2 => [b]
    | _ => [b, c]

/-- Hall ticks from an ingress port to an egress port over the crossbar, and over a lane where the die changes (R167). -/
def passTicks (i c : Nat) : Nat := if cordDie i = cordDie c then 8 else 14

/-- The cord's staging holds as many segments as it can (R165). -/
def Cord.full (x : Cord) : Bool := 64 ≤ x.staged.length

/-- Put a PLAN segment into the staging of the cords that carry it; one that has no room discards it and counts it (R165,
R291); a shadow stages nothing (R378). A segment that came in on cord `via` can leave a cord once it has crossed to it
(R167). The copy a twin carries is no retry absorbed (R354). -/
def State.stage (s : State) (c : Nat) (x : Staged) (via : Option Nat := none) : State :=
  if (s.part x.part).dom.st = .shadow then s
  else (s.twinCords c).zipIdx.foldl (fun s e => s.updCord e.1 fun y =>
    if y.full then { y with stageDrop := satInc 32 y.stageDrop }
    else
      let at_ := match via with
        | some i => s.hall + passTicks i e.1
        | none => 0
      { y with staged := y.staged ++ [{ x with readyHall := at_, retx := x.retx && e.2 = 0 }] }) s

/-- The segments a repacking buffer can form: 768 bytes each, the last one padded (R165, R281). -/
def cutSegs (last : Bool) : Nat → List Byte → List (List Byte) × List Byte
  | 0, b => ([], b)
  | fuel + 1, b =>
    if 768 ≤ b.length then
      let z := cutSegs last fuel (b.drop 768)
      (b.take 768 :: z.1, z.2)
    else if last ∧ b ≠ [] then ([b ++ List.replicate (768 - b.length) 0#8], [])
    else ([], b)

/-- A beat reaches its egress port at plan tick `pc`. A beat that finds the staging of the cord it leaves by full, and what
follows it of its transfer, is discarded and counted (R291). -/
def State.egressBeat (s : State) (pc : Nat) (e : EgBeat) : State :=
  let x := s.cord e.cord
  let mine (r : Repack) : Bool := r.part = e.part && r.tile = e.tile && r.issue = e.issue && r.eng = e.eng
  let r := (x.repack.find? mine).getD ⟨e.part, e.tile, e.issue, e.eng, 0, 0, []⟩
  let out := (s.twinCords e.cord).headD e.cord
  if (s.cord out).full ∨ r.beats ≠ e.index then
    s.updCord out fun x => { x with stageDrop := satInc 32 x.stageDrop }
  else
    let z := cutSegs e.last 3 (r.bytes ++ e.bytes)
    let r' : Repack := { r with beats := r.beats + 1, next := r.next + z.1.length, bytes := z.2 }
    let s := s.updCord e.cord fun x =>
      { x with repack := x.repack.filter (fun q => !mine q) ++ (if e.last then [] else [r']) }
    let len := (s.part e.part).plan.stepLen
    z.1.zipIdx.foldl (fun s y =>
      let i := r.next + y.2
      let planned := e.issue + e.deps.getD i (pc + 3 - e.issue)
      let step := if len = 0 then 0 else e.issue / len
      let s := s.digItem e.part step
        (leBytes 8 1 ++ leBytes 8 step ++ leBytes 8 planned ++ leBytes 2 e.cord ++ leBytes 2 e.route ++
          leBytes 2 i ++ leBytes 2 0) y.1
      s.stage e.cord { part := e.part, route := e.route, index := i, tag := e.tag.toNat, payload := y.1
                       planned := planned, ready := pc + 3 }) s

/-- Beats due at their ports at plan tick `pc`. -/
def State.egressDue (s : State) (p pc : Nat) : State :=
  let due := s.egBeats.filter fun e => e.part = p ∧ e.due ≤ pc
  due.foldl (fun s e => s.egressBeat pc e) { s with egBeats := s.egBeats.filter fun e => ¬ (e.part = p ∧ e.due ≤ pc) }

/-! ### The boundary's conditions (R346, R225) -/

/-- The beat moves the counter to or past the margin of its step, and the next step's scheduled start has come. -/
def State.boundaryDue (s : State) (p b : Nat) : Bool :=
  let P := s.part p
  let len := P.plan.stepLen
  P.clock.started && (s.waiting p).isNone &&
  decide ((P.plan.step + 1) * len ≤ P.plan.pc + 1 + P.plan.margin) && decide (P.clock.g len (P.plan.step + 1) ≤ b)

/-- What keeps a due boundary waiting: a freeze, an incomplete flue entry, or a seal under MISS_HOLD. A stop
waits for no seal. -/
def State.boundaryWait (s : State) (p : Nat) : Option Nat :=
  let P := s.part p
  if s.frozen p then some hcFreeze
  else if s.flueBusy p then some hcBoundary
  else if P.frame.missHold ∧ ¬ P.plan.stopReq ∧ ¬ s.isSealed p then some hcSeal
  else none

/-- A seal wait begins: FB_MISSED counts it once (R225 item 2). -/
def State.sealWaits (s : State) (p : Nat) : State :=
  if (s.part p).frame.sealWait then s
  else s.updFrame p fun f => { f with sealWait := true, missed := satInc 32 f.missed }

/-- A boundary that waits for flue entries adds 1 to LATE_AWAITS (R182). -/
def State.boundaryLate (s : State) (p : Nat) : State :=
  if (s.part p).clock.bndLate then s
  else (s.updClock p fun c => { c with bndLate := true }).updCnt p fun c => { c with lateAwaits := satInc 64 c.lateAwaits }

/-! ### One plan tick -/

/-- Work of a step ends: its debt enters DEBT_MAX; a shadow beyond its allowance is late (R347, R378). -/
def State.endWork (s : State) (p : Nat) : State :=
  let P := s.part p
  let debt := P.clock.lag + P.clock.stepHeld
  let s := s.updClock p fun c => { c with workDone := true, debtMax := min (2 ^ 32 - 1) (max c.debtMax debt) }
  if P.dom.st = .shadow ∧ P.plan.margin + P.clock.slip (P.plan.step + 1) < debt then
    s.updDom p fun d => { d with lateSteps := satInc 32 d.lateSteps, matched := 0 }
  else s

/-- Do something at the hall count of the last beat used, when the plan tick now ending began. -/
def State.atBeat (s : State) (p : Nat) (f : State → State) : State :=
  { f { s with hall := ((s.part p).clock.lastBeat).getD s.hall } with hall := s.hall }

/-- Loops that no command entered in the standing tick are entered (R86). -/
def State.enterAll (s : State) (p : Nat) : State := (s.tilesOf p).foldl (fun s n => s.enterDue p n 7) s

/-- Errors that the words used in plan tick `pc` meet in the arrays of the matrix engines, by tile (R125). -/
def State.eccAll (s : State) (p pc : Nat) : List (Nat × MxeEcc) :=
  (s.tilesOf p).flatMap fun n => (eccDue (s.tile n) pc).map fun e => (n, e)

/-- Failed checks that end plan tick `pc` (R72). -/
def State.closeFails (s : State) (p pc : Nat) : List SchedFail :=
  (s.tilesOf p).flatMap fun t => if (s.tile t).ended then [] else tileFails (s.tile t) t pc

/-- Plan tick `pc` ends: its checks, and if they pass its writes; an uncorrectable error of a word it uses stops it (R72, R93 to
R95, R125). -/
def State.closeTick (s : State) (p : Nat) : State :=
  let s := s.enterAll p
  let pc := (s.part p).plan.pc
  let fails := s.closeFails p pc
  let eccs := s.eccAll p pc
  let s := eccs.foldl (fun s e => s.eccLog p pc e.1 e.2) (s.trackTick p pc)
  if (s.part p).plan.st ≠ .running then (s.schedFail p fails).updPlan p fun x => { x with failOpen := false }
  else if fails ≠ [] then (s.schedFail p fails).updPlan p fun x => { x with failOpen := false }
  else match eccs.find? fun e => !e.2.corrected with
    | some e => s.ueStop p cSramUe (leBytes 2 e.2.row.toNat)
    | none => (s.tilesOf p).foldl (fun s t => s.endTick p pc t) s

/-- Plan tick `q` begins: routes take their paths, flue entries meet their bounds, beats reach their egress ports, and the
tiles' reads in progress take their lines, checked first (R53). -/
def State.openTick (s : State) (p q : Nat) : State :=
  let s := ((s.routeTick p q).flueBounds p q).egressDue p q
  let ts := s.tilesOf p
  let fails := ts.flatMap fun t => startFails (s.tile t) t q
  let s := ts.foldl (fun s t => s.startTick p q t) s
  if fails ≠ [] then s.schedFail p fails else s

/-- Move from plan tick `pc` to `pc + 1`: the tick ends, then the beats due and the reads that begin the next. -/
def State.tick (s : State) (p : Nat) : State :=
  let pc := (s.part p).plan.pc
  let s := s.atBeat p fun s => s.closeTick p
  if (s.part p).plan.st ≠ .running then s
  else
    let s := (s.updPlan p fun x => { x with pc := pc + 1 }).openTick p (pc + 1)
    let P := s.part p
    if P.plan.st = .running ∧ ¬ P.clock.workDone ∧ (P.plan.step + 1) * P.plan.stepLen ≤ P.plan.pc + P.plan.margin
    then s.endWork p else s

/-- The beat is used: the next one has the next index. -/
def State.useBeat (s : State) (p : Nat) : State :=
  s.updClock p fun c => { c with beat := c.beat + 1, lastBeat := some s.hall }

/-- A beat of a launched plan, or of a shadow at its step K, whose first step has not begun: held while a die is frozen or
under MISS_HOLD the frame is not sealed, else the step begins on it (R225 item 2, R228, R344, R345). -/
def State.launchBeat (s : State) (p b : Nat) : State :=
  let P := s.part p
  if s.frozen p then s.heldBeat p hcFreeze 0xFF
  else if P.frame.launchWait ∧ ¬ s.isSealed p then (s.sealWaits p).heldBeat p hcSeal 0xFF
  else
    let n := P.plan.step
    let s := if P.frame.launchWait then s.launchFlip p n else s
    ((s.freeBeat p).updClock p fun c =>
      { c with started := true, stepStart := s.hall, lag := b - c.g P.plan.stepLen n, stepHeld := 0 }).openTick p (n * P.plan.stepLen)

/-- A beat of a running plan that is no boundary (R341, R345, R346). -/
def State.runBeat (s : State) (p : Nat) : State :=
  let b := (s.part p).clock.beat
  let s := (s.schedule p b).useBeat p
  let P := s.part p
  if P.plan.st ≠ .running then s
  else
    let len := P.plan.stepLen
    let inMargin := decide ((P.plan.step + 1) * len ≤ P.plan.pc + P.plan.margin)
    let s := if ¬ P.clock.started then s.launchBeat p b
      else if s.boundaryDue p b then
        match s.boundaryWait p with
        | some c =>
          let s := if c ≠ hcFreeze ∧ ¬ inMargin then s.tick p else s
          if (s.part p).plan.st ≠ .running then s
          else (if c = hcSeal then s.sealWaits p else if c = hcBoundary then s.boundaryLate p else s).heldBeat p c 0xFF
        | none => s
      else if s.frozen p then (if inMargin then s.freeBeat p else s.heldBeat p hcFreeze 0xFF)
      else match s.waiting p with
        | some (t, c) => s.heldBeat p c t
        | none =>
          let s := s.freeBeat p
          if P.plan.pc + 1 = (P.plan.step + 1) * len then s
          else s.tick p
    (if (s.part p).plan.st = .running then s.slipProject p b else s).fixNext p b

/-- A stopped plan's last plan tick: the checks of the same tick are still merged (R73), and what its circuits still carry is
dropped (R187). -/
def State.closeFail (s : State) (p : Nat) : State :=
  let s := s.atBeat p fun s => s.closeTick p
  { s with beats := s.beats.filter fun b => ¬ (b.part = p ∧ b.circuit) }

/-- The hall tick is a beat of the partition that no command has used yet (R340). -/
def State.beatNow (s : State) (p : Nat) : Bool :=
  let c := (s.part p).clock
  isBeat c.m s.hall && c.lastBeat != some s.hall

/-- A beat of a shadow that waits for step K: at G(K) its plan starts there, unless the schedule has just stopped it (R352,
R376). -/
def State.shadowBeat (s : State) (p k : Nat) : State :=
  let b := (s.part p).clock.beat
  let s := (s.schedule p b).useBeat p
  if (s.part p).clock.sched < k ∨ (s.part p).plan.st ≠ .loaded then s.fixNext p b
  else
    let len := (s.part p).plan.stepLen
    let s := (s.initTiles p ((s.part p).plan.loaded.getD {}).image launchTile).dropFlight p
    let s := s.updPlan p fun x =>
      { x with st := .running, pc := k * len, step := k, near := [], turf := [], stopReq := false, failOpen := false
               circuits := [], passes := [], arrived := [], firstStep := k }
    let s := s.updClock p fun c =>
      { c with started := false, stepStart := s.hall, lag := 0, stepHeld := 0, debtMax := 0, workDone := false
               holdCause := 0, holdTile := 0xFF, inHold := false, bndLate := false, cnt := {} }
    let s := s.updDom p fun d => { d with startStep := none, syncHall := none }
    (((s.updFrame p fun f => { f with launched := true }).launchFlip p k).launchBeat p b).fixNext p b

/-- The plan tick of the last beat ends, unless a bundle of it still waits or the first step has not begun. -/
def State.endPrev (s : State) (p : Nat) : State :=
  if (s.waiting p).isSome ∨ ¬ (s.part p).clock.started then s else s.atBeat p fun s => s.closeTick p

/-- BEAT. A boundary that is due and ready is left to STEP_BOUNDARY, which takes this beat. -/
def execBeat (p : PartId) (s : State) : Out3 :=
  .next (
    let s := s.damperNow p
    let P := s.part p
    if P.plan.st = .faulted ∧ P.plan.failOpen then s.closeFail p
    else if P.plan.st = .loaded ∧ P.dom.st = .shadow ∧ P.dom.syncHall.isSome ∧ s.beatNow p then
      match P.dom.startStep with
      | some k => s.shadowBeat p k
      | none => s
    else if P.plan.st ≠ .running ∨ ¬ s.beatNow p then s
    else
      let s := s.endPrev p
      let z := s.schedule p P.clock.beat
      if (s.part p).plan.st ≠ .running then s
      else if (z.part p).plan.st = .running ∧ z.boundaryDue p P.clock.beat ∧ z.boundaryWait p = none then s
      else s.runBeat p)

/-! ### The step boundary -/

/-- A FILLING or VALID landing buffer at the boundary (R53 detail 3). -/
def State.boundaryFails (s : State) (p tick : Nat) : List SchedFail :=
  (s.tilesOf p).flatMap fun t =>
    ((s.tile t).lands.filter fun e => 0 < e.2.size ∧ e.2.st ≠ .empty).map fun e =>
      { cls := cLandingOverrun, tile := t, slot := sLand, tick := tick, detLo := e.1, detMid := 3 }

/-- A word of the inbound mailbox after a write of it, or of half of it (R81, R98). -/
def MboxWrite.onto (w : MboxWrite) (old : BitVec 64) : BitVec 64 :=
  match w.half with
  | none => w.val
  | some 0 => BitVec.ofNat 64 (old.toNat / 2 ^ 32 * 2 ^ 32 + w.val.toNat % 2 ^ 32)
  | some _ => BitVec.ofNat 64 (old.toNat % 2 ^ 32 + w.val.toNat % 2 ^ 32 * 2 ^ 32)

/-- Item 3 of R225 in hall tick `h`: words written before it become visible; those written in it wait for the next boundary
(R98). -/
def mboxCopy (h : Nat) (t : Tile) : Tile :=
  { t with
    mbox := (t.mboxIn.filter fun w => w.hall < h).foldl (fun m w => tabUpd 0 m w.word w.onto) t.mbox
    mboxIn := t.mboxIn.filter fun w => h ≤ w.hall }

/-- What a tile keeps across a boundary: flues empty, landings EMPTY, no loop running and the program position at bundle 0
(R48, R83, R99, R176). -/
def boundaryTile (h : Nat) (t : Tile) : Tile :=
  mboxCopy h { t with
    flue := [], wait := none, held := [], pos := 0, gap := 0
    levels := t.levels.map fun e => (e.1, if e.2.running then e.2.stop else e.2) }

/-- The digest of the step just ended goes to LAST_DIGEST; a primary sends it on PAIR, a shadow keeps it to
compare (R379, R380). -/
def State.stepDigest (s : State) (p n : Nat) : State :=
  let d := (s.part p).dom
  let v := match s.digKey p with
    | some _ => tabGet 0 d.digSums n
    | none => 0
  let s := s.updDom p fun d => { d with lastDigest := v, digSums := d.digSums.filter fun e => n < e.1 }
  if d.st = .shadow then s.updDom p fun d => { d with ownDigs := d.ownDigs ++ [(n, v)] }
  else if d.st = .member ∧ d.pairValid then
    s.sendCtlOf p d.pair (leBytes 1 0x36 ++ leBytes 2 d.domainId ++ leBytes 8 n ++ leBytes 8 v ++ leBytes 1 p ++ leBytes 4 0)
  else s

/-- Compare a shadow's digests with those received; one not received by the end of step n + 2 is a mismatch (R380). -/
def State.compareDigs (s : State) (p ended : Nat) : State :=
  let d := (s.part p).dom
  d.ownDigs.foldl (fun s o =>
    let hit := d.farDigs.find? fun f => f.1 = o.1
    let settle (f : Dom → Dom) : State := s.updDom p fun d =>
      f { d with ownDigs := d.ownDigs.filter (fun x => x.1 ≠ o.1), farDigs := d.farDigs.filter fun x => x.1 ≠ o.1 }
    match hit with
    | some f =>
      if f.2 = o.2 ∧ (s.digKey p).isSome then settle fun d => { d with matched := satInc 16 d.matched }
      else settle fun d => { d with mismatches := satInc 32 d.mismatches, matched := 0 }
    | none =>
      if o.1 + 2 ≤ ended then settle fun d => { d with mismatches := satInc 32 d.mismatches, matched := 0 } else s) s

/-- STOP takes effect at the boundary (R68, R228). -/
def State.stopPlan (s : State) (p : Nat) : State :=
  let s := (s.flushSlips p).updPlan p fun x => { x with st := .stopped, stopReq := false, rebind := none }
  ((s.freezeUnits p).stopFrames p).updClock p fun c => { c with inHold := false }

/-- Nothing of the partition is in flight in a tile or on a track. -/
def State.quiet (s : State) (p : Nat) : Bool :=
  (s.tilesOf p).all (fun t => (s.tile t).work.isEmpty && (s.tile t).accs.isEmpty) && s.egBeats.all fun e => e.part != p

/-- The unused ticks of the margin pass in the boundary's beat (R12): what is still in flight advances to the last. -/
def State.runOut (s : State) (p last : Nat) : Nat → State
  | 0 => s
  | fuel + 1 =>
    if (s.part p).plan.st ≠ .running ∨ last ≤ (s.part p).plan.pc ∨ s.quiet p then s else (s.tick p).runOut p last fuel

/-- The boundary between step n and n + 1, its conditions met: R225 in order, at beat `b`. -/
def State.passBoundary (s : State) (p b : Nat) : State :=
  let n := (s.part p).plan.step + 1
  let len := (s.part p).plan.stepLen
  let s := (s.runOut p (n * len - 1) (n * len - 1 - (s.part p).plan.pc)).atBeat p fun s => s.closeTick p
  if (s.part p).plan.st ≠ .running then s else
  let fails := s.boundaryFails p (n * len)
  let s := if (s.part p).clock.workDone then s else s.endWork p
  let bad := (s.tilesOf p).findSome? fun t => ((s.tile t).flue.find? fun e => e.2.used && e.2.failed && !e.2.awaited).map (·.2)
  match bad with
  | some e => s.ueStop p cMemUe (groupDetail e.addr)
  | none =>
  if fails ≠ [] then s.schedFail p fails
  else
    let s := (s.stepDigest p (n - 1)).compareDigs p (n - 1)
    let s := s.onTiles (s.tilesOf p) fun t => settleDraws t
    let s := match (s.part p).plan.rebind with
      | some sp => (s.setBinding p sp).updPlan p fun x => { x with rebind := none }
      | none => s
    if (s.part p).plan.stopReq then s.stopPlan p
    else
      let s := s.flip p n
      let s := s.onTiles (s.tilesOf p) (boundaryTile s.hall)
      let s := s.boundaryRest p n
      let s := s.updPlan p fun x => { x with pc := n * len, step := n, circuits := [], passes := [] }
      let s := (s.updClock p fun c =>
        { c with stepStart := s.hall, lag := b - c.g len n, stepHeld := 0, workDone := false, inHold := false, bndLate := false }).openTick p (n * len)
      (if (s.part p).plan.st = .running then s.slipProject p b else s).fixNext p b

/-- STEP_BOUNDARY: at the first beat at or after G(n + 1) at which the boundary's conditions hold. -/
def execStepBoundary (p : PartId) (s : State) : Out3 :=
  .next (
    let s := s.damperNow p
    let P := s.part p
    if P.plan.st ≠ .running ∨ ¬ s.beatNow p then s
    else
      let s := s.endPrev p
      let z := s.schedule p P.clock.beat
      if (s.part p).plan.st ≠ .running then s
      else if (z.part p).plan.st = .running ∧ z.boundaryDue p P.clock.beat ∧ z.boundaryWait p = none then
        (z.useBeat p).passBoundary p P.clock.beat
      else s)

end Sys2Proof.Machine
end

