-- ==== Sys2Proof/Machine/Ember.lean ====
section
/-! DEFINITION. Ember cores (07): mailboxes, halts, the serving block's commands, steal queues, budgets. -/

namespace Sys2Proof.Machine

/-- What a running core does for its partition; a core held, halted or of no partition does nothing. -/
def State.byCore (s : State) (c : Nat) (f : Nat → State) : State :=
  match s.ownerOf (c / 4) with
  | some p => if (s.core c).run = .running then f p else s
  | none => s

/-- A core's own count of an ignored or fenced access (R19, R190). -/
def State.coreFence (s : State) (c : Nat) : State := s.fenceInc kCore c

/-- A load or store access fault in a core (R20, R190). -/
def State.accessFault (s : State) (c : Nat) (store : Bool) (addr : Nat) : State :=
  s.updCore c fun x => { x with fault := some ⟨store, addr⟩ }

/-! ### Mailboxes (R96 to R98, R192 to R194) -/

/-- Entries a ring holds: HEAD − TAIL modulo 128. -/
def Core.mbCount (x : Core) : Nat := (x.mbHead + 128 - x.mbTail) % 128

/-- An entry reaches a core: into the ring, or dropped and counted when it is full or the core is disabled (R193, R472). -/
def State.mbPut (s : State) (c : Nat) (bytes : List Byte) : State :=
  if (s.core c).mbCount = 64 ∨ s.coreOff c then
    (s.updCore c fun x => { x with mbDropped := satInc 32 x.mbDropped }).raiseCore c 2
  else
    (s.updCore c fun x =>
      { x with ring := tabSet [] x.ring (x.mbHead % 64) bytes, mbHead := (x.mbHead + 1) % 128 }).raiseCore c 1

/-- Remove the first entry that satisfies a test. -/
def takeMail (f : MbEntry → Bool) : List MbEntry → Option (MbEntry × List MbEntry)
  | [] => none
  | b :: r => if f b then some (b, r) else (takeMail f r).map fun x => (x.1, b :: x.2)

/-- MAILBOX_ENTRY_ARRIVAL: the oldest entry on its way to the core whose travel time has passed. The travel time is in plan
ticks: an entry on its way when the plan stops arrives once a later run's plan counter reaches its tick (DESIGN CHOICE,
entry 53: R96 and R187 do not say). -/
def execMailboxEntryArrival (core : CoreId) (s : State) : Out3 :=
  .next (match takeMail (fun b => b.core = core.val ∧ b.due ≤ (s.part b.part).plan.pc) s.mail with
    | none => s
    | some (b, rest) => ({ s with mail := rest } : State).mbPut core b.bytes)

/-- TMBX_WRITE (R194): a 64-bit write, or a half of the pending word. -/
def execTmbxWrite (core : CoreId) (tile : TileId) (word : Fin 16) (half : Option (Fin 2)) (v : BitVec 64) (s : State) : Out3 :=
  .next (s.byCore core fun p =>
    if s.tilePart tile = some p ∧ tileDie tile = core.val / 32 then
      s.updTile tile fun t => { t with mboxIn := t.mboxIn ++ [⟨word, half.map (·.val), v, s.hall⟩] }
    else s.coreFence core)

/-- MB_TAIL_WRITE (R193): ignored when HEAD − TAIL would exceed 64. -/
def execMbTailWrite (core : CoreId) (tail : Fin 128) (s : State) : Out3 :=
  .next (s.byCore core fun _ =>
    if ((s.core core).mbHead + 128 - tail) % 128 ≤ 64 then s.updCore core fun x => { x with mbTail := tail } else s)

/-! ### Halts and images (R195 to R197, R227) -/

/-- EMBER_HALT: the core takes a trap it cannot handle (R197). -/
def execEmberHalt (core : CoreId) (mcause mepc mtval : BitVec 64) (s : State) : Out3 :=
  .next (s.byCore core fun p =>
    let s := s.updCore core fun x => { x with run := .halted, mcause := mcause, mepc := mepc, mtval := mtval }
    let s := s.logEv { cls := 0x40, kind := kCore, index := core, part := p, addr := mepc.toNat
                       detail := leBytes 8 mcause.toNat ++ leBytes 8 mtval.toNat }
    s.setSrv p 3)

/-- What HALT, START and START_IMAGE do to the assists: steal queues emptied, an unsealed or sealing shadow
OPEN (R196, R199). -/
def State.resetServing (s : State) (p : Nat) : State :=
  let s := (s.coresOf p).foldl (fun s c => s.updCore c fun x =>
    { x with sq := [], sqWord0 := 0, sqLatch := 0, sqRefused := false, sqVictim := 0 }) s
  if (s.part p).frame.shadow = .sealing then s.abandonSeal p else s

/-- The plan states in which SRV_CTRL acts (R227). -/
def State.srvAccepts (s : State) (p : Nat) : Bool :=
  match (s.part p).plan.st with
  | .empty | .loaded | .stopped | .faulted => true
  | _ => false

def State.srvErr (s : State) (p e : Nat) : State := s.updServing p fun v => { v with error := e }

/-- HALT: every core held in reset. -/
def execHalt (p : PartId) (s : State) : Out3 :=
  .next (if ¬ s.fnReady p then s
    else if s.srvAccepts p then
      let s := (s.srvErr p 0).resetServing p
      let s := (s.coresOf p).foldl (fun s c => s.updCore c fun x => { x with run := .held }) s
      (s.updServing p fun v => { v with held := true }).setSrv p 0
    else s.srvErr p 1)

/-- CORE_INFO of a core of partition `p` (R192). -/
def coreInfo (c p : Nat) : Nat := c + c / 4 * 2 ^ 6 + p * 2 ^ 10 + c / 32 * 2 ^ 14

/-- A core leaves reset at an image's entry: machine mode, a0 its CORE_INFO value (R195). A core that REPAIR took out stays
held (R472). Its other registers are as they were. -/
def State.startCore (s : State) (p c : Nat) (entry : BitVec 64) : State :=
  s.updCore c fun x => if s.coreOff c then { x with run := .held }
    else { x with
      run := .running, mode := .machine, pc := entry, xs := tabSet 0 x.xs 10 (BitVec.ofNat 64 (coreInfo c p)), fault := none }

/-- The partition-mapped window of the Ember view (R189). -/
def emberWindow : Nat := 0x400000000000

/-- Start every core of the partition on an image, after the key actions of R403. A replacement is executed in place: its
entry is its first byte, reached through the partition-mapped window. -/
def State.startCores (s : State) (p : Nat) (elvune : Bool) : State :=
  let entry := if elvune then Config.elvuneEntry else BitVec.ofNat 64 (emberWindow + (s.part p).serving.imgBase)
  let s := ((s.srvErr p 0).resetServing p).restartKeys p
  let s := (s.coresOf p).foldl (fun s c => s.startCore p c entry) s
  (s.updServing p fun v => { v with held := false, elvune := elvune }).setSrv p (if elvune then 1 else 2)

/-- START: the Elvune image from Collier flash. -/
def execStart (p : PartId) (s : State) : Out3 :=
  .next (if ¬ s.fnReady p then s else if s.srvAccepts p then s.startCores p true else s.srvErr p 1)

/-- START_IMAGE: the image at EMBER_IMAGE_BASE is measured and started. -/
def execStartImage (p : PartId) (s : State) : Out3 :=
  .next (if ¬ s.fnReady p then s
    else if ¬ s.srvAccepts p then s.srvErr p 1
    else
      let v := (s.part p).serving
      if v.imgLen = 0 then s.srvErr p 3
      else if ¬ s.storeRange p v.imgBase v.imgLen then s.srvErr p 2
      else (s.updServing p fun v => { v with measure := Config.sha384 (s.memBytes v.imgBase v.imgLen) }).startCores p false)

/-- STE_COUNT (R227). -/
def execSteCount (p : PartId) (s : State) : Out3 := .next (s.countSte p)

/-! ### Steal queues (R198, R199) -/

/-- SQ_PUSH: the write carries word 1; SQ_WORD0 holds word 0. -/
def execSqPush (core : CoreId) (word1 : BitVec 64) (s : State) : Out3 :=
  .next (s.byCore core fun _ => s.updCore core fun x =>
    if x.sq.length = 256 ∨ x.sqWord0 = 0 then { x with sqRefused := true }
    else { x with sq := x.sq ++ [(x.sqWord0, word1)], sqRefused := false })

/-- SQ_POP: the oldest entry of the core's own queue; word 0 is 0 when there is none. -/
def execSqPop (core : CoreId) (s : State) : Out3 :=
  .next (s.byCore core fun _ => match (s.core core).sq with
    | [] => (s.updCore core fun x => { x with sqLatch := 0 }).send (.coreRead core 0)
    | e :: r => (s.updCore core fun x => { x with sq := r, sqLatch := e.2 }).send (.coreRead core e.1.toNat))

/-- The core a steal takes from: the longest queue among the others, the lowest index on a tie. -/
def State.victim (s : State) (p c : Nat) : Option Nat :=
  (s.coresOf p).foldl (fun (b : Option Nat) e =>
    if e = c ∨ (s.core e).sq = [] then b
    else match b with
      | none => some e
      | some v => if (s.core v).sq.length < (s.core e).sq.length then some e else b) none

/-- SQ_STEAL: the oldest entry of the fullest other queue; counted in EMBER_STEALS. -/
def execSqSteal (core : CoreId) (s : State) : Out3 :=
  .next (s.byCore core fun p => match s.victim p core with
    | none => (s.updCore core fun x => { x with sqLatch := 0 }).send (.coreRead core 0)
    | some v =>
      let e := (s.core v).sq.headD (0, 0)
      let s := s.updCore v fun x => { x with sq := x.sq.tail }
      let s := s.updCore core fun x => { x with sqLatch := e.2, sqVictim := v }
      (s.updCnt p fun c => { c with steals := satInc 64 c.steals }).send (.coreRead core e.1.toNat))

/-! ### Budgets (R219, R221) -/

/-- The entry an agent's BT_SEL names: a core's own, or the host window's. None outside BT_RANGE. -/
def State.btEntry (s : State) (a : Agent) : Option Nat :=
  let sel : Option (Nat × Nat) := match a with
    | .core c => (s.ownerOf (c / 4)).map fun p => (p, (s.core c).btSel)
    | .host p => some (p, (s.part p).serving.btSel)
  match sel with
  | none => none
  | some (p, e) =>
    let P := s.part p
    if P.btFirst ≤ e ∧ e < P.btFirst + P.btCount then some e else none

/-- What an agent reads: a core's register read, or the host's. -/
def State.reply (s : State) (a : Agent) (v : Nat) : State :=
  match a with
  | .core c => s.send (.coreRead c v)
  | .host p => s.send (.hostRead p v)

/-- The agent acts: a running core, or a READY function. -/
def State.agentOk (s : State) (a : Agent) : Bool :=
  match a with
  | .core c => (s.ownerOf (c / 4)).isSome && (s.core c).run = .running
  | .host p => s.fnReady p

/-- BT_BALANCE_READ: the refill due comes first (R219). -/
def execBtBalanceRead (a : Agent) (s : State) : Out3 :=
  .next (if ¬ s.agentOk a then s else match s.btEntry a with
    | none => s.reply a 0
    | some e =>
      let s := s.updBudget e fun b => b.refillAt s.hall
      s.reply a ((s.budget e).balance % 2 ^ 32).toNat)

/-- BT_ADD: a signed amount after refill, saturating at both ends (R221). -/
def execBtAdd (a : Agent) (delta : BitVec 32) (s : State) : Out3 :=
  .next (if ¬ s.agentOk a then s else match s.btEntry a with
    | none => s
    | some e => s.updBudget e fun b =>
        let b := b.refillAt s.hall
        { b with balance := satBalance (b.balance + delta.toInt) })

end Sys2Proof.Machine
end

