-- ==== Sys2Proof/Machine/Pages.lean ====
section
/-! DEFINITION. The page allocator (R209 to R211). -/

namespace Sys2Proof.Machine

/-- STATUS codes of PA_RESULT (R211). -/
def paOk : Nat := 0
def paEmpty : Nat := 1
def paRange : Nat := 2
def paStateErr : Nat := 3
def paSaturated : Nat := 4

/-- PSTATE code of a page state (R211). -/
def PageSt.code : PageSt → Nat
  | .free => 0
  | .owned => 1
  | .shared => 2
  | .releasing => 3

/-- PA_RESULT of a core after an operation on a page. -/
def State.paResult (s : State) (c status : Nat) (x : Page) : State :=
  s.updCore c fun y => { y with paStatus := status, paState := x.st.code, paRefs := min x.refs 0xFFFF }

/-- PA_RESULT after an operation that named no page: PSTATE and REFS are open. -/
def State.paNone (s : State) (c status : Nat) : State :=
  let s := s.fresh
  let n := s.serial
  let s := s.fresh
  s.updCore c fun y => { y with
    paStatus := status
    paState := Config.openField n % 4
    paRefs := Config.openField s.serial % 65536 }

/-- The first FREE page of a group at or after page `k`, going round; `n` pages are looked at. -/
def Alloc.findFree (a : Alloc) (g : Nat) : Nat → Nat → Option Nat
  | _, 0 => none
  | k, n + 1 =>
    let k := k % (a.pool g).pages
    if (a.page (pageKey g k)).st = .free then some k else a.findFree g (k + 1) n

/-- Some FREE page of a group of the partition; which one is open (R210). Of one page more than are not FREE, one is. -/
def State.pickPage (s : State) (p g : Nat) : Option Nat :=
  let a := (s.part p).alloc
  if s.owns p g ∧ a.enable ∧ 0 < a.freeCount g then
    a.findFree g (Config.pageChoice s.serial % (a.pool g).pages) (a.pages.length + 1)
  else none

/-- ALLOC: a read of PA_ALLOC. -/
def execAlloc (core : CoreId) (g : GroupId) (s : State) : Out3 :=
  .next (s.byCore core fun p =>
    match s.pickPage p g with
    | none => (s.paNone core paEmpty).send (.coreRead core 0xFFFFFFFF)
    | some k =>
      let x : Page := { st := .owned, refs := 1 }
      ((s.fresh.setPage p (pageKey g k) x).paResult core paOk x).send (.coreRead core (pageKey g k)))

/-- A page operation: RANGE and a fence count for a bad handle, RANGE alone while ENABLE is 0. -/
def State.pageOp (s : State) (core : Nat) (h : BitVec 32) (f : Page → Nat × Page) : State :=
  s.byCore core fun p =>
    if ¬ (s.part p).alloc.enable then s.paNone core paRange
    else if ¬ s.handleOk p h.toNat then (s.paNone core paRange).coreFence core
    else
      let r := f ((s.part p).alloc.page h.toNat)
      (if r.1 = paOk then s.setPage p h.toNat r.2 else s).paResult core r.1 r.2

/-- FREE of R210. -/
def opFree (x : Page) : Nat × Page :=
  if x.st = .owned ∧ x.refs = 1 then (paOk, { st := .releasing, refs := 0 }) else (paStateErr, x)

/-- REF_INC of R210. -/
def opRefInc (x : Page) : Nat × Page :=
  if x.st = .owned ∨ x.st = .shared then
    if 65535 ≤ x.refs then (paSaturated, x) else (paOk, { x with refs := x.refs + 1 })
  else (paStateErr, x)

/-- REF_DEC of R210. -/
def opRefDec (x : Page) : Nat × Page :=
  if x.st = .owned ∨ x.st = .shared then
    if x.refs ≤ 1 then (paOk, { st := .releasing, refs := 0 }) else (paOk, { x with refs := x.refs - 1 })
  else (paStateErr, x)

/-- SHARE of R210. -/
def opShare (x : Page) : Nat × Page :=
  if x.st = .owned then (paOk, { x with st := .shared }) else (paStateErr, x)

/-- FREE -/
def execFree (core : CoreId) (h : BitVec 32) (s : State) : Out3 := .next (s.pageOp core h opFree)

/-- REF_INC -/
def execRefInc (core : CoreId) (h : BitVec 32) (s : State) : Out3 := .next (s.pageOp core h opRefInc)

/-- REF_DEC -/
def execRefDec (core : CoreId) (h : BitVec 32) (s : State) : Out3 := .next (s.pageOp core h opRefDec)

/-- SHARE -/
def execShare (core : CoreId) (h : BitVec 32) (s : State) : Out3 := .next (s.pageOp core h opShare)

/-- QUERY: the page as it is. -/
def execQuery (core : CoreId) (h : BitVec 32) (s : State) : Out3 :=
  .next (s.pageOp core h fun x => (paOk, x))

/-- The check of one group's pool and header array (R211). -/
def State.poolOk (s : State) (p g : Nat) : Bool :=
  let a := (s.part p).alloc
  let x := a.pool g
  let base := g * 0x1000000000
  let inside (b n : Nat) : Bool := n = 0 || (base ≤ b && b + n ≤ base + 48 * gib)
  a.shift < 7 && inside x.base (x.pages * a.size) && inside x.hdr (x.pages * 512) && x.pages ≤ 3145728

/-- PAGE_POOL_ENABLE: the groups in ascending order; every page FREE once enabled. ENABLE already set is
not written again. -/
def execPagePoolEnable (p : PartId) (s : State) : Out3 :=
  .next (if (s.part p).alloc.enable then s
    else match (s.groupsOf p).find? fun g => ¬ s.poolOk p g with
      | some g =>
        let a := (s.part p).alloc
        let gaps := [((a.pool g).base, (a.pool g).pages * a.size), ((a.pool g).hdr, (a.pool g).pages * 512)].filter
          fun r => !s.anyRange p r.1 r.2
        (s.unmappedAll kAssist p p (gaps.map (·.1))).updAlloc p fun a => { a with cfgBad := true, badGroup := g }
      | none => s.updAlloc p fun a => { a with enable := true, cfgBad := false, pages := [] })

end Sys2Proof.Machine
end

