-- ==== Sys2Proof/Machine/Bank.lean ====
section
/-! DEFINITION. The banking engine's commands and events (R243 to R252). -/

namespace Sys2Proof.Machine

def State.bkResult (s : State) (c v : Nat) : State := s.updCore c fun x => { x with reg := { x.reg with bkRes := v } }

def bkAccepted : Nat := 0
def bkState : Nat := 1
def bkRefused : Nat := 2

/-- Completion statuses (R250). -/
def bsDone : Nat := 0
def bsDeferred : Nat := 1
def bsTagFail : Nat := 2
def bsNoPages : Nat := 4

/-- A page table with unmapped parts: the command is REFUSED and each part counted (R392). -/
def State.bankGaps (s : State) (c p ste : Nat) (f : State) : State :=
  match s.tableGaps p (s.stePdir p ste) (s.tableSize p ste) with
  | [] => f
  | l => (s.unmappedAll kAssist p p l).bkResult c bkRefused

/-- A BANK the engine takes up (R245). -/
def State.bankStart (s : State) (c p ste ttl : Nat) : State :=
  if s.steState p ste ≠ stePaused then s.bkResult c bkState
  else s.bankGaps c p ste <|
    let s := s.bkResult c bkAccepted
    let b := (s.part p).bank
    let n := (s.toMove p ste).length
    if b.turfSlots < b.turfUsed.length + n then
      (s.updBank p fun b => { b with deferred := satInc 32 b.deferred }).bankRecord p
        (bankRec ste (s.steGen p ste) 1 bsDeferred 0 0)
    else
      let s := s.fresh
      let ks := freeSlots b.turfUsed b.turfSlots n s.serial
      let s := s.setSteState p ste steBanking
      s.updBank p fun b =>
        ({ b with turfUsed := b.turfUsed ++ ks, jobs := b.jobs ++
            [{ ste := ste, bank := true, ttl := ttl, slots := ks, retort := s.servingRetort p ((b.turfBase - 0x10000000000) / 0x1000000000) }] } : Banking).watch

/-- Allocate `n` pages of a group (R248). -/
def State.takePages (s : State) (p g : Nat) : Nat → State × List Nat
  | 0 => (s, [])
  | n + 1 => match s.pickPage p g with
    | none => (s, [])
    | some k =>
      let z := (s.fresh.setPage p (pageKey g k) { st := .owned, refs := 1 }).takePages p g n
      (z.1, pageKey g k :: z.2)

/-- A REKINDLE the engine takes up (R248). -/
def State.rekindleStart (s : State) (c p ste g : Nat) : State :=
  if ¬ s.owns p g then s.bkResult c bkRefused
  else if s.steState p ste ≠ steBanked then s.bkResult c bkState
  else s.bankGaps c p ste <|
    let s := s.bkResult c bkAccepted
    let n := (s.banked p ste).length
    if (s.part p).alloc.freeCount g < n then
      s.fresh.bankRecord p (bankRec ste (s.steGen p ste) 2 bsNoPages 0 (Config.openField s.fresh.serial))
    else
      let z := s.takePages p g n
      let s := z.1.setSteState p ste steRekindling
      s.updBank p fun b =>
        { b with order := b.order.filter (fun x => x ≠ ste), jobs := b.jobs ++
            [{ ste := ste, bank := false, pages := z.2, retort := s.servingRetort p g }] }

/-- A command of a core: refused while ENABLE is 0, kept while the ring is full. -/
def State.bankCommand (s : State) (c : Nat) (bank : Bool) : State :=
  s.byCore c fun p =>
    let r := (s.core c).reg
    if ¬ (s.part p).bank.enable then s.bkResult c bkRefused
    else if ¬ s.steMapped p r.bkSte then (s.unmapped kAssist p p (s.steAddr p r.bkSte)).bkResult c bkRefused
    else if ¬ (s.part p).bank.canRun then
      (s.updBank p fun b => { b with waiting := b.waiting ++ [⟨c, bank, r.bkSte, r.bkGroup, r.bkTtl⟩] }).bankStall p
    else if bank then s.bankStart c p r.bkSte r.bkTtl
    else s.rekindleStart c p r.bkSte r.bkGroup

/-- BANK -/
def execBank (core : CoreId) (s : State) : Out3 := .next (s.bankCommand core true)

/-- REKINDLE -/
def execRekindle (core : CoreId) (s : State) : Out3 := .next (s.bankCommand core false)

/-- BANK_MOVE_START: a transfer whose boundary has passed starts to move (R245). -/
def execBankMoveStart (p : PartId) (s : State) : Out3 :=
  .next (match (s.part p).bank.jobs.find? fun j => j.bank && j.ready && !j.moving with
    | none => s
    | some j => s.updBank p fun b => { b with jobs := b.jobs.map fun x => if x.ste = j.ste then { x with moving := true } else x })

/-- BANK_DONE: the first moving transfer ends; none ends while the ring is full (R250). -/
def execBankDone (p : PartId) (s : State) : Out3 :=
  .next (match (s.part p).bank.jobs.find? fun j => j.bank && j.moving with
    | none => s
    | some j =>
      if ¬ (s.part p).bank.canRun then s.bankStall p
      else
        let z := s.sealAll p j.ste (s.toMove p j.ste) j.slots 0 0
        let s := z.1.freeTurf p z.2.2.2
        let s := s.pWrLe p (s.steAddr p j.ste + 0x28) 8 j.ttl
        let s := (s.setSteState p j.ste steBanked).updBank p fun b =>
          { b with jobs := b.jobs.filter (fun x => x.ste ≠ j.ste), order := b.order ++ [j.ste] }
        s.bankRecord p (bankRec j.ste (s.steGen p j.ste) 1 bsDone z.2.1 z.2.2.1))

/-- Move one LOC 2 entry to far slot `k`: ciphertext, tag record, entry, turf slot (R246). -/
def State.migratePage (s : State) (p e k : Nat) : State :=
  let size := slotSize (s.part p).alloc
  let t := slotIndex (s.part p).bank.turfBase size (s.pteTarget p e)
  let far := s.farSlotAddr p k
  let s := s.putMem p far (s.pBytes p (s.turfSlotAddr p t) size)
  let s := s.wrMems (s.tagAddr p k true) (s.pBytes p (s.tagAddr p t false) 32)
  (s.wrPte p e 3 0 0 far).freeTurf p [t]

/-- Far writes reach the host: the window is up and not READ_ONLY, and the partition is not fenced (R367, R439). -/
def State.farUp (s : State) (p : Nat) : Bool :=
  s.farReadable p && ((s.hostWin p (s.part p).bank.farBase).map fun w => !w.readOnly).getD false

/-- MIGRATE: the oldest BANKED sequence with pages in turf goes to the far pool whole, while the turf slots in
use are above BK_HIGH and then until they are at or below BK_LOW; none while its far writes would fail. -/
def execMigrate (p : PartId) (s : State) : Out3 :=
  let b := (s.part p).bank
  .next (if ¬ b.enable ∨ ¬ b.migrating then s
    else
      let inTurf (i : Nat) : List (Nat × Nat) := (s.banked p i).filter fun e => s.pteLoc p e.2 = 2
      match b.order.find? fun i => s.steState p i = steBanked ∧ inTurf i ≠ [] with
      | none => s
      | some i =>
        let es := inTurf i
        if b.farTotal < b.farUsed.length + es.length ∨ ¬ s.farUp p then s
        else
          let s := s.fresh
          let ks := freeSlots b.farUsed b.farTotal es.length s.serial
          let s := s.updBank p fun b => { b with farUsed := b.farUsed ++ ks }
          (es.zip ks).foldl (fun s x => s.migratePage p x.1.2 x.2) s)

/-- The BANKED sequence with the smallest non-zero TTL, the one banked first on a tie, and its TTL: BK_EXPIRY_STE and
BK_EXPIRY_TTL (R247). -/
def State.bankExpiry (s : State) (p : Nat) : Option (Nat × Nat) :=
  let ttl (i : Nat) : Nat := s.pLe p (s.steAddr p i + 0x28) 8
  ((s.part p).bank.order.filter fun i => s.steState p i = steBanked ∧ ttl i ≠ 0).foldl (fun b i => match b with
    | some x => if ttl i < x.2 then some (i, ttl i) else b
    | none => some (i, ttl i)) none

/-- REKINDLE_DONE: the first rekindling ends. `far` holds the bytes of the far slots as the host returned them, in
entry order; a slot with no bytes, or not as many as a slot holds, could not be read. -/
def execRekindleDone (p : PartId) (far : List (List Byte)) (s : State) : Out3 :=
  match (s.part p).bank.jobs.find? fun j => !j.bank with
  | none => .next s
  | some j =>
    if ¬ (s.part p).bank.canRun then .next (s.bankStall p)
    else
      let z := s.openAll p (s.steLayers p j.ste) (s.banked p j.ste) j.pages far 0 none
      let s := z.1.setSteState p j.ste stePaused
      let s := s.updBank p fun b => { b with jobs := b.jobs.filter fun x => x.ste ≠ j.ste }
      let s := s.fresh
      .next (s.bankRecord p (match z.2.2 with
        | some b => bankRec j.ste (s.steGen p j.ste) 2 bsTagFail z.2.1 b
        | none => bankRec j.ste (s.steGen p j.ste) 2 bsDone z.2.1 (Config.openField s.serial)))

/-- All of `n` bytes lie in turf of groups the partition owns. -/
def State.turfRange (s : State) (p a n : Nat) : Bool :=
  (blocksOf a n).all fun b => match s.reach p b.1 with | .turf _ _ => true | _ => false

/-- BANK_ENABLE: the pools and the tag table lie in the partition's map (R251). -/
def execBankEnable (p : PartId) (s : State) : Out3 :=
  let b := (s.part p).bank
  let size := slotSize (s.part p).alloc
  let n := b.farTotal * size
  .next (if b.enable then s
    else if s.turfRange p b.turfBase (b.turfSlots * size) ∧ s.nearRange p b.tagBase (32 * (b.turfSlots + b.farTotal)) ∧
        (n = 0 ∨ s.hostRange p b.farBase n) then
      s.updBank p fun b => { b with enable := true, cfgBad := false }
    else
      let gaps := [(b.turfBase, b.turfSlots * size), (b.tagBase, 32 * (b.turfSlots + b.farTotal)), (b.farBase, n)].filter
        fun r => !s.anyRange p r.1 r.2
      (s.unmappedAll kAssist p p (gaps.map (·.1))).updBank p fun b => { b with cfgBad := true })

/-- The commands that waited, in order, while the ring has room. -/
def State.bankResume (s : State) (p : Nat) : List BankCmd → State
  | [] => s.updBank p fun b => { b with waiting := [] }
  | x :: r =>
    if (s.part p).bank.canRun then
      (if x.bank then s.bankStart x.core p x.ste x.ttl else s.rekindleStart x.core p x.ste x.group).bankResume p r
    else (s.updBank p fun b => { b with waiting := x :: r }).bankStall p

/-- BANK_CQ_SPACE: a write of BK_CQ_TAIL. A wait on the full ring ends once there is room. -/
def execBankCqSpace (core : CoreId) (tail : BitVec 32) (s : State) : Out3 :=
  .next (s.byCore core fun p =>
    let s := s.updBank p fun b => { b with cqTail := tail.toNat }
    let s := s.updBank p fun b => { b with stalled := b.stalled && b.room = 0 }
    let s := s.bankDrain p
    if (s.part p).bank.recs = [] then s.bankResume p (s.part p).bank.waiting else s.bankStall p)

end Sys2Proof.Machine
end

