-- ==== Sys2Proof/Machine/Seg.lean ====
section
/-! DEFINITION. The segment of a cord: header, check codes, alignment markers (R281 to R284). -/

namespace Sys2Proof.Machine

/-! ### Check codes (R284) -/

/-- One byte of the HCRC: polynomial 0x1021, not reflected. -/
def crc16Byte (c : BitVec 16) (b : Byte) : BitVec 16 :=
  (List.range 8).foldl (fun c _ => if c.msb then (c <<< 1) ^^^ 0x1021#16 else c <<< 1) (c ^^^ (b.setWidth 16 <<< 8))

/-- HCRC: initial value 0xFFFF, no final XOR. -/
def crc16 (l : List Byte) : BitVec 16 := l.foldl crc16Byte 0xFFFF#16

/-- One byte of the CRC-64: ECMA-182, bit-reflected. -/
def crc64Byte (c : BitVec 64) (b : Byte) : BitVec 64 :=
  (List.range 8).foldl (fun c _ => if c.getLsbD 0 then (c >>> 1) ^^^ 0xC96C5795D7870F42#64 else c >>> 1) (c ^^^ b.setWidth 64)

/-- CRC-64: initial value and final XOR of all ones. -/
def crc64 (l : List Byte) : BitVec 64 := (l.foldl crc64Byte (BitVec.allOnes 64)) ^^^ BitVec.allOnes 64

/-! ### Classes (R283) -/

def clFill : Nat := 0
def clPlan : Nat := 1
def clReq : Nat := 2
def clRsp : Nat := 3
def clCtl : Nat := 4

/-- OWNER of the module. -/
def ownModule : Nat := 16

/-! ### The header (R283) -/

/-- A segment header without its check code. -/
structure SegHdr where
  cls   : BitVec 3
  retx  : Bool := false
  seq   : BitVec 12
  ack   : BitVec 12
  nack0 : Option (BitVec 12) := none
  nack1 : Option (BitVec 12) := none
  owner : BitVec 5
  stall : Bool := false
  width : BitVec 4
  gen   : Bool
  fit   : Bool
  alarm : Bool
  freed : BitVec 4
  info  : BitVec 32
deriving DecidableEq, Repr

/-- Header bits [111:0]. -/
def SegHdr.bits (h : SegHdr) : BitVec 112 :=
  0#8 ++ h.info ++ h.freed ++ 0#1 ++ BitVec.ofBool h.alarm ++ BitVec.ofBool h.fit ++ BitVec.ofBool h.gen ++ h.width ++
  BitVec.ofBool h.stall ++ h.owner ++ h.nack1.getD 0 ++ BitVec.ofBool h.nack1.isSome ++ h.nack0.getD 0 ++
  BitVec.ofBool h.nack0.isSome ++ h.ack ++ h.seq ++ BitVec.ofBool h.retx ++ h.cls

/-- The 16 header bytes, HCRC last. -/
def SegHdr.bytes (h : SegHdr) : List Byte :=
  let b := leBytes 14 h.bits.toNat
  b ++ leBytes 2 (crc16 b).toNat

/-- The fields of header bits [111:0]. -/
def hdrOfBits (w : BitVec 112) : SegHdr :=
  { cls := w.extractLsb' 0 3
    retx := w.getLsbD 3
    seq := w.extractLsb' 4 12
    ack := w.extractLsb' 16 12
    nack0 := if w.getLsbD 28 then some (w.extractLsb' 29 12) else none
    nack1 := if w.getLsbD 41 then some (w.extractLsb' 42 12) else none
    owner := w.extractLsb' 54 5
    stall := w.getLsbD 59
    width := w.extractLsb' 60 4
    gen := w.getLsbD 64
    fit := w.getLsbD 65
    alarm := w.getLsbD 66
    freed := w.extractLsb' 68 4
    info := w.extractLsb' 72 32 }

/-- The header in 16 bytes, when its HCRC passes. -/
def hdrOfBytes (b : List Byte) : Option SegHdr :=
  if leNat (b.drop 14) = (crc16 (b.take 14)).toNat then some (hdrOfBits (BitVec.ofNat 112 (leNat (b.take 14)))) else none

/-! ### CLASS_INFO -/

/-- CLASS_INFO of a PLAN segment. -/
def planInfo (route index tag : Nat) : Nat := route % 65536 + index % 512 * 2 ^ 16 + tag % 16 * 2 ^ 28

/-- CLASS_INFO of a REQ, RSP or CTL segment. -/
def msgInfo (len : Nat) (start last : Bool) : Nat :=
  len % 1024 + (if start then 2 ^ 10 else 0) + if last then 2 ^ 11 else 0

/-! ### Markers (R282) -/

/-- A marker byte: lane, generation, complement of the lane, even parity. -/
def marker (lane : Nat) (gen : Bool) : Byte :=
  let l := BitVec.ofNat 3 lane
  let low := ~~~l ++ BitVec.ofBool gen ++ l
  BitVec.ofBool ((List.range 7).foldl (fun p i => p ^^ low.getLsbD i) false) ++ low

/-- Lane and generation of a marker byte that passes its checks. -/
def markerOf (b : Byte) : Option (Nat × Bool) :=
  let l := b.extractLsb' 0 3
  if b.extractLsb' 4 3 = ~~~l ∧ (List.range 8).foldl (fun p i => p ^^ b.getLsbD i) false = false then
    some (l.toNat, b.getLsbD 3)
  else none

/-- The eight marker bytes of a segment at a width. -/
def markers (width : Nat) (gen : Bool) : List Byte := (List.range 8).map fun k => marker ((792 + k) % width) gen

/-- The markers show this generation on every lane, each on its own lane. -/
def markersAt (width : Nat) (gen : Bool) (b : List Byte) : Bool :=
  (List.range width).all fun lane => (List.range 8).any fun k =>
    (792 + k) % width = lane && markerOf (b.getD k 0) = some (lane, gen)

/-- A segment's 800 bytes (R281). -/
def segment (h : SegHdr) (payload : List Byte) (width : Nat) : List Byte :=
  let b := h.bytes ++ (payload ++ List.replicate (768 - payload.length) 0#8).take 768
  b ++ leBytes 8 (crc64 b).toNat ++ markers width h.gen

end Sys2Proof.Machine
end

