-- ==== Sys2Proof/Machine/Link.lean ====
section
/-! DEFINITION. The link layer of a cord (10): sending and receiving segments, acknowledgement, replay, the
landing of PLAN segments. -/

namespace Sys2Proof.Machine

/-! ### Small helpers -/

/-- Round-trip time of a cord (R288). -/
def Cord.rtt (x : Cord) : Nat := x.delayTx + x.delayRx + 2

/-- Distance between sequence numbers. -/
def seqDist (a b : Nat) : Nat := (b + 4096 - a) % 4096

/-- Bytes of a message field. -/
def fld (m : List Byte) (i n : Nat) : Nat := leNat ((m.drop i).take n)

/-- The far-end partner of a partition on a cord. -/
def Cord.farOf (x : Cord) (q : Nat) : Option Nat :=
  let b := tabGet 0 x.partner q
  if b / 128 = 1 then some (b % 16) else none

/-- The partition at this end whose partner is the far end's partition `p` (R307). -/
def Cord.nearOf (x : Cord) (p : Nat) : Option Nat := (List.range 16).find? fun q => x.farOf q = some p

/-- Owner, state and send permission of a slot (R330). -/
def Cord.slotOwner (x : Cord) (i : Nat) : Nat := tabGet 0x10 x.slots i % 32
def Cord.slotState (x : Cord) (i : Nat) : Nat := tabGet 0x10 x.slots i / 32 % 4
def Cord.slotSends (x : Cord) (i : Nat) : Bool := tabGet 0x10 x.slots i / 128 = 1

def slModule : Nat := 0
def slReserved : Nat := 1
def slOwned : Nat := 2
def slReleasing : Nat := 3

/-- The slot is leased at this end to partition `q`: it accepts the pair's segments. -/
def Cord.leasedTo (x : Cord) (i q : Nat) : Bool :=
  x.slotOwner i = q && (x.slotState i = slOwned || x.slotState i = slReleasing)

/-- Some slot of the cord is leased to partition `q`. -/
def Cord.holds (x : Cord) (q : Nat) : Bool := x.slots.any fun e => x.leasedTo e.1 q

/-- The direction departs a segment at hall count `h` (R281, R300). -/
def Cord.slotRuns (x : Cord) (h : Nat) : Bool := x.egWidth = 8 || h % 8 ≠ 7

/-! ### Departure (R283, R287, R288) -/

/-- Insert T1 or T3 into a time message at its departure (R333, R358). -/
def stampTime (hall : Nat) (m : List Byte) : List Byte :=
  match fld m 0 1 with
  | 0x10 => m.take 3 ++ leBytes 8 hall ++ m.drop 11
  | 0x11 => m.take 12 ++ leBytes 8 hall ++ m.drop 20
  | _ => m

/-- A segment departs: the header carries the acknowledgement point of two hall ticks ago and up to two NACKs. -/
def State.depart (s : State) (c : Nat) (cls : Nat) (retx : Bool) (seq owner info : Nat) (stall : Bool) (payload : List Byte) : State :=
  let x := s.cord c
  let now := x.ackLog.filter fun e => e.1 + 2 ≤ s.hall
  let shown := (now.getLast?.map (·.2)).getD x.ackShown
  let ns := (x.nackQ.filter fun e => e.2 + 2 ≤ s.hall).take 2
  let h : SegHdr :=
    { cls := BitVec.ofNat 3 cls, retx := retx, seq := BitVec.ofNat 12 seq, ack := BitVec.ofNat 12 shown
      nack0 := ns[0]?.map fun e => BitVec.ofNat 12 e.1
      nack1 := ns[1]?.map fun e => BitVec.ofNat 12 e.1
      owner := BitVec.ofNat 5 owner, stall := stall, width := BitVec.ofNat 4 x.egWidth, gen := x.egGen
      fit := x.inFit, alarm := x.alarm, freed := BitVec.ofNat 4 x.freed, info := BitVec.ofNat 32 info }
  let s := s.updCord c fun x =>
    { x with
      ackShown := shown
      ackLog := x.ackLog.filter fun e => ¬ e.1 + 2 ≤ s.hall
      nackQ := x.nackQ.filter fun e => ¬ ns.contains e
      nackOut := x.nackOut ++ ns.map fun e => (e.1, s.hall)
      nackSent := min (2 ^ 32 - 1) (x.nackSent + ns.length)
      exT1 := if cls = clCtl ∧ fld payload 0 1 = 0x10 then s.hall else x.exT1
      sentHall := some s.hall }
  s.send (.segment c x.txMap (segment h payload x.egWidth))

/-- Members of this module with a lease or a tree relation on a cord (R369). -/
def State.cordMembers (s : State) (c : Nat) : List Nat :=
  (List.range 16).filter fun p =>
    let d := (s.part p).dom
    (s.part p).live && (d.st = .member || d.st = .shadow) && (((s.cord c).farOf p).isSome || (treeCords d).contains c)

/-- Report a link event toward the roots of the domains it touches (R369). -/
def State.cordReport (s : State) (c cls omodule okind oindex : Nat) (detail : List Byte) : State :=
  (s.cordMembers c).foldl (fun s p => s.reportLocal p cls omodule okind oindex detail) s

/-- A wavelength of a direction is declared failing: the third time within 3,600 s it is retired until the next kindling,
whether or not a lane change answers (R280). -/
def Cord.declare (x : Cord) (hall : Nat) (ingress : Bool) (w : Nat) : Cord :=
  let failed := x.failed ++ [(ingress, w, hall)]
  let x := { x with failed := failed }
  if (failed.filter fun e => e.1 = ingress ∧ e.2.1 = w ∧ hall ≤ e.2.2 + 1800000000000).length < 3 then x
  else if ingress then { x with retIn := x.retIn.filter (· ≠ w) ++ [w] }
  else { x with retEg := x.retEg.filter (· ≠ w) ++ [w] }

/-- The lanes of a direction without lock, as the new map numbers them: a lane whose wavelength has left no longer counts, and
the down timer resets when no active lane lacks lock (R303). -/
def Cord.remap (x : Cord) (ingress : Bool) (old new : List Nat) : Cord :=
  let now (lane : Nat) : Option Nat := (old[lane]?).bind fun w => new.idxOf? w
  let lost := x.unlocked.filterMap fun e => if e.1 ≠ ingress then some e else (now e.2).map fun i => (ingress, i)
  { x with
    unlocked := lost, lostAt := if lost = [] then none else x.lostAt
    lostSince := if ingress then x.lostSince.filterMap fun e => (now e.1).map fun i => (i, e.2) else x.lostSince
    laneErrs := if ingress then x.laneErrs.filterMap fun e => (now e.1).map fun i => (i, e.2) else x.laneErrs
    laneFec := if ingress then x.laneFec.filterMap fun e => (now e.1).map fun i => (i, e.2) else x.laneFec }

/-- A lane map change acts at the first transmission of S (R298 to R300): map, generation, width; what left the map
is under test, unless it is retired. -/
def State.laneAct (s : State) (c : Nat) (ch : LaneChange) : State :=
  let x := s.cord c
  let out := x.txMap.filter fun w => ¬ ch.map.contains w
  let often (w : Nat) : Bool := x.retEg.contains w
  let spare := match x.spare with
    | some w => if ch.map.contains w then none else some w
    | none => none
  let s := s.updCord c fun x =>
    { x.remap false x.txMap ch.map with
      txMap := ch.map, egGen := ch.gen, egWidth := ch.width, change := some { ch with begun := true }, spare := spare
      spareSt := if spare.isSome then x.spareSt else if out.any (fun w => !often w) then 1 else 2
      testEg := (x.testEg.filter fun w => ¬ ch.map.contains w) ++ out.filter fun w => !often w
      laneSwaps := satInc 32 x.laneSwaps }
  let detail := leBytes 2 ch.s ++ leBytes 1 (out.headD (ch.map.getLastD 0)) ++ leBytes 1 0 ++ leBytes 1 ch.width
  let s := s.logEv { cls := ch.logCls, kind := kCord, index := c, detail := detail }
  if ch.logCls = cWidthDrop then s.cordReport c cWidthDrop s.moduleId 2 c (detail ++ leBytes 3 0) else s

/-- A new sequenced segment departs and is kept (R285). -/
def State.sendNew (s : State) (c owner cls info : Nat) (payload : List Byte) : State :=
  let s := match (s.cord c).change with
    | some ch => if ch.sentAt.isSome ∧ ¬ ch.begun ∧ ch.s = (s.cord c).nextSeq then s.laneAct c ch else s
    | none => s
  let x := s.cord c
  let payload := if cls = clCtl then stampTime s.hall payload else payload
  let s := s.depart c cls false x.nextSeq owner info false payload
  s.updCord c fun y =>
    { y with
      nextSeq := (x.nextSeq + 1) % 4096
      ackHall := if y.kept = [] then s.hall else y.ackHall
      kept := y.kept ++ [{ seq := x.nextSeq, owner := owner, cls := cls, info := info, payload := payload, sent := s.hall }] }

/-- A retransmission departs: counted, logged (R289, R305). -/
def State.sendRetx (s : State) (c : Nat) (k : Kept) : State :=
  let payload := if k.cls = clCtl then stampTime s.hall k.payload else k.payload
  let s := s.depart c k.cls true k.seq k.owner k.info false payload
  let s := s.updCord c fun x =>
    { x with
      retxQ := x.retxQ.filter fun q => q ≠ k.seq
      retxSent := satInc 32 x.retxSent
      kept := x.kept.map fun e => if e.seq = k.seq then { e with sent := s.hall } else e }
  s.logEv { cls := cCordRetry, kind := kCord, index := c, detail := leBytes 2 k.seq }

/-- FILL; with a full replay buffer it shows STALL (R291). -/
def State.sendFill (s : State) (c : Nat) : State :=
  let x := s.cord c
  let full := decide (2048 ≤ x.kept.length)
  let s := s.depart c clFill false x.nextSeq (x.slotOwner (s.hall % 256)) 0 full []
  if full then s.updCord c fun x => { x with stallTicks := satInc 32 x.stallTicks } else s

/-! ### The sending order (R296) -/

/-- CTL credits (R294). -/
def Cord.credits (x : Cord) : Nat := 8 - (x.ctlSent + 16 - x.farFreed) % 16

/-- A new CTL message departs; LANE_CMD takes its S here, 16 after its own SEQ, while the change has not begun. -/
def State.sendCtlNow (s : State) (c : Nat) (m : List Byte) (owner : Nat := ownModule) : State :=
  let x := s.cord c
  let z : State × List Byte :=
    match x.change with
    | some ch =>
      if fld m 0 1 = 0x02 then
        let at_ := if ch.begun then ch.s else (x.nextSeq + 16) % 4096
        let ch := { ch with s := at_, sentAt := some s.hall }
        (s.updCord c fun x => { x with change := some ch }, m.take 4 ++ leBytes 2 at_ ++ m.drop 6)
      else (s, m)
    | none => (s, m)
  let s := z.1.updCord c fun x => { x with ctlSent := (x.ctlSent + 1) % 16 }
  s.sendNew c owner clCtl (msgInfo z.2.length true true) z.2

/-- A staged PLAN segment departs. One that was accepted as a retransmission, passed through and leaves in its planned
slot is a retry absorbed (R354). -/
def State.sendStaged (s : State) (c : Nat) (x : Staged) : State :=
  let onTime := decide ((s.part x.part).plan.pc = x.planned)
  let s := s.updCord c fun y => { y with staged := y.staged.erase x }
  let s := if x.retx ∧ onTime then s.updCnt x.part fun n => { n with retries := satInc 64 n.retries } else s
  s.sendNew c x.part clPlan (planInfo x.route x.index x.tag) x.payload

/-- STAMP of a departure (R314). -/
def stampOf (hall : Nat) : BitVec 8 := BitVec.ofNat 8 (hall / 256)

/-- The hall count at which the attempt of a packet that now departs left its source: the first departure of a packet of that
attempt, else now (R314). -/
def State.leftAt (s : State) (k : OutPkt) : Nat :=
  match (s.part k.owner).routing.reqs.find? fun r => k.req = some r.id && fld k.hdr 2 1 / 64 = r.attempt with
  | some r => r.left.getD s.hall
  | none => s.hall

/-- The first departure of an attempt is noted. -/
def State.noteLeft (s : State) (k : OutPkt) : State :=
  s.updPart k.owner fun P => { P with routing := { P.routing with
    reqs := P.routing.reqs.map fun r =>
      if k.req = some r.id ∧ fld k.hdr 2 1 / 64 = r.attempt ∧ r.left = none then { r with left := some s.hall } else r } }

/-- The first segment of a packet from this module, its STAMP in place (header byte 31). -/
def withStamp (hall : Nat) (g : List Byte) : List Byte := g.take 31 ++ [stampOf hall] ++ g.drop 32

/-- The next segment of a waiting packet departs; a packet leaves the list with its last segment, and its place in the
transit store with it (R315, R318). A packet of this module's own takes its STAMP with its first segment (R314). -/
def State.sendPkt (s : State) (c : Nat) (k : OutPkt) : State :=
  match k.segs with
  | [] => s.updCord c fun x => { x with outPkts := x.outPkts.erase k }
  | g :: rest =>
    let k' : OutPkt := { k with begun := true, segs := rest }
    let own := !k.begun && !k.transit
    let pay := if own then withStamp (s.leftAt k) g.2 else g.2
    let s := if own then s.noteLeft k else s
    let s := s.updCord c fun x =>
      { x with outPkts := if rest = [] then x.outPkts.erase k else x.outPkts.map fun e => if e = k then k' else e }
    s.sendNew c k.owner k.cls g.1 pay

/-- The packet a stream sends from: the one begun, else the first (R315). A fenced partition sends only NACKs. -/
def Cord.nextPkt (x : Cord) (p cls : Nat) (fenced : Bool) : Option OutPkt :=
  let mine := x.outPkts.filter fun k => k.owner = p ∧ k.cls = cls
  match mine.find? (·.begun) with
  | some k => if fenced && !k.nack then none else some k
  | none => mine.find? fun k => !fenced || k.nack

/-- The oldest retransmission queued that satisfies a test. -/
def Cord.nextRetx (x : Cord) (f : Kept → Bool) : Option Kept := x.kept.find? fun k => x.retxQ.contains k.seq && f k

/-- A staged segment of a partition can depart now. -/
def State.stagedReady (s : State) (x : Staged) : Bool :=
  let pc := (s.part x.part).plan.pc
  x.ready ≤ pc && x.readyHall ≤ s.hall && x.planned ≤ pc

/-- The first CTL message of a partition, while the cord has a credit. -/
def Cord.nextCtl (x : Cord) (p : Nat) : Option (Nat × List Byte) :=
  if 0 < x.credits then x.ctlPart.find? fun e => e.1 = p else none

/-- A partition's CTL message departs, in a slot of `owner` (R293). -/
def State.sendPartCtl (s : State) (c : Nat) (m : Nat × List Byte) (owner : Nat) : State :=
  (s.updCord c fun x => { x with ctlPart := x.ctlPart.erase m }).sendCtlNow c m.2 owner

/-- The order of choice in a slot of partition `p` (R296). A fenced partition sends nothing new but NACKs (R321, R367). -/
def State.sendPart (s : State) (c p : Nat) (may : Bool) : State :=
  let x := s.cord c
  let fenced := (s.part p).dom.fenced
  let room := decide (x.kept.length < 2048) && may
  let ready := if room && !fenced then x.staged.filter fun y => y.part = p && s.stagedReady y else []
  match ready.find? fun y => y.planned = (s.part p).plan.pc with
  | some y => s.sendStaged c y
  | none => match x.nextRetx fun k => k.owner = p with
    | some k => s.sendRetx c k
    | none => match ready.head? with
      | some y => s.sendStaged c y
      | none =>
        if ¬ room then s.sendFill c
        else match (if fenced then none else x.nextCtl p) with
          | some m => s.sendPartCtl c m p
          | none => match x.nextPkt p clRsp fenced with
          | some k => s.sendPkt c k
          | none => match x.nextPkt p clReq fenced with
            | some k => s.sendPkt c k
            | none => s.sendFill c

/-- The order of choice in a module slot: retransmissions, CTL with a credit, reports that wait (R371), SYNC when its
S falls due (R298), FILL. -/
def State.sendModule (s : State) (c : Nat) : State :=
  let x := s.cord c
  match x.nextRetx fun k => k.owner = ownModule with
  | some k => s.sendRetx c k
  | none => match x.nextRetx fun k => k.owner < 16 && !(x.slots.any fun e => e.2 % 32 = k.owner) with
    | some k => s.sendRetx c k
    | none =>
      if x.kept.length < 2048 ∧ 0 < x.credits then
        match x.ctlOut with
        | m :: r => (s.updCord c fun x => { x with ctlOut := r }).sendCtlNow c m
        | [] => match x.ctlPart.find? fun e => !(s.part e.1).dom.fenced with
          | some m => s.sendPartCtl c m ownModule
          | none => match s.reportQ.find? fun e => e.1 = c with
          | some e => ({ s with reportQ := s.reportQ.erase e } : State).sendCtlNow c e.2
          | none =>
            let due := match x.change with
              | some ch => ch.sentAt.isSome && !ch.begun && ch.s = x.nextSeq
              | none => false
            if due then s.sendCtlNow c (leBytes 1 0x04) else s.sendFill c
      else s.sendFill c

/-- SEGMENT_SEND: one segment of the egress port in this hall tick. `fit`: what the pattern check of the ingress spare
holds now (R278). -/
def execSegmentSend (c : CordId) (fit : Bool) (s : State) : Out3 :=
  let x := s.cord c
  .next (if ¬ x.active ∨ x.sentHall = some s.hall ∨ ¬ x.slotRuns s.hall then s
    else
      let s := s.updCord c fun x => { x with inFit := fit && x.inSpare.isSome }
      let i := s.hall % 256
      let o := x.slotOwner i
      if o < 16 then s.sendPart c o (x.slotSends i) else s.sendModule c)

/-! ### Arrival of PLAN segments (R166, R167, R290, R374) -/

/-- The cord in whose part a segment on cord `c` is landed: the cord that `c` stands in for under an ALIAS mode. -/
def State.aliasOf (s : State) (c : Nat) : Nat :=
  ((List.range 32).find? fun a => (s.cord a).twin = 128 + c && ((s.cord a).twinMode = 2 || (s.cord a).twinMode = 3)).getD c

/-- The whole beats of a transfer of `n` bytes that `got` covers. -/
def wholeBeats (got : List (Nat × List Byte)) (n : Nat) : List Nat :=
  (List.range (ceilDiv n 512)).filter fun j =>
    let last := min n (512 * j + 512) - 1
    got.any (fun g => g.1 = 512 * j / 768) && got.any (fun g => g.1 = last / 768)

/-- Bytes of beat `j`. -/
def beatBytes (got : List (Nat × List Byte)) (n j : Nat) : List Byte :=
  (List.range (min n (512 * j + 512) - 512 * j)).map fun k =>
    let b := 512 * j + k
    match got.find? fun g => g.1 = b / 768 with
    | some g => g.2.getD (b % 768) 0
    | none => 0

/-- The step an arriving segment belongs to. DEDUCED: each step sends one segment of a route and INDEX, so those that have come
since the plan began count its steps, whatever step the counter is in when one comes late (R60). -/
def Plan.stepOf (x : Plan) (route index : Nat) : Nat := x.firstStep + tabGet 0 x.arrived (512 * route + index)

/-- One more has come. -/
def State.countArrival (s : State) (q route index : Nat) : State :=
  s.updPlan q fun x => { x with arrived := tabUpd 0 x.arrived (512 * route + index) (· + 1) }

/-- Beats that a landing circuit carries one in a hall tick, in the order they enter it (R166). -/
def State.enterCircuit (s : State) (n : Nat) (bs : List Beat) : State :=
  bs.foldl (fun s b =>
    let due := (s.beats.filter fun e => e.circuit ∧ e.xfer = b.xfer ∧ e.part = b.part).foldl (fun m e => max m (e.due + 1)) b.due
    let b := { b with due := due, claims := b.claims.map fun (k : Claim) => { k with tick := k.tick + (due - n) } }
    let hits (e : Beat) : Bool := e.circuit && e.xfer != b.xfer && e.claims.any b.claims.contains
    { s with beats := s.beats.filter (fun e => !hits e) ++ if s.beats.any hits then [] else [b] }) s

/-- A PLAN segment passes through to the egress port of its next hop (R60, R167). -/
def State.planPass (s : State) (c q : Nat) (retx : Bool) (r : RouteDecl) (out route index tag : Nat) (payload : List Byte) : State :=
  let P := s.part q
  let step := P.plan.stepOf route index
  let planned := step * P.plan.stepLen + r.deps.getD index 0
  let s := (s.countArrival q route index).digItem q step
    (leBytes 8 1 ++ leBytes 8 step ++ leBytes 8 planned ++ leBytes 2 out ++ leBytes 2 route ++ leBytes 2 index ++ leBytes 2 0) payload
  s.stage out { part := q, route := route, index := index, tag := tag, payload := payload, planned := planned, ready := 0
                retx := retx } (some c)

/-- A PLAN segment on its last hop: the whole beats it completes go down the route's landing circuit (R166). -/
def State.planLand (s : State) (c q : Nat) (retx : Bool) (r : RouteDecl) (route index tag : Nat) (payload : List Byte) : State :=
  let P := s.part q
  let l := P.plan.loaded.getD {}
  let mine (m : PlanAsm) : Bool := m.part = q && m.route = route
  let old := (s.cord c).asm.find? mine
  let had := (old.map (·.got)).getD []
  let got := had ++ [(index, payload)]
  let late := (old.map (·.retx)).getD 0 + if retx then 1 else 0
  let fresh := (wholeBeats got r.bytes).filter fun j => ¬ (wholeBeats had r.bytes).contains j
  let done := (wholeBeats got r.bytes).length = ceilDiv r.bytes 512
  let s := (s.countArrival q route index).updCord c fun x =>
    { x with asm := x.asm.filter (fun m => !mine m) ++ (if done then [] else [⟨q, route, got, if fresh = [] then late else 0⟩]) }
  let from_ := (l.hops.find? fun h => h.route = route && h.hop = 0).map (·.module)
  let src : Src := { tile := 0xFF, module := from_.getD (s.cord c).peerModule, cord := c, via := true, route := route }
  let due := s.hall + travelCord r.tile c
  let claims := if c = r.ingress then (circuitClaims c r.tile s.hall r.path).getD [] else []
  s.enterCircuit due (fresh.zipIdx.map fun j =>
    { part := q, circuit := true, due := due, tile := r.tile, landing := r.landing, total := ceilDiv r.bytes 512
      tag := BitVec.ofNat 4 tag, src := src, off := 512 * j.1, bytes := beatBytes got r.bytes j.1
      xfer := 2 ^ 80 + P.plan.stepOf route index * 65536 + route, retx := if j.2 = 0 then late else 0, claims := claims })

/-- A PLAN segment reaches partition `q` by cord `c`: it lands by its circuit, or passes through. A stopped or fenced
partition's arrival is dropped and counted (R187). -/
def State.planArrive (s : State) (c q : Nat) (retx : Bool) (info : Nat) (payload : List Byte) : State :=
  let P := s.part q
  if P.plan.st ≠ .running then s.fenceInc kCord c
  else
    let route := info % 65536
    let index := bitsOf info 24 16
    let tag := bitsOf info 31 28
    match (P.plan.loaded.getD {}).image.routes.find? fun r => r.route.toNat = route && r.ingress.val = s.aliasOf c with
    | none => s
    | some r => match r.fwd with
      | some out => s.planPass c q retx r out route index tag payload
      | none => s.planLand c q retx r route index tag payload

/-! ### Receiving (R284 to R290, R307) -/

/-- Missing sequence numbers before `seq`. -/
def Cord.missing (x : Cord) (seq : Nat) : List Nat :=
  ((List.range (if 2048 < seqDist x.cum seq then 0 else seqDist x.cum seq)).map fun i => (x.cum + i) % 4096).filter fun n => ¬ x.got.contains n

/-- A segment that came damaged is NACKed, a retransmission too (R287). -/
def Cord.askDamaged (x : Cord) (h n : Nat) : Cord :=
  if x.nackQ.length < 64 ∧ ¬ (x.nackQ.any fun e => e.1 = n)
  then { x with nackQ := x.nackQ ++ [(n, h)], nackOut := x.nackOut.filter fun e => e.1 ≠ n } else x

/-- Queue missing numbers for NACK, at most 64; one already queued or requested is not queued again (R287). -/
def Cord.askAgain (x : Cord) (h : Nat) (ns : List Nat) : Cord :=
  ns.foldl (fun x n =>
    if x.nackQ.length < 64 ∧ ¬ (x.nackQ.any fun e => e.1 = n) ∧ ¬ (x.nackOut.any fun e => e.1 = n)
    then { x with nackQ := x.nackQ ++ [(n, h)] } else x) x

/-- Move the cumulative point past everything received. -/
def Cord.advance (x : Cord) : Nat → Cord
  | 0 => x
  | n + 1 => if x.got.contains x.cum then
      ({ x with got := x.got.filter (fun g => g ≠ x.cum), cum := (x.cum + 1) % 4096 } : Cord).advance n
    else x

/-- An ACK (R286): progress releases replay entries and restarts the timer. -/
def Cord.onAck (x : Cord) (h a : Nat) : Cord :=
  let base := match x.kept with
    | [] => x.nextSeq
    | k :: _ => k.seq
  let d := seqDist base a
  if seqDist base x.nextSeq < d then { x with ackBad := satInc 32 x.ackBad }
  else if d = 0 then x
  else
    let kept := x.kept.drop d
    { x with kept := kept, ackHall := h, retxQ := x.retxQ.filter fun q => kept.any fun k => k.seq = q }

/-- A NACK (R289). -/
def Cord.onNack (x : Cord) (h n : Nat) : Cord :=
  match x.kept.find? fun k => k.seq = n with
  | none => x
  | some k => if h < k.sent + x.rtt ∨ x.retxQ.contains n then x else { x with retxQ := x.retxQ ++ [n] }

/-- The receiver follows new markers on every lane (R297, R299): the map, what left it, LANE_DONE; a drop to width 7 is
reported here too (R369). -/
def State.followLanes (s : State) (c seq : Nat) (width : Nat) (gen : Bool) (waves : List Nat) (mk : List Byte) : State :=
  let x := s.cord c
  if gen ≠ x.inGen ∧ waves.length = width ∧ 0 < width ∧ markersAt width gen mk then
    let out := x.inMap.filter fun w => ¬ waves.contains w
    let test := out.filter fun w => ¬ x.retIn.contains w
    let s := s.updCord c fun x =>
      { x.remap true x.inMap waves with
        inMap := waves, inGen := gen, inWidth := width, alarm := false
        inSpare := x.inSpare.filter fun w => ¬ waves.contains w
        testIn := (x.testIn.filter fun e => ¬ waves.contains e.1) ++ test.map fun w => (w, s.hall)
        laneSwaps := satInc 32 x.laneSwaps }
    let s := if width = 7 ∧ x.inWidth = 8 then
        s.cordReport c cWidthDrop x.peerModule 2 x.peerCord
          (leBytes 2 seq ++ leBytes 1 (out.headD 0) ++ leBytes 1 0 ++ leBytes 1 width ++ leBytes 3 0)
      else s
    s.sendCtl c (leBytes 1 0x03 ++ leBytes 1 (if gen then 1 else 0) ++ leBytes 1 0)
  else s

/-- A segment of a lease pair that passes the ownership check, and the partition it goes to (R307). -/
def Cord.admits (x : Cord) (h : Nat) (owner : Nat) (retx : Bool) : Option Nat :=
  match x.nearOf owner with
  | none => none
  | some q =>
    let cand := (List.range 3).map fun k => (h + 65536 + k - 1 - x.delayRx) % 256
    let ok := if retx then x.holds q && cand.any fun i => x.leasedTo i q || x.slotOwner i = ownModule
      else cand.any fun i => x.leasedTo i q
    if ok then some q else none

/-- A REQ or RSP segment joins its packet at the ingress port (R315). -/
def Cord.addPkt (x : Cord) (q cls info : Nat) (payload : List Byte) : Cord :=
  let bytes := payload.take (info % 1024)
  let start := bitsOf info 10 10 = 1
  let last := bitsOf info 11 11 = 1
  let openPkt (k : InPkt) : Bool := k.part = q && k.cls = cls && !k.whole
  if start then { x with inPkts := x.inPkts.filter (fun k => !openPkt k) ++ [⟨q, cls, bytes, last⟩] }
  else if x.inPkts.any openPkt then
    { x with inPkts := x.inPkts.map fun k => if openPkt k then { k with bytes := k.bytes ++ bytes, whole := last } else k }
  else x

/-- A segment passes to the ingress port's consumers: CTL, and every class of OWNER 16, to the module's CTL consumers; REQ and
RSP to the partition (R295, R307). -/
def State.passSeg (s : State) (c : Nat) (g : Held) : State :=
  if g.cls = clCtl ∨ g.owner = ownModule then
    if (s.cord c).ctlIn.length < 8 then
      s.updCord c fun x =>
        { x with ctlIn := x.ctlIn ++ [⟨if g.cls = clPlan then g.payload else g.payload.take (g.info % 1024), g.hall⟩] }
    else s
  else s.updCord c fun x => x.addPkt g.owner g.cls g.info g.payload

/-- A held segment passes once none of its stream is missing or held before it. -/
def Cord.canPass (x : Cord) (g : Held) : Bool :=
  (g.waits.all fun n => x.got.contains n || 2048 ≤ seqDist x.cum n) &&
  x.reorder.all fun o => !(o.owner = g.owner && o.cls = g.cls && seqDist o.seq g.seq < 2048 && o.seq ≠ g.seq)

/-- Pass every held segment that can pass. -/
def State.drainHeld (s : State) (c : Nat) : Nat → State
  | 0 => s
  | n + 1 => match (s.cord c).reorder.find? fun g => (s.cord c).canPass g with
    | none => s
    | some g => ((s.updCord c fun x => { x with reorder := x.reorder.erase g }).passSeg c g).drainHeld c n

/-- An accepted segment: at once for PLAN, in stream order for the others; a failed ownership check discards its
payload (R290, R307). -/
def State.accept (s : State) (c : Nat) (h : SegHdr) (payload : List Byte) (waits : List Nat) : State :=
  let x := s.cord c
  let cls := h.cls.toNat
  let o := h.owner.toNat
  let dest := if o = ownModule then some ownModule else x.admits s.hall o h.retx
  match dest with
  | none => s.logEv { cls := cFence, kind := kCord, index := c, cause := 5 }
  | some q =>
    let g : Held := { seq := h.seq.toNat, owner := q, cls := cls, retx := h.retx, info := h.info.toNat, payload := payload
                      waits := waits.filter fun n => (x.missing h.seq.toNat).contains n, hall := s.hall }
    if cls = clPlan then (if q = ownModule then s.passSeg c g else s.planArrive c q h.retx h.info.toNat payload)
    else if cls = clReq ∨ cls = clRsp ∨ cls = clCtl then
      let others := (x.missing g.seq).filter fun n => ¬ waits.contains n
      (s.updCord c fun x =>
        { x with reorder := x.reorder ++ [g], elsewhere := x.elsewhere ++ others.map fun n => (n, o, cls) }).drainHeld c 2048
    else s

/-- A checked segment: lane flags, acknowledgements, credits, then its own sequence number. -/
def State.checked (s : State) (c : Nat) (h : SegHdr) (payload mk : List Byte) (waves waits : List Nat) : State :=
  let s := s.followLanes c h.seq.toNat h.width.toNat h.gen waves mk
  let hall := s.hall
  let s := s.updCord c fun x =>
    let x := { x with
      farFreed := h.freed.toNat
      spareSt := if x.spare.isSome then (if h.fit then 0 else 3) else x.spareSt }
    let x := x.onAck hall h.ack.toNat
    let x := match h.nack0 with
      | some n => x.onNack hall n.toNat
      | none => x
    match h.nack1 with
    | some n => x.onNack hall n.toNat
    | none => x
  let x := s.cord c
  let seq := h.seq.toNat
  let ahead := x.missing seq
  let s := s.updCord c fun x => x.askAgain hall ahead
  if h.cls.toNat = clFill then s
  else if seqDist x.cum seq < 2048 ∧ ¬ x.got.contains seq then
    let s' := s.updCord c fun x =>
      { x with elsewhere := x.elsewhere.filter (fun e => e.1 ≠ seq), nackQ := x.nackQ.filter (fun e => e.1 ≠ seq), nackOut := x.nackOut.filter fun e => e.1 ≠ seq }
    let t := s'.updCord c fun x => ({ x with got := x.got ++ [seq] } : Cord).advance 2048
    let t := t.updCord c fun y => if y.cum = x.cum then y else { y with ackLog := y.ackLog ++ [(hall, y.cum)] }
    (t.accept c h payload waits).drainHeld c 2048
  else s.updCord c fun x => { x with dupDiscard := satInc 32 x.dupDiscard }

/-- Bit errors and uncorrectable codewords of the ingress lanes, kept for 500,000 hall ticks (R279); the codewords are
counted (R305). -/
def Cord.fecSeen (x : Cord) (hall : Nat) (r : LaneReport) : Cord :=
  { x with
    fecUncorr := min (2 ^ 32 - 1) (x.fecUncorr + r.fec.length)
    laneFec := (x.laneFec.filter fun e => hall < e.2 + 500000) ++ r.fec.map fun l => (l.val, hall)
    laneErrs := (x.laneErrs.filter fun e => hall < e.2.1 + 500000) ++ r.errs.map fun (e : Fin 8 × Nat) => (e.1.val, hall, e.2) }

/-- A segment that an earlier command's `waits` left out of its stream cannot be of that stream. -/
def Cord.denies (x : Cord) (h : SegHdr) : Bool := x.elsewhere.contains (h.seq.toNat, h.owner.toNat, h.cls.toNat)

/-- SEGMENT_RECEIVE: 800 bytes whose last byte has completed its check in this hall tick. `waves`: the wavelength of
each lane; `waits`: the missing earlier numbers that belong to this segment's stream (R290); `fec`: what the lanes
reported since the last segment. Other than 800 bytes are no
segment. A segment of a stream that an earlier command said it does not belong to is no event of this cord: nothing
changes, so that a stream never passes out of order (R292). -/
def execSegmentReceive (c : CordId) (bytes : List Byte) (waves waits : List Nat) (fec : LaneReport) (s : State) : Out3 :=
  let x := s.cord c
  .next (if ¬ x.active ∨ bytes.length ≠ 800 then s
    else
      let t := s.updCord c fun x => x.fecSeen s.hall fec
      match hdrOfBytes (bytes.take 16) with
      | none => t.updCord c fun x => { x with hdrErr := satInc 32 x.hdrErr }
      | some h =>
        if leNat ((bytes.drop 784).take 8) ≠ (crc64 (bytes.take 784)).toNat then
          t.updCord c fun x =>
            let x := { x with crcErr := satInc 32 x.crcErr }
            let seq := h.seq.toNat
            if seqDist x.cum seq < 2048 ∧ ¬ x.got.contains seq then x.askDamaged s.hall seq else x
        else if x.denies h then s
        else t.checked c h ((bytes.drop 16).take 768) (bytes.drop 792) waves waits)

/-- REPLAY_TIMEOUT: no progress for 2 × RTT + 256 hall ticks (R289). -/
def execReplayTimeout (c : CordId) (s : State) : Out3 :=
  let x := s.cord c
  .next (match x.kept with
    | [] => s
    | k :: _ =>
      if x.active ∧ x.ackHall + 2 * x.rtt + 256 ≤ s.hall then
        s.updCord c fun x =>
          { x with
            retxQ := if x.retxQ.contains k.seq then x.retxQ else x.retxQ ++ [k.seq]
            ackHall := s.hall, replayTo := satInc 32 x.replayTo }
      else s)

/-- NACK_REPEAT: numbers still missing RTT + 32 hall ticks after their NACK departed are NACKed again (R287). -/
def execNackRepeat (c : CordId) (s : State) : Out3 :=
  .next (s.updCord c fun x =>
    let late := x.nackOut.filter fun e => e.2 + x.rtt + 32 ≤ s.hall
    let x := { x with nackOut := x.nackOut.filter fun e => ¬ late.contains e }
    if x.active then x.askAgain s.hall (late.map (·.1)) else x)

/-! ### CTL consumers (R294, R295) -/

/-- A consumer takes the oldest message of a kind: its buffer is freed. -/
def State.onCtl (s : State) (c kind : Nat) (f : State → CtlMsg → State) : State :=
  match (s.cord c).ctlIn.find? fun m => fld m.bytes 0 1 = kind with
  | none => s
  | some m => f (s.updCord c fun x => { x with ctlIn := x.ctlIn.erase m, freed := (x.freed + 1) % 16 }) m

end Sys2Proof.Machine
end

