-- ==== Sys2Proof/Machine/Time.lean ====
section
/-! DEFINITION. Hall time (R331 to R339): exchanges, sync states, labels, NTP. Offsets are in 1/64 tick. -/

namespace Sys2Proof.Machine

/-! ### The sync tree -/

/-- The code of a sync state (R336). -/
def SyncSt.code : SyncSt → Nat
  | .free => 0 | .acquiring => 1 | .locked => 2 | .holdover => 3 | .root => 4 | .recovering => 5

/-- The cord in use as parent. -/
def TimeUnit.cord (t : TimeUnit) : Option Nat := cordOf (if t.useAlt then t.altRec else t.parent)

def State.updTime (s : State) (f : TimeUnit → TimeUnit) : State := { s with time := f s.time }

/-- |θ| below 0.2 tick. -/
def nearZero (θ : Int) : Bool := θ.natAbs * 10 < 128

/-- The mean of offsets, rounded to the nearest hall tick. -/
def meanTicks (l : List Int) : Int := (l.sum * 2 + 64 * l.length) / (128 * l.length)

/-! ### State changes (R336, R337) -/

/-- A LOCKED or RECOVERING unit whose reference is unusable: the alternate or the parent, else HOLDOVER. -/
def State.checkRef (s : State) : State :=
  let t := s.time
  let other := if t.useAlt then t.parent else t.altRec
  let mine := if t.useAlt then t.altRec else t.parent
  match t.st with
  | .locked =>
    if s.refOk mine then s
    else if s.refOk other ∧ ¬ t.useAlt then s.updTime fun t => { t with useAlt := true, good := 0 }
    else s.updTime fun t => { t with st := .holdover, holdFrom := s.hall }
  | .recovering =>
    if s.refOk mine then s
    else if s.refOk other then s.updTime fun t => { t with useAlt := !t.useAlt, good := 0 }
    else s.updTime fun t => { t with st := .holdover, holdFrom := s.hall }
  | _ => s

/-- An exchange on a cord whose peer is usable gives offset θ to a unit in HOLDOVER. -/
def State.regain (s : State) (c : Nat) (θ : Int) : State :=
  let t := s.time
  let alt := decide (cordOf t.parent ≠ some c)
  let s := s.updTime fun t => { t with useAlt := alt, good := 0 }
  if t.lost then s.updTime fun t => { t with st := .recovering }
  else if θ.natAbs ≤ 384 then s.updTime fun t => { t with st := .locked }
  else s.timeLoss tlOffset θ

/-- What an exchange on cord `c` does to the sync state. The hall root is never steered (R332). -/
def State.syncStep (s : State) (c : Nat) (θ : Int) : State :=
  let t := s.time
  let ok := s.peerOk c
  let named := cordOf t.parent = some c ∨ cordOf t.altRec = some c
  let s := match t.st with
    | .free =>
      if t.role ≠ 1 ∧ ok ∧ cordOf t.parent = some c ∧ s.kindle.phase ≤ 4 then
        s.updTime fun t => { t with st := .acquiring, acq := [], good := 0, stepped := false }
      else s
    | .acquiring =>
      if ¬ ok ∨ t.cord ≠ some c then s
      else if ¬ t.stepped then
        let acq := t.acq ++ [θ]
        if acq.length < 16 then s.updTime fun t => { t with acq := acq }
        else
          let h := (((s.hall : Int) - meanTicks acq) % 2 ^ 64).toNat
          ({ s with hall := h } : State).updTime fun t => { t with acq := [], stepped := true, good := 0 }
      else if nearZero θ then
        s.updTime fun t => { t with good := t.good + 1, st := if 64 ≤ t.good + 1 then .locked else t.st }
      else s.updTime fun t => { t with good := 0 }
    | .locked => s
    | .holdover => if ok ∧ named then s.regain c θ else s
    | .root => s
    | .recovering =>
      if ¬ ok ∨ t.cord ≠ some c then s
      else if nearZero θ then
        s.updTime fun t =>
          if 64 ≤ t.good + 1 then { t with good := 0, st := .locked, lost := false } else { t with good := t.good + 1 }
      else s.updTime fun t => { t with good := 0 }
  let s := s.checkRef
  if s.time.cord = some c ∧ s.time.st ≠ .root ∧ s.time.st ≠ .free then
    s.updTime fun t => { t with depth := (s.cord c).peerDepth + 1 }
  else s

/-! ### Exchanges (R333, R334) -/

/-- TIME_EXCHANGE_START: 16,384 hall ticks after the last one, a TIME_REQ, whose T1 is inserted at its departure. -/
def execTimeExchangeStart (c : CordId) (s : State) : Out3 :=
  let x := s.cord c
  .next (if ¬ x.active ∨ (x.exHall.any fun h => s.hall < h + 16384) then s
    else
      let n := (x.exchange + 1) % 65536
      (s.updCord c fun x => { x with exchange := n, exWait := true, exHall := some s.hall }).sendCtl c
        (leBytes 1 0x10 ++ leBytes 2 n ++ leBytes 8 0 ++ leBytes 5 0))

/-- TIME_REQ: T2 is the segment's arrival, `frac` its fraction; T3 is inserted at departure. -/
def execTimeReq (c : CordId) (frac : Fin 64) (s : State) : Out3 :=
  .next (s.onCtl c 0x10 fun s m =>
    s.sendCtl c (leBytes 1 0x11 ++ leBytes 2 (fld m.bytes 1 2) ++ leBytes 8 m.hall ++ leBytes 1 frac.val ++ leBytes 8 0 ++
      leBytes 1 s.time.st.code ++ leBytes 1 s.time.depth ++ leBytes 2 0))

/-- The exchange counts toward the delays of a MEASURING cord: both ends LOCKED or ROOT, no recovery (R334, R337). -/
def State.measures (s : State) (c : Nat) : Bool :=
  (s.cord c).st = .measuring && s.peerOk c && (s.time.st = .locked || s.time.st = .root)

/-- TIME_RSP: the exchange ends; `frac` is the fraction of its arrival T4. -/
def execTimeRsp (c : CordId) (frac : Fin 64) (s : State) : Out3 :=
  .next (s.onCtl c 0x11 fun s m =>
    let x := s.cord c
    if ¬ x.exWait ∨ fld m.bytes 1 2 ≠ x.exchange then s
    else
      let t1 : Int := 64 * x.exT1
      let t2 : Int := 64 * fld m.bytes 3 8 + fld m.bytes 11 1 % 64
      let t3 : Int := 64 * fld m.bytes 12 8
      let t4 : Int := 64 * m.hall + frac.val
      let dtx := t2 - t1
      let drx := t4 - t3
      let θ := (drx - dtx) / 2 - tabGet 0 s.timeRec.asym c
      let s := s.updCord c fun x =>
        { x with exWait := false, theta := θ, peerSync := fld m.bytes 20 1, peerDepth := fld m.bytes 21 1 }
      let s := if s.measures c then
          s.updCord c fun x => { x with exTx := ringKeep 64 (x.exTx ++ [dtx.toNat]), exRx := ringKeep 64 (x.exRx ++ [drx.toNat]) }
        else s.updCord c fun x => { x with exTx := [], exRx := [] }
      s.syncStep c θ)

/-- HOLDOVER_LIMIT (R337). -/
def execHoldoverLimit (s : State) : Out3 :=
  let t := s.time
  .next (if t.st = .holdover ∧ ¬ t.lost ∧ t.holdFrom + s.timeRec.holdLimit * 500000 < s.hall then
      s.timeLoss tlHoldover ((t.cord.map fun c => (s.cord c).theta).getD 0)
    else s)

/-! ### Labels (R338, R339) -/

def msgLabel (hall tai utc number : Nat) : List Byte :=
  leBytes 1 0x12 ++ leBytes 8 hall ++ leBytes 8 tai ++ leBytes 2 utc ++ leBytes 1 number ++ leBytes 4 0

/-- Keep a label and send it on every active cord but the parent: the module does not know which of them lead to sync
children. -/
def State.keepLabel (s : State) (hall tai utc number : Nat) (from_ : Option Nat) : State :=
  let s := s.updTime fun t =>
    { t with labelValid := true, labelHall := hall, labelTai := tai, labelUtc := utc, labelNo := number }
  ((List.range 32).filter fun c => (s.cord c).active && from_ != some c).foldl
    (fun s c => s.sendCtl c (msgLabel hall tai utc number)) s

/-- TIME_LABEL_SEND: the synchronised hall root labels the hall count, once every 500,000,000 hall ticks. -/
def execTimeLabelSend (tai : BitVec 64) (utc : BitVec 16) (s : State) : Out3 :=
  .next (if s.time.st = .root ∧ ¬ (s.time.labelSent.any fun h => s.hall < h + 500000000) then
      (s.updTime fun t => { t with labelSent := some s.hall }).keepLabel s.hall tai.toNat utc.toNat ((s.time.labelNo + 1) % 256) none
    else s)

/-- TIME_LABEL: taken from the parent cord in use. -/
def execTimeLabel (c : CordId) (s : State) : Out3 :=
  .next (s.onCtl c 0x12 fun s m =>
    if s.time.st = .root ∨ s.time.cord ≠ some c.val then s
    else s.keepLabel (fld m.bytes 1 8) (fld m.bytes 9 8) (fld m.bytes 17 2) (fld m.bytes 19 1) (some c))

/-- A number of 32 bits, most significant byte first. -/
def be32 (v : Nat) : List Byte := (leBytes 4 v).reverse

/-- The NTP timestamp of hall count `h` under the label: seconds since 1900 and their fraction, of UTC. -/
def TimeUnit.ntpTime (t : TimeUnit) (h : Nat) : List Byte :=
  let ns : Int := (t.labelTai : Int) + 2 * ((h : Int) - t.labelHall) - (BitVec.ofNat 16 t.labelUtc).toInt * 1000000000
  be32 ((ns / 1000000000 + 2208988800) % 2 ^ 32).toNat ++ be32 ((ns % 1000000000).toNat * 2 ^ 32 / 1000000000)

/-- NTP_REQUEST: a response to a client request of 48 bytes or more (R339, RFC 5905); fewer bytes are no NTP request. Fields the
spec does not state are open. -/
def execNtpRequest (req : List Byte) (s : State) : Out3 :=
  if req.length < 48 then .next s
  else
    let s := s.fresh
    let t := s.time
    let open_ (i n : Nat) : List Byte := leBytes n (Config.openField (s.serial * 16 + i))
    let vn := (req.headD 0).toNat / 8 % 8
    let li := if t.labelValid then 0 else 3
    let stamp (i : Nat) : List Byte := if t.labelValid then t.ntpTime s.hall else open_ i 8
    .next (s.send (.ntp (leBytes 1 (li * 64 + vn * 8 + 4) ++ (if t.labelValid then open_ 0 1 else leBytes 1 16) ++
      leBytes 1 (fld req 2 1) ++ leBytes 1 0xEC ++ open_ 1 4 ++ open_ 2 4 ++ open_ 3 4 ++
      (if t.labelValid then t.ntpTime t.labelHall else open_ 4 8) ++ (req.drop 40).take 8 ++ stamp 5 ++ stamp 6)))

end Sys2Proof.Machine
end

