-- ==== Sys2Proof/Machine/Damper.lean ====
section
/-! DEFINITION. The damper, freezes, slip requests and beacons (R340 to R349, R358, R365). Sensor readings are in 1/100 °C,
mV, mA and mW. -/

namespace Sys2Proof.Machine

/-! ### Setting the damper (R342, R343) -/

/-- A period of `n` hall ticks since a step has passed. -/
def passed (last : Option Nat) (n hall : Nat) : Bool := last.all fun h => h + n ≤ hall

/-- The lowest-numbered member of a domain on this module, when the module is its root (R364). -/
def State.rootPart (s : State) (dom : Nat) : Option Nat :=
  match s.membersOf dom with
  | p :: _ => if (s.part p).dom.root then some p else none
  | [] => none

def msgDamperSet (dom seq m h : Nat) : List Byte :=
  leBytes 1 0x14 ++ leBytes 2 dom ++ leBytes 2 seq ++ leBytes 1 m ++ leBytes 8 h ++ leBytes 2 0

/-- A further change awaits its H. -/
def Clock.await (c : Clock) (seq m h : Nat) : Clock :=
  if c.pend then { c with queued := c.queued ++ [(seq, m, h)] }
  else { c with pend := true, mNext := m, seqNext := seq, damperAt := h }

/-- A pending change at partitions; changes already due are applied first. -/
def State.pendDamper (s : State) (ps : List Nat) (seq m h : Nat) : State :=
  ps.foldl (fun s p => (s.damperNow p).updClock p fun c => c.await seq m h) s

/-- The setting a partition has or awaits last, and its sequence number. -/
def Clock.lastM (c : Clock) : Nat := (c.queued.getLast?.map fun e => e.2.1).getD (if c.pend then c.mNext else c.m)
def Clock.lastSeq (c : Clock) : Nat := (c.queued.getLast?.map fun e => e.1).getD (if c.pend then c.seqNext else c.seq)

/-- The root sets m for partitions `ps` of which `p` is the root partition, and tells its tree children. -/
def State.setDamper (s : State) (p : Nat) (ps : List Nat) (m : Nat) : State :=
  let c := (s.part p).clock
  let d := (s.part p).dom
  let seq := (c.lastSeq + 1) % 65536
  let h := roundUp (s.hall + c.slipLead * 64) 256
  let s := if d.st = .none then s else s.sendAll (treeCords d) (msgDamperSet d.domainId seq m h)
  s.pendDamper ps seq m h

/-- The minimum of the module's own desired m and its children's latest for a domain. -/
def State.subMin (s : State) (dom : Nat) : Nat :=
  ((s.time.children.filter fun e => e.1 = dom).map fun e => e.2.2).foldl min s.time.mLocal

/-- The root's decision for partitions `ps`, `key` naming them: lower at once, higher after 100 ms (R343). -/
def State.rootDecides (s : State) (key p : Nat) (ps : List Nat) (low : Nat) : State :=
  let c := (s.part p).clock
  let rest := s.time.raiseAt.filter fun e => e.1 ≠ key
  if low < c.lastM then
    let s := s.updTime fun t => { t with raiseAt := rest }
    s.setDamper p ps low
  else if c.lastM < low then
    match s.time.raiseAt.find? fun e => e.1 = key with
    | none => s.updTime fun t => { t with raiseAt := rest ++ [(key, s.hall)] }
    | some e =>
      if e.2 + 50000000 ≤ s.hall then (s.updTime fun t => { t with raiseAt := rest }).setDamper p ps low else s
  else s.updTime fun t => { t with raiseAt := rest }

/-- Bring a domain's damper up to date: the root decides, any other module reports a changed minimum to its parent. -/
def State.damperEval (s : State) (dom : Nat) : State :=
  let low := s.subMin dom
  match s.membersOf dom with
  | [] => s
  | p :: ps =>
    if (s.part p).dom.root then s.rootDecides dom p (p :: ps) low
    else if s.time.lastUp.contains (dom, low) then s
    else (s.updTime fun t => { t with lastUp := t.lastUp.filter (fun e => e.1 ≠ dom) ++ [(dom, low)] }).sendCtl
      (s.part p).dom.parent (leBytes 1 0x13 ++ leBytes 2 dom ++ leBytes 1 low ++ leBytes 4 0)

/-- Every domain with a partition on the module; a partition of no domain is a domain of one (R359). -/
def State.damperAll (s : State) : State :=
  let live := (List.range 16).filter fun p => (s.part p).live
  let doms := ((live.filter fun p => (s.part p).dom.st = .member ∨ (s.part p).dom.st = .shadow).map fun p =>
    (s.part p).dom.domainId).dedup
  let s := doms.foldl (fun s d => s.damperEval d) s
  (live.filter fun p => (s.part p).dom.st = .none).foldl (fun s p => s.rootDecides (65536 + p) p [p] s.time.mLocal) s

/-- DAMPER_UP: a child's subtree minimum. -/
def execDamperUp (c : CordId) (s : State) : Out3 :=
  .next (s.onCtl c 0x13 fun s m =>
    let dom := fld m.bytes 1 2
    let low := fld m.bytes 3 1
    (s.updTime fun t =>
      { t with children := t.children.filter (fun e => ¬ (e.1 = dom ∧ e.2.1 = c.val)) ++ [(dom, c.val, low)] }).damperEval dom)

/-- DAMPER_SET: kept until its H and passed down the tree. -/
def execDamperSet (c : CordId) (s : State) : Out3 :=
  .next (s.onCtl c 0x14 fun s m =>
    let dom := fld m.bytes 1 2
    let seq := fld m.bytes 3 2
    let h := fld m.bytes 6 8
    match s.membersOf dom with
    | [] => s
    | p :: ps =>
      let last := (s.part p).clock.lastSeq
      let ahead := (seq + 65536 - last) % 65536
      if ahead = 0 ∨ 32768 ≤ ahead then s
      else
        let s := s.sendAll ((treeCords (s.part p).dom).filter fun x => x ≠ c) m.bytes
        if 1 < ahead ∨ h ≤ s.hall then s.timeLoss tlDamper 0
        else s.pendDamper (p :: ps) seq (fld m.bytes 5 1) h)

/-- DAMPER_CHANGE: pending settings whose H has come apply. -/
def execDamperChange (p : PartId) (s : State) : Out3 :=
  .next (
    s.damperNow p)

/-! ### The desired setting (R343) -/

def State.sensor (s : State) (code : Nat) : Int := tabGet 0 s.sensors code

/-- Sensor codes of junctions and of memory stacks (R495). -/
def junctions : List Nat := [0x10, 0x11]
def memStacks : List Nat := (List.range 24).map fun i => 0x20 + i

/-- The first sensor that asks for a lower m. -/
def State.hot (s : State) : Option Nat :=
  (junctions.find? fun j => 9500 ≤ s.sensor j).orElse fun _ =>
  (memStacks.find? fun j => 8300 ≤ s.sensor j).orElse fun _ =>
  if (s.timeRec.powerCap : Int) * 1000 < s.sensor 0x03 then some 0x03 else none

/-- Every sensor allows a higher m. -/
def State.cool (s : State) : Bool :=
  (junctions.all fun j => s.sensor j < 9200) && (memStacks.all fun j => s.sensor j < 8000) &&
  decide (s.sensor 0x03 * 100 < 95 * ((s.timeRec.powerCap : Int) * 1000))

def cThermalDamper : Nat := 0x38

/-- The module's desired m changes: logged, and every domain brought up to date. -/
def State.setLocal (s : State) (m cause : Nat) : State :=
  if s.time.mLocal = m then s
  else
    let s := s.updTime fun t => { t with mLocal := m }
    let detail := leBytes 4 (s.sensor cause % 2 ^ 32).toNat ++ leBytes 1 m
    let s := s.logEv { cls := cThermalDamper, kind := kModule, index := 0, cause := cause, detail := detail }
      ((List.range 16).filter fun p => (s.part p).live)
    s.damperAll

/-- DESIRED_DAMPER_UPDATE (R343) of the 1 ms period or, `slow`, of the 100 ms period: never above M_CAP; lower by 1 every 1 ms
while hot, down to 8; raised by 1 every 100 ms while cool. The sensor code of a rise, and of a fall to M_CAP, is open. -/
def execDesiredDamperUpdate (slow : Bool) (s : State) : Out3 :=
  let m := s.time.mLocal
  .next (if s.timeRec.mCap < m then
      let s := s.fresh
      (s.setLocal s.timeRec.mCap (Config.openField s.serial % 256)).damperAll
    else match s.hot with
    | some code =>
      if ¬ slow ∧ 8 < m ∧ passed s.time.lowerAt 500000 s.hall then
        ((s.updTime fun t => { t with lowerAt := some s.hall }).setLocal (m - 1) code).damperAll
      else s.damperAll
    | none =>
      if slow ∧ s.cool ∧ m < s.timeRec.mCap ∧ passed s.time.riseAt 50000000 s.hall then
        let s := s.fresh
        ((s.updTime fun t => { t with riseAt := some s.hall }).setLocal (m + 1) (Config.openField s.serial % 256)).damperAll
      else s.damperAll)

/-! ### Freezes (R344) -/

/-- FREEZE: a junction at 105 °C, or an overcurrent warning of the regulator of rail group `warn` + 1, whose sensor is then the
cause of the change (R344, R495). -/
def execFreeze (d : DieId) (warn : Option (Fin 8)) (s : State) : Out3 :=
  .next (
    let s := { s with power := { s.power with warn := s.power.warn.filter (fun x => x ≠ d.val) ++ if warn.isSome then [d.val] else [] } }
    if warn.isSome ∨ 10500 ≤ s.sensor (0x10 + d) then
      let t : State := s.updTime fun t => { t with frozen := if t.frozen.contains d.val then t.frozen else t.frozen ++ [d.val] }
      t.setLocal 8 ((warn.map fun i => 0x41 + i.val).getD (0x10 + d))
    else s)

/-- FREEZE_LIFT: every junction of the die below 103 °C and the warning cleared. -/
def execFreezeLift (d : DieId) (warn : Bool) (s : State) : Out3 :=
  .next (
    let s := { s with power := { s.power with warn := s.power.warn.filter (fun x => x ≠ d.val) ++ if warn then [d.val] else [] } }
    if ¬ warn ∧ s.sensor (0x10 + d) < 10300 then s.updTime fun t => { t with frozen := t.frozen.filter fun x => x ≠ d.val } else s)

/-! ### Slip requests (R349) -/

/-- SLIP_REQ: forwarded on the tree while it exceeds what the module has seen, then applied. -/
def execSlipReq (c : CordId) (s : State) : Out3 :=
  .next (s.onCtl c 0x15 fun s m =>
    let dom := fld m.bytes 1 2
    let tag := fld m.bytes 3 8
    let amount := 64 * fld m.bytes 11 4
    let qs := s.membersOf dom
    if ¬ qs.any (fun q => tabGet 0 (s.part q).clock.seen tag < amount) then s
    else match qs with
      | [] => s
      | q :: _ => (s.sendAll ((treeCords (s.part q).dom).filter fun x => x ≠ c) m.bytes).slipAt dom tag amount
          (fld m.bytes 15 2 % 32768) none)

/-! ### Beacons (R342, R358, R365) -/

def msgBeacon (dom seq m k x : Nat) : List Byte :=
  leBytes 1 0x16 ++ leBytes 2 dom ++ leBytes 2 seq ++ leBytes 1 m ++ leBytes 8 k ++ leBytes 8 x ++ leBytes 2 0

/-- DOMAIN_BEACON_SEND by the domain root partition, every 500,000 hall ticks. -/
def execDomainBeaconSend (p : PartId) (s : State) : Out3 :=
  let P := s.part p
  .next (if s.rootPart P.dom.domainId = some p.val ∧ passed P.dom.beaconSent 500000 s.hall then
      let k := P.clock.sched
      (s.updDom p fun d => { d with beaconSent := some s.hall }).sendAll (treeCords P.dom) (msgBeacon P.dom.domainId P.clock.lastSeq P.clock.lastM k (P.clock.x k))
    else s)

/-- What a beacon shows a member that its own record contradicts, once both are final. -/
def State.beaconFails (s : State) (q seq k x : Nat) : Option Nat :=
  let c := (s.part q).clock
  let until_ := (c.queued.getLast?.map fun e => e.2.2).getD c.damperAt
  if ¬ (c.pend ∧ s.hall < until_ + 64 * c.slipLead) ∧ seq ≠ c.seq ∧ ¬ (c.pend ∧ (seq = c.seqNext ∨ c.queued.any fun e => e.1 = seq))
  then some tlDamper
  else if (s.part q).plan.st = .running ∧ k ≤ c.fixed ∧ c.x k ≠ x then some tlMismatch
  else none

/-- A beacon of step `k` shows a shadow that waits for SHADOW_SYNC that beat G(K) has passed without one (R376). -/
def State.missedSync (s : State) (q k : Nat) : State :=
  s.updDom q fun d => match d.startStep with
    | some n => if d.st = .shadow ∧ d.syncHall = none ∧ n ≤ k
      then { d with startStep := none, mismatches := satInc 32 d.mismatches, matched := 0 } else d
    | none => d

/-- DOMAIN_BEACON: recorded, passed down, and compared. -/
def execDomainBeacon (c : CordId) (s : State) : Out3 :=
  .next (s.onCtl c 0x16 fun s m =>
    let dom := fld m.bytes 1 2
    let seq := fld m.bytes 3 2
    let k := fld m.bytes 6 8
    let x := fld m.bytes 14 8
    let qs := s.membersOf dom
    match qs with
    | [] => s
    | q :: _ =>
      if (s.part q).dom.root then s
      else
        let s := s.sendAll ((treeCords (s.part q).dom).filter fun y => y ≠ c ∧ y ≠ (s.part q).dom.parent) m.bytes
        let s := qs.foldl (fun s q => s.updDom q fun d => { d with beaconHall := s.hall, beaconStep := k, beaconX := x }) s
        let s := qs.foldl (fun s q => s.missedSync q k) s
        match qs.findSome? fun q => s.beaconFails q seq k x with
        | some cause => s.timeLoss cause 0
        | none => s)

/-- BEACON_TIMEOUT: 2,000,000 hall ticks without a beacon. -/
def execBeaconTimeout (p : PartId) (s : State) : Out3 :=
  let P := s.part p
  .next (if (P.dom.st = .member ∨ P.dom.st = .shadow) ∧ ¬ P.dom.root ∧ (P.plan.st = .armed ∨ P.plan.st = .running) ∧
      max P.dom.beaconHall P.dom.joinFrom + 2000000 ≤ s.hall then s.timeLoss tlBeacon 0
    else s)

/-- CNT_CLEAR. -/
def execCntClear (p : PartId) (s : State) : Out3 :=
  .next (if s.fnReady p then s.updClock p fun c => { c with cnt := {}, debtMax := 0 } else s)

end Sys2Proof.Machine
end

