-- ==== Sys2Proof/Machine/Lane.lean ====
section
/-! DEFINITION. Lane changes, symbol lock and IDENT (R278 to R280, R297 to R303). -/

namespace Sys2Proof.Machine

def laSwap : Nat := 1
def laDrop : Nat := 2
def laRestore : Nat := 3

/-- The payload of LANE_REQ. -/
def msgLaneReq (action lane wave cond : Nat) : List Byte :=
  leBytes 1 0x01 ++ leBytes 1 action ++ leBytes 1 lane ++ leBytes 1 wave ++ leBytes 1 cond ++ leBytes 3 0

/-- The payload of LANE_CMD; S goes in at its departure. -/
def msgLaneCmd (action : Nat) (gen : Bool) (width : Nat) (map : List Nat) : List Byte :=
  leBytes 1 0x02 ++ leBytes 1 action ++ leBytes 1 (if gen then 1 else 0) ++ leBytes 1 width ++ leBytes 4 0 ++
  ((List.range 8).flatMap fun i => leBytes 1 (map.getD i 0xFF))

/-- Bits of a lane before the outer code in 500,000 hall ticks, times 2 × 10⁻⁴: 448 Gbit/s × 121/128 for 1 ms (R276, R279). -/
def berLimit : Nat := 84700

/-- A failing-lane condition holds on an ingress lane: its lock lost for 500 hall ticks, its bit errors or its uncorrectable
codewords of the last 500,000 above the threshold (R279). -/
def Cord.laneFails (x : Cord) (hall lane : Nat) (cond : Fin 3) : Bool :=
  if cond = 0 then x.lostSince.any fun e => e.1 = lane && e.2 + 500 ≤ hall
  else if cond = 1 then berLimit < ((x.laneErrs.filter fun e => e.1 = lane ∧ hall < e.2.1 + 500000).map fun e => e.2.2).sum
  else 4 < (x.laneFec.filter fun e => e.1 = lane ∧ hall < e.2 + 500000).length

/-- LANE_FAILING: the receiving end declares ingress lane `lane` failing; `cond` is the condition of R279, which must hold;
`fit` what the pattern check of the spare holds. -/
def execLaneFailing (c : CordId) (lane : Fin 8) (cond : Fin 3) (fit : Bool) (s : State) : Out3 :=
  let x := s.cord c
  .next (match x.inMap[lane.val]? with
    | none => s
    | some w =>
      if x.st ≠ .up ∨ ¬ x.laneFails s.hall lane cond then s
      else
        let good := fit && x.inSpare.isSome
        let s := s.updCord c fun x =>
          { x.declare s.hall true w with inFit := good, alarm := true, narrow := x.narrow || (!good && x.inWidth = 7) }
        s.sendCtl c (msgLaneReq (if good then laSwap else laDrop) lane w (cond + 1)))

/-- A wavelength restored is named in a record: S 0, the wavelength, the lane it takes, the width (R280, R305). -/
def restoreDetail (wave lane width : Nat) : List Byte := leBytes 2 0 ++ leBytes 1 wave ++ leBytes 1 lane ++ leBytes 1 width

/-- WAVELENGTH_RESTORE: an ingress wavelength that has been under test for 10 s is restored; the sender is asked to use it, as
a lane at width 7, else as the spare (R280, R300). The command says that it has been FIT all the while. -/
def execWavelengthRestore (c : CordId) (wave : Fin 9) (s : State) : Out3 :=
  let x := s.cord c
  .next (if x.st ≠ .up ∨ ¬ (x.testIn.any fun e => e.1 = wave.val ∧ e.2 + 10 * 500000000 ≤ s.hall) then s
    else
      let s := s.updCord c fun x =>
        { x with testIn := x.testIn.filter (fun e => e.1 ≠ wave.val), inSpare := if x.inWidth = 7 then x.inSpare else some wave.val
                 laneSwaps := if x.inWidth = 7 then x.laneSwaps else satInc 32 x.laneSwaps }
      let s := s.sendCtl c (msgLaneReq laRestore x.inMap.length wave 0)
      s.logEv { cls := cLaneSwap, kind := kCord, index := c, detail := restoreDetail wave x.inMap.length x.inWidth })

/-- Wavelengths in wavelength order. -/
def inWaveOrder (l : List Nat) : List Nat := (List.range 9).filter fun w => l.contains w

/-- Open a lane map change and send its LANE_CMD. -/
def State.openChange (s : State) (c action : Nat) (map : List Nat) (cls : Nat) : State :=
  let gen := !(s.cord c).egGen
  let ch : LaneChange :=
    { action := action, gen := gen, width := map.length, s := 0, map := map, sentAt := none, begun := false, logCls := cls }
  (s.updCord c fun x => { x with change := some ch }).sendCtl c (msgLaneCmd action gen map.length map)

/-- LANE_REQ: what the sender does (R299, R300). A request while a change is open is answered by that change. -/
def execLaneReq (c : CordId) (s : State) : Out3 :=
  .next (s.onCtl c 0x01 fun s m =>
    let x := s.cord c
    let action := fld m.bytes 1 1
    let lane := fld m.bytes 2 1
    let wave := fld m.bytes 3 1
    if x.change.isSome then s
    else if action = laRestore then
      if x.egWidth = 7 then
        (s.updCord c fun x => { x with testEg := x.testEg.filter fun w => w ≠ wave }).openChange c laRestore (inWaveOrder (x.txMap ++ [wave])) cLaneSwap
      else
        (s.updCord c fun x =>
          { x with testEg := x.testEg.filter (fun w => w ≠ wave), spare := some wave, spareSt := 0, laneSwaps := satInc 32 x.laneSwaps }).logEv
          { cls := cLaneSwap, kind := kCord, index := c, detail := restoreDetail wave x.txMap.length x.egWidth }
    else if x.txMap[lane]? ≠ some wave then s
    else
      let s := s.updCord c fun x => x.declare s.hall false wave
      match x.spare with
      | some w =>
        if action = laSwap then s.openChange c laSwap (x.txMap.map fun v => if v = wave then w else v) cLaneSwap
        else if x.egWidth = 8 then s.openChange c laDrop (inWaveOrder (x.txMap.filter fun v => v ≠ wave)) cWidthDrop
        else s.updCord c fun x => { x with narrow := true }
      | none =>
        if x.egWidth = 8 then s.openChange c laDrop (inWaveOrder (x.txMap.filter fun v => v ≠ wave)) cWidthDrop
        else s.updCord c fun x => { x with narrow := true })

/-- LANE_CMD: the receiver prepares; one that it has followed already is confirmed again (R297, R299). -/
def execLaneCmd (c : CordId) (s : State) : Out3 :=
  .next (s.onCtl c 0x02 fun s m =>
    let g := fld m.bytes 2 1
    if (g % 2 = 1) = ((s.cord c).inGen = true) then s.sendCtl c (leBytes 1 0x03 ++ leBytes 1 (g % 2) ++ leBytes 1 0) else s)

/-- LANE_DONE: the change is confirmed. -/
def execLaneDone (c : CordId) (s : State) : Out3 :=
  .next (s.onCtl c 0x03 fun s m => s.updCord c fun x => match x.change with
    | some ch => if ch.begun ∧ fld m.bytes 2 1 = 0 ∧ (fld m.bytes 1 1 % 2 = 1) = (ch.gen = true) then { x with change := none } else x
    | none => x)

/-- LANE_CMD_RETRY: no LANE_DONE within 2 × RTT + 256 hall ticks of the last LANE_CMD. -/
def execLaneCmdRetry (c : CordId) (s : State) : Out3 :=
  let x := s.cord c
  .next (match x.change with
    | some ch => match ch.sentAt with
      | some h =>
        if h + 2 * x.rtt + 256 ≤ s.hall then
          (s.updCord c fun x => { x with change := some { ch with sentAt := some s.hall } }).sendCtl c
            (msgLaneCmd ch.action ch.gen ch.width ch.map)
        else s
      | none => s
    | none => s)

/-- SYNC: the message has carried its sequence number; nothing else. -/
def execSync (c : CordId) (s : State) : Out3 := .next (s.onCtl c 0x04 fun s _ => s)

/-! ### Symbol lock (R303) -/

/-- LOSS_OF_SYMBOL_LOCK of an active lane of a direction: the down timer runs. -/
def execLossOfSymbolLock (c : CordId) (ingress : Bool) (lane : Fin 8) (s : State) : Out3 :=
  let x := s.cord c
  let width := if ingress then x.inWidth else x.egWidth
  .next (if ¬ x.active ∨ width ≤ lane.val ∨ x.unlocked.contains (ingress, lane.val) then s
    else s.updCord c fun x =>
      { x with unlocked := x.unlocked ++ [(ingress, lane.val)], lostAt := some (x.lostAt.getD s.hall)
               lostSince := x.lostSince ++ if ingress then [(lane.val, s.hall)] else [] })

/-! ### Training (R301) -/

def drLock : Nat := 1
def drTooLong : Nat := 2
def drProto : Nat := 3
def drWidth : Nat := 4
def drAdmin : Nat := 5

/-- A cord enters TRAINING: lanes on the wavelengths not retired, generation 0; its IDENT is sent. One that would come up below
width 7 in a direction stays DOWN (R303). -/
def State.startTraining (s : State) (c : Nat) : State :=
  let lanes (ret : List Nat) : List Nat := (List.range 9).filter fun w => ¬ ret.contains w
  if (lanes (s.cord c).retEg).length < 7 ∨ (lanes (s.cord c).retIn).length < 7 then s.updCord c fun x => { x with reason := drWidth }
  else
  let s := s.updCord c fun x =>
    let e := lanes x.retEg
    let i := lanes x.retIn
    { x with
      st := .training, egGen := false, inGen := false, alarm := false, narrow := false, peerProto := 0
      txMap := e.take 8, egWidth := (e.take 8).length, spare := e[8]?, spareSt := if e[8]?.isSome then 0 else 2
      inMap := i.take 8, inWidth := (i.take 8).length, inSpare := i[8]?, inFit := i[8]?.isSome
      testEg := [], testIn := [], unlocked := [], lostAt := none, lostSince := [], laneErrs := [], laneFec := [], elsewhere := []
      exchange := 0, exWait := false, exHall := none, exTx := [], exRx := []
      nextSeq := 0, kept := [], retxQ := [], ackHall := 0, ctlSent := 0, farFreed := 0, cum := 0, got := [], ackShown := 0
      ackLog := [], nackQ := [], nackOut := [], reorder := [], freed := 0, ctlIn := [] }
  s.send (.ident c s.moduleId c 1)

/-- SYMBOL_LOCK_REGAINED: every active lane holds lock again; a DOWN cord that is not held by the Collier retrains (R304). -/
def execSymbolLockRegained (c : CordId) (s : State) : Out3 :=
  let x := s.cord c
  .next (if x.st = .down then (if x.reason = drAdmin then s else s.startTraining c)
    else s.updCord c fun x => { x with unlocked := [], lostAt := none, lostSince := [] })

/-- IDENT: the peer's module, cord and protocol level. A DOWN cord that hears one is in training again (R304). -/
def execIdent (c : CordId) (module : BitVec 15) (number : CordId) (level : Byte) (s : State) : Out3 :=
  let x := s.cord c
  .next (if x.st = .down ∧ x.reason = drAdmin then s else match x.st with
    | .down | .training =>
      let s := if x.st = .down then s.startTraining c else s
      if (s.cord c).st = .down then s
      else s.updCord c fun x => { x with peerModule := module.toNat, peerCord := number, peerProto := level.toNat }
    | _ => s)

end Sys2Proof.Machine
end

