-- ==== Sys2Proof/Machine/Lease.lean ====
section
/-! DEFINITION. Slot leases (R306 to R313). -/

namespace Sys2Proof.Machine

/-! ### Slot bytes (R330) -/

def slotByteModule : Nat := 0x10
def slotByteReserved : Nat := 0x30
def slotByteOwned (p : Nat) (send : Bool) : Nat := p + 0x40 + if send then 0x80 else 0
def slotByteReleasing (p : Nat) : Nat := p + 0x60

/-- Set a list of slots. -/
def Cord.setSlots (x : Cord) (is : List Nat) (b : Nat) : Cord :=
  { x with slots := is.foldl (fun t i => tabSet 0x10 t i b) x.slots }

/-- The slots named by a 32-byte bitmap. -/
def bitmapSlots (m : List Byte) : List Nat := (List.range 256).filter fun i => (m.getD (i / 8) 0).getLsbD (i % 8)

/-- The bitmap of a list of slots. -/
def slotBitmap (is : List Nat) : List Byte :=
  (List.range 32).map fun k => BitVec.ofNat 8 ((List.range 8).foldl (fun a b => if is.contains (8 * k + b) then a + 2 ^ b else a) 0)

/-- Slots return to the module; a pair without a slot loses its partner entry. -/
def Cord.freeSlots (x : Cord) (is : List Nat) (p : Nat) : Cord :=
  let x := x.setSlots is slotByteModule
  if x.holds p then x else { x with partner := tabSet 0 x.partner p 0 }

/-! ### Messages (R309) -/

def msgPropose (l : Lease) : List Byte :=
  leBytes 1 0x20 ++ leBytes 4 l.id ++ leBytes 1 (if l.grant then 1 else 2) ++ leBytes 1 (l.mine + 16 * l.theirs) ++
  leBytes 2 l.domain ++ leBytes 8 l.h ++ slotBitmap l.slots ++ List.replicate 7 0#8

def msgLeaseAck (id result : Nat) : List Byte := leBytes 1 0x21 ++ leBytes 4 id ++ leBytes 1 result ++ leBytes 2 0
def msgLease (kind id : Nat) : List Byte := leBytes 1 kind ++ leBytes 4 id

def lrAccept : Nat := 0
def lrSlotBusy : Nat := 1
def lrPart : Nat := 2
def lrLate : Nat := 3
def lrFull : Nat := 4

/-! ### Checks and reservation (R310) -/

/-- A partition counts as a member of a domain for a lease; a RELEASE also reaches a LEAVING one. -/
def State.leaseMember (s : State) (p dom : Nat) (grant : Bool) : Bool :=
  let P := s.part p
  P.live && P.dom.domainId = dom &&
  (P.dom.st = .member || P.dom.st = .shadow || (!grant && P.dom.st = .leaving))

/-- The slot is reserved at this end: an open lease names it (R310). -/
def Cord.reserved (x : Cord) (i : Nat) : Bool := x.leases.any fun l => l.slots.contains i

/-- The answer of an end at hall count `now`, when it took the proposal, with `lead` hall ticks required before H (R310).
DEDUCED: a slot that an open RELEASE reserves counts as no longer leased for a second RELEASE. -/
def State.leaseCheck (s : State) (c now : Nat) (grant : Bool) (mine theirs dom h lead : Nat) (slots : List Nat) : Nat :=
  let x := s.cord c
  let busy := slots.any fun i => x.reserved i ||
    if grant then ¬ (x.slotOwner i = ownModule ∧ x.slotState i = slModule)
    else ¬ (x.slotOwner i = mine ∧ x.slotState i = slOwned ∧ x.farOf mine = some theirs)
  if busy then lrSlotBusy
  else if ¬ s.leaseMember mine dom grant then lrPart
  else if h < now + lead then lrLate
  else if 8 ≤ x.leases.length then lrFull
  else lrAccept

/-- Open a lease at this end, its slots reserved: shown RESERVED for a GRANT; slots under a RELEASE stay OWNED until it acts. -/
def State.openLease (s : State) (c : Nat) (l : Lease) : State :=
  s.updCord c fun x =>
    let x := { x with leases := x.leases ++ [l] }
    if l.grant then x.setSlots l.slots slotByteReserved else x

/-- A reservation is freed. -/
def State.dropLease (s : State) (c : Nat) (l : Lease) : State :=
  s.updCord c fun x =>
    let x := { x with leases := x.leases.erase l }
    if l.grant then x.setSlots l.slots slotByteModule else x

def Cord.lease (x : Cord) (id : Nat) (proposer : Bool) : Option Lease :=
  x.leases.find? fun l => l.id = id && l.proposer = proposer

def State.setLease (s : State) (c : Nat) (old new : Lease) : State :=
  s.updCord c fun x => { x with leases := x.leases.map fun l => if l = old then new else l }

def State.closeLease (s : State) (c : Nat) (l : Lease) : State := s.updCord c fun x => { x with leases := x.leases.erase l }

/-- The Collier proposes a lease; H is 32,768 hall ticks away unless named. The code of its own check. -/
def State.propose (s : State) (c : Nat) (grant : Bool) (mine theirs dom : Nat) (at_ : Option Nat) (slots : List Nat) : State × Nat :=
  let h := at_.getD (s.hall + 32768)
  let e := s.leaseCheck c s.hall grant mine theirs dom h 16384 slots
  if e ≠ lrAccept then (s, e)
  else
    let id := (s.cord c).leaseId
    let l : Lease :=
      { id := id, proposer := true, grant := grant, mine := mine, theirs := theirs, domain := dom, h := h, slots := slots }
    let s := (s.updCord c fun x => { x with leaseId := (x.leaseId + 1) % 2 ^ 32 }).openLease c l
    (s.sendCtl c (msgPropose l), lrAccept)

/-! ### A lease acts (R311, R312) -/

/-- A committed lease acts at this end, at or after H. -/
def State.leaseAct (s : State) (c : Nat) (l : Lease) : State :=
  if l.grant then
    if l.proposer then
      let s := s.updCord c fun x =>
        { x.setSlots l.slots (slotByteOwned l.mine l.done) with partner := tabSet 0 x.partner l.mine (128 + l.theirs) }
      if l.done then s.closeLease c l else s.setLease c l { l with begun := true }
    else
      let s := s.updCord c fun x =>
        { x.setSlots l.slots (slotByteOwned l.mine true) with partner := tabSet 0 x.partner l.mine (128 + l.theirs) }
      (s.closeLease c l).sendCtl c (msgLease 0x24 l.id)
  else
    let s := s.updCord c fun x => x.setSlots l.slots (slotByteReleasing l.mine)
    if l.proposer then
      if l.done then (s.updCord c fun x => x.freeSlots l.slots l.mine).closeLease c l else s.setLease c l { l with begun := true }
    else
      (s.setLease c l { l with begun := true, endAt := s.hall + (s.cord c).delayRx + 2 }).sendCtl c (msgLease 0x24 l.id)

/-- A committed lease whose H has come and that has not acted. -/
def Lease.due (l : Lease) (hall : Nat) : Bool := l.commit && !l.begun && l.h ≤ hall

/-- LEASE_PROPOSE: the receiver's answer; ACCEPT reserves. -/
def execLeasePropose (c : CordId) (s : State) : Out3 :=
  .next (s.onCtl c 0x20 fun s m =>
    let b := m.bytes
    let parts := fld b 6 1
    let l : Lease :=
      { id := fld b 1 4, proposer := false, grant := fld b 5 1 = 1, mine := parts / 16, theirs := parts % 16
        domain := fld b 7 2, h := fld b 9 8, slots := bitmapSlots ((b.drop 17).take 32), accepted := true }
    let e := s.leaseCheck c m.hall l.grant l.mine l.theirs l.domain l.h 4096 l.slots
    (if e = lrAccept then s.openLease c l else s).sendCtl c (msgLeaseAck l.id e))

/-- LEASE_ACK: COMMIT on ACCEPT before H, ABORT otherwise. -/
def execLeaseAck (c : CordId) (s : State) : Out3 :=
  .next (s.onCtl c 0x21 fun s m =>
    match (s.cord c).lease (fld m.bytes 1 4) true with
    | none => s
    | some l =>
      if l.commit then s
      else if fld m.bytes 5 1 = lrAccept ∧ m.hall < l.h then
        (s.setLease c l { l with accepted := true, commit := true }).sendCtl c (msgLease 0x22 l.id)
      else (s.dropLease c l).sendCtl c (msgLease 0x23 l.id))

/-- LEASE_COMMIT: the receiver acts at the later of H and this. -/
def execLeaseCommit (c : CordId) (s : State) : Out3 :=
  .next (s.onCtl c 0x22 fun s m =>
    match (s.cord c).lease (fld m.bytes 1 4) false with
    | none => s
    | some l =>
      let l' := { l with commit := true }
      let s := s.setLease c l l'
      if l'.due s.hall then s.leaseAct c l' else s)

/-- LEASE_ABORT: the receiver frees its reservation. -/
def execLeaseAbort (c : CordId) (s : State) : Out3 :=
  .next (s.onCtl c 0x23 fun s m =>
    match (s.cord c).lease (fld m.bytes 1 4) false with
    | none => s
    | some l => if l.commit then s else s.dropLease c l)

/-- LEASE_DONE: the proposer of a GRANT may send; the proposer of a RELEASE stops accepting. -/
def execLeaseDone (c : CordId) (s : State) : Out3 :=
  .next (s.onCtl c 0x24 fun s m =>
    match (s.cord c).lease (fld m.bytes 1 4) true with
    | none => s
    | some l =>
      if ¬ l.commit then s
      else
        let l' := { l with done := true }
        let s := s.setLease c l l'
        if ¬ l.begun then s
        else if l.grant then (s.updCord c fun x => x.setSlots l.slots (slotByteOwned l.mine true)).closeLease c l'
        else (s.updCord c fun x => x.freeSlots l.slots l.mine).closeLease c l')

/-- A lease of pass-through lane slots, which this module's Collier makes alone (R308): SLOT_BUSY where a slot of a GRANT is not
module-owned or is reserved, or one of a RELEASE is not the partition's; else it waits for its H, a GRANT's slots RESERVED. -/
def State.leaseLane (s : State) (lane p : Nat) (grant : Bool) (h : Nat) (slots : List Nat) : State × Nat :=
  let held := (s.laneLeases.filter fun l => l.lane = lane).flatMap (·.slots)
  let byte (i : Nat) : Nat := tabGet 0x10 (tabGet [] s.lanes lane) i
  let busy := slots.any fun i =>
    held.contains i || decide (byte i ≠ if grant then slotByteModule else slotByteOwned p true)
  if busy then (s, lrSlotBusy)
  else
    ({ s with
       laneLeases := s.laneLeases ++ [{ lane := lane, grant := grant, part := p, h := h, slots := slots }]
       lanes := if grant then tabUpd [] s.lanes lane fun t => slots.foldl (fun t i => tabSet 0x10 t i slotByteReserved) t
         else s.lanes }, lrAccept)

/-- Apply a lease of pass-through lane slots; bit 7 of a slot equals OWNED (R308, R330). -/
def State.laneAct2 (s : State) (l : LaneLease) : State :=
  { s with
    lanes := tabUpd [] s.lanes l.lane fun t =>
      l.slots.foldl (fun t i => tabSet 0x10 t i (if l.grant then slotByteOwned l.part true else slotByteModule)) t
    laneLeases := s.laneLeases.erase l }

/-- LEASE_EFFECTIVE: the committed leases of a cord whose H has come; with no cord, those of the pass-through lanes. -/
def execLeaseEffective (c : Option CordId) (s : State) : Out3 :=
  .next (match c with
    | some c => ((s.cord c).leases.filter fun l => l.due s.hall).foldl (fun s l => s.leaseAct c l) s
    | none => (s.laneLeases.filter fun l => l.h ≤ s.hall).foldl (fun s l => s.laneAct2 l) s)

/-- LEASE_ACCEPT_END: a RELEASE receiver stops accepting, and the slots return to the module. -/
def execLeaseAcceptEnd (c : CordId) (s : State) : Out3 :=
  let over_ := (s.cord c).leases.filter fun l => !l.grant && !l.proposer && l.begun && l.endAt ≤ s.hall
  .next (over_.foldl (fun s l => (s.updCord c fun x => x.freeSlots l.slots l.mine).closeLease c l) s)

/-- The pass-through lane leases of a partition end, those still waiting for their H with them. -/
def State.endLanes (s : State) (p : Nat) : State :=
  let open_ := s.laneLeases.filter fun l => l.part = p ∧ l.grant
  let s := open_.foldl (fun s l => { s with
    lanes := tabUpd [] s.lanes l.lane fun t => l.slots.foldl (fun t i => tabSet 0x10 t i slotByteModule) t }) s
  { s with
    lanes := s.lanes.map fun (e : Nat × Tab Nat) => (e.1, e.2.filter fun x => x.2 % 32 ≠ p)
    laneLeases := s.laneLeases.filter fun l => l.part ≠ p }

/-! ### Standing leases (R448) -/

/-- A standing lease whose partition is MEMBER and whose cord is UP is proposed, once after a kindling; one of a pass-through
lane is applied at its H. -/
def State.propStanding (s : State) : State :=
  (s.standing.filter fun a => ¬ s.stood.contains a).foldl (fun s a =>
    let p := fld a 0 1
    let c := fld a 1 1
    let dom := fld a 4 2
    if ¬ (s.leaseMember p dom true ∧ (32 ≤ c ∨ (s.cord c).st = .up)) then s
    else
      let s : State := { s with stood := s.stood ++ [a] }
      let slots := bitmapSlots ((a.drop 16).take 32)
      if 32 ≤ c then (s.leaseLane (c - 32) p true (fld a 8 8) slots).1
      else (s.propose c true p (fld a 2 1) dom none slots).1) s

/-- Every lease of a partition ends on a cord that goes DOWN (R313): all of them, with the partner entries. -/
def Cord.endLeases (x : Cord) : Cord := { x with slots := [], partner := [], leases := [] }

/-- The partition holds no lease, open or in force, on any cord or lane (R384). -/
def State.leaseFree (s : State) (p : Nat) : Bool :=
  (List.range 32).all (fun c => !((s.cord c).holds p) && (s.cord c).leases.all fun l => l.mine ≠ p) &&
  (List.range 4).all (fun n => (tabGet [] s.lanes n).all fun e => e.2 % 32 ≠ p) &&
  s.laneLeases.all fun l => l.part ≠ p

end Sys2Proof.Machine
end

