-- ==== Sys2Proof/Machine/Weights.lean ====
section
/-! DEFINITION. The weight ledger, the weight epoch and the overlay table (R253 to R273). -/

namespace Sys2Proof.Machine

def cShardTag : Nat := 0x28
def cShardMissing : Nat := 0x29

/-- WL_CTX_RESULT of a core. -/
def State.wlResult (s : State) (c v : Nat) : State := s.updCore c fun x => { x with reg := { x.reg with wlRes := v } }

/-! ### Shard contexts (R257 to R261) -/

/-- The additional data of a shard, 32 bytes (R253), from a context record. -/
def State.shardAad (s : State) (p a : Nat) : List Byte :=
  s.pBytes p (a + 0x40) 16 ++ leBytes 4 (s.pLe p (a + 4) 2) ++ s.pBytes p (a + 0x38) 8 ++ s.pBytes p (a + 8) 4

/-- The Retort engine a record names: its index, or the one that serves the group that holds ADDR (R30). -/
def State.retortOf (s : State) (p v addr : Nat) : Nat := if v = 0xFF then s.servingRetort p (addr / 0x1000000000) else v

/-- The checks of ARM in the order of R258: the STATUS that results, with the context latched. -/
def State.armCheck (s : State) (p c : Nat) : ShardCtx :=
  let a := s.ctxAddr p c
  let len := s.pLe p (a + 8) 4
  let addr := s.pLe p (a + 0x10) 8
  let op := s.pLe p (a + 1) 1
  let layer := s.pLe p (a + 4) 2
  let index := s.pLe p (a + 6) 2
  let key := s.pLe p (a + 2) 1
  let eng := s.retortOf p (s.pLe p (a + 3) 1) addr
  let l := (s.part p).wts.layer layer
  let ok := s.mappedRange p a 128 && 64 ≤ len && len ≤ 67108864 && len % 64 = 0 && layer ≤ 255 && index ≤ 1023 &&
    s.nearRange p addr len && eng < 8 && (s.groupsOf p).any (fun g => g / 8 = eng / 4) && (op = 1 || op = 2)
  let st :=
    if ¬ ok then cxRange
    else if (s.modelKey p key).isNone then cxKey
    else if op = 1 ∧ ¬ (l.opened ∧ 0 < l.pending) then cxLayer
    else if op = 2 ∧ l.opened then cxLayer
    else cxArmed
  { st := st, opened := decide (op = 1), keySlot := key, retort := eng, layer := layer, index := index, len := len
    addr := addr, nonce := s.pBytes p (a + 0x18) 12, tag := BitVec.ofNat 128 (s.pLe p (a + 0x28) 16), aad := s.shardAad p a }

/-- CONTEXT_ARM: nothing for an ARMED or READY context. An unmapped record or range counts at the Retort engine (R392). -/
def execContextArm (core : CoreId) (ctx : Fin 256) (s : State) : Out3 :=
  .next (s.byCore core fun p =>
    let old := (s.part p).wts.ctx ctx
    if old.st = cxArmed ∨ old.st = cxReady then s.wlResult core old.st
    else
      let x := s.armCheck p ctx
      let s := if ¬ s.mappedRange p (s.ctxAddr p ctx) 128 then s.unmapped kRetort x.retort p (s.ctxAddr p ctx)
        else if ¬ s.mappedRange p x.addr x.len then s.unmapped kRetort x.retort p x.addr else s
      let s := s.setCtx p ctx (if x.st = cxArmed then x else { x with count := old.count })
      let s := if x.st = cxArmed then
          s.putMem p (s.ctxAddr p ctx + 0x50) (leBytes 8 (0x40000000000 + p * 0x1000000000 + ctx * 0x10000000))
        else s
      s.wlResult core x.st)

/-- The log entry of a shard that failed or is missing (R480). -/
def shardEntry (cls p c : Nat) (x : ShardCtx) : LogEntry :=
  { cls := cls, kind := kRetort, index := x.retort, part := p, cause := if x.storage then 1 else 0
    detail := leBytes 1 x.layer ++ leBytes 1 0 ++ leBytes 2 x.index ++ leBytes 1 c ++ leBytes 3 0 ++ leBytes 4 x.count ++ leBytes 2 x.source }

/-- CONTEXT_DISARM: ABORTED, or the final status (R261). -/
def execContextDisarm (core : CoreId) (ctx : Fin 256) (s : State) : Out3 :=
  .next (s.byCore core fun p =>
    let x := (s.part p).wts.ctx ctx
    if x.st = cxArmed ∨ x.st = cxReady then
      let s := s.setCtx p ctx { x with st := cxAborted }
      (if x.opened then s.logEv (shardEntry cShardMissing p ctx x) else s).wlResult core cxAborted
    else s.wlResult core x.st)

/-- The ranges are disjoint and add up to `len`: every byte came exactly once. -/
def coversOnce (rs : List (Nat × Nat)) (len : Nat) : Bool :=
  (rs.map (·.2)).sum = len && decide (rs.Pairwise fun a b => a.1 + a.2 ≤ b.1 ∨ b.1 + b.2 ≤ a.1)

/-- The tag of a plaintext under a context's key, nonce and additional data, and its ciphertext. -/
def State.shardSeal (s : State) (p : Nat) (x : ShardCtx) (plain : List Byte) : List Byte × BitVec 128 :=
  Config.gcmSeal ((s.modelKey p x.keySlot).getD 0) x.nonce x.aad plain

/-- The tag of an OPEN context matches: every byte came once and the ciphertext carries the tag. -/
def State.openTagOk (s : State) (p : Nat) (x : ShardCtx) : Bool :=
  let plain := Config.gcmStream ((s.modelKey p x.keySlot).getD 0) x.nonce 0 (rdBytes x.cipher 0 x.len)
  coversOnce x.got x.len && (s.shardSeal p x plain).2 = x.tag

/-- A verified index lowers PENDING once since the layer opened (R259). -/
def State.verified (s : State) (p layer index : Nat) : State :=
  let f (l : Layer) : Layer :=
    if l.verified.contains index then l else { l with verified := l.verified ++ [index], pending := l.pending - 1 }
  s.updWts p fun w => { w with layers := tabUpd {} w.layers layer f }

/-- Bytes reach an offset of a context's window (R259). `from_`: the module whose Stoke channel wrote, none for storage
through the host. A write not wholly below LENGTH is dropped whole. -/
def State.shardWrite (s : State) (p ctx off : Nat) (bytes : List Byte) (from_ : Option Nat) : State :=
  let x := (s.part p).wts.ctx ctx
  if x.st ≠ cxArmed ∨ ¬ x.opened ∨ x.len < off + bytes.length then
    s.updWts p fun w => { w with dropped := satInc 32 w.dropped }
  else if bytes = [] then s
  else
    let s := s.wrMems (x.addr + off) (Config.gcmStream ((s.modelKey p x.keySlot).getD 0) x.nonce off bytes)
    let x := { x with
      cipher := wrBytes x.cipher off bytes, got := x.got ++ [(off, bytes.length)], count := x.count + bytes.length
      storage := from_.isNone, source := from_.getD 0 }
    if x.count < x.len then s.setCtx p ctx x
    else if s.openTagOk p x then (s.setCtx p ctx { x with st := cxOk }).verified p x.layer x.index
    else (s.setCtx p ctx { x with st := cxTagFail }).logEv (shardEntry cShardTag p ctx x)

/-- A window read: ciphertext of the source at this moment, or an error (R260). -/
def State.shardRead (s : State) (p ctx off n : Nat) : State × Option (List Byte) :=
  let x := (s.part p).wts.ctx ctx
  if x.st ≠ cxReady ∨ x.len < off + n then (s, none)
  else
    let c := (s.shardSeal p x (s.memBytes x.addr x.len)).1
    (s.setCtx p ctx { x with count := (x.count + n) % 2 ^ 32 }, some ((c.drop off).take n))

/-- SHARD_WINDOW_WRITE. -/
def execShardWindowWrite (p : PartId) (ctx : Fin 256) (off : Nat) (bytes : List Byte) (from_ : Option (BitVec 15)) (s : State) : Out3 :=
  .next (s.shardWrite p ctx off bytes (from_.map (·.toNat)))

/-- RESEAL_VERIFY_DONE: the verifying pass of an ARMED RESEAL context (R260). -/
def execResealVerifyDone (p : PartId) (ctx : Fin 256) (s : State) : Out3 :=
  let x := (s.part p).wts.ctx ctx
  .next (if x.st ≠ cxArmed ∨ x.opened then s
    else if (s.shardSeal p x (s.memBytes x.addr x.len)).2 = x.tag then s.setCtx p ctx { x with st := cxReady }
    else (s.setCtx p ctx { x with st := cxTagFail }).logEv (shardEntry cShardTag p ctx { x with source := s.moduleId }))

/-- SHARD_WINDOW_READ. -/
def execShardWindowRead (p : PartId) (ctx : Fin 256) (off n : Nat) (s : State) : Out3 :=
  let z := s.shardRead p ctx off n
  .next (z.1.send (.shardRead p ctx z.2))

/-! ### Layers and the epoch (R263) -/

/-- LAYER_OPEN: a WL_LAYER write with OPEN_CMD, which also carries a PENDING value. -/
def execLayerOpen (core : CoreId) (layer : Fin 256) (value : BitVec 16) (s : State) : Out3 :=
  .next (s.byCore core fun p =>
    let w := (s.part p).wts
    if w.armed then s.assistFence p
    else
      let s := if (w.layer layer).opened then s.updWts p fun w =>
          { w with layers := tabUpd {} w.layers layer fun l => { l with pending := value.toNat } }
        else s.assistFence p
      let s := s.updWts p fun w => { w with layers := tabUpd {} w.layers layer fun l => { l with opened := true, verified := [] } }
      s.abortCtxs p fun x => !x.opened && x.layer = layer.val && (x.st = cxArmed || x.st = cxReady))

def eeNone : Nat := 0
def eeState : Nat := 1
def eePending : Nat := 2
def eeStep : Nat := 3
def eeEpoch : Nat := 4

def State.epochErr (s : State) (p e : Nat) : State := s.updWts p fun w => { w with errCode := e }

/-- The refusals SET and ARM share after their own: PENDING, then EPOCH. -/
def Weights.epochRefuse (w : Weights) (e : Nat) (arm : Bool) : Nat :=
  if w.openPending.isSome then eePending
  else if e = w.active then (if arm then eeNone else eeEpoch)
  else if e = w.prev then eeEpoch
  else eeNone

/-- FB_EPOCH_ERR of a refusal; LAYER for code PENDING. -/
def State.epochRefused (s : State) (p e : Nat) : State :=
  let s := s.epochErr p e
  if e = eePending then s.updWts p fun w => { w with errLayer := w.openPending.getD 0 } else s

/-- EPOCH_SET -/
def execEpochSet (core : CoreId) (epoch : Byte) (compat : Bool) (s : State) : Out3 :=
  .next (s.byCore core fun p =>
    if ¬ s.srvAccepts p then s.epochRefused p eeState
    else
      let e := (s.part p).wts.epochRefuse epoch.toNat false
      if e ≠ eeNone then s.epochRefused p e
      else ((s.abortOpens p).updWts p fun w => w.takeEpoch epoch.toNat compat false).epochErr p eeNone)

/-- EPOCH_ARM: S is FB_EPOCH_STEP. -/
def execEpochArm (core : CoreId) (epoch : Byte) (compat : Bool) (s : State) : Out3 :=
  .next (s.byCore core fun p =>
    let w := (s.part p).wts
    if w.armed then s.epochRefused p eeState
    else if w.openPending.isSome then s.epochRefused p eePending
    else if w.stepReg < (s.part p).frame.target then s.epochRefused p eeStep
    else
      let e := w.epochRefuse epoch.toNat true
      if e ≠ eeNone then s.epochRefused p e
      else ((s.abortOpens p).updWts p fun w =>
        { w with armed := true, next := epoch.toNat, nextKv := compat, armStep := w.stepReg, armSame := epoch.toNat = w.active }).epochErr p eeNone)

/-- EPOCH_DISARM -/
def execEpochDisarm (core : CoreId) (s : State) : Out3 :=
  .next (s.byCore core fun p => (s.cancelFlip p).epochErr p eeNone)

/-! ### Overlays (R270, R271) -/

def ovOk : Nat := 0
def ovRange : Nat := 1
def ovTwoLive : Nat := 2
def ovNone : Nat := 3
def ovState : Nat := 4
def ovTenant : Nat := 5
def ovSaturated : Nat := 6

/-- OV_RESULT.CODE of a core. -/
def State.ovEnd (s : State) (c code : Nat) : State := s.updCore c fun x => { x with reg := { x.reg with ovCode := code } }

/-- The whole of OV_RESULT; a generation only where one was installed or pinned. -/
def State.ovDone (s : State) (c : Nat) (gen : Option Nat) (pins : Nat) : State :=
  s.updCore c fun x => { x with reg := { x.reg with ovCode := ovOk, ovGen := gen.getD x.reg.ovGen, ovPins := pins } }

/-- The newer of two generation numbers; 0 is none, and 255 is followed by 1. -/
def newerGen (a b : Nat) : Nat :=
  if a = 0 then b else if b = 0 then a else if (a + 255 - b) % 255 < 128 then a else b

def nextGen (g : Nat) : Nat := if g = 255 then 1 else g + 1

/-- An operation on a handle of the table: `none_` where there is no such entry; an entry in unmapped memory is counted, and
nothing is done (R271, R392). -/
def State.ovCommand (s : State) (core : Nat) (h none_ : Nat) (f : Nat → Nat → State) : State :=
  s.byCore core fun p =>
    if h = 0 ∨ (s.part p).wts.ovCount ≤ h then s.ovEnd core none_
    else if ¬ s.anyRange p (s.ovAddr p h) 64 then (s.unmapped kAssist p p (s.ovAddr p h)).ovEnd core none_
    else f p (s.ovAddr p h)

/-- The record of an entry that satisfies a test: false is A, true is B. -/
def State.ovFind (_s : State) (f : Bool → Bool) : Option Bool := [false, true].find? f

/-- INSTALL -/
def execInstall (core : CoreId) (h : BitVec 24) (atFlip : Bool) (tenant : BitVec 16) (s : State) : Out3 :=
  .next (s.ovCommand core h.toNat ovRange fun p a =>
    let w := (s.part p).wts
    let live := w.handles.contains h.toNat
    let free := if live then s.ovFind fun b => s.ovGst p a b = gFree else some false
    if live ∧ s.pLe p (a + 2) 2 ≠ tenant.toNat then s.ovEnd core ovTenant
    else match free with
      | none => s.ovEnd core ovTwoLive
      | some b =>
        if atFlip ∧ ¬ w.armed then s.ovEnd core ovState
        else
          let g := if live then nextGen (newerGen (s.ovGen p a false) (s.ovGen p a true)) else 1
          let s := if live then s
            else (s.putMem p a (List.replicate 64 0#8)).updWts p fun w => { w with handles := w.handles ++ [h.toNat] }
          let table := (s.core core).reg.ovArg
          let s := (s.pWrLe p a 1 1).pWrLe p (a + 2) 2 tenant.toNat
          let s := s.putMem p (a + ovRec b) (leBytes 1 g ++ leBytes 1 (if atFlip then gAtFlip else gPending) ++ leBytes 2 0 ++
            leBytes 4 0 ++ leBytes 8 table)
          s.ovDone core (some g) 0)

/-- The CURRENT record of a LIVE entry. -/
def State.ovCur (s : State) (p h a : Nat) : Option Bool :=
  if (s.part p).wts.handles.contains h then s.ovFind fun b => s.ovGst p a b = gCurrent else none

/-- PIN -/
def execPin (core : CoreId) (h : BitVec 24) (s : State) : Out3 :=
  .next (s.ovCommand core h.toNat ovNone fun p a =>
    match s.ovCur p h.toNat a with
    | none => s.ovEnd core ovNone
    | some b =>
      let n := s.ovPins p a b
      if 65535 ≤ n then s.ovEnd core ovSaturated
      else (s.pWrLe p (a + ovRec b + 2) 2 (n + 1)).ovDone core (some (s.ovGen p a b)) (n + 1))

/-- UNPIN -/
def execUnpin (core : CoreId) (h : BitVec 24) (gen : Byte) (s : State) : Out3 :=
  .next (s.ovCommand core h.toNat ovState fun p a =>
    let found := if (s.part p).wts.handles.contains h.toNat then
        s.ovFind fun b => s.ovGst p a b ≠ gFree && s.ovGen p a b = gen.toNat && 0 < s.ovPins p a b
      else none
    match found with
    | none => s.ovEnd core ovState
    | some b => (s.pWrLe p (a + ovRec b + 2) 2 (s.ovPins p a b - 1)).ovDone core none (s.ovPins p a b - 1))

/-- WITHDRAW -/
def execWithdraw (core : CoreId) (h : BitVec 24) (s : State) : Out3 :=
  .next (s.ovCommand core h.toNat ovNone fun p a =>
    match s.ovCur p h.toNat a with
    | none => s.ovEnd core ovNone
    | some b =>
      (s.updWts p fun w => { w with withdraw := h.toNat :: w.withdraw.filter fun x => x ≠ h.toNat }).ovDone core none (s.ovPins p a b))

end Sys2Proof.Machine
end

