-- ==== Sys2Proof/Machine/Packet.lean ====
section
/-! DEFINITION. Packets (11): header, routes, forwarding and deflection, the requester and the responder. -/

namespace Sys2Proof.Machine

def State.updRouting (s : State) (p : Nat) (f : Routing → Routing) : State := s.updPart p fun P => { P with routing := f P.routing }

/-! ### Ranges of a partition's address map (R391) -/

/-- Bytes from an address to the end of what it reaches; 0 where it is unmapped. -/
def State.extent (s : State) (p a : Nat) : Nat :=
  match s.reach p a with
  | .near _ m => 48 * gib - m % (64 * gib)
  | .turf _ m => 64 * gib - m % (64 * gib)
  | .store _ m => 4 * mib - m % (4 * mib)
  | .shard _ o => 256 * mib - o
  | .host _ => ((s.hostWin p a).map fun w => w.base + w.size - a).getD 0
  | .unmapped => 0

/-- The range cut where what it reaches changes; none when a byte is unmapped. -/
def State.pieces (s : State) (p : Nat) : Nat → Nat → Nat → Option (List (Nat × Nat))
  | 0, _, n => if n = 0 then some [] else none
  | f + 1, a, n =>
    if n = 0 then some []
    else
      let e := min n (s.extent p a)
      if e = 0 then none else (s.pieces p f (a + e) (n - e)).map fun r => (a, e) :: r

def State.pieceList (s : State) (p a n : Nat) : Option (List (Nat × Nat)) := s.pieces p 1024 a n

/-- Every byte of the range is mapped. -/
def State.allMapped (s : State) (p a n : Nat) : Bool := (s.pieceList p a n).isSome

/-- Every byte of the range lies in near memory, turf, the Ember store or a host window. -/
def State.memMapped (s : State) (p a n : Nat) : Bool :=
  match s.pieceList p a n with
  | none => false
  | some l => l.all fun e => match s.reach p e.1 with | .shard _ _ => false | _ => true

/-- Every byte of the range may be written: it is mapped, and no READ_ONLY window holds it (R408). -/
def State.allWritable (s : State) (p a n : Nat) : Bool :=
  match s.pieceList p a n with
  | none => false
  | some l => l.all fun e => match s.reach p e.1 with
    | .host _ => !((s.hostWin p e.1).map (·.readOnly)).getD true
    | _ => true

/-- Halt causes (R419). -/
def hcHost : Nat := 1
def hcPoisoned : Nat := 2
def hcMemUe : Nat := 3
def hcWindow : Nat := 4
def hcTimeout : Nat := 5
def hcUnknown : Nat := 6

/-- Read a piece; `host` is host memory as it stands. A failure gives its cause and the offset of its first byte. -/
def State.readPiece (s : State) (p : Nat) (host : Cells) (a n : Nat) : State × Except (Nat × Nat) (List Byte) :=
  match s.reach p a with
  | .near _ m | .turf _ m | .store _ m =>
    match s.badWords.filter fun w => w < m + n && m < w + 32 with
    | [] => (s, .ok (s.memBytes m n))
    | w :: r => (s, .error (hcMemUe, (r.foldl min w) - m))
  | .shard c o =>
    let z := s.shardRead p c o n
    match z.2 with
    | some b => (z.1, .ok b)
    | none =>
      let x := (s.part p).wts.ctx c
      (s, .error (hcWindow, if x.st = cxReady then x.len - o else 0))
  | .host h => if s.winUp p a then (s, .ok (rdBytes host h n)) else (s, .error (hcHost, 0))
  | .unmapped => (s, .error (hcHost, 0))

/-- Read pieces in order, up to the first failure. -/
def State.readPieces (s : State) (p : Nat) (host : Cells) : List (Nat × Nat) → Nat → List Byte → State × Except (Nat × Nat) (List Byte)
  | [], _, acc => (s, .ok acc)
  | e :: r, at_, acc =>
    let z := s.readPiece p host e.1 e.2
    match z.2 with
    | .ok b => z.1.readPieces p host r (at_ + e.2) (acc ++ b)
    | .error x => (z.1, .error (x.1, at_ + x.2))

/-- Read a mapped range. -/
def State.readAll (s : State) (p a n : Nat) (host : Cells) : State × Except (Nat × Nat) (List Byte) :=
  match s.pieceList p a n with
  | some l => s.readPieces p host l 0 []
  | none => (s, .error (hcHost, 0))

/-- Write a mapped range; `from_` as `State.shardWrite` takes it. A host write that cannot reach the host fails at the
offset given. -/
def State.writeAll (s : State) (p a : Nat) (bytes : List Byte) (from_ : Option Nat) : State × Option Nat :=
  let put (z : State × Option Nat) (e : Nat × Nat) : State × Option Nat :=
    match z.2 with
    | some _ => z
    | none =>
      let b := (bytes.drop (e.1 - a)).take e.2
      match z.1.reach p e.1 with
      | .shard c o => (z.1.shardWrite p c o b from_, none)
      | .host _ => if z.1.winUp p e.1 then (z.1.putMem p e.1 b, none) else (z.1, some (e.1 - a))
      | _ => (z.1.putMem p e.1 b, none)
  match s.pieceList p a bytes.length with
  | some l => l.foldl put (s, none)
  | none => (s, some 0)

/-! ### The packet header (R314) -/

structure PktHdr where
  type    : BitVec 4
  detour  : Bool := false
  last    : Bool := true
  hops    : BitVec 6 := 1
  rlen    : BitVec 5 := 0
  rptr    : BitVec 5 := 0
  attempt : BitVec 2 := 0
  srcModule : BitVec 15
  srcPart : BitVec 4
  dstModule : BitVec 15
  dstPart : BitVec 4
  reqId   : BitVec 20
  route   : BitVec 80 := 0
  addr    : BitVec 52
  index   : BitVec 8 := 0
  msgLen  : BitVec 22
  reason  : BitVec 4 := 0
  stamp   : BitVec 8
deriving DecidableEq, Repr

/-- The 256 header bits. -/
def PktHdr.bits (h : PktHdr) : BitVec 256 :=
  h.stamp ++ h.reason ++ h.msgLen ++ h.index ++ h.addr ++ h.route ++ h.reqId ++ h.dstPart ++ h.dstModule ++ h.srcPart ++
  h.srcModule ++ h.attempt ++ h.rptr ++ h.rlen ++ h.hops ++ BitVec.ofBool h.last ++ BitVec.ofBool h.detour ++ h.type

/-- The header that 256 bits hold. -/
def pktOfBits (w : BitVec 256) : PktHdr :=
  { type := w.extractLsb' 0 4
    detour := w.getLsbD 4
    last := w.getLsbD 5
    hops := w.extractLsb' 6 6
    rlen := w.extractLsb' 12 5
    rptr := w.extractLsb' 17 5
    attempt := w.extractLsb' 22 2
    srcModule := w.extractLsb' 24 15
    srcPart := w.extractLsb' 39 4
    dstModule := w.extractLsb' 43 15
    dstPart := w.extractLsb' 58 4
    reqId := w.extractLsb' 62 20
    route := w.extractLsb' 82 80
    addr := w.extractLsb' 162 52
    index := w.extractLsb' 214 8
    msgLen := w.extractLsb' 222 22
    reason := w.extractLsb' 244 4
    stamp := w.extractLsb' 248 8 }

def PktHdr.bytes (h : PktHdr) : List Byte := leBytes 32 h.bits.toNat
def pktHdr (b : List Byte) : PktHdr := pktOfBits (BitVec.ofNat 256 (leNat (b.take 32)))

def ptRdReq : BitVec 4 := 1
def ptWrReq : BitVec 4 := 2
def ptRdRsp : BitVec 4 := 3
def ptWrRsp : BitVec 4 := 4
def ptNack : BitVec 4 := 5

/-- REASON codes. -/
def nrHops : Nat := 1
def nrFull : Nat := 2
def nrRange : Nat := 3
def nrBusy : Nat := 4
def nrNoRoute : Nat := 5
def nrPart : Nat := 6
def nrAge : Nat := 7

/-- The class a packet travels as (R315). -/
def PktHdr.cls (h : PktHdr) : Nat := if h.type = ptRdReq ∨ h.type = ptWrReq then clReq else clRsp

/-- Payload bytes of a packet (R315); none when no packet of its INDEX exists. -/
def PktHdr.payload (h : PktHdr) : Option Nat :=
  if h.type = ptWrReq ∨ h.type = ptRdRsp then
    let lo := 8192 * h.index.toNat
    if lo < h.msgLen.toNat then some (min (lo + 8192) h.msgLen.toNat - lo) else none
  else some 0

/-- A packet a receiver drops as malformed (R315). -/
def malformed (b : List Byte) : Bool :=
  let h := pktHdr b
  b.length < 32 || h.type = 0 || 5 < h.type.toNat || h.payload ≠ some (b.length - 32) || h.rlen.toNat < h.rptr.toNat ||
  h.hops = 0 || 48 < h.hops.toNat

/-- The age of a packet (R316). -/
def PktHdr.age (h : PktHdr) (hall : Nat) : Nat := (stampOf hall - h.stamp).toNat

/-- Hop `i` of ROUTE. -/
def PktHdr.hop (h : PktHdr) (i : Nat) : Nat := bitsOf h.route.toNat (5 * i + 4) (5 * i)

/-- The segments of a packet: CLASS_INFO and payload (R315). -/
def pktSegs (b : List Byte) : List (Nat × List Byte) :=
  let n := ceilDiv b.length 768
  (List.range n).map fun i =>
    let g := (b.drop (768 * i)).take 768
    (msgInfo g.length (i = 0) (i + 1 = n), g)

/-! ### Routes (R317) -/

/-- The route table entry of a destination, cached once read. -/
def State.routeEntry (s : State) (q m : Nat) : State × List Byte :=
  let r := (s.part q).routing
  match r.routes.find? fun e => e.1 = m with
  | some e => (s, e.2)
  | none =>
    if r.routeBase = 0 ∨ ¬ s.nearRange q (r.routeBase + 32 * m) 32 then (s, [])
    else
      let b := s.memBytes (r.routeBase + 32 * m) 32
      (s.updRouting q fun r => { r with routes := r.routes ++ [(m, b)] }, b)

/-- RLEN and hops of route A or B of an entry. -/
def routeOf (e : List Byte) (b : Bool) : Nat × Nat :=
  let v := leNat ((e.drop (if b then 16 else 0)).take 16)
  (v % 32, v / 32 % 2 ^ 80)

/-- The cord that homing gives a destination, cached once read. -/
def State.homeEntry (s : State) (q m : Nat) : State × Option Nat :=
  let r := (s.part q).routing
  let of (v : Nat) : Option Nat := if v / 128 = 1 then some (v % 32) else none
  match r.homes.find? fun e => e.1 = m with
  | some e => (s, of e.2)
  | none =>
    if r.homeBase = 0 ∨ ¬ s.nearRange q (r.homeBase + m) 1 then (s, none)
    else
      let v := s.memLe (r.homeBase + m) 1
      (s.updRouting q fun r => { r with homes := r.homes ++ [(m, v)] }, of v)

def State.cordUp (s : State) (c : Nat) : Bool := (s.cord c).st = .up

/-- A route of an entry that is present and whose first cord is UP. -/
def State.usable (s : State) (e : List Byte) (b : Bool) : Option (Nat × Nat) :=
  let r := routeOf e b
  if r.1 ≠ 0 ∧ s.cordUp (r.2 % 32) then some r else none

/-- The header with a route, its first hop taken. -/
def PktHdr.onRoute (h : PktHdr) (r : Nat × Nat) : PktHdr :=
  { h with rlen := BitVec.ofNat 5 r.1, route := BitVec.ofNat 80 r.2, rptr := 1 }

/-- Put a packet on a cord's waiting packets. -/
def State.emit (s : State) (c q : Nat) (h : PktHdr) (payload : List Byte) (transit : Bool) (req : Option Nat) : State :=
  let k : OutPkt := { owner := q, cls := h.cls, transit := transit, begun := false, segs := pktSegs (h.bytes ++ payload)
                      req := req, nack := h.type = ptNack, hdr := h.bytes }
  s.updCord c fun x => { x with outPkts := x.outPkts ++ [k] }

/-- Count and log a drop at a cord (R321, R480). -/
def State.countDrop (s : State) (cin q : Nat) (h : PktHdr) (reason : Nat) : State :=
  (s.updRouting q fun r => { r with fwdDrops := satInc 32 r.fwdDrops }).logEv
    { cls := cRouteDrop, kind := kCord, index := cin, part := q, cause := reason
      detail := leBytes 2 h.dstModule.toNat ++ leBytes 2 h.dstPart.toNat ++ leBytes 4 h.reqId.toNat }

/-- Responses and NACKs to what came by cord `cin` leave by route A, else route B, else homing, in q's slots; else they are
dropped (R321). Their STAMP is put in as they leave (R314). -/
def State.respond (s : State) (cin q : Nat) (h : PktHdr) (payload : List Byte) : State :=
  let z := s.routeEntry q h.dstModule.toNat
  let e := z.2
  match (z.1.usable e false).orElse fun _ => z.1.usable e true with
  | some r => z.1.emit (r.2 % 32) q (h.onRoute r) payload false none
  | none =>
    let y := z.1.homeEntry q h.dstModule.toNat
    match y.2.filter fun c => y.1.cordUp c with
    | some c => y.1.emit c q h payload false none
    | none => y.1.countDrop cin q h nrNoRoute

/-- The answer to a request: its own fields turned round (R314, R321). -/
def State.answer (s : State) (part : Nat) (h : PktHdr) (type : BitVec 4) (reason : Nat) : PktHdr :=
  { type := type, attempt := h.attempt, srcModule := BitVec.ofNat 15 s.moduleId, srcPart := BitVec.ofNat 4 part
    dstModule := h.srcModule, dstPart := h.srcPart, reqId := h.reqId, addr := h.addr, index := h.index, msgLen := h.msgLen
    reason := BitVec.ofNat 4 reason, stamp := stampOf s.hall }

def State.nackTo (s : State) (cin q : Nat) (h : PktHdr) (reason : Nat) : State := s.respond cin q (s.answer q h ptNack reason) []

/-! ### Forwarding (R318 to R321) -/

/-- Packets in a partition's transit store. -/
def State.transit (s : State) (q : Nat) : Nat :=
  ((List.range 32).map fun c => ((s.cord c).outPkts.filter fun k => k.owner = q ∧ k.transit).length).sum

/-- What stands before a new packet of partition `q` and class `cls` on a cord, in segments: retransmissions, late PLAN segments,
the partition's CTL, and packets above it or before it in its stream (R296, R319). -/
def State.before (s : State) (c q cls : Nat) : Nat :=
  let x := s.cord c
  let pc := (s.part q).plan.pc
  (x.kept.filter fun k => k.owner = q ∧ x.retxQ.contains k.seq).length +
  (x.staged.filter fun y => y.part = q ∧ s.stagedReady y ∧ y.planned < pc).length +
  (x.ctlPart.filter fun e => e.1 = q).length +
  ((x.outPkts.filter fun k => k.owner = q ∧ (k.cls = clRsp ∨ k.cls = cls)).map fun k => k.segs.length).sum

/-- Hall ticks from now, below `horizon`, to the first slot of cord `c` that a new packet of partition `q` and class `cls` could
take: a slot q may send in, which no PLAN segment is planned for, past those that what stands before it takes (R319). -/
def State.eligible (s : State) (c q cls horizon : Nat) : Option Nat :=
  let x := s.cord c
  let pc := (s.part q).plan.pc
  let free (k : Nat) : Bool :=
    let h := s.hall + k
    x.slotOwner (h % 256) = q && x.slotSends (h % 256) && x.slotRuns h && !(k = 0 && x.sentHall = some s.hall) &&
    !(x.staged.any fun y => y.part = q && y.planned = pc + k)
  if x.st ≠ .up ∨ 2048 ≤ x.kept.length then none
  else (((List.range horizon).filter free).drop (s.before c q cls)).head?

/-- Hall ticks that hold the first eligible slot of a cord, if it has any: a frame of 256 slots for each segment before the packet
and each PLAN segment staged, and one more. A cord with no slot of the partition needs none. -/
def State.horizon (s : State) (c q cls : Nat) : Nat :=
  let x := s.cord c
  if x.slots.any fun e => e.2 % 32 = q && decide (128 ≤ e.2) then 256 * (s.before c q cls + x.staged.length + 1) else 0

/-- The cord other than `cin` with the earliest eligible slot, the lowest number on a tie; else `cin` itself. -/
def State.anyCord (s : State) (cin q cls : Nat) : Option Nat :=
  let best := (List.range 32).foldl (fun (b : Option (Nat × Nat)) c =>
    if c = cin then b
    else match s.eligible c q cls (s.horizon c q cls), b with
      | some k, some y => if k < y.1 then some (k, c) else b
      | some k, none => some (k, c)
      | none, _ => b) none
  match best with
  | some y => some y.2
  | none => if (s.eligible cin q cls (s.horizon cin q cls)).isSome then some cin else none

def State.soon (s : State) (c q cls : Nat) : Bool := (s.eligible c q cls 5).isSome

/-- Drop a packet; a REQ is answered with a NACK. -/
def State.dropPkt (s : State) (cin q : Nat) (h : PktHdr) (reason : Nat) : State :=
  let s := s.countDrop cin q h reason
  if h.cls = clReq then s.nackTo cin q h reason else s

/-- A forwarded packet leaves on a cord, its HOPS raised. -/
def State.forward (s : State) (c q : Nat) (h : PktHdr) (payload : List Byte) : State :=
  s.emit c q { h with hops := h.hops + 1 } payload true none

/-- Deflection: whichever cord has a slot first. -/
def State.deflect (s : State) (cin q : Nat) (h : PktHdr) (payload : List Byte) : State :=
  match s.anyCord cin q h.cls with
  | some c => (s.forward c q h payload).updRouting q fun r => { r with detours := satInc 32 r.detours }
  | none => s.dropPkt cin q h nrNoRoute

/-- A complete packet at the ingress of cord `cin`, held by partition `q` (R320). -/
def State.routePkt (s : State) (cin q : Nat) (b : List Byte) : State :=
  let h := pktHdr b
  let payload := b.drop 32
  if malformed b then s.updRouting q fun r => { r with pktBad := satInc 32 r.pktBad }
  else if h.dstModule.toNat = s.moduleId then
    s.updRouting h.dstPart.toNat fun r => { r with inbox := r.inbox ++ [⟨cin, q, b⟩] }
  else if (s.part q).dom.fenced then s.dropPkt cin q h nrPart
  else if 32 ≤ s.transit q then s.dropPkt cin q h nrFull
  else if 60 ≤ h.age s.hall then s.dropPkt cin q h nrAge
  else if h.hops.toNat = 48 then s.dropPkt cin q h nrHops
  else if ¬ h.detour then
    if h.rptr.toNat < h.rlen.toNat then
      let out := h.hop h.rptr.toNat
      let h' := { h with rptr := h.rptr + 1 }
      if s.soon out q h.cls then s.forward out q h' payload
      else s.deflect cin q { h' with detour := true } payload
    else s.deflect cin q { h with detour := true } payload
  else
    let z := s.homeEntry q h.dstModule.toNat
    match z.2.filter fun c => z.1.soon c q h.cls with
    | some c => z.1.forward c q h payload
    | none => z.1.deflect cin q h payload

/-- PACKET_COMPLETE: the oldest whole packet at the cord's ingress port. -/
def execPacketComplete (c : CordId) (s : State) : Out3 :=
  .next (match (s.cord c).inPkts.find? (·.whole) with
    | none => s
    | some k => (s.updCord c fun x => { x with inPkts := x.inPkts.erase k }).routePkt c k.part k.bytes)

/-- ROUTE_INVAL (R317). -/
def execRouteInval (p : PartId) (s : State) : Out3 :=
  .next (if (s.part p).live then s.updRouting p fun r => { r with routes := [], homes := [] } else s)

/-! ### The responder (R323, R324) -/

/-- Take the oldest delivered packet of a type. -/
def State.onPkt (s : State) (p : Nat) (type : BitVec 4) (f : State → InMsg → PktHdr → State) : State :=
  match (s.part p).routing.inbox.find? fun m => (pktHdr m.bytes).type = type with
  | none => s
  | some m => f (s.updRouting p fun r => { r with inbox := r.inbox.erase m }) m (pktHdr m.bytes)

/-- The partition counts as a member of the domain of partition `q` (R323, R367). -/
def State.sameDomain (s : State) (p q : Nat) : Bool :=
  let d := (s.part p).dom
  (s.part p).live && (d.st = .member || d.st = .shadow) && !d.fenced && d.domainId = (s.part q).dom.domainId

/-- The checks every request meets: membership, age, range. -/
def State.checkReq (s : State) (p : Nat) (m : InMsg) (h : PktHdr) (write : Bool) (go : State → State) : State :=
  let n := h.msgLen.toNat
  let ok := if write then s.allWritable p h.addr.toNat n else s.allMapped p h.addr.toNat n
  if ¬ s.sameDomain p m.via then s.nackTo m.cord m.via h nrPart
  else if 60 ≤ h.age s.hall then (s.countDrop m.cord p h nrAge).nackTo m.cord p h nrAge
  else if ¬ ok then (s.unmapped kCord m.cord p h.addr.toNat).nackTo m.cord p h nrRange
  else go s

/-- The packets of an RD_RSP message. -/
def State.sendRead (s : State) (cin p : Nat) (h : PktHdr) (data : List Byte) : State :=
  (List.range (ceilDiv data.length 8192)).foldl (fun s i =>
    let a := s.answer p h ptRdRsp 0
    s.respond cin p { a with index := BitVec.ofNat 8 i, last := decide (data.length ≤ 8192 * i + 8192) }
      ((data.drop (8192 * i)).take 8192)) s

/-- RD_REQ: a read request delivered to partition `p`. `room`: its response queue has room for every packet of the
message. Bytes that cannot be read answer NACK RANGE. -/
def execRdReq (p : PartId) (room : Bool) (host : Cells) (s : State) : Out3 :=
  .next (s.onPkt p ptRdReq fun s m h => s.checkReq p m h false fun s =>
    if ¬ room then s.nackTo m.cord p h nrBusy
    else
      let z := s.readAll p h.addr.toNat h.msgLen.toNat host
      match z.2 with
      | .ok b => z.1.sendRead m.cord p h b
      | .error _ => z.1.nackTo m.cord p h nrRange)

/-- WR_REQ: a write packet delivered to partition `p`, applied once under its completion entry. One whose bytes cannot reach a
host (R439) is not visible to every agent, so it is not recorded, and no WR_RSP tells of it (R324). -/
def execWrReq (p : PartId) (s : State) : Out3 :=
  .next (s.onPkt p ptWrReq fun s m h => s.checkReq p m h true fun s =>
    let mine (e : WrEntry) : Bool :=
      e.module = h.srcModule.toNat && e.part = h.srcPart.toNat && e.id = h.reqId.toNat
    let r := (s.part p).routing
    let done (s : State) : State := s.respond m.cord p { s.answer p h ptWrRsp 0 with index := 0 } []
    let dup (s : State) : State := s.updRouting p fun r => { r with dedup := satInc 32 r.dedup }
    let apply (s : State) (e : WrEntry) : State :=
      if e.done then done (dup s)
      else if e.seen.contains h.index.toNat then dup s
      else
        let b := m.bytes.drop 32
        let z := s.writeAll p (h.addr.toNat + 8192 * h.index.toNat) b (some h.srcModule.toNat)
        let s := z.1
        if z.2.isSome then s
        else
        let e' : WrEntry := { e with seen := e.seen ++ [h.index.toNat], bytes := e.bytes + b.length
                                     done := decide (e.len ≤ e.bytes + b.length) }
        let s := s.updRouting p fun r => { r with table := r.table.map fun x => if mine x then e' else x }
        if e'.done then done s else s
    match r.table.find? mine with
    | some e => apply s e
    | none =>
      if 1024 ≤ r.table.length then s.nackTo m.cord p h nrBusy
      else
        let e : WrEntry := ⟨h.srcModule.toNat, h.srcPart.toNat, h.reqId.toNat, s.hall, [], 0, h.msgLen.toNat, false⟩
        apply (s.updRouting p fun r => { r with table := r.table ++ [e] }) e)

/-- COMPLETION_ENTRY_EXPIRY: entries 32,000 hall ticks old are freed. -/
def execCompletionEntryExpiry (p : PartId) (s : State) : Out3 :=
  .next (s.updRouting p fun r => { r with table := r.table.filter fun e => s.hall < e.created + 32000 })

/-! ### The requester (R322, R326) -/

/-- REQ_TIMEOUT in hall ticks (R13). -/
def Routing.ticks (r : Routing) : Nat := r.timeout * 500

/-- The next request ID, past those first sent within 131,072 hall ticks. -/
def nextId (used : List (Nat × Nat)) : Nat → Nat → Nat
  | 0, i => i
  | n + 1, i => if used.any fun u => u.1 = i then nextId used n ((i + 1) % 2 ^ 20) else i

/-- A write attempt may still be sent (R326). -/
def State.mayAttempt (s : State) (p : Nat) (r : Req) : Bool :=
  !r.write || s.hall < r.first + min (s.part p).routing.ticks 32000 / 2

/-- The packets of one attempt. -/
def State.sendReq (s : State) (p : Nat) (r : Req) (route : Nat × Nat) : State :=
  let c := route.2 % 32
  let h : PktHdr :=
    { type := if r.write then ptWrReq else ptRdReq, attempt := BitVec.ofNat 2 r.attempt
      srcModule := BitVec.ofNat 15 s.moduleId, srcPart := BitVec.ofNat 4 p, dstModule := BitVec.ofNat 15 r.module
      dstPart := BitVec.ofNat 4 r.part, reqId := BitVec.ofNat 20 r.id, addr := BitVec.ofNat 52 r.addr
      msgLen := BitVec.ofNat 22 r.len, stamp := stampOf s.hall }
  let h := h.onRoute route
  if r.write then
    (List.range (ceilDiv r.len 8192)).foldl (fun s i =>
      s.emit c p { h with index := BitVec.ofNat 8 i, last := decide (r.len ≤ 8192 * i + 8192) }
        ((r.data.drop (8192 * i)).take 8192) false (some r.id)) s
  else s.emit c p h [] false (some r.id)

def State.setReq (s : State) (p : Nat) (r : Req) : State :=
  s.updRouting p fun x => { x with reqs := x.reqs.map fun y => if y.id = r.id then r else y }

/-- Send the attempt a request stands at; one without a usable route fails at once, and the next follows. -/
def State.attempt (s : State) (p : Nat) (r : Req) : Nat → State
  | 0 => s
  | n + 1 =>
    let z := s.routeEntry p r.module
    let odd := r.attempt % 2 = 1
    match (z.1.usable z.2 odd).orElse fun _ => z.1.usable z.2 !odd with
    | some route =>
      let r := { r with sent := s.hall, got := [], left := none, cords := r.cords ++ [route.2 % 32] }
      (z.1.setReq p r).sendReq p r route
    | none =>
      let r := { r with sent := s.hall, got := [], left := none }
      let s := z.1.setReq p r
      if r.attempt < 3 ∧ s.mayAttempt p r then
        let r := { r with attempt := r.attempt + 1 }
        ((s.setReq p r).updRouting p fun x => { x with reissues := satInc 32 x.reissues }).attempt p r n
      else s

/-- Start the next attempt of a request while one remains (R326). -/
def State.nextAttempt (s : State) (p : Nat) (r : Req) : State :=
  if r.attempt < 3 ∧ s.mayAttempt p r then
    let r := { r with attempt := r.attempt + 1 }
    ((s.setReq p r).updRouting p fun x => { x with reissues := satInc 32 x.reissues }).attempt p r 4
  else s

/-- Issue a request: an ID, its first attempt. -/
def State.startReq (s : State) (p : Nat) (r : Req) : State :=
  let x := (s.part p).routing
  let used := x.used.filter fun u => s.hall < u.2 + 131072
  let id := nextId used (used.length + 1) x.nextReq
  let r := { r with id := id, first := s.hall, sent := s.hall }
  (s.updRouting p fun x =>
    { x with nextReq := (id + 1) % 2 ^ 20, used := used ++ [(id, s.hall)], reqs := x.reqs ++ [r] }).attempt p r 4

/-- Hand a request to the requester, which holds at most 4,096. -/
def State.submit (s : State) (p : Nat) (r : Req) : State :=
  if (s.part p).routing.reqs.length < 4096 then s.startReq p r
  else s.updRouting p fun x => { x with waiting := x.waiting ++ [r] }

/-- A request has ended: the next waiting one starts, unless the partition is fenced, whose requester takes none (R367). -/
def State.dropReq (s : State) (p : Nat) (r : Req) : State :=
  let s := s.updRouting p fun x => { x with reqs := x.reqs.filter fun y => y.id ≠ r.id }
  if (s.part p).dom.fenced then s
  else match (s.part p).routing.waiting with
  | [] => s
  | w :: rest => (s.updRouting p fun x => { x with waiting := rest }).startReq p w

/-- ATTEMPT_TIMEOUT: REQ_TIMEOUT ÷ 4 since the attempt of a request was sent. -/
def execAttemptTimeout (p : PartId) (s : State) : Out3 :=
  let x := (s.part p).routing
  .next (match x.reqs.find? fun r => decide (r.sent + x.ticks / 4 ≤ s.hall) && decide (r.attempt < 3) && s.mayAttempt p r with
    | some r => s.nextAttempt p r
    | none => s)

end Sys2Proof.Machine
end

