-- ==== Sys2Proof/Machine/PartLife.lean ====
section
/-! DEFINITION. The life of a partition and its keys (14): creation, dissolution, scrub, KEY_CMD, host windows. -/

namespace Sys2Proof.Machine

/-! ### Groups (R389, R404) -/

/-- Groups of a bitmap. -/
def groupList (bits : Nat) : List Nat := (List.range 16).filter fun g => bits.testBit g

/-- The bitmap of a partition's groups. -/
def State.groupBits (s : State) (p : Nat) : Nat := (s.groupsOf p).foldl (fun a g => a + 2 ^ g) 0

/-- MPA ranges of a group's near memory and Ember store slice (R28, R391). -/
def nearOf (g : Nat) : Nat × Nat := (g * 0x1000000000, 0x1000000000)
def sliceOf (g : Nat) : Nat × Nat := (0x30000000000 + g / 8 * 0x100000000 + g % 8 * (4 * mib), 4 * mib)

def inRange (r : Nat × Nat) (a : Nat) : Bool := r.1 ≤ a && a < r.1 + r.2

/-- What a scrub erases of a group (R404): near memory, the store slice, what the turf key wrote, cores and tiles. -/
def State.eraseGroup (s : State) (g : Nat) : State :=
  let s : State :=
    { s with
      mem := s.mem.filter fun c => ¬ (inRange (nearOf g) c.1 ∨ inRange (sliceOf g) c.1)
      badWords := s.badWords.filter fun a => ¬ (inRange (nearOf g) a ∨ inRange (sliceOf g) a ∨
        inRange (0x10000000000 + g * 0x1000000000, 0x1000000000) a)
      tiles := s.tiles.filter fun t => t.1 / 12 ≠ g
      cores := s.cores.filter fun c => c.1 / 4 ≠ g }
  (s.newTurfKey g)

/-- A group starts to scrub: nothing of it runs. -/
def State.startScrub (s : State) (g : Nat) : State :=
  let s := (List.range 4).foldl (fun s i => s.updCore (4 * g + i) fun x => { x with run := .held }) s
  s.updGroup g fun x => { x with st := .scrubbing, owner := 0 }

/-- A run-time MEMORY or TILES test holds the group. -/
def State.testHolds (s : State) (g : Nat) : Bool :=
  s.test.st = 1 && (s.test.target = 1 || s.test.target = 2) && s.test.index = g

/-- SCRUB_DONE. -/
def execScrubDone (g : GroupId) (s : State) : Out3 :=
  .next (if (s.group g).st = .scrubbing ∧ ¬ s.testHolds g then (s.eraseGroup g).updGroup g fun x => { x with st := .free } else s)

/-! ### Creation and dissolution (R390) -/

/-- Partition reset (R22, R195, R396, R479, R501): every block at its Reset values, keys drawn, the Elvune image started. -/
def State.resetPart (s : State) (p port first count : Nat) : State :=
  let s := s.updPart p fun _ => { live := true, port := port, btFirst := first, btCount := count, retorts := s.retortMask (s.groupsOf p) }
  let s := (s.coresOf p).foldl (fun s c => (s.updCore c fun _ => {}).startCore p c Config.elvuneEntry) s
  let s : State :=
    { s with
      budgets := s.budgets.filter fun e => ¬ (first ≤ e.1 ∧ e.1 < first + count)
      cinder := s.cinder.filter fun e => ¬ (0x10 ≤ e.1 / 32768 ∧ e.1 / 32768 ≤ 0x12 ∧ e.1 / 128 % 256 = p) }
  let s := (s.chansOf p).foldl (fun s k => s.updChan k fun _ => { host := s.hostAtReset k }) s
  let s := (s.drawKeys p).updPart p fun P => { P with keysReady := true }
  s.refreshFn p

/-- An accepted CREATE: the groups become ASSIGNED together, then partition reset. -/
def State.createPart (s : State) (p : Nat) (gs : List Nat) (port first count : Nat) : State :=
  let s := gs.foldl (fun s g => s.updGroup g fun x => { x with st := .assigned, owner := p }) s
  s.resetPart p port first count

/-- What a partition that is dissolved leaves nowhere: its flights, its packets, its mailbox entries, its lane leases. -/
def State.dropPart (s : State) (p : Nat) : State :=
  let s := (s.dropFlight p).endLanes p
  { s with
    mail := s.mail.filter fun m => m.part ≠ p
    cords := s.cords.map fun c =>
      (c.1, { c.2 with outPkts := c.2.outPkts.filter fun k => k.owner ≠ p, ctlPart := c.2.ctlPart.filter (fun e => e.1 ≠ p), inPkts := c.2.inPkts.filter fun k => k.part ≠ p }) }

/-- A transfer of the partition that a fence ends is still to end: it has units in flight, or settling reads (R421, R422). -/
def State.stokeBusy (s : State) (p : Nat) : Bool :=
  (s.chansOf p).any fun k => (s.chan k).flight ≠ [] || ((s.chan k).st = .settling && (s.chan k).recs = [])

/-- The end of a dissolution, once the transfers have ended: keys destroyed, groups scrubbing, function UNBOUND. -/
def State.endDissolve (s : State) (p : Nat) : State :=
  if ¬ (s.part p).ending ∨ s.stokeBusy p then s else
  let gs := s.groupsOf p
  let s := (s.chansOf p).foldl (fun s k => s.updChan k fun x => { orphans := x.orphans ++ x.flight }) s
  let s := s.dropPart p
  let s := (s.updPart p fun P => { P with live := false }).refreshFn p
  let s : State :=
    { s with
      budgets := s.budgets.filter fun e => ¬ ((s.part p).btFirst ≤ e.1 ∧ e.1 < (s.part p).btFirst + (s.part p).btCount) }
  let s := s.updPart p fun _ => { fn := { fnState := 2 } }
  gs.foldl (fun s g => (s.startScrub g).newTurfKey g) s

/-- A partition ends: fenced, its layout entry removed, its transfers ended as R422 says; the rest once they have (R384, R390). -/
def State.dissolve (s : State) (p : Nat) : State :=
  let s := (s.fence p).updPart p fun P => { P with ending := true }
  ({ s with layout := tabErase s.layout p } : State).endDissolve p

/-- Dissolutions that waited for a transfer that has now ended. -/
def State.endDissolves (s : State) : State := (List.range 16).foldl State.endDissolve s

/-! ### KEY_CMD (R401, R402) -/

def krFormat : Nat := 1
def krStale : Nat := 2
def krUnwrap : Nat := 3
def krSlot : Nat := 4
def krOccupied : Nat := 5
def krRange : Nat := 6
def krBusy : Nat := 7

def State.keyResult (s : State) (p slot code : Nat) : State := s.updSec p fun x => { x with code := code, slot := slot }

/-- FORMAT of a blob: MAGIC, FORMAT, USE and its zero fields. -/
def blobOk (b : List Byte) : Bool :=
  fld b 0 4 = 0x50574B45 && fld b 4 1 = 1 && 1 ≤ fld b 5 1 && fld b 5 1 ≤ 3 && fld b 6 2 = 0 && fld b 12 4 = 0 && fld b 0x79 7 = 0

/-- KEY_INSTALL: the checks of R402 in order. `host`: host memory as it stands, where the blob lies in a host window. -/
def execKeyInstall (p : PartId) (slot : Fin 32) (host : Cells) (s : State) : Out3 :=
  .next (if ¬ s.fnReady p then s
    else
      let a := (s.part p).sec.blobBase
      if ¬ s.allMapped p a 176 then (s.keyResult p slot krRange).unmapped kKeys p p a
      else match s.readAll p a 176 host with
        | (s, .error _) => s.keyResult p slot krRange
        | (s, .ok b) =>
          let x := (s.part p).sec
          let use := fld b 5 1
          if ¬ blobOk b then s.keyResult p slot krFormat
          else if slot.val = 0 ∨ (slot.val = 1 ∧ use ≠ 3) ∨ (use = 3 ∧ slot.val ≠ 1) then s.keyResult p slot krSlot
          else if use = 3 ∧ (s.part p).phu.enable then s.keyResult p slot krBusy
          else if slot.val ≠ 1 ∧ (s.keySlot p slot).valid then s.keyResult p slot krOccupied
          else if fld b 8 4 ≠ x.wrapGen then s.keyResult p slot krStale
          else match Config.hpkeOpen x.wrapPair b with
            | none => (s.keyResult p slot krUnwrap).fenceInc kKeys p
            | some k =>
              let e : KeySlot := { valid := true, use := use, drawn := false, keyId := fld b 16 8, key := k }
              (s.updSec p fun x => { x with slots := tabSet {} x.slots slot e }).keyResult p slot 0)

/-- ERASE of a slot; slots 0 and 1 are never erased. -/
def execErase (p : PartId) (slot : Fin 32) (s : State) : Out3 :=
  .next (if ¬ s.fnReady p then s
    else if slot.val ≤ 1 then s.keyResult p slot krSlot
    else (s.eraseSlot p slot).keyResult p slot 0)

/-! ### Host windows (R393) -/

/-- Why ENABLE of a window is refused. -/
def State.winRefused (s : State) (p w : Nat) : Bool :=
  let x := tabGet {} (s.part p).sec.wins w
  decide (x.base < 0x800000000000) || decide (0x10000000000000 < x.base + x.size) || decide (x.size = 0) ||
  (s.part p).sec.wins.any fun e => e.1 ≠ w && e.2.enable && e.2.base < x.base + x.size && x.base < e.2.base + e.2.size

/-- HOST_WINDOW_ENABLE: `v` is HW_CTRL [2:0] as written. CXL and READ_ONLY are locked while ENABLE is 1. -/
def execHostWindowEnable (p : PartId) (w : Fin 8) (v : BitVec 3) (s : State) : Out3 :=
  .next (if ¬ s.fnReady p then s
    else
      let x := tabGet {} (s.part p).sec.wins w
      let set (s : State) (y : HostWin) : State := s.updSec p fun q => { q with wins := tabSet {} q.wins w y }
      if x.enable then (set s { x with enable := v.getLsbD 0 }).fenceInc kPart p
      else
        let y : HostWin := { x with cxl := v.getLsbD 1, readOnly := v.getLsbD 2 }
        let s := set s y
        if v.getLsbD 0 ∧ ¬ s.winRefused p w then set s { y with enable := true } else s)

end Sys2Proof.Machine
end

