-- ==== Sys2Proof/Machine/Stoke.lean ====
section
/-! DEFINITION. Stoke engines (15): lists, units, promotion, halts, and the outcomes of the partition's requests
(R325 to R327) that end remote units. -/

namespace Sys2Proof.Machine

/-! ### Lists (R411, R412) -/

/-- A list entry in 16 bytes. -/
def stkEntry (b : List Byte) : StkEntry :=
  let v := leNat b
  { addr := v % 2 ^ 64, len := v / 2 ^ 64 % 2 ^ 32, module := v / 2 ^ 96 % 2 ^ 15, part := v / 2 ^ 111 % 16
    remote := v / 2 ^ 115 % 2 = 1 }

/-- Bits [127:116] of an entry are 0. -/
def entryClean (b : List Byte) : Bool := leNat b / 2 ^ 116 = 0

/-- A list as its bytes read at promotion. -/
def State.listBytes (s : State) (p a n : Nat) (host : Cells) : List (List Byte) :=
  let b := match (s.readAll p a (16 * n) host).2 with
    | .ok b => b
    | .error _ => []
  (List.range (b.length / 16)).map fun i => (b.drop (16 * i)).take 16

/-- The list is wholly in mapped memory. -/
def State.listMapped (s : State) (p a n : Nat) : Bool :=
  n = 0 || (s.memMapped p a (16 * n) && match s.reach p a with | .host _ => s.winUp p a | _ => true)

/-- The checks at promotion, in order (R412). -/
def State.promoteStatus (s : State) (p : Nat) (r : StkRegs) (sb db : List (List Byte)) : Option Nat :=
  let src := sb.map stkEntry
  let dst := db.map stkEntry
  let count (n : Nat) : Bool := n = 0 || 4096 < n
  let sum (l : List StkEntry) : Nat := (l.map (·.len)).sum
  let mappedE (e : StkEntry) : Bool := e.remote || s.allMapped p e.addr e.len
  if ¬ s.listMapped p r.src r.srcN ∨ ¬ s.listMapped p r.dst r.dstN then some srPermission
  else if count r.srcN ∨ count r.dstN ∨ (sb ++ db).any (fun b => !entryClean b) ∨ sum src ≠ sum dst ∨
      (src.any (·.remote) && dst.any (·.remote)) then some srListError
  else if (src ++ dst).any (fun e => !mappedE e) ∨ dst.any (fun e => !e.remote && !s.allWritable p e.addr e.len) ∨
      ((src ++ dst).any (·.remote) && !(s.part p).routing.identValid) then some srPermission
  else none

/-- The address of the unmapped access for which a transfer is not allowed, if there is one: a write through a READ_ONLY
window is one (R392, R408, R412). -/
def State.promoteBad (s : State) (p : Nat) (r : StkRegs) (sb db : List (List Byte)) : Option Nat :=
  if ¬ s.listMapped p r.src r.srcN then some r.src
  else if ¬ s.listMapped p r.dst r.dstN then some r.dst
  else match ((sb ++ db).map stkEntry).find? fun e => !e.remote && !s.allMapped p e.addr e.len with
    | some e => some e.addr
    | none => ((db.map stkEntry).find? fun e => !e.remote && !s.allWritable p e.addr e.len).map (·.addr)

/-- Two local entries share a byte. -/
def overlaps (a b : StkEntry) : Bool :=
  !a.remote && !b.remote && a.addr < b.addr + b.len && b.addr < a.addr + a.len

/-! ### Units (R414) -/

/-- The entry and offset of a stream position, past entries of length 0. -/
def entryAt : List StkEntry → Nat → Nat → Option (Nat × Nat × StkEntry)
  | [], _, _ => none
  | e :: r, i, pos => if pos < e.len then some (i, pos, e) else entryAt r (i + 1) (pos - e.len)

/-- The unit at a stream position, of at most `top` bytes. -/
def StkChan.unitAt (x : StkChan) (uid pos top : Nat) : Option StkUnit :=
  match entryAt x.srcL 0 pos, entryAt x.dstL 0 pos with
  | some a, some b =>
    let sa := a.2.2.addr + a.2.1
    let da := b.2.2.addr + b.2.1
    let room := min top (min (a.2.2.len - a.2.1) (b.2.2.len - b.2.1))
    let n := if a.2.2.remote || b.2.2.remote then min room 65536
      else min (min room 4096) (min (4096 - sa % 4096) (4096 - da % 4096))
    some { uid := uid, at_ := pos, len := n, si := a.1, so := a.2.1, di := b.1, do_ := b.2.1
           src := { a.2.2 with addr := sa, len := n }, dst := { b.2.2 with addr := da, len := n } }
  | _, _ => none

/-- A unit fails: the channel issues nothing more; of several failures the first in the stream is reported (R419). -/
def State.unitFail (s : State) (p k : Nat) (u : StkUnit) (off : Nat) (dst : Bool) (cause : Nat) : State :=
  let x := s.chan k
  let s := if cause = hcMemUe then
      let a := u.src.addr + off
      let turf := decide (0x10000000000 ≤ a)
      let g := a / 0x1000000000 % 16
      s.logEv { cls := cMemUe, kind := if turf then kTurf else kNear, index := if turf then g / 2 else g, part := p
                cause := 1, addr := a / 32 * 32, detail := leBytes 1 g }
    else s
  if x.orphans.any fun y => y.uid = u.uid then
    s.updChan k fun x => { x with orphans := x.orphans.filter fun y => y.uid ≠ u.uid }
  else
    let f : StkFail := ⟨u, off, dst, cause⟩
    s.updChan k fun x =>
      let x := { x with flight := x.flight.filter fun y => y.uid ≠ u.uid }
      if x.ending.isSome then x
      else match x.fail with
        | none => { x with fail := some f }
        | some g =>
          if u.at_ + off < g.unit.at_ + g.off then { x with fail := some f, again := (g.unit.at_, g.unit.len) :: x.again }
          else { x with again := (u.at_, u.len) :: x.again }

/-- A unit's write has left the engine. -/
def State.unitMoved (s : State) (k : Nat) (u : StkUnit) : State :=
  s.updChan k fun x =>
    if x.flight.any fun y => y.uid = u.uid then
      { x with flight := x.flight.filter (fun y => y.uid ≠ u.uid), moved := x.moved ++ [(u.at_, u.len)] }
    else { x with orphans := x.orphans.filter fun y => y.uid ≠ u.uid }

/-- The next range to issue: the lowest to be issued again, else the stream's next bytes. -/
def StkChan.nextRange (x : StkChan) : Option (Nat × Nat) :=
  let low := x.again.foldl (fun (b : Option (Nat × Nat)) r => match b with
    | none => some r
    | some y => if r.1 < y.1 then some r else b) none
  match low with
  | some r => if r.1 < x.next then some r else if x.next < x.total then some (x.next, x.total - x.next) else some r
  | none => if x.next < x.total then some (x.next, x.total - x.next) else none

/-- Issue one unit; a remote one becomes a request, a remote write's bytes being read now. -/
def State.issueUnit (s : State) (p k : Nat) (host : Cells) (r : Nat × Nat) : State :=
  let s := s.fresh
  let x := s.chan k
  match x.unitAt s.serial r.1 r.2 with
  | none => s
  | some u =>
    let s := s.updChan k fun x =>
      { x with
        flight := x.flight ++ [u]
        next := if r.1 = x.next then x.next + u.len else x.next
        again := if x.again.contains r then
            x.again.erase r ++ (if u.len < r.2 then [(r.1 + u.len, r.2 - u.len)] else [])
          else x.again }
    let req : Req :=
      { id := 0, write := u.dst.remote, module := if u.dst.remote then u.dst.module else u.src.module
        part := if u.dst.remote then u.dst.part else u.src.part
        addr := if u.dst.remote then u.dst.addr else u.src.addr, len := u.len, data := [], unit := (k, u.uid) }
    if u.dst.remote then
      let z := s.readAll p u.src.addr u.len host
      match z.2 with
      | .ok b => z.1.submit p { req with data := b }
      | .error e => z.1.unitFail p k u e.2 false e.1
    else if u.src.remote then s.submit p req
    else s

/-- Issue units while at most 16 are in flight and nothing stops the channel. -/
def State.issueUnits (s : State) (p k : Nat) (host : Cells) : Nat → State
  | 0 => s
  | n + 1 =>
    let x := s.chan k
    if x.st = .running ∧ x.fail = none ∧ x.ending = none ∧ x.flight.length < 16 then
      match x.nextRange with
      | some r => (s.issueUnit p k host r).issueUnits p k host n
      | none => s
    else s

/-- Go on with a channel: issue what can be issued, end what has ended. -/
def State.advance (s : State) (p k : Nat) (host : Cells) : State := (s.issueUnits p k host 17).stkDrained k

/-! ### Promotion (R416) -/

/-- The shadow becomes the active transfer, is checked, and starts. -/
def State.promote (s : State) (p k : Nat) (host : Cells) : State :=
  let s := s.updChan k fun x =>
    { x with
      act := x.sh, seq := (x.seq + 1) % 2 ^ 32, armed := false, st := .running, srcL := [], dstL := [], mixed := false
      next := 0, again := [], moved := [], skips := [], fail := none, ending := none, fenced := (s.part p).dom.fenced
      settleErr := false }
  let r := (s.chan k).act
  let sb := s.listBytes p r.src (min r.srcN 4096) host
  let db := s.listBytes p r.dst (min r.dstN 4096) host
  if (s.part p).dom.fenced then (s.finalRec k srPermission 0).endTransfer k
  else match s.promoteStatus p r sb db with
    | some st =>
      let s := match (if st = srPermission then s.promoteBad p r sb db else none) with
        | some a => s.unmapped kStoke (k / 8) p a
        | none => s
      (s.finalRec k st 0).endTransfer k
    | none =>
      let src := sb.map stkEntry
      let dst := db.map stkEntry
      (s.updChan k fun x =>
        { x with srcL := src, dstL := dst, mixed := src.any fun a => dst.any fun b => overlaps a b }).advance p k host

/-- A write to a channel through a view reaches it when that view drives it; else it is ignored and counted (R410). -/
def State.viaView (s : State) (a : Agent) (ch : Nat) (f : Nat → Nat → State) : State :=
  match a with
  | .host p =>
    if ¬ s.fnReady p then s
    else match s.hostEngine p with
      | none => s
      | some g => if (s.chan (8 * g + ch)).host then f p (8 * g + ch) else s.fenceInc kStoke g
  | .core c =>
    match s.ownerOf (c / 4) with
    | none => s
    | some p =>
      if (s.core c).run ≠ .running then s
      else
        let k := 8 * (c.val / 4) + ch
        if (s.chan k).host then s.fenceInc kCore c else f p k

/-- The view drives the channel. -/
def State.drives (s : State) (a : Agent) (ch : Nat) : Bool :=
  match a with
  | .host p => s.fnReady p && ((s.hostEngine p).map fun g => (s.chan (8 * g + ch)).host).getD false
  | .core c => (s.ownerOf (c / 4)).isSome && (s.core c).run = .running && !(s.chan (8 * (c.val / 4) + ch)).host

/-- A write to a control register: its actions where the view drives the channel; else ignored and counted once, whatever the
value (R19, R410). -/
def State.stkCtrl (s : State) (a : Agent) (ch : Nat) (f : State → State) : State :=
  if s.drives a ch then f s else s.viaView a ch fun _ _ => s

/-- GO: arm the shadow, or promote it while IDLE. `host`: host memory as it stands. -/
def execGo (a : Agent) (ch : Fin 8) (host : Cells) (s : State) : Out3 :=
  .next (s.viaView a ch fun p k =>
    let x := s.chan k
    if x.armed then s
    else if ¬ s.memMapped p x.cqBase (32 * 2 ^ x.cqLog2) then s.updChan k fun x => { x with cqBad := true }
    else
      let s := s.updChan k fun x => { x with cqBad := false, armed := true }
      if x.st = .idle ∧ x.recs = [] then s.promote p k host
      else s.updChan k fun x => { x with st := if x.st = .idle then .ended else x.st })

/-- STOKE_CANCEL: clears ARMED before promotion. -/
def execStokeCancel (a : Agent) (ch : Fin 8) (s : State) : Out3 :=
  .next (s.viaView a ch fun _ k => s.updChan k fun x =>
    { x with armed := false, st := if x.st = .ended then .idle else x.st })

/-- PROMOTION: a transfer has ended with the shadow armed, its records written. -/
def execPromotion (g : GroupId) (ch : Fin 8) (host : Cells) (s : State) : Out3 :=
  let k := 8 * g.val + ch
  .next (match s.chanPart k with
    | none => s
    | some p =>
      let x := s.chan k
      if x.st = .ended ∧ x.armed ∧ x.recs = [] then s.promote p k host else s)

/-- ABORT registers while RUNNING or HALTED (R421). -/
def execAbort (a : Agent) (ch : Fin 8) (s : State) : Out3 :=
  .next (s.viaView a ch fun _ k =>
    let x := s.chan k
    if (x.st = .running ∨ x.st = .halted) ∧ x.ending = none then s.endWith k srAborted else s)

/-- RESUME: the failing unit is issued again. -/
def execResume (a : Agent) (ch : Fin 8) (host : Cells) (s : State) : Out3 :=
  .next (s.viaView a ch fun p k =>
    let x := s.chan k
    match x.st, x.recs, x.fail with
    | .halted, [], some f =>
      (s.updChan k fun x => { x with st := .running, fail := none, again := (f.unit.at_, f.unit.len) :: x.again }).advance p k host
    | _, _, _ => s)

/-- SKIP: from the failing byte to the end of the failing entry, on both streams; the bytes of the failing unit before
it are issued again. Bytes of the range already moved are not counted as skipped. -/
def execSkip (a : Agent) (ch : Fin 8) (host : Cells) (s : State) : Out3 :=
  .next (s.viaView a ch fun p k =>
    let x := s.chan k
    match x.st, x.recs, x.fail with
    | .halted, [], some f =>
      let lo := f.unit.at_ + f.off
      let e := if f.dst then x.dstL.getD f.unit.di ⟨0, 0, false, 0, 0⟩ else x.srcL.getD f.unit.si ⟨0, 0, false, 0, 0⟩
      let hi := lo + (e.len - ((if f.dst then f.unit.do_ else f.unit.so) + f.off))
      let keep := x.again.flatMap fun r => uncovered [(lo, hi - lo)] 3 r.1 (r.1 + r.2)
      (s.updChan k fun x =>
        { x with
          st := .running, fail := none, next := max x.next hi
          again := (if f.off = 0 then [] else [(f.unit.at_, f.off)]) ++ keep
          skips := x.skips ++ uncovered (x.moved ++ x.skips) (x.moved.length + x.skips.length + 64) lo hi }).advance p k host
    | _, _, _ => s)

/-! ### Units complete or fail -/

/-- Bytes a unit writes: free values when source and destination overlap in memory (R413). -/
def StkChan.unitBytes (x : StkChan) (u : StkUnit) (b : List Byte) : List Byte :=
  if x.mixed then (List.range b.length).map fun i => Config.stokeByte u.uid i else b

/-- STOKE_UNIT_DONE: the write of the unit at place `i` of those in flight leaves the engine. A remote write's unit ends
with its request instead; a remote read's, once its request is DONE. -/
def execStokeUnitDone (g : GroupId) (ch : Fin 8) (i : Nat) (host : Cells) (s : State) : Out3 :=
  let k := 8 * g.val + ch
  .next (State.endDissolves (match s.chanPart k, ((s.chan k).flight ++ (s.chan k).orphans)[i]? with
    | some p, some u =>
      if u.dst.remote ∨ (u.src.remote ∧ u.data = none) then s
      else
        let z := match u.data with
          | some b => (s, Except.ok b)
          | none => s.readAll p u.src.addr u.len host
        let fromHost := match s.reach p u.src.addr with | .host _ => true | _ => false
        (match z.2 with
        | .error e => z.1.unitFail p k u e.2 false e.1
        | .ok b =>
          let w := z.1.writeAll p u.dst.addr ((s.chan k).unitBytes u b) (if fromHost then none else some s.moduleId)
          match w.2 with
          | some off => w.1.unitFail p k u off true hcHost
          | none => w.1.unitMoved k u).advance p k host
    | _, _ => s))

/-- The code of a cause (R419). -/
def stkCause : StkCause → Nat
  | .host => hcHost
  | .poisoned => hcPoisoned
  | .memUe => hcMemUe
  | .window => hcWindow

/-- STOKE_UNIT_FAIL: that unit fails at an offset with a cause of R419, on the write side where a host port fails there. -/
def execStokeUnitFail (g : GroupId) (ch : Fin 8) (i : Nat) (write : Bool) (cause : StkCause) (off : Nat) (s : State) : Out3 :=
  let k := 8 * g.val + ch
  .next (State.endDissolves (match s.chanPart k, ((s.chan k).flight ++ (s.chan k).orphans)[i]? with
    | some p, some u =>
      if off < u.len ∧ ¬ u.src.remote ∧ ¬ u.dst.remote then (s.unitFail p k u off (write && cause = .host) (stkCause cause)).stkDrained k else s
    | _, _ => s))

/-- SETTLE_READ_DONE: the last settling read returns (R417). -/
def execSettleReadDone (g : GroupId) (ch : Fin 8) (err : Bool) (s : State) : Out3 :=
  let k := 8 * g.val + ch
  let x := s.chan k
  .next (State.endDissolves (if x.st ≠ .settling ∨ x.recs ≠ [] then s
    else
      let s := s.updChan k fun x => { x with settleErr := err }
      let s := if err then s.stokeBus k 0 0 else s
      (s.finalRec k srSettled x.movedBytes).endTransfer k))

/-- STOKE_CQ_SPACE: software writes CQ_TAIL. -/
def execStokeCqSpace (a : Agent) (ch : Fin 8) (tail : BitVec 32) (s : State) : Out3 :=
  .next (s.viaView a ch fun _ k =>
    let n := (s.chan k).recs.length
    (s.updChan k fun x => { x with cqTail := tail.toNat }).drainRecs k n)

/-! ### Outcomes of requests (R325 to R327) -/

/-- The unit of a request that is still in flight. -/
def State.reqUnit (s : State) (r : Req) : Option StkUnit :=
  ((s.chan r.unit.1).flight ++ (s.chan r.unit.1).orphans).find? fun u => u.uid = r.unit.2

/-- The read of a remote unit has returned its bytes. -/
def State.readDone (s : State) (r : Req) (b : List Byte) : State :=
  let f (u : StkUnit) : StkUnit := if u.uid = r.unit.2 then { u with data := some b } else u
  s.updChan r.unit.1 fun x => { x with flight := x.flight.map f, orphans := x.orphans.map f }

/-- A remote write is DONE: its unit's write has left. -/
def State.writeDone (s : State) (p : Nat) (r : Req) (host : Cells) : State :=
  match s.reqUnit r with
  | some u => (s.unitMoved r.unit.1 u).advance p r.unit.1 host
  | none => s

/-- A request was refused: its transfer ends with PERMISSION (R419). -/
def State.reqRefused (s : State) (r : Req) : State :=
  match s.reqUnit r with
  | none => s
  | some u =>
    let k := r.unit.1
    let s := s.fenceInc kStoke (k / 8)
    let own := (s.chan k).flight.any fun y => y.uid = u.uid
    let s := s.updChan k fun x =>
      { x with flight := x.flight.filter (fun y => y.uid ≠ u.uid), orphans := x.orphans.filter fun y => y.uid ≠ u.uid }
    if own then s.endWith k ((s.chan k).ending.getD srPermission) else s

/-- A request timed out: its unit halts the channel (R419). -/
def State.reqLost (s : State) (p : Nat) (r : Req) : State :=
  match s.reqUnit r with
  | none => s
  | some u => (s.unitFail p r.unit.1 u 0 r.write (if r.write then hcUnknown else hcTimeout)).stkDrained r.unit.1

/-- The bytes of a read, its packets in order of INDEX. -/
def gathered (got : List (Nat × List Byte)) (n : Nat) : List Byte :=
  (List.range (ceilDiv n 8192)).flatMap fun i => ((got.find? fun g => g.1 = i).map (·.2)).getD []

/-- RD_RSP: bytes of the current attempt count once per INDEX. -/
def execRdRsp (p : PartId) (s : State) : Out3 :=
  .next (s.onPkt p ptRdRsp fun s m h =>
    match (s.part p).routing.reqs.find? fun r => r.id = h.reqId.toNat ∧ ¬ r.write with
    | none => s
    | some r =>
      if h.attempt.toNat ≠ r.attempt ∨ r.got.any (fun g => g.1 = h.index.toNat) then s
      else
        let r := { r with got := r.got ++ [(h.index.toNat, m.bytes.drop 32)] }
        if (r.got.map fun g => g.2.length).sum = r.len then (s.dropReq p r).readDone r (gathered r.got r.len)
        else s.setReq p r)

/-- WR_RSP of any attempt: the write is DONE. -/
def execWrRsp (p : PartId) (host : Cells) (s : State) : Out3 :=
  .next (State.endDissolves (s.onPkt p ptWrRsp fun s _ h =>
    match (s.part p).routing.reqs.find? fun r => r.id = h.reqId.toNat ∧ r.write with
    | none => s
    | some r => (s.dropReq p r).writeDone p r host))

/-- NACK: the next attempt, or the request ends refused. -/
def execNack (p : PartId) (s : State) : Out3 :=
  .next (State.endDissolves (s.onPkt p ptNack fun s _ h =>
    let s := s.updRouting p fun x => { x with nackRx := satInc 32 x.nackRx }
    match (s.part p).routing.reqs.find? fun r => r.id = h.reqId.toNat with
    | none => s
    | some r =>
      let why := h.reason.toNat
      if why = nrRange ∨ why = nrPart then (s.dropReq p r).reqRefused r
      else if h.attempt.toNat = r.attempt then s.nextAttempt p r
      else s))

/-- REQ_TIMEOUT since a request's first send. -/
def execReqTimeout (p : PartId) (s : State) : Out3 :=
  let x := (s.part p).routing
  .next (State.endDissolves (match x.reqs.find? fun r => decide (r.first + x.ticks ≤ s.hall) with
    | none => s
    | some r =>
      let detail := leBytes 2 r.module ++ leBytes 2 r.part ++ leBytes 4 r.len ++ leBytes 4 r.id
      let s := s.updRouting p fun x =>
        if r.write then { x with unknown := satInc 32 x.unknown } else { x with timeouts := satInc 32 x.timeouts }
      let s := s.logEv { cls := if r.write then 0x21 else 0x20, kind := kPart, index := p, part := p, addr := r.addr
                         detail := detail }
      (s.dropReq p r).reqLost p r))

/-- A cord has gone DOWN: requests whose packets left on it start their next attempts (R326). -/
def State.reissueOn (s : State) (c : Nat) : State :=
  (List.range 16).foldl (fun s p =>
    ((s.part p).routing.reqs.filter fun r => r.cords.contains c).foldl (fun s r => s.nextAttempt p { r with cords := r.cords.filter (· ≠ c) }) s) s

end Sys2Proof.Machine
end

