-- ==== Sys2Proof/Machine/CordState.lean ====
section
/-! DEFINITION. Cord states: the end of training and measuring, and link-down (R301 to R305, R313, R374). -/

namespace Sys2Proof.Machine

/-- A cord that never came UP stays DOWN with a reason. -/
def State.stayDown (s : State) (c reason : Nat) : State := s.updCord c fun x => { x with st := .down, reason := reason, proto := 0 }

/-- TRAINING_DONE: the lower protocol level, of which stepping A1 has only level 1. -/
def execTrainingDone (c : CordId) (s : State) : Out3 :=
  let x := s.cord c
  .next (if x.st ≠ .training then s
    else if x.peerProto = 0 then s.stayDown c drProto
    else s.updCord c fun x => { x with st := .measuring, exTx := [], exRx := [] })

/-- A mean of 64 delays in 1/64 tick, rounded up to whole hall ticks (R334). -/
def meanDelay (l : List Nat) : Nat := ceilDiv l.sum (64 * l.length)

/-- Entering UP (R302). -/
def Cord.comeUp (x : Cord) (dtx drx : Nat) : Cord :=
  { x with
    st := .up, reason := 0, proto := 1, delayTx := dtx, delayRx := drx
    nextSeq := 0, kept := [], retxQ := [], ackHall := 0, ctlSent := 0, farFreed := 0, cum := 0, got := [], ackShown := 0
    ackLog := [], nackQ := [], nackOut := [], reorder := [], freed := 0, ctlIn := [], elsewhere := [], slots := [], partner := [], leases := [] }

/-- MEASURING_DONE: 64 exchanges have given both delays. -/
def execMeasuringDone (c : CordId) (s : State) : Out3 :=
  let x := s.cord c
  .next (if x.st ≠ .measuring ∨ x.exTx.length < 64 ∨ x.exRx.length < 64 then s
    else
      let t := meanDelay x.exTx
      let r := meanDelay x.exRx
      if 420 < t ∨ 420 < r then
        (s.updCord c fun x => { x with delayTx := t, delayRx := r }).stayDown c drTooLong
      else (s.updCord c fun x => x.comeUp t r).propStanding)

/-- A twin record's Reset values (R374). -/
def Cord.noTwin (x : Cord) : Cord := { x with twin := 0, twinMode := 0, twinNext := none, twinErr := 0, swapStep := 0 }

/-- What a cord end discards when it goes DOWN (R304, R313). -/
def Cord.goDown (x : Cord) (reason : Nat) : Cord :=
  { x.endLeases.noTwin with
    st := .down, reason := reason, proto := 0, kept := [], retxQ := [], reorder := [], ctlIn := [], ctlOut := [], ctlPart := [], elsewhere := []
    nackQ := [], nackOut := [], stageDrop := min (2 ^ 32 - 1) (x.stageDrop + x.staged.length), staged := [], repack := []
    inPkts := [], asm := [], outPkts := [], change := none, lostAt := none, unlocked := [], lostSince := [], narrow := false
    exWait := false, exTx := [], exRx := [] }

/-- A waiting packet whose cord goes DOWN is dropped, unless it is one of this module's own requests, which are attempted
again (R321, R326). DEDUCED: its reason is NO_ROUTE. -/
def State.lostPkt (s : State) (c : Nat) (k : OutPkt) : State :=
  if k.req.isSome then s else s.dropPkt c k.owner (pktHdr k.hdr) nrNoRoute

/-- A cord goes DOWN: logged, reported, discarded; requests on it are reissued; the time unit may lose its reference. -/
def State.cordDown (s : State) (c reason : Nat) : State :=
  let x := s.cord c
  let lost := x.unlocked.headD (false, 0)
  let wave := if x.unlocked = [] then 0 else (if lost.1 then x.inMap else x.txMap).getD lost.2 0
  let detail := leBytes 2 x.nextSeq ++ leBytes 1 wave ++ leBytes 1 lost.2 ++ leBytes 1 x.egWidth
  let s := s.logEv { cls := cCordDown, kind := kCord, index := c, cause := reason, detail := detail }
  let s := s.cordReport c cCordDown x.peerModule 0 0 (detail ++ leBytes 3 0)
  let s := s.updCord c fun x => x.goDown reason
  let s := x.outPkts.foldl (fun s k => s.lostPkt c k) s
  let s := { s with cords := s.cords.map fun (e : Nat × Cord) => (e.1, if e.2.twin / 128 = 1 ∧ e.2.twin % 32 = c then e.2.noTwin else e.2) }
  (s.reissueOn c).checkRef

/-- CORD_DOWN: the down timer has reached LINK_DOWN_TIME, or a direction would fall below width 7. -/
def execCordDown (c : CordId) (s : State) : Out3 :=
  let x := s.cord c
  .next (if ¬ x.active then s
    else if x.narrow then s.cordDown c drWidth
    else match x.lostAt with
      | some h => if h + x.downTime * 500 ≤ s.hall then s.cordDown c drLock else s
      | none => s)

end Sys2Proof.Machine
end

