-- ==== Sys2Proof/Machine/Hold.lean ====
section
/-! DEFINITION. The hold-up bank and flash commits (R451, R452, R458 to R460). -/

namespace Sys2Proof.Machine

/-! ### Records, by the model's numbers -/

def rPointer : Nat := 1
def rIdent : Nat := 2
def rRepair : Nat := 3
def rCalib : Nat := 4
def rSync : Nat := 5
def rCinder : Nat := 6
def rLayout : Nat := 7
def rTime : Nat := 8
def rCords : Nat := 9
def rStanding : Nat := 10

/-- 1 s in hall ticks. -/
def second : Nat := 500000000

/-- 54 V is present: the limiter's ramp of 4.0 V per ms has ended, 13.5 ms after it began (R487). -/
def State.v54 (s : State) : Bool :=
  match s.power.ramp with
  | some h => h + 6750000 ≤ s.hall
  | none => false

/-! ### The hold-up test (R458) -/

/-- E in mJ: half of C times V0 squared, with C = 5.00 mC over the drop. -/
def bankEnergy (b : BankVolt) : Nat := 5 * (b.mv * b.mv) / (2 * b.drop)

/-- The bank is charged: 1.6 s have passed since it began to charge from empty (R488). -/
def State.charged (s : State) : Bool :=
  match s.holdup.full with
  | some h => h ≤ s.hall
  | none => false

/-- The charger fills an empty bank (R488). -/
def State.chargeBank (s : State) : State :=
  if s.holdup.full.isSome then s else { s with holdup := { s.holdup with full := some (s.hall + 800000000) } }

/-- Both inputs are absent from now on: the bank bleeds (R488). -/
def State.bleedFrom (s : State) : State := { s with holdup := { s.holdup with dark := some s.hall } }

/-- An input is back: after 60 s without both the bank is empty (R488). -/
def State.bleedEnd (s : State) : State :=
  let gone := match s.holdup.dark with
    | some h => decide (h + 60 * second ≤ s.hall)
    | none => false
  { s with holdup := { s.holdup with dark := none, full := if gone then none else s.holdup.full } }

/-- A hold-up test; it fails with 54 V absent, and before an empty bank has charged (R458, R488). -/
def State.holdTest (s : State) (b : BankVolt) : State :=
  let pass := s.v54 && s.charged && 28000 ≤ bankEnergy b
  { s with holdup := { s.holdup with hall := some s.hall, mj := bankEnergy b, pass := pass, last := if pass then some s.hall else s.holdup.last } }

/-- The last test passed and is at most 10 s old. -/
def State.passValid (s : State) : Bool :=
  s.holdup.pass && match s.holdup.hall with
    | some h => s.hall ≤ h + 10 * second
    | none => false

/-- No test was made in the last 10 s. -/
def State.mayTest (s : State) : Bool :=
  match s.holdup.hall with
  | some h => h + 10 * second ≤ s.hall
  | none => true

/-- Before a commit: a test, when no pass is valid and one may be made (R459). -/
def State.seekPass (s : State) (b : BankVolt) : State := if s.passValid ∨ ¬ s.mayTest then s else s.holdTest b

/-! ### Commits -/

/-- Unit kinds whose counters are persisted (R478). -/
def persisted (kind : Nat) : Bool := (1 ≤ kind && kind ≤ 9) || kind = 0x13

/-- The cinder history: counters of persisted kinds. -/
def cinderHistory (t : Tab Nat) : Tab Nat := t.filter fun e => persisted (e.1 / 32768)

/-- Commit a record: the flash holds what the module holds now, under the next SEQ (R451). -/
def State.persist (s : State) (r : Nat) : State :=
  let f := s.flash
  let f := { f with seqs := tabUpd 0 f.seqs r (· + 1) }
  let f : Persist :=
    if r = rIdent then { f with ident := s.ident }
    else if r = rRepair then { f with repairs := tabOf (0, 0) 16 fun g => ((s.group g).repSram, (s.group g).repStack) }
    else if r = rCinder then { f with cinder := cinderHistory s.cinder, stops := ringKeep 256 (s.log.filter (·.stopped)) }
    else if r = rLayout then { f with layout := s.layout }
    else if r = rTime then { f with timeRec := s.timeRec }
    else if r = rCords then { f with down := tabOf 20 32 fun c => (s.cord c).downTime }
    else if r = rStanding then { f with standing := s.standing }
    else f
  { s with flash := f, unsaved := s.unsaved.filter (· ≠ r) }

/-- Commit a change that has taken effect, or leave it pending without a pass: 60 s then run to a retest (R459). -/
def State.commit (s : State) (b : BankVolt) (r : Nat) : State :=
  let s := s.seekPass b
  if s.passValid then s.persist r
  else { s with
    unsaved := s.unsaved.filter (· ≠ r) ++ [r]
    holdup := { s.holdup with retest := if s.unsaved = [] then s.hall else s.holdup.retest } }

/-- Commit everything pending. -/
def State.commitAll (s : State) : State := s.unsaved.foldl (fun s r => s.persist r) s

/-- A pointer write, which the control class commits by itself (R451, R452). -/
def State.setPointer (s : State) (f : Pointer → Pointer) : State :=
  let s : State := { s with flash := { s.flash with pointer := f s.flash.pointer } }
  s.persist rPointer

end Sys2Proof.Machine
end

