-- ==== Sys2Proof/Machine/Domain.lean ====
section
/-! DEFINITION. Sync domains (13): joining, leaving, teardown, shadows, swaps, fault epochs, twin records. -/

namespace Sys2Proof.Machine

/-! ### Codes of R363 -/

def deState : Nat := 1
def dePcl : Nat := 2
def deProto : Nat := 3
def deFw : Nat := 4
def deId : Nat := 5
def deTree : Nat := 6
def deDepth : Nat := 7
def deTimeout : Nat := 8
def deUpdate : Nat := 9
def deBind : Nat := 10
def deMatch : Nat := 11
def deStep : Nat := 12

def State.domErr (s : State) (p code : Nat) : State := s.updDom p fun d => { d with error := code }

/-- A command to a partition number that has no partition changes nothing (R361). -/
def State.onDom (s : State) (p : Nat) (f : Dom → State) : State := if (s.part p).live then f (s.part p).dom else s

/-- The header of the running Collier image, and its FW_CLASS (R461). -/
def State.runHdr (s : State) : List Byte :=
  match s.kindle.sram with
  | some i => i.hdr
  | none => (tabGet {} s.images (if s.kindle.bank then 9 else 1)).hdr

def State.fwClass (s : State) : Nat := fld s.runHdr 14 2

/-! ### Messages (R388) -/

def msgJoin (dom module pcl proto fw parts : Nat) : List Byte :=
  leBytes 1 0x32 ++ leBytes 2 dom ++ leBytes 2 module ++ leBytes 1 pcl ++ leBytes 1 proto ++ leBytes 2 fw ++ leBytes 2 parts ++ leBytes 5 0

def msgJoinAck (dom result depth root part : Nat) : List Byte :=
  leBytes 1 0x33 ++ leBytes 2 dom ++ leBytes 1 result ++ leBytes 1 depth ++ leBytes 2 root ++ leBytes 1 part

def msgCount (dom n : Nat) : List Byte := leBytes 1 0x34 ++ leBytes 2 dom ++ leBytes 2 n ++ leBytes 3 0
def msgEpoch (dom epoch : Nat) : List Byte := leBytes 1 0x31 ++ leBytes 2 dom ++ leBytes 2 epoch ++ leBytes 3 0

/-! ### Members of the subtree (R362) -/

/-- Partitions whose record names a domain they have joined, those that leave it included. -/
def State.recordsOf (s : State) (dom : Nat) : List Nat :=
  (List.range 16).filter fun p =>
    let d := (s.part p).dom
    (s.part p).live && (d.st = .member || d.st = .shadow || d.st = .leaving) && d.domainId = dom

/-- Members here and in the children's subtrees. -/
def State.subMembers (s : State) (dom : Nat) : Nat :=
  let kids := match s.recordsOf dom with
    | q :: _ => (s.part q).dom.children
    | [] => 0
  (s.membersOf dom).length + ((s.subCount.filter fun e => e.1 = dom ∧ kids.testBit e.2.1).map fun e => e.2.2).sum

/-- MEMBERS_SUB is brought up to date in every record of the domain: a change goes to the parent, and sets or clears FORMED at
the root. -/
def State.updCount (s : State) (dom : Nat) : State :=
  let n := s.subMembers dom
  match s.recordsOf dom with
  | [] => s
  | q :: qs =>
    if (q :: qs).all fun x => (s.part x).dom.membersSub = n then s
    else
      let s := (q :: qs).foldl (fun s x => s.updDom x fun d => { d with membersSub := n, formed := d.root && decide (n = d.expect) }) s
      let d := (s.part q).dom
      if d.root then s else s.sendCtl d.parent (msgCount dom n)

/-! ### Joining (R362, R363) -/

/-- The code with which a parent answers a DOMAIN_JOIN that came on cord `c`; 0 is ACCEPT. -/
def State.joinAnswer (s : State) (c : Nat) (d : Dom) (m : List Byte) : Nat :=
  if fld m 5 1 ≠ d.pcl then dePcl
  else if fld m 6 1 ≠ d.proto then deProto
  else if fld m 7 2 ≠ s.fwClass then deFw
  else if fld m 3 2 = s.moduleId then deId
  else if ¬ d.children.testBit c then deTree
  else if 63 < d.depth + 1 then deDepth
  else 0

/-- The parent's partitions of a domain are MEMBER: there is one, and every one that is of the domain is. -/
def State.domReady (s : State) (dom : Nat) : Bool :=
  s.membersOf dom ≠ [] && (List.range 16).all fun p =>
    let d := (s.part p).dom
    !(s.part p).live || d.st = .none || d.st = .member || d.domainId ≠ dom

/-- Answer the DOMAIN_JOIN held on a cord if its domain is ready; the root names its lowest-numbered member (R364). -/
def State.answerJoin (s : State) (e : Nat × List Byte) : State :=
  let dom := fld e.2 1 2
  if ¬ s.domReady dom then s
  else match s.membersOf dom with
    | [] => s
    | q :: _ =>
      let d := (s.part q).dom
      let s : State := { s with joinHeld := s.joinHeld.filter fun x => x ≠ e }
      s.sendCtl e.1 (msgJoinAck dom (s.joinAnswer e.1 d e.2) d.depth d.rootModule
        ((s.rootPart dom).getD d.rootPart))

def State.answerJoins (s : State) : State := s.joinHeld.foldl (fun s e => s.answerJoin e) s

/-- A partition becomes MEMBER; its routing record's IDENT is set. A domain's damper setting on the module is one, and so is its
fault epoch (R361, R370). -/
def State.becomeMember (s : State) (p depth root part : Nat) (isRoot : Bool) : State :=
  let dom := (s.part p).dom.domainId
  let old := (s.membersOf dom).head?
  let c := old.map fun q => (s.part q).clock
  let s := s.updDom p fun d =>
    { d with st := .member, error := 0, depth := depth, root := isRoot, rootModule := root, rootPart := part, joinFrom := s.hall
             epoch := (old.map fun q => (s.part q).dom.epoch).getD d.epoch }
  let s := s.updRouting p fun r => { r with identValid := true, identDomain := dom }
  let s := match c with
    | some c => s.updClock p fun k => { k with m := c.m, mNext := c.mNext, pend := c.pend, seq := c.seq, seqNext := c.seqNext, damperAt := c.damperAt, queued := c.queued }
    | none => s
  ((s.updCount dom).answerJoins).propStanding

/-- The first code of R363 that refuses a JOIN here. A FREE time unit, one RECOVERING, and one in HOLDOVER after a time
loss refuse it with STATE (R337, R464). -/
def State.joinCheck (s : State) (p : Nat) : Nat :=
  let P := s.part p
  let d := P.dom
  let t := s.time
  let par := s.cord d.parent
  let differs (q : Nat) : Bool :=
    let e := (s.part q).dom
    decide (q ≠ p) && (s.part q).live && decide (e.st ≠ .none) && e.domainId = d.domainId &&
    !(e.parent = d.parent && e.parentValid = d.parentValid && e.children = d.children && e.pcl = d.pcl && e.proto = d.proto)
  if d.st ≠ .none ∨ P.plan.st ≠ .empty ∨ t.st = .free ∨ t.st = .recovering ∨ (t.st = .holdover ∧ t.lost) then deState
  else if d.pcl = 0 ∨ Config.maxPcl < d.pcl then dePcl
  else if d.parentValid ∧ par.st = .up ∧ par.proto ≠ d.proto then deProto
  else if (List.range 16).any differs then deId
  else if d.parentValid ∧ (par.st ≠ .up ∨ d.children.testBit d.parent) then deTree
  else if s.update.activation = 1 then deUpdate
  else 0

/-- DOMAIN_JOIN leaves for the parent, with the bitmap of the partitions joining the domain there. -/
def State.sendJoin (s : State) (p : Nat) : State :=
  let d := (s.part p).dom
  let bits := ((List.range 16).filter fun q =>
    let e := (s.part q).dom
    (s.part q).live && e.st = .joining && e.domainId = d.domainId && e.parent = d.parent).map fun q => 2 ^ q
  (s.updDom p fun d => { d with joinSent := s.hall }).sendCtl d.parent
    (msgJoin d.domainId s.moduleId d.pcl d.proto s.fwClass bits.sum)

/-- JOIN in the domain record. -/
def State.domJoin (s : State) (p : Nat) : State :=
  s.onDom p fun d =>
    let e := s.joinCheck p
    if e ≠ 0 then s.domErr p e
    else match (s.membersOf d.domainId).head? with
      | some q =>
        let x := (s.part q).dom
        s.becomeMember p x.depth x.rootModule x.rootPart x.root
      | none =>
        if ¬ d.parentValid then s.becomeMember p 0 s.moduleId p true
        else (s.updDom p fun d => { d with st := .joining, error := 0, joinFrom := s.hall }).sendJoin p

def execJoin (p : PartId) (s : State) : Out3 := .next (s.domJoin p)

/-- JOIN_RETRY: 500,000 hall ticks after the last DOMAIN_JOIN. -/
def execJoinRetry (p : PartId) (s : State) : Out3 :=
  let d := (s.part p).dom
  .next (if d.st = .joining ∧ d.joinSent + 500000 ≤ s.hall then s.sendJoin p else s)

/-- JOIN_TIMEOUT: 1 s without a DOMAIN_ACK. -/
def execJoinTimeout (p : PartId) (s : State) : Out3 :=
  let d := (s.part p).dom
  .next (if d.st = .joining ∧ d.joinFrom + second ≤ s.hall then s.updDom p fun d => { d with st := .none, error := deTimeout } else s)

/-- DOMAIN_JOIN: held, one per cord, until the domain's partitions here are MEMBER, then answered. -/
def execDomainJoin (c : CordId) (s : State) : Out3 :=
  .next (s.onCtl c 0x32 fun s m =>
    let t : State := { s with joinHeld := s.joinHeld.filter (fun e => e.1 ≠ c.val) ++ [(c.val, m.bytes)] }
    t.answerJoin (c.val, m.bytes))

/-- DOMAIN_ACK: ACCEPT makes the partitions that wait on the cord MEMBER; a code returns them to NONE. -/
def execDomainAck (c : CordId) (s : State) : Out3 :=
  .next (s.onCtl c 0x33 fun s m =>
    let dom := fld m.bytes 1 2
    let e := fld m.bytes 3 1
    let ps := (List.range 16).filter fun p =>
      (s.part p).live && (s.part p).dom.st = .joining && (s.part p).dom.domainId = dom && (s.part p).dom.parent = c.val
    ps.foldl (fun s p =>
      if e = 0 then s.becomeMember p (fld m.bytes 4 1 + 1) (fld m.bytes 5 2) (fld m.bytes 7 1) false
      else s.updDom p fun d => { d with st := .none, error := e }) s)

/-- DOMAIN_COUNT of a child. -/
def execDomainCount (c : CordId) (s : State) : Out3 :=
  .next (s.onCtl c 0x34 fun s m =>
    let dom := fld m.bytes 1 2
    let t : State := { s with subCount := s.subCount.filter (fun e => ¬ (e.1 = dom ∧ e.2.1 = c.val)) ++ [(dom, c.val, fld m.bytes 3 2)] }
    t.updCount dom)

/-! ### Leaving (R382 to R384) -/

/-- LEAVE in the domain record. -/
def State.domLeave (s : State) (p : Nat) : State :=
  s.onDom p fun d =>
    if ¬ (d.st = .joining ∨ d.st = .member ∨ d.st = .shadow) then s.domErr p deState
    else if d.at_ < s.hall + 65536 then s.domErr p deStep
    else s.updDom p fun d => { d with leaving := some d.at_, error := 0 }

def execLeave (p : PartId) (s : State) : Out3 := .next (s.domLeave p)

/-- Cords on which the partition holds slots that no release has begun, with those slots. -/
def State.leasedCords (s : State) (p : Nat) : List (Nat × List Nat) :=
  (List.range 32).filterMap fun c =>
    let x := s.cord c
    let open_ := (x.leases.filter fun l => l.mine = p ∧ ¬ l.grant).flatMap (·.slots)
    let is := (List.range 256).filter fun i => x.slotOwner i = p ∧ x.slotState i = slOwned ∧ ¬ open_.contains i
    if is = [] then none else some (c, is)

/-- Propose the release of a leaving pair's slots on every cord that `mine` selects. -/
def State.proposeReleases (s : State) (p : Nat) (at_ : Option Nat) (mine : Nat → Bool) : State :=
  let d := (s.part p).dom
  ((s.leasedCords p).filter fun e => mine e.1).foldl (fun s e =>
    (s.propose e.1 false p (((s.cord e.1).farOf p).getD 0) d.domainId at_ e.2).1) s

/-- LEAVE_TAKE_EFFECT: H_T arrives. The end with the lower module ID proposes the releases. -/
def execLeaveTakeEffect (p : PartId) (s : State) : Out3 :=
  .next (
    let P := s.part p
    let d := P.dom
    match d.leaving with
    | none => s
    | some h =>
      if s.hall < h ∨ d.st = .leaving ∨ ¬ P.live then s
      else
        let s := if P.plan.st = .armed ∨ P.plan.st = .running then s.stopPlan p else s
        let s := s.logEv { cls := cFence, kind := kPart, index := p, part := p, stopped := true, cause := 3 }
        let s := ((s.updDom p fun d => { d with st := .leaving }).fence p).endLanes p
        let s := s.proposeReleases p (some (h + 32768)) fun c => s.moduleId < (s.cord c).peerModule
        s.updCount d.domainId)

/-- LEAVE_RELEASE_TIMEOUT: no RELEASE from the lower end by H_T + 5,000,000. -/
def execLeaveReleaseTimeout (p : PartId) (s : State) : Out3 :=
  .next (
    let d := (s.part p).dom
    match d.leaving with
    | none => s
    | some h =>
      if d.st = .leaving ∧ h + 5000000 ≤ s.hall then s.proposeReleases p none fun c => ¬ s.moduleId < (s.cord c).peerModule else s)

/-- PARTITION_TEARDOWN: every lease has ended; the layout change is committed as at DISSOLVE. -/
def execPartitionTeardown (p : PartId) (bank : BankVolt) (s : State) : Out3 :=
  .next (if (s.part p).live ∧ (s.part p).dom.st = .leaving ∧ s.leaseFree p then (s.dissolve p).commit bank rLayout else s)

/-! ### Shadow join (R376, R380) -/

/-- The step a domain's member takes as current: the later of its own schedule and the last beacon. -/
def Part.domStep (P : Part) : Nat := max P.clock.sched P.dom.beaconStep

/-- SHADOW_START in the domain record. The frame builder's shadow is then the OPEN frame of step K (R212, R218). -/
def State.domShadow (s : State) (p : Nat) : State :=
  s.onDom p fun d =>
    if ¬ ((d.st = .member ∨ d.st = .shadow) ∧ (s.part p).plan.st = .loaded) then s.domErr p deState
    else if ¬ d.pairValid ∨ (s.cord d.pair).st ≠ .up ∨ d.planAs.getD s.moduleId ≠ d.primary then s.domErr p deBind
    else if d.at_ < (s.part p).domStep + 2 then s.domErr p deStep
    else
      let s := (s.abandonSeal p).updFrame p fun f => { f with target := d.at_, shadowBuf := d.at_ % 2 }
      s.updDom p fun d =>
        { d with st := .shadow, error := 0, startStep := some d.at_, syncHall := none, swapAt := none, ownDigs := [], farDigs := [] }

def execShadowStart (p : PartId) (s : State) : Out3 := .next (s.domShadow p)

/-- Beats at hall ticks below `h` under damper setting `m` (R340). -/
def beatsBelow (m h : Nat) : Nat := h / 16 * m + h % 16 * m / 16

/-- The partitions here that shadow partition `part` behind cord `c`. -/
def State.shadowsOf (s : State) (c dom part : Nat) : List Nat :=
  (List.range 16).filter fun p =>
    let d := (s.part p).dom
    (s.part p).live && d.st = .shadow && d.domainId = dom && d.pairValid && d.pair = c && d.primaryPart = part

/-- A shadow counts beats from the hall count of beat G(n): X(n) follows from the last beacon and the slips seen since. A message
that comes after beat G(n + 1) is too late: a mismatch (R376). -/
def State.shadowFrom (s : State) (p n hall : Nat) : State :=
  let P := s.part p
  let c := P.clock
  let x := (List.range (n - P.dom.beaconStep)).foldl (fun a i => a + c.slip (P.dom.beaconStep + 1 + i)) P.dom.beaconX
  let g := n * P.plan.stepLen + x
  let now := g + (beatsBelow c.m s.hall - beatsBelow c.m hall)
  if g + P.plan.stepLen + c.slip (n + 1) < now then
    s.updDom p fun d => { d with startStep := none, mismatches := satInc 32 d.mismatches, matched := 0 }
  else
    let s := s.updClock p fun c => { c with sched := n, fixed := n, xs := tabSet 0 [] n x, beat := now, lastBeat := none }
    s.updDom p fun d => { d with syncHall := some hall }

/-- SHADOW_SYNC: of step K − 1, the count from which the shadow counts beats; of a later step, too late. -/
def execShadowSync (c : CordId) (s : State) : Out3 :=
  .next (s.onCtl c 0x35 fun s m =>
    let n := fld m.bytes 3 8
    (s.shadowsOf c (fld m.bytes 1 2) (fld m.bytes 19 1)).foldl (fun s p =>
      let d := (s.part p).dom
      match d.startStep with
      | none => s
      | some k =>
        if d.syncHall.isSome then s
        else if n + 1 = k then s.shadowFrom p n (fld m.bytes 11 8)
        else if k ≤ n then
          s.updDom p fun d => { d with startStep := none, mismatches := satInc 32 d.mismatches, matched := 0 }
        else s) s)

/-- SHADOW_DIGEST: kept and compared with the shadow's own. -/
def execShadowDigest (c : CordId) (s : State) : Out3 :=
  .next (s.onCtl c 0x36 fun s m =>
    (s.shadowsOf c (fld m.bytes 1 2) (fld m.bytes 19 1)).foldl (fun s p =>
      (s.updDom p fun d => { d with farDigs := d.farDigs ++ [(fld m.bytes 3 8, fld m.bytes 11 8)] }).compareDigs p 0) s)

/-! ### Swap (R381) -/

/-- SWAP in the shadow's domain record. -/
def State.domSwap (s : State) (p : Nat) : State :=
  s.onDom p fun d =>
    if d.st ≠ .shadow then s.domErr p deState
    else if d.matched < d.matchTarget then s.domErr p deMatch
    else if d.at_ < (s.part p).clock.sched + 2 then s.domErr p deStep
    else s.updDom p fun d => { d with error := 0, swapAt := some d.at_ }

def execSwap (p : PartId) (s : State) : Out3 := .next (s.domSwap p)

/-- SWAP_TAKE_EFFECT at beat G(S): the shadow becomes MEMBER; the primary, which holds S in AT, its shadow. A shadow that
has swapped keeps S, so that it does not count as the primary of that swap. -/
def execSwapTakeEffect (p : PartId) (s : State) : Out3 :=
  .next (
    let P := s.part p
    let d := P.dom
    if d.st = .shadow ∧ d.swapAt = some P.clock.sched then s.updDom p fun d => { d with st := .member, ownDigs := [], farDigs := [] }
    else if d.st = .member ∧ d.pairValid ∧ 0 < d.at_ ∧ d.at_ = P.clock.sched ∧ d.swapAt ≠ some d.at_ then
      let x := s.cord d.pair
      s.updDom p fun d =>
        { d with st := .shadow, primary := x.peerModule, primaryPart := (x.farOf p).getD 0, matched := 0, ownDigs := [], farDigs := [] }
    else s)

/-! ### Fault epochs and reports (R370, R371) -/

/-- The members of a domain here enter a fault epoch, and the set of reported keys is cleared. -/
def State.setEpoch (s : State) (dom epoch : Nat) : State :=
  let s := (s.membersOf dom).foldl (fun s q => s.updDom q fun d => { d with epoch := epoch }) s
  { s with reported := s.reported.filter fun r => r.domain ≠ dom }

/-- EPOCH_ADVANCE in the domain record, at the root only. -/
def State.domEpoch (s : State) (p : Nat) : State :=
  s.onDom p fun d =>
    if ¬ (d.root ∧ (d.st = .member ∨ d.st = .shadow)) then s.domErr p deState
    else
      let e := (d.epoch + 1) % 65536
      ((s.setEpoch d.domainId e).domErr p 0).sendAll (treeCords d) (msgEpoch d.domainId e)

def execEpochAdvance (p : PartId) (s : State) : Out3 := .next (s.domEpoch p)

/-- FAULT_EPOCH: applied and passed down the tree. -/
def execFaultEpoch (c : CordId) (s : State) : Out3 :=
  .next (s.onCtl c 0x31 fun s m =>
    let dom := fld m.bytes 1 2
    let e := fld m.bytes 3 2
    match s.membersOf dom with
    | [] => s
    | q :: _ =>
      let d := (s.part q).dom
      if d.root ∨ d.epoch = e then s
      else (s.setEpoch dom e).sendAll ((treeCords d).filter fun x => x ≠ c ∧ x ≠ d.parent) m.bytes)

/-- FAULT_REPORT of a child. -/
def execFaultReport (c : CordId) (s : State) : Out3 :=
  .next (s.onCtl c 0x30 fun s m =>
    let b := m.bytes
    let r : Report :=
      { domain := fld b 1 2, epoch := fld b 3 2, cls := fld b 5 1, okind := fld b 6 1 % 4, omodule := fld b 7 2 % 32768
        oindex := fld b 9 1, count := fld b 10 2, first := fld b 12 8, reporter := fld b 20 2, detail := (b.drop 22).take 8 }
    match s.membersOf r.domain with
    | [] => s
    | q :: _ => s.onReport q r)

/-- MERGE_CLOSE: entries whose closing hall count has come. -/
def execMergeClose (s : State) : Out3 :=
  let due := s.merge.filter fun e => e.closing ≤ s.hall
  let t : State := { s with merge := s.merge.filter fun e => ¬ e.closing ≤ s.hall }
  .next (due.foldl (fun s e =>
    if e.pending = 0 then s
    else match s.membersOf e.rep.domain with
      | [] => s
      | q :: _ => s.reportUp q { e.rep with count := e.pending }) t)

/-! ### Twin records (R374, R375) -/

/-- The hops of a loaded plan that use cord `a` still bind with cord `b` in its place: the hop that leaves on it under b's delay,
the hop before it under the longer way to b, which is the fixed part of the hop that arrives (R57), and the hop that
arrives on it under b's delay and b's longer way on. -/
def State.twinBinds (s : State) (p a b : Nat) : Bool :=
  match (s.part p).plan.loaded with
  | none => true
  | some l =>
    let me := (s.part p).dom.planAs.getD s.moduleId
    let x := s.cord a
    let y := s.cord b
    let fits (h : Hop) (d extra : Nat) : Bool := d + h.slack + h.fixed + extra ≤ h.interval
    l.hops.all fun h =>
      (!(h.module = me && h.cord = a) || fits h y.delayTx 0) &&
      (l.image.routes.filter fun r => r.route.toNat = h.route ∧ r.fwd.map Fin.val = some a ∧ h.module = (s.cord r.ingress).peerModule ∧
        h.cord = (s.cord r.ingress).peerCord).all (fun r =>
          fits h (s.cord r.ingress).delayRx (passTicks r.ingress b - passTicks r.ingress a)) &&
      (!(h.module = x.peerModule && h.cord = x.peerCord) ||
        (l.image.routes.filter fun r => r.route.toNat = h.route ∧ r.ingress.val = a).all fun r =>
          fits h y.delayRx (match r.fwd with
            | some e => passTicks b e - passTicks a e
            | none => travelCord r.tile b - travelCord r.tile a))

/-- A write of a twin record; BIND refuses one that enables a cord under which the plan does not bind. -/
def State.twinWrite (s : State) (c twin mode swap : Nat) : State :=
  let b := twin % 32
  if 128 ≤ twin ∧ mode ≠ 0 ∧ ¬ (List.range 16).all (fun p => !(s.part p).live || s.twinBinds p c b) then
    s.updCord c fun x => { x with twinErr := deBind }
  else
    s.updCord c fun x =>
      { x with twin := twin, twinNext := if x.twinMode = mode then none else some mode, swapStep := swap, twinErr := 0 }

/-- TWIN_MODE_WRITE: TWIN, MODE and SWAP_STEP of a twin record. -/
def execTwinModeWrite (c : CordId) (valid : Bool) (b : CordId) (mode : Fin 4) (swap : BitVec 64) (s : State) : Out3 :=
  .next (s.twinWrite c (b.val + if valid then 128 else 0) mode swap.toNat)

end Sys2Proof.Machine
end

