-- ==== Sys2Proof/Machine/HostPort.lean ====
section
/-! DEFINITION. Host ports (16): queues and doorbells, events, host-interface resets, links, SPDM (R399, R400). -/

namespace Sys2Proof.Machine

/-! ### Queues (R432 to R436) -/

def State.queue (s : State) (p q : Nat) : Queue := tabGet {} (s.part p).fn.queues q
def State.updQueue (s : State) (p q : Nat) (f : Queue → Queue) : State :=
  s.updFn p fun x => { x with queues := tabUpd {} x.queues q f }

/-- A doorbell value the queue accepts. -/
def Queue.takes (x : Queue) (v : BitVec 32) : Bool :=
  x.enable && if x.output then decide ((v - x.hostIdx).toNat ≤ (x.devIdx - x.hostIdx).toNat) else decide ((v - x.devIdx).toNat ≤ 2 ^ x.log2)

/-- DOORBELL. A doorbell of a function that is not READY is refused and counted too. -/
def execDoorbell (p : PartId) (q : Fin 256) (v : BitVec 32) (s : State) : Out3 :=
  .next (if ¬ (s.part p).live then s
    else if s.fnReady p ∧ (s.queue p q).takes v then s.updQueue p q fun x => { x with hostIdx := v, pend := true }
    else s.updQueue p q fun x => { x with dbBad := satInc 32 x.dbBad })

/-- A device index the queue accepts. -/
def Queue.devTakes (x : Queue) (v : BitVec 32) : Bool :=
  let d := (v - x.devIdx).toNat
  x.enable && if x.output then decide (d + (x.devIdx - x.hostIdx).toNat ≤ 2 ^ x.log2) else decide (d ≤ (x.hostIdx - x.devIdx).toNat)

/-- HQ_DEV_IDX_WRITE to the queue the core's HQ_SEL shows. -/
def execHqDevIdxWrite (core : CoreId) (v : BitVec 32) (s : State) : Out3 :=
  .next (s.byCore core fun p =>
    let q := (s.core core).hqSel
    if (s.queue p q).devTakes v then s.updQueue p q fun x => { x with devIdx := v } else s.coreFence core)

/-- HQ_RAISE. -/
def execHqRaise (core : CoreId) (q : Fin 256) (s : State) : Out3 := .next (s.byCore core fun p => s.raiseQ p q)

/-! ### Events (R437) -/

/-- Bits of a 32-bit value, ascending. -/
def setBits (v : BitVec 32) : List Nat := (List.range 32).filter fun i => v.getLsbD i

/-- EVENT_CLEAR: a W1C write to EV_STATUS, or to word w of Q_EVENT; `same` are events that reach the register in the same
cycle: the clear applies first. -/
def execEventClear (p : PartId) (w : Option (Fin 8)) (v same : BitVec 32) (s : State) : Out3 :=
  .next (
    let clear (s : State) : State :=
      if ¬ s.fnReady p then s
      else s.updFn p fun x => match w with
        | none => { x with evStatus := x.evStatus &&& ~~~ (v.setWidth 16) }
        | some k => { x with qEvent := x.qEvent &&& ~~~ (v.setWidth 256 <<< (32 * k.val)) }
    (setBits same).foldl (fun s i => match w with
      | none => if i < 5 ∨ (8 ≤ i ∧ i < 16) then s.raiseEv p i else s
      | some k => s.raiseQ p (32 * k + i)) (clear s))

/-- The events that are set and enabled send their messages, those of `skip` excepted. -/
def State.sendEvents (s : State) (p : Nat) (f : Nat → Bool) (g : Nat → Bool) : State :=
  let x := (s.part p).fn
  let s := ((List.range 16).filter fun i => f i && x.evStatus.getLsbD i && x.evEnable.getLsbD i).foldl
    (fun s i => s.sendMsix p (tabGet 0 x.evVec i)) s
  ((List.range 256).filter fun q => g q && x.qEvent.getLsbD q && x.qEvEnable.getLsbD q).foldl
    (fun s q => s.sendMsix p (tabGet {} x.queues q).vector) s

/-- EVENT_ENABLE: enable bits or MSG_EN are written; a change from 0 to 1 sends the message of a status bit that is 1. -/
def execEventEnable (p : PartId) (r : EvReg) (v : BitVec 32) (s : State) : Out3 :=
  .next (if ¬ s.fnReady p then s
    else
      let old := (s.part p).fn
      match r with
      | .evEnable =>
        let s := s.updFn p fun x => { x with evEnable := v.setWidth 16 &&& 0xFF1F#16 }
        if old.msgEn then s.sendEvents p (fun i => !old.evEnable.getLsbD i) (fun _ => false) else s
      | .qEvEnable w =>
        let mask : BitVec 256 := (BitVec.allOnes 32).setWidth 256 <<< (32 * w.val)
        let s := s.updFn p fun x => { x with qEvEnable := (x.qEvEnable &&& ~~~ mask) ||| (v.setWidth 256 <<< (32 * w.val)) }
        if old.msgEn then s.sendEvents p (fun _ => false) (fun q => !old.qEvEnable.getLsbD q) else s
      | .fnCtrl =>
        let s := s.updFn p fun x => { x with msgEn := v.getLsbD 0 }
        if v.getLsbD 0 ∧ ¬ old.msgEn then s.sendEvents p (fun _ => true) (fun _ => true) else s)

/-! ### Host-interface resets (R438) -/

/-- The host-interface state of a function at its Reset values; HQ_GEN advances, the identity block keeps MSG_EN. -/
def State.hostReset (s : State) (p : Nat) : State :=
  let s := s.updFn p fun x => { fnState := x.fnState, msgEn := x.msgEn, hqGen := (x.hqGen + 1) % 65536 }
  let s := (s.coresOf p).foldl (fun s c => s.updCore c fun x => { x with hqSel := 0 }) s
  ((s.chansOf p).filter fun k => (s.chan k).host).foldl (fun s k => s.stkReset k (s.hostAtReset k)) s

/-- The partitions whose function a port presents as bound. -/
def State.portParts (s : State) (h : Nat) : List Nat := (List.range 16).filter fun p => (s.part p).live && (s.part p).port = h

def State.portX (s : State) (h : Nat) : HostPort := tabGet {} s.ports h
def State.updPort (s : State) (h : Nat) (f : HostPort → HostPort) : State := { s with ports := tabUpd {} s.ports h f }

/-- FUNCTION_LEVEL_RESET. PCIe clears the function's Bus Master Enable. -/
def execFunctionLevelReset (h : PortId) (p : PartId) (s : State) : Out3 :=
  let s := s.updPort h fun x => { x with bme := x.bme.filter fun q => q ≠ p.val }
  .next (if (s.part p).live ∧ (s.part p).port = h.val then s.hostReset p else s)

/-- Every function of a port is reset and its link is down. -/
def State.portReset (s : State) (h : Nat) : State :=
  (s.portParts h).foldl (fun s p => s.hostReset p) (s.updPort h fun x => { x with up := false, cxl := false, bme := [] })

/-- PERST: the pin is asserted or deasserted; `none` is a hot reset. -/
def execPerst (h : PortId) (pin : Option Bool) (s : State) : Out3 :=
  .next (match pin with
    | some false => s.updPort h fun x => { x with perst := false }
    | some true => (s.updPort h fun x => { x with perst := true }).portReset h
    | none => s.portReset h)

/-- Rails are sequenced and the port's die has its supply (R440, R491). -/
def State.railsUp (s : State) (d : Nat) : Bool := s.power.rails = 8 && !s.power.dieOff.contains d

/-- HOST_LINK_UP: `speed` is FN_STATUS.SPEED, `width` the lanes; `cxl`: CXL.cache negotiated. -/
def execHostLinkUp (h : PortId) (speed : LinkSpeed) (width : LinkWidth) (cxl : Bool) (s : State) : Out3 :=
  .next (if (s.portX h).perst ∨ ¬ s.railsUp (h / 2) then s
    else s.updPort h fun x => { x with up := true, speed := speed.code, width := width.lanes, cxl := cxl })

/-- HOST_LINK_DOWN, surprise removal included. -/
def execHostLinkDown (h : PortId) (s : State) : Out3 := .next (if (s.portX h).up then s.portReset h else s)

/-! ### Identity registers (R431, R466) -/

/-- FN_KINDLE. -/
def State.fnKindle (s : State) : Nat :=
  let k := s.kindle
  let b (x : Bool) (i : Nat) : Nat := if x then 2 ^ i else 0
  k.phase % 8 + k.halt * 256 + b s.flash.pointer.trial 16 + b k.configReset 17 + b k.migrated 18 + b k.romFallback 19 +
  b k.syncFree 20 + b k.bank 21 + b s.flash.pointer.reverted 22

/-! ### SPDM over DOE (R399, R400, R431) -/

/-- The bytes of an image slot: header and body. -/
def ImgSlot.bytes (x : ImgSlot) : List Byte := x.hdr ++ rdBytes x.body 0 (fld x.hdr 8 4)

/-- The image of a type in the running bank. -/
def State.runImage (s : State) (t : Nat) : ImgSlot :=
  match t, s.kindle.sram with
  | 1, some x => x
  | _, _ => tabGet {} s.images ((if s.kindle.bank then 8 else 0) + t)

/-- The measurement blocks of R400, in index order: index and value. -/
def State.measurements (s : State) (p : Nat) : List (Nat × List Byte) :=
  let h (b : List Byte) : List Byte := leBytes 48 (Config.sha384 b).toNat
  let P := s.part p
  [(1, h (s.runImage 1).bytes), (2, h (s.runImage 2).bytes),
   (3, if P.serving.elvune then h (s.runImage 3).bytes else leBytes 48 P.serving.measure.toNat),
   (4, h (s.runImage 4).bytes), (5, h (s.runImage 5).bytes),
   (6, h (leBytes 1 p ++ leBytes 2 (s.groupBits p) ++ leBytes 1 P.port ++ leBytes 1 (s.part p).retorts ++ leBytes 2 P.btFirst ++ leBytes 2 P.btCount)),
   (7, match P.plan.st, P.plan.loaded with
     | .empty, _ => List.replicate 32 0#8
     | _, some l => l.digest
     | _, none => List.replicate 32 0#8),
   (8, h (leBytes 1 (if s.tap.debug then 1 else 0) ++ leBytes 1 (if s.tap.production then 1 else 0)))]

/-- Blocks function 0 returns. -/
def fn0Block (i : Nat) : Bool := [1, 2, 4, 5, 8].contains i

/-- The request codes of DSP0274 that a responder supports. -/
def spdmCodes : List Nat := [0x84, 0xE1, 0xE3, 0x81, 0x82, 0x83, 0xE0]

def spdmError (code detail : Nat) : List Byte := leBytes 1 0x13 ++ leBytes 1 0x7F ++ leBytes 1 code ++ leBytes 1 detail

/-- What a function answers: ERROR Busy or Unsupported by its state, else the response over what it attests: its measurement
blocks, the DeviceID and Alias keys, which CDI₁ fixes, and the items of the partition attestation certificate (R398 to R400). -/
def State.spdmReply (s : State) (h fn : Nat) (req : List Byte) : List Byte :=
  let code := fld req 1 1
  let p := fn - 1
  let bound := (s.part p).live && (s.part p).port = h
  let st := if fn = 0 then (if s.kindle.phase = 6 then 1 else 0) else if bound then s.fnStateOf p else 2
  if st = 0 then spdmError 3 0
  else if st = 2 then spdmError 7 0
  else if ¬ spdmCodes.contains code then spdmError 7 code
  else
    let blocks := (s.measurements p).filter fun m => fn ≠ 0 || fn0Block m.1
    let x := (s.part p).sec
    let layers := leBytes 8 s.tap.device ++ leBytes 48 s.kindle.cdi.toNat
    let cert := if fn = 0 then [] else leBytes 1 p ++ leBytes 2 (s.groupBits p) ++ leBytes 8 x.wrapPair ++ leBytes 4 x.wrapGen ++ leBytes 8 x.attPair
    leBytes 1 (if code = 0x84 then 0x10 else 0x13) ++ leBytes 1 (code % 128) ++
      Config.spdmBody fn req (blocks.flatMap (fun m => leBytes 1 m.1 ++ m.2) ++ layers ++ cert)

/-- SPDM_REQUEST over DOE, on a port whose link is up. -/
def execSpdmRequest (h : PortId) (fn : Fin 17) (req : List Byte) (s : State) : Out3 :=
  .next (if (s.portX h).up then s.send (.spdm h fn (s.spdmReply h fn req)) else s)

end Sys2Proof.Machine
end

