-- ==== Sys2Proof/Machine/Boot.lean ====
section
/-! DEFINITION. Images, module reset, revert, and the phases of kindling (R443, R456 to R467, R470 to R473, R489). -/

namespace Sys2Proof.Machine

/-! ### Images (R450, R461, R462) -/

/-- The largest body of an image type. -/
def largestBody (t : Nat) : Nat :=
  if t = 1 then 6 * mib else if t = 3 then 16 * mib - 256 else if t = 5 then 4 * mib - 256 else 8 * mib - 256

/-- The detail code of the first header check that fails; 0: the header passes. -/
def State.hdrDetail (s : State) (t : Nat) (h : List Byte) : Nat :=
  if fld h 0 4 ≠ 0x474D4945 then 1
  else if fld h 4 2 ≠ 1 then 2
  else if fld h 6 1 ≠ t then 3
  else if fld h 7 1 ≠ 1 then 4
  else if fld h 12 1 ≠ 0xA1 then 5
  else if largestBody t < fld h 8 4 then 6
  else if 3 < fld h 13 1 ∨ s.tap.revoked.contains (fld h 13 1) then 7
  else if fld h 0x16 10 ≠ 0 ∨ fld h 0x50 80 ≠ 0 then 8
  else if ¬ Config.verify (fld h 13 1) (h.take 0xA0) ((h.drop 0xA0).take 96) then 9
  else 0

/-- Every body byte up to LENGTH has been written. -/
def ImgSlot.whole (x : ImgSlot) : Bool := x.hdr ≠ [] && decide (fld x.hdr 8 4 ≤ coverFrom x.got x.got.length 0)

/-- The body's digest equals BODY_DIGEST. -/
def ImgSlot.digestOk (x : ImgSlot) : Bool :=
  decide (leBytes 48 (Config.sha384 (rdBytes x.body 0 (fld x.hdr 8 4))).toNat = (x.hdr.drop 0x20).take 48)

/-- An image that passes every check of R462. -/
def State.imgOk (s : State) (t : Nat) (x : ImgSlot) : Bool := x.whole && s.hdrDetail t x.hdr = 0 && x.digestOk

/-- The slot of image type `t` in bank A (false) or B. -/
def State.slotOf (s : State) (bank : Bool) (t : Nat) : ImgSlot := tabGet {} s.images ((if bank then 8 else 0) + t)

/-! ### Module reset (R22, R443, R481, R482) -/

/-- What every start finds: Reset values, with what flash, fuses and the environment keep. The count of hall ticks goes
on. A restart of the Collier keeps the rails and the host links up (R490). -/
def State.startOver (s : State) (cause : Nat) (restart : Bool) : State :=
  let s := s.fresh
  let f := s.flash
  { State.reset with
    pending := s.pending, hall := s.hall, serial := s.serial, outbox := s.outbox, flash := f
    images := s.images
    moduleId := rdLe f.ident 0 2 % 32768
    ident := f.ident, layout := f.layout, standing := f.standing, timeRec := f.timeRec
    cords := tabOf {} 32 fun c => { downTime := tabGet 20 f.down c }
    cinder := f.cinder
    log := f.stops.map fun e => { e with previous := true }
    kindle := { cause := cause, bank := f.pointer.active }
    update := { window := if f.pointer.trial then s.update.window else 0, at_ := s.update.at_ }
    holdup := { s.holdup with hourly := s.hall }
    power :=
      { aux := s.power.aux, ramp := s.power.ramp, rails := if restart then s.power.rails else 0
        fault := s.power.fault, gap := s.power.gap }
    sensors := s.sensors
    ports := if restart then s.ports
      else tabOf {} 4 fun h => { perst := (tabGet {} s.ports h).perst, speed := 0 }
    tap := { production := s.tap.production, debug := s.tap.debug && restart, device := s.tap.device
             nonce := some s.serial, revoked := s.tap.revoked }
    fuses := s.fuses }

/-- Every partition stops and is fenced (R366). -/
def State.stopAll (s : State) : State :=
  ((List.range 16).filter fun p => (s.part p).live).foldl (fun s p => s.faultStop p) s

/-- A restart of the Collier: module reset (R443). -/
def State.restart (s : State) (cause : Nat) : State := s.stopAll.startOver cause true

/-- A revert (R470): the pointer names PREV, CONFIRMED and REVERTED, and module reset follows. -/
def State.revert (s : State) : State :=
  (s.stopAll.setPointer fun p => { p with active := p.prev, trial := false, reverted := true }).startOver 5 true

/-- MODULE_RESET: a lockstep mismatch, or expiry of the watchdog. Without aux there is no Collier to restart. -/
def execModuleReset (watchdog : Bool) (s : State) : Out3 :=
  .next (if s.power.aux ∧ ¬ s.power.fault then s.restart (if watchdog then 2 else 1) else s)

/-- POWER_UP: aux arrives and the ROM phase starts; a trial window runs anew (R470). -/
def execPowerUp (s : State) : Out3 :=
  .next (if s.power.aux then s
    else
      let s : State := { s with power := { s.power with aux := true }, update := { s.update with window := s.hall + 600 * second } }
      s.bleedEnd.startOver 0 false)

/-! ### The phases (R463) -/

/-- Kindling is in a phase, and nothing holds the module in reset. -/
def State.inPhase (s : State) (n : Nat) : Bool := s.power.aux && !s.power.fault && s.kindle.phase = n

def State.setKindle (s : State) (f : Kindle → Kindle) : State := { s with kindle := f s.kindle }
def State.phase (s : State) (n : Nat) : State := s.setKindle fun k => { k with phase := n }
def State.haltKindle (s : State) (reason : Nat) : State := s.setKindle fun k => { k with phase := 7, halt := reason }

/-- The boot ROM starts the Collier image: it computes CDI₁ from the unique device secret, the image's digest, the stepping
and the debug state (R398), and RAILS begins. -/
def State.startImage (s : State) : State :=
  let m := leBytes 48 (Config.sha384 (s.runImage 1).bytes).toNat ++ leBytes 1 0xA1 ++ leBytes 1 (if s.tap.debug then 1 else 0)
  (s.setKindle fun k => { k with cdi := Config.cdi s.tap.device m }).phase 1

/-- KINDLE_ROM_DONE: the trial count (R470), then the pointer's bank, else the other (R467). -/
def execKindleRomDone (s : State) : Out3 :=
  .next (if ¬ s.inPhase 0 then s
    else
      let trial := s.flash.pointer.trial
      let s := if trial then s.setPointer fun p => { p with boots := p.boots + 1 } else s
      if trial ∧ 3 ≤ s.flash.pointer.boots then s.revert
      else
        let b := s.flash.pointer.active
        if s.imgOk 1 (s.slotOf b 1) then (s.setKindle fun k => { k with bank := b }).startImage
        else if s.imgOk 1 (s.slotOf (!b) 1) then
          let s := s.setPointer fun p => { p with active := !b, trial := false }
          (s.setKindle fun k => { k with bank := !b, romFallback := true }).startImage
        else s.haltKindle 1)

/-- ROM_PLDM_UPDATE: a Collier image into SRAM while kindling is halted in ROM (R467). -/
def execRomPldmUpdate (hdr body : List Byte) (s : State) : Out3 :=
  let x : ImgSlot := { hdr := hdr, body := wrBytes [] 0 body, got := [(0, body.length)] }
  .next (if s.inPhase 7 ∧ s.kindle.halt = 1 ∧ hdr.length = 256 ∧ s.imgOk 1 x then
      (s.setKindle fun k => { k with sram := some x, halt := 0 }).startImage
    else s)

/-- KINDLE_RAILS: 54 V is present; every rail group reaches regulation, or one misses its window (R489, R490). An image
of regulator firmware that fails its checks also halts the phase. -/
def execKindleRails (late : Option (Fin 8)) (s : State) : Out3 :=
  .next (if ¬ s.inPhase 1 ∨ ¬ s.v54 then s
    else if late.isSome ∨ ¬ s.imgOk 5 (s.runImage 5) then
      let s : State := { s with power := { s.power with rails := 0 } }
      ((List.range 4).foldl (fun s h => s.portReset h) s).haltKindle 2
    else ({ s with power := { s.power with rails := 8 } } : State).phase 2)

/-! ### Self-test (R169, R471 to R473) -/

/-- The band of a physical tile of R478, 4 × die + q, and its logical tile unless it is a spare. -/
def bandOf (x : Nat) : Nat × Option Nat :=
  let d := x / 100
  let i := x % 100
  if 96 ≤ i then (4 * d + (i - 96), none) else (4 * d + i % 48 / 12, some (96 * d + i))

/-- The spare of each band replaces its lowest failed tile, unless the spare has failed. -/
def sparesFor (tiles : List Nat) : Tab Nat :=
  tabOf 0 8 fun b =>
    let bad := tiles.filter fun x => (bandOf x).1 = b
    if bad.any (fun x => (bandOf x).2 = none) then 0
    else match (bad.filterMap fun x => (bandOf x).2).foldl (fun (m : Option Nat) t => some (match m with | some k => min k t | none => t)) none with
      | some t => t + 1
      | none => 0

/-- Why a group is withheld (R477), 0 if it is not: the first failure in the order of R472. -/
def whyWithheld (f : SelfFail) (spares : Tab Nat) (g : Nat) : Nat :=
  let bad := (f.tiles.filterMap fun x => (bandOf x.val).2).filter fun t => t / 12 = g
  let has (l : List GroupId) : Bool := l.any fun x => x.val = g
  if bad.any fun t => (spares.all fun e => e.2 ≠ t + 1) then 1
  else if f.routers.any fun t => t.val / 12 = g then 2
  else if has f.stokes then 6
  else if has f.stores then 5
  else if has f.nears then 3
  else if has f.turfs then 4
  else if (List.range 4).all fun i => f.retorts.any fun e => e.val = 4 * (g / 8) + i then 7
  else 0

/-- The state of the module after the kindling tests. -/
def State.afterTests (s : State) (f : SelfFail) : State :=
  let spares := sparesFor (f.tiles.map Fin.val)
  let s : State := { s with spare := spares, retortOff := (f.retorts.map Fin.val).dedup }
  let s := (List.range 16).foldl (fun s g => s.updGroup g fun _ =>
    let old := tabGet (0, 0) s.flash.repairs g
    let new := (f.repairs.filter fun r => r.1.val = g).foldl (fun a r => (a.1 + r.2.1, a.2 + r.2.2)) old
    let why := whyWithheld f spares g
    { st := if why = 0 then .scrubbing else .withheld, reason := why, repSram := new.1, repStack := new.2
      coresOff := (List.range 4).foldl (fun a i => if f.cores.any (fun c => c.val = 4 * g + i) then a + 2 ^ i else a) 0 }) s
  let s := f.waves.foldl (fun s w => s.updCord w.1 fun x =>
    if w.2.1 then { x with retIn := (x.retIn ++ [w.2.2.val]).dedup } else { x with retEg := (x.retEg ++ [w.2.2.val]).dedup }) s
  f.optics.foldl (fun s k =>
    let s : State := { s with power := { s.power with opticsBad := (s.power.opticsBad ++ [k.val]).dedup } }
    (List.range 8).foldl (fun s i => s.stayDown (8 * k.val + i) drAdmin) s) s

/-- KINDLE_SELFTEST: the repair record is committed once, if it changed, and the calibration (R452). -/
def execKindleSelftest (f : SelfFail) (bank : BankVolt) (s : State) : Out3 :=
  .next (if ¬ s.inPhase 2 then s
    else if f.halt then s.haltKindle 3
    else
      let s := s.afterTests f
      let s := if f.repairs.any fun r => 0 < r.2.1 + r.2.2 then s.commit bank rRepair else s
      (s.commit bank rCalib).phase 3)

/-! ### Load (R452, R456, R457, R460, R463) -/

/-- Configuration records whose stored VERSION differs take their defaults, and each is logged. -/
def State.resetConfig (s : State) (bank : BankVolt) (r : Nat) : State :=
  let s : State :=
    if r = rLayout then { s with layout := [] }
    else if r = rTime then { s with timeRec := {} }
    else if r = rStanding then { s with standing := [] }
    else { s with cords := s.cords.map fun (e : Nat × Cord) => (e.1, { e.2 with downTime := 20 }) }
  ((s.setKindle fun k => { k with configReset := true }).commit bank r).logOpen

/-- At the first start of an image whose DATA_VERSION is one above the stored one, every low-level record is converted and
the copies are committed (R456). In TRIAL the first start is the one that TRIAL_BOOTS counts as 1. -/
def State.migrate (s : State) (bank : BankVolt) : State :=
  if fld s.runHdr 0x14 2 = s.flash.pointer.dataVer + 1 ∧ (s.flash.pointer.trial → s.flash.pointer.boots ≤ 1) then
    [rIdent, rRepair, rCalib, rSync, rCinder].foldl (fun s r => s.commit bank r) (s.setKindle fun k => { k with migrated := true })
  else s

/-- KINDLE_LOAD: `resets` are the configuration records whose format version differs. An image that fails its checks
halts kindling, and in TRIAL reverts. -/
def execKindleLoad (resets : List (Fin 11)) (bank : BankVolt) (s : State) : Out3 :=
  .next (if ¬ s.inPhase 3 then s
    else if ¬ [2, 3, 4].all (fun t => s.imgOk t (s.runImage t)) then
      if s.flash.pointer.trial then s.revert else s.haltKindle 4
    else
      let s := ((resets.map Fin.val).filter fun r => r = rLayout ∨ r = rTime ∨ r = rCords ∨ r = rStanding).foldl
        (fun s r => s.resetConfig bank r) s
      let s := s.migrate bank
      let s := if s.power.gap then
          ({ s with power := { s.power with gap := false } } : State).logEv { cls := 0x3A, kind := kModule, index := 0, cause := 0xF0 }
        else s
      let t := s.timeRec
      let s := s.updTime fun u => { u with role := t.role, parent := t.parent, altRec := t.alt }
      let s := ((List.range 32).filter fun c => (s.cord c).reason ≠ drAdmin).foldl (fun s c => s.startTraining c) s
      (s.setKindle fun k => { k with syncFrom := s.hall }).phase 4)

/-! ### Sync and partitions (R464, R465) -/

/-- The module opens with its time unit FREE. -/
def State.openFree (s : State) : State :=
  ((s.updTime fun t => { t with st := .free }).setKindle fun k => { k with syncFree := true }).phase 5

/-- KINDLE_SYNC: the hall root enters ROOT; a module without a parent opens FREE; any other waits for LOCKED. -/
def execKindleSync (s : State) : Out3 :=
  .next (if ¬ s.inPhase 4 then s
    else if s.time.role = 1 then (s.updTime fun t => { t with st := .root, depth := 0 }).phase 5
    else if (cordOf s.time.parent).isNone then s.openFree
    else if s.time.st = .locked then s.phase 5
    else s)

/-- KINDLE_SYNC_TIMEOUT: not LOCKED within 10 s. -/
def execKindleSyncTimeout (s : State) : Out3 :=
  .next (if s.inPhase 4 ∧ s.time.role ≠ 1 ∧ s.time.st ≠ .locked ∧ s.kindle.syncFrom + 10 * second ≤ s.hall then s.openFree else s)

/-- The budget ranges of two partitions share an entry. -/
def rangesMeet (f1 c1 f2 c2 : Nat) : Bool := decide (max f1 f2 < min (f1 + c1) (f2 + c2))

/-- A resource that a CREATE names is held elsewhere (R390). -/
def State.createBusy (s : State) (p groups port first count : Nat) : Bool :=
  (s.part p).live || (groupList groups).any (fun g => (s.group g).st ≠ .free) ||
  (List.range 16).any (fun q => q ≠ p && (s.part q).live && rangesMeet first count (s.part q).btFirst (s.part q).btCount) ||
  decide (16 ≤ (s.portParts port).length)

/-- KINDLE_PARTITIONS: once no group scrubs, the valid layout entries are created in partition order; one
that CREATE would refuse is logged. -/
def execKindlePartitions (s : State) : Out3 :=
  .next (if ¬ s.inPhase 5 ∨ (List.range 16).any (fun g => (s.group g).st = .scrubbing) then s
    else
      let s := s.layout.foldl (fun s e =>
        let l := e.2
        if ¬ l.valid then s
        else if s.createBusy e.1 l.groups l.port l.first l.count then s.logOpen
        else s.createPart e.1 (groupList l.groups) l.port l.first l.count) s
      s.phase 6)

end Sys2Proof.Machine
end

