-- ==== Sys2Proof/Machine/Cms.lean ====
section
/-! DEFINITION. The Collier management service (R444 to R447): who may use it, its records, READ and WRITE. -/

namespace Sys2Proof.Machine

/-! ### Result codes (R448) -/

def cmOk : Nat := 0
def cmState : Nat := 1
def cmRange : Nat := 2
def cmHoldup : Nat := 3
def cmBusy : Nat := 4
def cmHeader : Nat := 5
def cmSignature : Nat := 6
def cmDigest : Nat := 7
def cmDataVersion : Nat := 8
def cmAuth : Nat := 9
def cmTrial : Nat := 10

def State.cmsReply (s : State) (r : CmsReq) (code : Nat) (data : List Byte := []) : State := s.send (.cms r.num.toNat code 0 data)

/-- The Collier image runs: a phase after ROM, or HALTED in a phase after it. -/
def State.collierUp (s : State) : Bool :=
  s.power.aux && !s.power.fault && s.kindle.phase ≠ 0 && !(s.kindle.phase = 7 && s.kindle.halt = 1)

/-- The identity record: CA slot i holds a certificate. -/
def State.caLen (s : State) (i : Nat) : Nat := rdLe s.ident (0x80 + 0x800 * i) 2

/-- A request is served (R445): on SMBus unless SMBUS_CMS is 0, on Ethernet for a certificate that chains to a CA held. -/
def State.cmsServes (s : State) (r : CmsReq) : Bool :=
  s.collierUp && if r.smbus then rdLe s.ident 3 1 = 1 else match r.ca with
    | some i => s.caLen i ≠ 0
    | none => false

/-! ### Records as bytes -/

/-- A byte of flags, the first in bit 0. -/
def flagByte (l : List Bool) : Nat := (l.zipIdx.map fun b => if b.1 then 2 ^ b.2 else 0).sum

/-- RELEASE of a slot's image, 0 without a checked one. -/
def State.release (s : State) (bank : Bool) (t : Nat) : Nat := if s.imgOk t (s.slotOf bank t) then fld (s.slotOf bank t).hdr 16 4 else 0

/-- Kindling and update status (R455). -/
def State.recStatus (s : State) : List Byte :=
  let k := s.kindle
  let p := s.flash.pointer
  let idle := !p.active
  padTo 128 (leBytes 1 k.phase ++ leBytes 1 k.halt ++ leBytes 1 k.cause ++
    leBytes 1 (flagByte [p.trial, k.configReset, k.migrated, k.romFallback, k.syncFree, k.bank, p.reverted, s.unsaved ≠ []]) ++
    leBytes 1 s.update.stage ++
    leBytes 1 (flagByte ((List.range 5).map fun t => s.imgOk (t + 1) (s.slotOf idle (t + 1)))) ++
    leBytes 1 s.update.activation ++ leBytes 1 p.boots ++ leBytes 8 (if s.update.activation = 0 then p.actHall else s.update.at_) ++
    leBytes 8 (if p.trial then s.update.window else 0) ++ leBytes 2 p.dataVer ++ leBytes 2 s.fwClass ++ leBytes 4 0 ++
    leBytes 8 (s.holdup.hall.getD 0) ++ leBytes 4 s.holdup.mj ++ leBytes 1 (if s.holdup.pass then 1 else 0) ++ leBytes 3 0 ++
    ((List.range 5).flatMap fun t => leBytes 4 (s.release p.active (t + 1))) ++
    (List.range 5).flatMap fun t => leBytes 4 (s.release idle (t + 1)))

/-- Time record (R357). -/
def State.recTime (s : State) : List Byte :=
  let t := s.timeRec
  padTo 96 (leBytes 1 t.role ++ leBytes 1 t.parent ++ leBytes 1 t.alt ++ leBytes 1 0 ++ leBytes 2 t.holdLimit ++ leBytes 1 t.mCap ++
    leBytes 1 0 ++ leBytes 2 t.powerCap ++ leBytes 6 0 ++ (List.range 32).flatMap fun c => leBytes 2 (tabGet 0 t.asym c % 65536).toNat)

def CordSt.code : CordSt → Nat
  | .down => 0 | .training => 1 | .measuring => 2 | .up => 3

/-- Cord record (R305). -/
def State.recCord (s : State) (c : Nat) : List Byte :=
  let x := s.cord c
  let mask (l : List Nat) : Nat := ((List.range 9).filter fun w => l.contains w).foldl (fun a w => a + 2 ^ w) 0
  let n (v : Nat) : List Byte := leBytes 4 v
  padTo 128 (leBytes 1 (CordSt.code x.st) ++ leBytes 1 x.reason ++ leBytes 1 x.proto ++ leBytes 1 (x.egWidth + 16 * x.inWidth) ++
    leBytes 1 (flagByte [x.egGen, x.inGen]) ++ leBytes 1 (x.spare.getD 15 + 16 * x.spareSt) ++ leBytes 2 x.peerModule ++
    leBytes 1 x.peerCord ++ leBytes 3 0 ++ leBytes 2 x.delayTx ++ leBytes 2 x.delayRx ++ n x.downTime ++
    ((List.range 8).flatMap fun i => leBytes 1 (x.txMap.getD i 0xFF)) ++ n (mask x.retEg + mask x.retIn * 2 ^ 16) ++
    n x.retxSent ++ n x.hdrErr ++ n x.crcErr ++ n x.nackSent ++ n x.replayTo ++ n x.stallTicks ++ n x.dupDiscard ++ n x.ackBad ++
    n x.fecUncorr ++ n x.laneSwaps ++ n x.stageDrop)

/-- Slot map record (R330): 288 bytes of a cord, 256 of a pass-through lane. -/
def State.recSlots (s : State) (i : Nat) : List Byte :=
  if 32 ≤ i then (List.range 256).flatMap fun k => leBytes 1 (tabGet 0x10 (tabGet [] s.lanes (i - 32)) k)
  else
    let x := s.cord i
    padTo 288 (((List.range 256).flatMap fun k => leBytes 1 (tabGet 0x10 x.slots k)) ++
      ((List.range 16).flatMap fun p => leBytes 1 (tabGet 0 x.partner p)) ++ leBytes 1 x.leases.length)

/-- Partition routing record (R330). -/
def State.recRouting (s : State) (p : Nat) : List Byte :=
  let r := (s.part p).routing
  let n (v : Nat) : List Byte := leBytes 4 v
  padTo 128 (n (if r.identValid then s.moduleId + 2 ^ 15 + r.identDomain * 2 ^ 16 else 0) ++ n r.timeout ++ leBytes 8 r.routeBase ++
    leBytes 8 r.homeBase ++ n 0 ++ n 0 ++ n r.detours ++ n r.fwdDrops ++ n r.nackRx ++ n r.reissues ++ n r.timeouts ++ n r.unknown ++
    n r.dedup ++ n r.pktBad ++ n r.reqs.length)

def DomState.code : DomState → Nat
  | .none => 0 | .joining => 1 | .member => 2 | .shadow => 3 | .leaving => 4

/-- Domain record (R361). -/
def State.recDomain (s : State) (p : Nat) : List Byte :=
  let d := (s.part p).dom
  let n (v : Nat) : List Byte := leBytes 4 v
  padTo 128 (leBytes 1 (DomState.code d.st) ++ leBytes 1 (flagByte [d.root, d.fenced, d.formed]) ++ leBytes 2 d.domainId ++
    leBytes 2 s.moduleId ++ leBytes 2 (d.planAs.getD s.moduleId) ++ leBytes 1 (d.parent + if d.parentValid then 128 else 0) ++
    leBytes 1 d.depth ++ leBytes 1 d.pcl ++ leBytes 1 d.proto ++ n d.children ++ leBytes 2 s.fwClass ++ leBytes 2 d.expect ++
    leBytes 2 d.membersSub ++ leBytes 1 d.error ++ leBytes 1 0 ++ n 0 ++ n 0 ++ leBytes 8 d.at_ ++ leBytes 2 d.primary ++
    leBytes 1 d.primaryPart ++ leBytes 1 d.digestKey ++ leBytes 2 d.matchTarget ++ leBytes 2 d.matched ++ n d.mismatches ++
    n d.lateSteps ++ leBytes 8 d.lastDigest ++ leBytes 2 d.epoch ++ leBytes 2 0 ++ n d.reportsSent ++ n d.merged ++
    n d.mergeOverflow ++ n d.reportDrop ++ leBytes 8 d.beaconHall ++ leBytes 1 (d.pair + if d.pairValid then 128 else 0))

/-- Twin record (R374). -/
def State.recTwin (s : State) (c : Nat) : List Byte :=
  let x := s.cord c
  leBytes 1 x.twin ++ leBytes 1 (x.twinNext.getD x.twinMode) ++ leBytes 1 x.twinErr ++ leBytes 5 0 ++ leBytes 8 x.swapStep

/-- Partition layout entry (R453). -/
def State.recLayout (s : State) (p : Nat) : List Byte :=
  let l := tabGet {} s.layout p
  padTo 16 (leBytes 1 (if l.valid then 1 else 0) ++ leBytes 1 l.port ++ leBytes 2 l.groups ++ leBytes 2 l.first ++ leBytes 2 l.count ++
    leBytes 1 l.retort)

def GroupState.code : GroupState → Nat
  | .scrubbing => 0 | .free => 1 | .assigned => 2 | .withheld => 3

/-- Group states record (R477). -/
def State.recGroups (s : State) : List Byte :=
  let one (g : Nat) : List Byte :=
    let x := s.group g
    let t := tabGet 0 s.spare (4 * (g / 8) + g % 8 % 4)
    leBytes 1 (GroupState.code x.st) ++ leBytes 1 (if x.st = .assigned then x.owner else 0xFF) ++ leBytes 1 x.reason ++ leBytes 1 x.coresOff ++
    leBytes 1 (if t ≠ 0 ∧ (t - 1) / 12 = g then (t - 1) % 12 else 0xFF) ++ leBytes 1 (min 255 (x.repSram + x.repStack)) ++ leBytes 2 0
  ((List.range 16).flatMap one) ++ leBytes 1 s.test.target ++ leBytes 1 s.test.index ++ leBytes 1 s.test.st ++ leBytes 1 s.test.added ++
  leBytes 4 0 ++ leBytes 8 s.test.hall

/-- A fault log entry as 64 bytes (R480). -/
def entryBytes (e : LogEntry) : List Byte :=
  leBytes 8 e.seq ++ leBytes 8 e.hall ++ leBytes 1 e.cls ++ leBytes 1 e.kind ++ leBytes 1 e.index ++ leBytes 1 e.part ++
  leBytes 1 (flagByte [true, e.stopped, e.previous, e.coalesced]) ++ leBytes 1 e.cause ++ leBytes 2 e.tile ++ leBytes 8 e.addr ++
  leBytes 8 e.tick ++ (padTo 24 e.detail).take 24

/-- The units of R478 in the order of record 0x0D: each kind with how many it has. -/
def unitKinds : List (Nat × Nat) :=
  [(1, 200), (2, 64), (3, 16), (4, 8), (5, 32), (6, 16), (7, 8), (8, 4), (9, 4), (0x10, 16), (0x11, 16), (0x12, 16), (0x13, 1)]

/-- The unit of a block: its kind and index. -/
def unitAt : List (Nat × Nat) → Nat → Nat × Nat
  | [], _ => (0, 0)
  | u :: r, i => if i < u.2 then (u.1, i) else unitAt r (i - u.2)

/-- Byte `o` of the cinder counters. -/
def State.cinderByte (s : State) (o : Nat) : Byte :=
  let u := unitAt unitKinds (o / 192)
  BitVec.ofNat 8 (tabGet 0 s.cinder (cinderKey u.1 u.2 (o % 192 / 2)) / 256 ^ (o % 2))

/-- Instances and bytes of the records of R447; the root table and the report queue have no layout in the manual. -/
def State.recSize (s : State) (t i : Nat) : Option Nat :=
  let has (n size : Nat) : Option Nat := if i < n then some size else none
  match t with
  | 1 => has 1 8320 | 2 => has 1 128 | 3 => has 1 96 | 4 => has 32 128
  | 5 => has 36 (if i < 32 then 288 else 256)
  | 6 => has 16 128 | 7 => has 16 128 | 8 => has 32 16 | 9 => has 16 16 | 10 => has 64 64 | 11 => has 1 144
  | 12 => has 2 (Config.openField (s.serial * 2 + i))
  | 13 => has 2 (if i = 0 then 16384 * 64 else 76992)
  | _ => none

/-- Byte `o` of a record. -/
def State.recByte (s : State) (t i o : Nat) : Byte :=
  match t with
  | 1 =>
    if o = 5 then BitVec.ofNat 8 (flagByte ((List.range 4).map fun k => s.caLen k ≠ 0)) else rdByte s.ident o
  | 2 => s.recStatus.getD o 0 | 3 => s.recTime.getD o 0 | 4 => (s.recCord i).getD o 0 | 5 => (s.recSlots i).getD o 0
  | 6 => (s.recRouting i).getD o 0 | 7 => (s.recDomain i).getD o 0 | 8 => (s.recTwin i).getD o 0 | 9 => (s.recLayout i).getD o 0
  | 10 => (s.standing.getD i []).getD o 0
  | 11 => s.recGroups.getD o 0
  | 12 => BitVec.ofNat 8 (Config.openField (s.serial + o))
  | 13 => if i = 0 then (match s.log[o / 64]? with | some e => (entryBytes e).getD (o % 64) 0 | none => 0) else s.cinderByte o
  | _ => 0

def State.recBytes (s : State) (t i o n : Nat) : List Byte := (List.range n).map fun k => s.recByte t i (o + k)

/-- CMS_READ (R446). -/
def execCmsRead (r : CmsReq) (type : Byte) (inst : BitVec 16) (off count : BitVec 32) (s : State) : Out3 :=
  .next (if ¬ s.cmsServes r then s
    else if r.bad then s.cmsReply r cmRange
    else match s.recSize type.toNat inst.toNat with
      | none => s.cmsReply r cmRange
      | some size =>
        let n := count.toNat
        if n = 0 ∨ 4096 < n ∨ size < off.toNat + n then s.cmsReply r cmRange
        else (s.cmsReply r cmOk (s.recBytes type.toNat inst.toNat off.toNat n)).fresh)

/-! ### WRITE -/

/-- A WRITE: where it begins and its bytes; the record's first bytes with them in place. -/
structure CmsWrite where
  off  : Nat
  data : List Byte
  new  : List Byte

/-- Some byte of a field is written. -/
def CmsWrite.touches (w : CmsWrite) (o n : Nat) : Bool := decide (w.off < o + n) && decide (o < w.off + w.data.length)

/-- A field's value after the write. -/
def CmsWrite.val (w : CmsWrite) (o n : Nat) : Nat := fld w.new o n

/-- A written field lies outside its range. -/
def CmsWrite.bad (w : CmsWrite) (o n : Nat) (ok : Nat → Bool) : Bool := w.touches o n && !ok (w.val o n)

/-- PARENT, ALT, TWIN and PAIR: a cord in [4:0], VALID in [7], 0 between. -/
def cordByteOk (v : Nat) : Bool := v / 32 % 4 = 0

/-- Module identity (R454). -/
def State.writeIdent (s : State) (r : CmsReq) (w : CmsWrite) : State × Nat :=
  let ca (i : Nat) : Bool :=
    let o := 0x80 + 0x800 * i
    let n := w.val o 2
    w.touches o 0x800 && (2046 < n || (0 < n && !Config.caParses ((w.new.drop (o + 2)).take n)))
  if w.touches 0 2 ∧ (List.range 16).any (fun p => (s.part p).live ∧ (s.part p).dom.st ≠ .none) then (s, cmState)
  else if w.bad 0 2 (· < 32768) ∨ w.bad 2 1 (· ≤ 3) ∨ w.bad 3 1 (· ≤ 1) ∨ w.bad 4 1 (· ≤ 1) ∨ w.bad 0x24 1 (· ≤ 32) ∨
      w.bad 0x40 1 (· ≤ 128) ∨ (List.range 4).any ca then (s, cmRange)
  else
    let rw (o : Nat) : Bool :=
      o < 5 || (0x20 ≤ o && o < 0x25) || (0x28 ≤ o && o < 0x2C) || (0x30 ≤ o && o < 0x41) || (0x50 ≤ o && o < 0x60) || 0x80 ≤ o
    let m := w.data.zipIdx.foldl (fun m b => if rw (w.off + b.2) then wrByte m (w.off + b.2) b.1 else m) s.ident
    (({ s with ident := m } : State).commit r.bank rIdent, cmOk)

/-- Time record (R357). -/
def State.writeTime (s : State) (r : CmsReq) (w : CmsWrite) : State × Nat :=
  let asym (c : Nat) : Int := (BitVec.ofNat 16 (w.val (0x10 + 2 * c) 2)).toInt
  if w.bad 0 1 (· ≤ 1) ∨ w.bad 1 1 cordByteOk ∨ w.bad 2 1 cordByteOk ∨ w.bad 4 2 (fun v => 1 ≤ v && v ≤ 1000) ∨
      w.bad 6 1 (fun v => 8 ≤ v && v ≤ 16) ∨ w.bad 8 2 (fun v => 1000 ≤ v && v ≤ 3600) ∨
      (List.range 32).any (fun c => w.touches (0x10 + 2 * c) 2 && (decide (asym c < -4096) || decide (4095 < asym c))) then (s, cmRange)
  else
    let t : TimeRec :=
      { role := w.val 0 1, parent := w.val 1 1, alt := w.val 2 1, holdLimit := w.val 4 2, mCap := w.val 6 1, powerCap := w.val 8 2
        asym := tabOf 0 32 asym }
    (({ s with timeRec := t } : State).commit r.bank rTime, cmOk)

/-- Cord record: LINK_DOWN_TIME (R305). -/
def State.writeCord (s : State) (r : CmsReq) (c : Nat) (w : CmsWrite) : State × Nat :=
  if w.bad 0x10 4 (fun v => 1 ≤ v && v ≤ 10000) then (s, cmRange)
  else if w.touches 0x10 4 then ((s.updCord c fun x => { x with downTime := w.val 0x10 4 }).commit r.bank rCords, cmOk)
  else (s, cmOk)

/-- Routing record (R330). -/
def State.writeRouting (s : State) (p : Nat) (w : CmsWrite) : State × Nat :=
  let base (v : Nat) : Bool := v % 4096 = 0 && v < 2 ^ 52 && (v = 0 || s.nearRange p v 4096)
  if ¬ (s.part p).live then (s, cmState)
  else if w.bad 4 4 (fun v => 8 ≤ v && v ≤ 10000) ∨ w.bad 8 8 base ∨ w.bad 16 8 base then (s, cmRange)
  else
    let s := s.updRouting p fun x => { x with timeout := w.val 4 4, routeBase := w.val 8 8, homeBase := w.val 16 8 }
    (if w.val 0x18 4 % 2 = 1 then s.updRouting p fun x => { x with routes := [], homes := [] } else s, cmOk)

/-- A command in a domain record (R361). -/
def State.domCmd (s : State) (p n : Nat) : State :=
  if n = 1 then s.domJoin p else if n = 2 then s.domLeave p else if n = 3 then s.domShadow p
  else if n = 4 then s.domSwap p else if n = 5 then s.domEpoch p else s

/-- Domain record (R361): outside NONE only AT, MATCH_TARGET and DIGEST_KEY are written. -/
def State.writeDomain (s : State) (p : Nat) (w : CmsWrite) : State × Nat :=
  let id (v : Nat) : Bool := v < 32768
  if ¬ (s.part p).live then (s, cmState)
  else if w.bad 6 2 id ∨ w.bad 8 1 cordByteOk ∨ w.bad 0x12 2 (fun v => 1 ≤ v && v ≤ 32768) ∨ w.bad 0x28 2 id ∨ w.bad 0x2A 1 (· < 16) ∨
      w.bad 0x2B 1 (· < 32) ∨ w.bad 0x2C 2 (1 ≤ ·) ∨ w.bad 0x5C 1 cordByteOk then (s, cmRange)
  else
    let s := s.updDom p fun d => { d with at_ := w.val 0x20 8, digestKey := w.val 0x2B 1, matchTarget := w.val 0x2C 2 }
    let s := if (s.part p).dom.st ≠ .none then s
      else s.updDom p fun d =>
        { d with
          domainId := w.val 2 2, planAs := if w.touches 6 2 then some (w.val 6 2) else d.planAs
          parent := w.val 8 1 % 32, parentValid := 128 ≤ w.val 8 1, pcl := w.val 10 1, proto := w.val 11 1, children := w.val 12 4
          expect := w.val 0x12 2, primary := w.val 0x28 2, primaryPart := w.val 0x2A 1
          pair := w.val 0x5C 1 % 32, pairValid := 128 ≤ w.val 0x5C 1 }
    let n := w.val 0x18 4 % 16
    let s := s.domCmd p n
    (s, if 1 ≤ n ∧ n ≤ 5 ∧ (s.part p).dom.error ≠ 0 then cmState else cmOk)

/-- Twin record (R374, R375). -/
def State.writeTwin (s : State) (c : Nat) (w : CmsWrite) : State × Nat :=
  if w.bad 0 1 cordByteOk ∨ w.bad 1 1 (· ≤ 3) then (s, cmRange)
  else
    let s := s.twinWrite c (w.val 0 1) (w.val 1 1) (w.val 8 8)
    (s, if (s.cord c).twinErr = 0 then cmOk else cmState)

/-- CMS_WRITE (R446): applied whole or not at all; a record type with no RW field is refused. -/
def execCmsWrite (r : CmsReq) (type : Byte) (inst : BitVec 16) (off : BitVec 32) (data : List Byte) (s : State) : Out3 :=
  .next (if ¬ s.cmsServes r then s
    else if r.bad then s.cmsReply r cmRange
    else
      let t := type.toNat
      let i := inst.toNat
      match s.recSize t i with
      | none => s.cmsReply r cmRange
      | some size =>
        let n := data.length
        if n = 0 ∨ 4096 < n ∨ size < off.toNat + n ∨ ¬ [1, 3, 4, 6, 7, 8].contains t then s.cmsReply r cmRange
        else
          let old := s.recBytes t i 0 size
          let w : CmsWrite := { off := off.toNat, data := data, new := old.take off.toNat ++ data ++ old.drop (off.toNat + n) }
          let z := match t with
            | 1 => s.writeIdent r w
            | 3 => s.writeTime r w
            | 4 => s.writeCord r i w
            | 6 => s.writeRouting i w
            | 7 => s.writeDomain i w
            | _ => s.writeTwin i w
          z.1.cmsReply r z.2)

end Sys2Proof.Machine
end

