-- ==== Sys2Proof/Machine/CmsCmd.lean ====
section
/-! DEFINITION. CMS commands on partitions, leases and the test port (R390, R406, R407, R442, R448, R449). -/

namespace Sys2Proof.Machine

/-- A command of the management service with `n` argument bytes: RANGE for a malformed message or another length (R446, R449). -/
def State.command (s : State) (r : CmsReq) (args : List Byte) (n : Nat) (f : State → State) : State :=
  if ¬ s.cmsServes r then s else if r.bad ∨ args.length ≠ n then s.cmsReply r cmRange else f s

/-- Kindling has opened the partitions. -/
def State.opened (s : State) : Bool := s.kindle.phase = 6

/-! ### CREATE, DISSOLVE, MOVE -/

/-- CREATE: STATE before OPEN, then RANGE, then BUSY (R390). -/
def execCreate (r : CmsReq) (args : List Byte) (s : State) : Out3 :=
  .next (s.command r args 8 fun s =>
    let p := fld args 0 1
    let port := fld args 1 1
    let groups := fld args 2 2
    let first := fld args 4 2
    let count := fld args 6 2
    if ¬ s.opened then s.cmsReply r cmState
    else if 15 < p ∨ 3 < port ∨ groups = 0 ∨ 4096 < first + count then s.cmsReply r cmRange
    else if s.createBusy p groups port first count then s.cmsReply r cmBusy
    else
      let s := s.createPart p (groupList groups) port first count
      let l : Layout := { valid := true, port := port, groups := groups, first := first, count := count, retort := (s.part p).retorts }
      (({ s with layout := tabSet {} s.layout p l } : State).commit r.bank rLayout).cmsReply r cmOk)

/-- DISSOLVE. -/
def execDissolve (r : CmsReq) (args : List Byte) (s : State) : Out3 :=
  .next (s.command r args 1 fun s =>
    let p := fld args 0 1
    if ¬ s.opened then s.cmsReply r cmState
    else if 15 < p ∨ ¬ (s.part p).live then s.cmsReply r cmRange
    else if (s.part p).plan.st ≠ .empty ∨ (s.part p).dom.st ≠ .none then s.cmsReply r cmState
    else ((s.dissolve p).commit r.bank rLayout).cmsReply r cmOk)

/-- R442's conditions on a partition that moves. -/
def State.mayMove (s : State) (p : Nat) : Bool :=
  let P := s.part p
  (P.plan.st = .empty || P.plan.st = .stopped) &&
  (s.chansOf p).all (fun k => (s.chan k).st = .idle && !(s.chan k).armed && (s.chan k).recs = []) &&
  P.sec.wins.all fun w => !w.2.enable

/-- A partition's function moves to another port: both are reset, and the new one takes the partition's state (R438, R442). -/
def State.movePart (s : State) (p port : Nat) : State :=
  let s := s.hostReset p
  let s := s.updPart p fun P => { P with port := port }
  let s : State := { s with layout := tabUpd {} s.layout p fun l => if l.valid then { l with port := port } else l }
  s.raiseEv p evState

/-- MOVE. -/
def execMove (r : CmsReq) (args : List Byte) (s : State) : Out3 :=
  .next (s.command r args 2 fun s =>
    let p := fld args 0 1
    let port := fld args 1 1
    if ¬ s.opened then s.cmsReply r cmState
    else if 15 < p ∨ ¬ (s.part p).live ∨ 3 < port then s.cmsReply r cmRange
    else if ¬ s.mayMove p then s.cmsReply r cmState
    else ((s.movePart p port).commit r.bank rLayout).cmsReply r cmOk)

/-! ### LEASE (R308, R310, R448) -/

/-- The CMS code of a LEASE_ACK result. -/
def leaseCode (e : Nat) : Nat :=
  if e = lrAccept then cmOk else if e = lrSlotBusy ∨ e = lrFull then cmBusy else if e = lrPart then cmState else cmRange

/-- Standing leases follow a LEASE: STANDING keeps a grant, a RELEASE of the same slots removes it. -/
def State.keepStanding (s : State) (r : CmsReq) (args : List Byte) : State :=
  let same (a : List Byte) : Bool := a.take 3 = args.take 3 && (a.drop 4).take 2 = (args.drop 4).take 2 && a.drop 16 = args.drop 16
  if fld args 3 1 = 2 then
    if s.standing.any same then
      ({ s with standing := s.standing.filter fun a => ¬ same a, stood := s.stood.filter fun a => ¬ same a } : State).commit r.bank rStanding
    else s
  else if fld args 6 1 = 1 ∧ ¬ s.standing.any same then
    ({ s with standing := s.standing ++ [args], stood := s.stood ++ [args] } : State).commit r.bank rStanding
  else s

/-- LEASE: the reply carries LEASE_ID; a lane's is open. -/
def execLease (r : CmsReq) (args : List Byte) (s : State) : Out3 :=
  .next (s.command r args 48 fun s =>
    let p := fld args 0 1
    let c := fld args 1 1
    let q := fld args 2 1
    let act := fld args 3 1
    let h := fld args 8 8
    let slots := bitmapSlots ((args.drop 16).take 32)
    if ¬ s.opened then s.cmsReply r cmState
    else if 15 < p ∨ 35 < c ∨ 15 < q ∨ act = 0 ∨ 2 < act ∨ 1 < fld args 6 1 ∨ fld args 7 1 ≠ 0 ∨ (c < 32 ∧ h ≠ 0) then s.cmsReply r cmRange
    else if ¬ (s.part p).live ∨ (c < 32 ∧ (s.cord c).st ≠ .up) then s.cmsReply r cmState
    else if fld args 6 1 = 1 ∧ act = 1 ∧ 64 ≤ s.standing.length then s.cmsReply r cmBusy
    else
      let s := s.fresh
      let id := if c < 32 then (s.cord c).leaseId else Config.openField s.serial % 2 ^ 32
      let z := if c < 32 then s.propose c (decide (act = 1)) p q (fld args 4 2) none slots
        else s.leaseLane (c - 32) p (decide (act = 1)) h slots
      if z.2 ≠ lrAccept then z.1.cmsReply r (leaseCode z.2)
      else (z.1.keepStanding r args).cmsReply r cmOk (leBytes 4 id))

/-! ### ENABLE_TEST (R406, R407) -/

/-- 16 bytes of a nonce. -/
def nonceBytes (n : Nat) : List Byte := leBytes 16 (Config.random n).toNat

/-- The serial that stands for the key under which Elvune signs debug authorizations. -/
def debugKey : Nat := 256

/-- A debug authorization that verifies with the nonce outstanding. -/
def State.authOk (s : State) (a : List Byte) : Bool :=
  fld a 0 4 = 0x47424444 && (a.drop 4).take 48 = leBytes 48 (Config.sha384 (leBytes 8 s.tap.device)).toNat &&
  (match s.tap.nonce with
   | some n => (a.drop 52).take 16 = nonceBytes n
   | none => false) &&
  fld a 68 4 < 4 && fld a 72 88 = 0 && Config.verify debugKey (a.take 160) ((a.drop 160).take 96)

/-- Steps 2 to 4 of R406: every partition stopped and fenced, memberships ended, everything zeroized, the port enabled. -/
def State.openTest (s : State) (scope : Nat) : State :=
  let live := (List.range 16).filter fun p => (s.part p).live
  let s := live.foldl (fun s p =>
    let s := (s.faultStop p).logEv { cls := cFence, kind := kPart, index := p, part := p, stopped := true, cause := 4 }
    let s := s.reportLocal p cFence s.moduleId 0 0 (List.replicate 8 0#8)
    let s := s.updDom p fun _ => { fenced := true }
    let s := s.updRouting p fun x => { x with identValid := false, identDomain := 0 }
    s.updSec p fun x => { x with slots := [], wrapPair := 0, attPair := 0 }) s
  let s := (List.range 16).foldl (fun s g => s.newTurfKey g) s
  { s with
    mem := [], tiles := [], badWords := []
    tap := { s.tap with debug := true, scope := scope, nonce := none } }

/-- ENABLE_TEST: no argument asks for a nonce. -/
def execEnableTest (r : CmsReq) (args : List Byte) (s : State) : Out3 :=
  .next (if ¬ s.cmsServes r then s
    else if r.bad then s.cmsReply r cmRange
    else if args = [] then
      let s := s.fresh
      ({ s with tap := { s.tap with nonce := some s.serial } } : State).cmsReply r cmOk (nonceBytes s.serial)
    else if args.length ≠ 256 then s.cmsReply r cmRange
    else if s.tap.production ∧ ¬ s.authOk args then s.cmsReply r cmAuth
    else (s.openTest (fld args 68 4 % 4)).cmsReply r cmOk)

/-! ### RESTART, PERSIST_NOW, HOLDUP_TEST -/

/-- RESTART (R443). -/
def execRestart (r : CmsReq) (args : List Byte) (s : State) : Out3 :=
  .next (s.command r args 0 fun s => (s.cmsReply r cmOk).restart 3)

/-- PERSIST_NOW: the cinder history is committed. -/
def execPersistNow (r : CmsReq) (args : List Byte) (s : State) : Out3 :=
  .next (s.command r args 0 fun s =>
    let s := s.seekPass r.bank
    if s.passValid then (s.persist rCinder).cmsReply r cmOk else s.cmsReply r cmHoldup)

/-- HOLDUP_TEST: refused within 10 s of the last test. -/
def execHoldupTest (r : CmsReq) (args : List Byte) (s : State) : Out3 :=
  .next (s.command r args 0 fun s =>
    if ¬ s.mayTest then s.cmsReply r cmBusy
    else
      let s := s.holdTest r.bank
      s.cmsReply r cmOk (leBytes 4 s.holdup.mj ++ leBytes 1 (if s.holdup.pass then 1 else 0)))

/-- HOLDUP_RETEST: while changes are pending, every 60 s, a test whose pass commits them (R459). -/
def execHoldupRetest (bank : BankVolt) (s : State) : Out3 :=
  .next (if ¬ s.collierUp ∨ s.unsaved = [] ∨ s.hall < s.holdup.retest + 60 * second then s
    else
      let s : State := { s with holdup := { s.holdup with retest := s.hall } }
      let s := if s.mayTest then s.holdTest bank else s
      if s.passValid then s.commitAll else s)

/-- CINDER_PERSIST: hourly, after a test; the sync parameters go with it while LOCKED or ROOT (R452, R460). -/
def execCinderPersist (bank : BankVolt) (s : State) : Out3 :=
  .next (if ¬ s.collierUp ∨ s.hall < s.holdup.hourly + 3600 * second then s
    else
      let s : State := { s with holdup := { s.holdup with hourly := s.hall } }
      let s := if s.mayTest then s.holdTest bank else s
      if ¬ s.passValid then s
      else
        let s := s.persist rCinder
        if s.time.st = .locked ∨ s.time.st = .root then s.persist rSync else s)

end Sys2Proof.Machine
end

