-- ==== Sys2Proof/Machine/FrameOps.lean ====
section
/-! DEFINITION. The frame builder's commands (R216, R217). -/

namespace Sys2Proof.Machine

/-- The shadow frame's address. -/
def State.shadowBase (s : State) (p : Nat) : Nat := (s.part p).frame.buf (s.part p).frame.shadowBuf

/-- A seal voids the slot at `a` (R216 step 1). -/
def State.sealVoids (s : State) (p a : Nat) : Bool :=
  let i := s.slotSte a
  let P := s.part p
  let b := s.pLe p (s.steAddr p i + 0x12) 2 % 4096
  let drafts := s.memLe (a + 11) 1
  !s.steMapped p i || s.steState p i ≠ steActive || s.steGen p i ≠ s.memLe (a + 2) 2 ||
  bitsOf (s.steWord p i) 4 4 = 1 || ¬ (P.btFirst ≤ b ∧ b < P.btFirst + P.btCount) ||
  15 < drafts || s.slotTokens a ≤ drafts

/-- Step 1 of a seal for one slot: BUDGET is latched, and the slot voided where R216 says. -/
def State.sealSlot (s : State) (p i : Nat) : State :=
  let a := slotAt (s.shadowBase p) i
  let ste := s.slotSte a
  let s := if s.steMapped p ste then s.updFrame p fun f =>
      { f with latched := tabSet 0 f.latched i (s.pLe p (s.steAddr p ste + 0x12) 2 % 4096) }
    else s.unmapped kAssist p p (s.steAddr p ste)
  if s.sealVoids p a then
    (s.voidSlot a).updFrame p fun f => { f with voidLast := f.voidLast + 1, voided := satInc 32 f.voided }
  else s

/-- SEAL: the slot checks of an OPEN shadow; refused and counted with no plan loaded. -/
def execSeal (core : CoreId) (s : State) : Out3 :=
  .next (s.byCore core fun p =>
    if (s.part p).plan.st = .empty then s.assistFence p
    else if (s.part p).frame.shadow ≠ .open_ then s
    else
      let s := s.updFrame p fun f => { f with shadow := .sealing, sealer := core, voidLast := 0, latched := [] }
      (s.occupied p (s.shadowBase p)).foldl (fun s i => s.sealSlot p i) s)

/-- Steps 2 and 3 of a seal. -/
def State.finishSeal (s : State) (p : Nat) : State :=
  let f := (s.part p).frame
  let base := s.shadowBase p
  let s := s.wrLe base 8 f.target
  let s := (s.wrLe (base + 8) 8 (s.frameDigest p base)).mirrorFrame p f.shadowBuf
  (s.updFrame p fun f => { f with shadow := .sealed }).raiseCore f.sealer 3

/-- SEAL_COMPLETE: nothing while no seal is in progress. -/
def execSealComplete (p : PartId) (s : State) : Out3 :=
  .next (if (s.part p).frame.shadow = .sealing then s.finishSeal p else s)

/-- UNSEAL: ignored while OPEN; an aborted seal raises SEAL_DONE at its core (R192). -/
def execUnseal (core : CoreId) (s : State) : Out3 :=
  .next (s.byCore core fun p => if (s.part p).frame.shadow = .open_ then s else s.abandonSeal p)

/-! ### Release, cancel, trim -/

/-- Void the sequence's slots in a SEALING or SEALED shadow and its mirror; a SEALED one gets a new DIGEST. -/
def State.voidShadow (s : State) (p ste : Nat) : State :=
  let f := (s.part p).frame
  if f.shadow = .open_ then s
  else
    let base := s.shadowBase p
    let hit := (s.occupied p base).filter fun i =>
      s.slotSte (slotAt base i) = ste && !s.slotVoid (slotAt base i)
    if hit = [] then s
    else
      let s := hit.foldl (fun s i =>
        let s := s.voidSlot (slotAt base i)
        let s := if f.mirror = 0 then s else s.wrMems (slotAt (f.mbuf f.shadowBuf) i) (s.memBytes (slotAt base i) 64)
        s.updFrame p fun f => { f with voided := satInc 32 f.voided }) s
      if f.shadow = .sealed then
        let s := s.wrLe (base + 8) 8 (s.frameDigest p base)
        if f.mirror = 0 then s else s.wrMems (f.mbuf f.shadowBuf + 8) (s.memBytes (base + 8) 8)
      else s

/-- Merge a command into the queue for the next boundary: CANCEL accumulates, a release overrides a trim. -/
def mergeRel (q : List RelCmd) (ste : Nat) (cancel trim : Bool) : List RelCmd :=
  if q.any fun c => c.ste = ste then
    q.map fun c => if c.ste = ste then { c with cancel := c.cancel || cancel, trim := c.trim && trim } else c
  else q ++ [⟨ste, cancel, trim⟩]

/-- A write to FB_RELEASE (R217); an index of 16,384 or more names no STE. -/
def State.releaseCmd (s : State) (core ste : Nat) (cancel trim : Bool) : State :=
  s.byCore core fun p =>
    if 16384 ≤ ste then s.coreFence core
    else if ¬ s.steMapped p ste then s.unmapped kAssist p p (s.steAddr p ste)
    else if s.steState p ste = steFree ∨ s.steState p ste = steReleasing then s.coreFence core
    else
      let s := if cancel then
          let w := s.steWord p ste
          let s := s.pWrLe p (s.steAddr p ste) 4 (if bitsOf w 4 4 = 1 then w else w + 16)
          s.pWrLe p (s.steAddr p ste + 0x38) 8 (s.part p).plan.step
        else s
      (s.voidShadow p ste).updFrame p fun f => { f with queue := mergeRel f.queue ste cancel trim }

/-- RELEASE -/
def execRelease (core : CoreId) (ste : Fin 65536) (s : State) : Out3 := .next (s.releaseCmd core ste false false)

/-- CANCEL -/
def execCancel (core : CoreId) (ste : Fin 65536) (s : State) : Out3 := .next (s.releaseCmd core ste true false)

/-- TRIM -/
def execTrim (core : CoreId) (ste : Fin 65536) (s : State) : Out3 := .next (s.releaseCmd core ste false true)

/-- A walk's act on one page table entry: REF_DEC in near memory, the banked slot returned (R217, R247). -/
def State.walkEntry (s : State) (p a : Nat) : State :=
  let size := slotSize (s.part p).alloc
  match s.pteLoc p a with
  | 1 => s.refDec p (s.pteHandle p a) true
  | 2 => s.freeTurf p [slotIndex (s.part p).bank.turfBase size (s.pteTarget p a)]
  | 3 =>
    let k := slotIndex (s.part p).bank.farBase size (s.pteTarget p a)
    s.updBank p fun b => { b with farUsed := b.farUsed.filter fun x => x ≠ k }
  | _ => s

/-- RELEASE_WALK_END: the first walk of the partition ends. -/
def execReleaseWalkEnd (p : PartId) (s : State) : Out3 :=
  .next (match (s.part p).frame.walks with
    | [] => s
    | i :: rest =>
      let s := s.unmappedAll kAssist p p (s.tableGaps p (s.stePdir p i) (s.tableSize p i))
      let s := (s.pteAddrs p i).foldl (fun s a => s.walkEntry p a) s
      let s := (s.steToFree p i).updBank p fun b => { b with order := b.order.filter fun x => x ≠ i }
      (s.updFrame p fun f => { f with walks := rest }).raiseCores p 4)

end Sys2Proof.Machine
end

