-- ==== Sys2Proof/Machine/Update.lean ====
section
/-! DEFINITION. Staging, activation and trial of firmware (R468 to R470). -/

namespace Sys2Proof.Machine

/-- The bank that is not the pointer's ACTIVE. -/
def State.idleBank (s : State) : Bool := !s.flash.pointer.active

def slotKey (bank : Bool) (t : Nat) : Nat := (if bank then 8 else 0) + t

def State.setStage (s : State) (n : Nat) : State := { s with update := { s.update with stage := n } }

/-- A commit made now is backed by a valid pass; HOLDUP refuses otherwise (R459). -/
def State.withPass (s : State) (r : CmsReq) (f : State → State) : State :=
  let s := s.seekPass r.bank
  if s.passValid then (f s).cmsReply r cmOk else s.cmsReply r cmHoldup

/-- STAGE_BEGIN erases the image area of the inactive bank. -/
def execStageBegin (r : CmsReq) (args : List Byte) (s : State) : Out3 :=
  .next (s.command r args 0 fun s =>
    if s.flash.pointer.trial then s.cmsReply r cmTrial
    else if s.update.activation = 1 then s.cmsReply r cmState
    else s.withPass r fun s =>
      let b := s.idleBank
      ({ s with images := s.images.filter fun e => ¬ (slotKey b 0 ≤ e.1 ∧ e.1 < slotKey b 8) } : State).setStage 1)

/-- A reply with a detail code (R446). -/
def State.cmsDetail (s : State) (r : CmsReq) (code detail : Nat) : State := s.send (.cms r.num.toNat code detail [])

/-- STAGE_WRITE: the header first and in one write, checked before any body byte is accepted. -/
def execStageWrite (r : CmsReq) (args : List Byte) (s : State) : Out3 :=
  .next (if ¬ s.cmsServes r then s
    else
      let t := fld args 0 1
      let off := fld args 4 4
      let data := args.drop 8
      let x := s.slotOf s.idleBank t
      if r.bad ∨ args.length < 9 ∨ 4104 < args.length ∨ fld args 1 3 ≠ 0 ∨ t = 0 ∨ 5 < t then s.cmsReply r cmRange
      else if s.update.stage ≠ 1 ∨ (x.hdr = [] ∧ ¬ (off = 0 ∧ 256 ≤ data.length)) ∨ (x.hdr ≠ [] ∧ off < 256) then s.cmsReply r cmState
      else
        let hdr := if x.hdr = [] then data.take 256 else x.hdr
        let detail := if x.hdr = [] then s.hdrDetail t hdr else 0
        let at_ := if x.hdr = [] then 0 else off - 256
        let body := if x.hdr = [] then data.drop 256 else data
        if detail = 9 then s.cmsDetail r cmSignature 9
        else if detail ≠ 0 then s.cmsDetail r cmHeader detail
        else if fld hdr 8 4 < at_ + body.length then s.cmsReply r cmRange
        else s.withPass r fun s =>
          let y : ImgSlot := { hdr := hdr, body := wrBytes x.body at_ body, got := if body = [] then x.got else x.got ++ [(at_, body.length)] }
          { s with images := tabSet {} s.images (slotKey s.idleBank t) y })

/-- STAGE_COPY. -/
def execStageCopy (r : CmsReq) (args : List Byte) (s : State) : Out3 :=
  .next (s.command r args 1 fun s =>
    let t := fld args 0 1
    if t = 0 ∨ 5 < t then s.cmsReply r cmRange
    else if s.update.stage ≠ 1 then s.cmsReply r cmState
    else s.withPass r fun s => { s with images := tabSet {} s.images (slotKey s.idleBank t) (s.slotOf (!s.idleBank) t) })

/-- STAGE_END: five complete images, their digests, the DATA_VERSION. -/
def execStageEnd (r : CmsReq) (args : List Byte) (s : State) : Out3 :=
  .next (s.command r args 0 fun s =>
    let slots := [1, 2, 3, 4, 5].map fun t => s.slotOf s.idleBank t
    let v := fld (s.slotOf s.idleBank 1).hdr 0x14 2
    let old := s.flash.pointer.dataVer
    if s.update.stage ≠ 1 ∨ ¬ slots.all (·.whole) then s.cmsReply r cmState
    else if ¬ slots.all (·.digestOk) then s.cmsReply r cmDigest
    else if v ≠ old ∧ v ≠ old + 1 then s.cmsReply r cmDataVersion
    else s.withPass r fun s => s.setStage 2)

/-- ACTIVATE: the conditions of R469 in its order. -/
def execActivate (r : CmsReq) (args : List Byte) (s : State) : Out3 :=
  .next (s.command r args 8 fun s =>
    let h := fld args 0 8
    if s.update.stage ≠ 2 then s.cmsReply r cmState
    else if s.flash.pointer.trial then s.cmsReply r cmTrial
    else if s.update.activation = 1 ∨ (List.range 16).any (fun p => (s.part p).live ∧ (s.part p).dom.st ≠ .none) then s.cmsReply r cmState
    else if h < s.hall + second ∨ s.hall + 1000 * second < h then s.cmsReply r cmRange
    else s.withPass r fun s => { s with update := { s.update with activation := 1, at_ := h } })

def State.setActivation (s : State) (n : Nat) : State := { s with update := { s.update with activation := n } }

/-- CANCEL_ACTIVATE, until H − 250,000,000. -/
def execCancelActivate (r : CmsReq) (args : List Byte) (s : State) : Out3 :=
  .next (s.command r args 0 fun s =>
    if s.update.activation ≠ 1 ∨ s.update.at_ < s.hall + 250000000 then s.cmsReply r cmState
    else (s.setActivation 3).cmsReply r cmOk)

/-- ACTIVATION_RETEST: a failed test cancels, and the cause is logged. -/
def execActivationRetest (bank : BankVolt) (s : State) : Out3 :=
  .next (if s.update.activation ≠ 1 ∨ s.hall + 250000000 < s.update.at_ then s
    else
      let s := s.holdTest bank
      if s.passValid then s else (s.setActivation 2).logOpen)

/-- ACTIVATION at H: the pointer becomes TRIAL on the staged bank, and module reset follows. Without a valid pass the
commit is refused and the activation cancelled. -/
def execActivation (s : State) : Out3 :=
  .next (if s.update.activation ≠ 1 ∨ s.hall < s.update.at_ then s
    else if ¬ s.passValid then s.setActivation 2
    else
      let s := s.stopAll
      let s := s.setPointer fun p =>
        { p with active := !p.active, prev := p.active, trial := true, boots := 0, reverted := false, actHall := s.update.at_ }
      let s : State := { s with update := { s.update with window := s.hall + 600 * second } }
      s.startOver 4 true)

/-- CONFIRM. -/
def execConfirm (r : CmsReq) (args : List Byte) (s : State) : Out3 :=
  .next (s.command r args 0 fun s =>
    if ¬ s.flash.pointer.trial then s.cmsReply r cmState
    else ({ s with update := { s.update with confirm := true } } : State).cmsReply r cmOk)

/-- HEALTH_CONFIRM: OPEN with every image of the bank verified, and a CONFIRM where AUTO_CONFIRM is 0. -/
def execHealthConfirm (bank : BankVolt) (s : State) : Out3 :=
  .next (if ¬ (s.flash.pointer.trial ∧ s.inPhase 6 ∧ [1, 2, 3, 4, 5].all (fun t => s.imgOk t (s.runImage t)) ∧
        (rdLe s.ident 4 1 = 1 ∨ s.update.confirm)) then s
    else
      let s := s.seekPass bank
      if ¬ s.passValid then s
      else
        let v := fld s.runHdr 0x14 2
        let s := s.setPointer fun p => { p with trial := false, dataVer := v }
        { s with update := { s.update with window := 0, confirm := false } })

/-- TRIAL_TIMEOUT: 600 s without HEALTH_CONFIRM. -/
def execTrialTimeout (s : State) : Out3 :=
  .next (if s.power.aux ∧ s.flash.pointer.trial ∧ s.update.window ≤ s.hall then s.revert else s)

end Sys2Proof.Machine
end

