-- ==== Sys2Proof/Machine/SelfTest.lean ====
section
/-! DEFINITION. Run-time tests, fusing, cinder clears and coalescing windows (R474 to R476, R479, R481). -/

namespace Sys2Proof.Machine

/-! ### Run-time tests (R475, R476) -/

/-- Targets of SELFTEST. -/
def tgMemory : Nat := 1
def tgTiles : Nat := 2
def tgCord : Nat := 3
def tgCalibrate : Nat := 4

/-- An index that a target does not have. -/
def badTarget (t i : Nat) : Bool :=
  t = 0 || decide (4 < t) || decide ((if t = tgCord then 32 else if t = tgCalibrate then 2 else 16) ≤ i)

/-- A cord that carries leased slots, a sync reference or a domain's tree. -/
def State.cordInUse (s : State) (c : Nat) : Bool :=
  ((s.cord c).st = .up && (s.cord c).slots.any fun e => e.2 % 32 ≠ ownModule) ||
  cordOf s.time.parent = some c || cordOf s.time.altRec = some c ||
  (List.range 16).any fun p => (s.part p).live && (s.part p).dom.st ≠ .none && (treeCords (s.part p).dom).contains c

/-- A unit that the test touches is in use. -/
def State.testBusy (s : State) (t i : Nat) : Bool :=
  s.test.st = 1 ||
  if t = tgCord then s.cordInUse i
  else if t = tgCalibrate then (List.range 8).any fun k => (s.group (8 * i + k)).st = .assigned || (s.group (8 * i + k)).st = .scrubbing
  else (s.group i).st ≠ .free

/-- A cord is taken DOWN with reason ADMIN. -/
def State.takeDown (s : State) (c : Nat) : State :=
  if (s.cord c).active then s.cordDown c drAdmin else s.stayDown c drAdmin

/-- SELFTEST: STATE, RANGE, BUSY. -/
def execSelftest (r : CmsReq) (args : List Byte) (s : State) : Out3 :=
  .next (s.command r args 2 fun s =>
    let t := fld args 0 1
    let i := fld args 1 1
    if ¬ s.opened then s.cmsReply r cmState
    else if badTarget t i then s.cmsReply r cmRange
    else if s.testBusy t i then s.cmsReply r cmBusy
    else
      let s : State := { s with test := { target := t, index := i, st := 1 } }
      (if t = tgCord then s.takeDown i else if t = tgCalibrate then s else s.startScrub i).cmsReply r cmOk)

/-- A run-time test ends with a TEST_STATE of R477. -/
def State.endTest (s : State) (st added : Nat) : State := { s with test := { s.test with st := st, added := added, hall := s.hall } }

/-- Soft repairs a MEMORY test added are held for the group and committed (R473). -/
def State.addRepairs (s : State) (g sram stack : Nat) (bank : BankVolt) : State :=
  if sram + stack = 0 then s
  else (s.updGroup g fun x => { x with repSram := x.repSram + sram, repStack := x.repStack + stack }).commit bank rRepair

/-- A group found beyond repair (R476). -/
def State.withhold (s : State) (g reason : Nat) : State := s.updGroup g fun x => { x with st := .withheld, reason := reason }

/-- SELFTEST_DONE: the running test ends with what it found; a finding of another target's test is none of it. A MEMORY test
has scrubbed its group and adds soft repairs, `sram` and `stack` of them; a TILES test leaves the scrub to come; a CORD test
retires the wavelengths that failed, `waves`, each with whether it is an ingress one, and retrains. -/
def execSelftestDone (found : TestResult) (sram stack : Nat) (waves : List (Bool × Fin 9)) (bank : BankVolt) (s : State) : Out3 :=
  let i := s.test.index
  .next (if s.test.st ≠ 1 then s
    else match found with
      | .memory fail =>
        if s.test.target ≠ tgMemory then s
        else
          let s := s.endTest (if fail.isSome then 4 else if 0 < sram + stack then 3 else 2) (sram + stack)
          let s := s.addRepairs i sram stack bank
          match fail with
          | some r => s.withhold i r.code
          | none => (s.eraseGroup i).updGroup i fun g => { g with st := .free }
      | .tiles router =>
        if s.test.target ≠ tgTiles then s
        else match router with
          | none => s.endTest 2 0
          | some r => (s.endTest 4 0).withhold i (if r then 2 else 1)
      | .cord =>
        if s.test.target ≠ tgCord then s
        else
          let s := (s.endTest (if waves = [] then 2 else 4) 0).updCord i fun c =>
            { c with retIn := (c.retIn ++ (waves.filter (·.1)).map fun w => w.2.val).dedup
                     retEg := (c.retEg ++ (waves.filter fun w => ¬ w.1).map fun w => w.2.val).dedup }
          if s.power.lasers.contains (i / 8) ∨ s.power.opticsBad.contains (i / 8) then s else s.startTraining i
      | .calibrate => if s.test.target ≠ tgCalibrate then s else (s.endTest 2 0).commit bank rCalib)

/-! ### FUSE_REPAIR (R474) -/

/-- The SRAM repairs do not fit into the die's pool of 256 entries. -/
def State.poolFull (s : State) (g : Nat) : Bool := decide (256 < tabGet 0 s.fuses (g / 8) + (s.group g).repSram)

/-- FUSE_REPAIR: `stackFull` is whether a stack's own fuses cannot hold the group's repairs. -/
def execFuseRepair (r : CmsReq) (args : List Byte) (stackFull : Bool) (s : State) : Out3 :=
  .next (s.command r args 1 fun s =>
    let g := fld args 0 1
    let x := s.group g
    if ¬ s.opened then s.cmsReply r cmState
    else if 15 < g then s.cmsReply r cmRange
    else if x.st = .assigned ∨ x.st = .scrubbing ∨ s.testHolds g then s.cmsReply r cmBusy
    else if x.repSram + x.repStack = 0 ∨ s.poolFull g ∨ (0 < x.repStack ∧ stackFull) then s.cmsReply r cmRange
    else s.withPass r fun s =>
      let t : State := { s with fuses := tabUpd 0 s.fuses (g / 8) (· + x.repSram) }
      (t.updGroup g fun y => { y with repSram := 0, repStack := 0 }).persist rRepair)

/-! ### CINDER_CLEAR (R479) -/

/-- CINDER_CLEAR of one unit, or of every one. -/
def execCinderClear (r : CmsReq) (args : List Byte) (s : State) : Out3 :=
  .next (s.command r args 2 fun s =>
    let k := fld args 0 1
    let i := fld args 1 1
    if ¬ s.opened then s.cmsReply r cmState
    else if k ≠ 0xFF ∧ ¬ (unitKinds.any fun u => u.1 = k ∧ i < u.2) then s.cmsReply r cmRange
    else s.withPass r fun s =>
      ({ s with cinder := if k = 0xFF then [] else s.cinder.filter fun e => e.1 / 128 ≠ k * 256 + i } : State).persist rCinder)

/-! ### Coalescing windows (R481) -/

/-- COALESCE_CLOSE: every window open for 1 s is written. -/
def execCoalesceClose (s : State) : Out3 :=
  let due (c : Coalesce) : Bool := decide (c.entry.hall + second ≤ s.hall)
  let t : State := { s with coalesce := s.coalesce.filter fun c => ¬ due c }
  .next ((s.coalesce.filter due).foldl (fun s c => s.logPut c.close []) t)

end Sys2Proof.Machine
end

