-- ==== Sys2Proof/Machine/PowerEv.lean ====
section
/-! DEFINITION. Supplies, rails, temperatures and sensors (19), and the faults of a die (R366). -/

namespace Sys2Proof.Machine

def cThermalTrip : Nat := 0x39
def cInputPower : Nat := 0x3A

/-! ### The input (R485, R487) -/

/-- The sensor code of a cause: 0 undervoltage, 1 overvoltage, 2 overcurrent, 3 aux, 4 MATED. -/
def inputCode (c : Fin 5) : Nat := [0x01, 0x01, 0x02, 0x04, 0x0E].getD c 0

/-- Steps 2 to 4: every partition stops; the cinder history and what is pending are committed from the bank if a test
has passed within 3,700 s (R460). -/
def State.loseInput (s : State) (c : Fin 5) : State :=
  let detail := leBytes 4 (s.sensor (inputCode c) % 2 ^ 32).toNat ++ leBytes 1 s.time.mLocal
  let s := s.logEv { cls := cInputPower, kind := kModule, index := 0, stopped := true, cause := inputCode c, detail := detail }
  let s := s.stopAll
  match s.holdup.last with
  | some h => if s.hall ≤ h + 3700 * second then (s.persist rCinder).commitAll else { s with power := { s.power with gap := true } }
  | none => { s with power := { s.power with gap := true } }

/-- What trips is a fault: an overvoltage or overcurrent at any time, the loss of aux while 54 V is present, an undervoltage
or an opening of MATED from the start of the limiter's ramp, before which it only restarts the debounce (R485, R487). -/
def State.inputFaults (s : State) (c : Fin 5) : Bool :=
  s.power.aux && !s.power.fault && (c = 1 || c = 2 || if c = 3 then s.v54 else s.power.ramp.isSome)

/-- Aux is lost where that is no fault: the Collier stops, as it runs from aux alone (R443). Without 54 V the bank bleeds. -/
def State.auxOff (s : State) : State :=
  let s := if s.power.ramp.isNone then s.bleedFrom else s
  ({ s with power := { s.power with aux := false } } : State).startOver 0 false

/-- INPUT_POWER: at the end of a fault the module is held in reset. -/
def execInputPower (c : Fin 5) (s : State) : Out3 :=
  .next (if ¬ s.inputFaults c then (if c = 3 ∧ s.power.aux then s.auxOff else s)
    else
      let s := s.loseInput c
      ({ s with power := { s.power with aux := c ≠ 3, ramp := none, fault := true } } : State).startOver 0 false)

/-- INPUT_POWER_RECOVERY: both inputs in range for 100 ms; a trial window runs anew after a loss of aux (R470). -/
def execInputPowerRecovery (s : State) : Out3 :=
  .next (if ¬ s.power.fault then s
    else
      let s : State := if s.power.aux then s else { s with update := { s.update with window := s.hall + 600 * second } }
      let s := s.bleedEnd
      ({ s with power := { s.power with aux := true, fault := false } } : State).startOver 0 false)

/-- INRUSH_RAMP: the limiter begins its ramp, and the bank its charge; once the ramp has ended 54 V is present. -/
def execInrushRamp (s : State) : Out3 :=
  .next (if s.power.fault ∨ s.power.ramp.isSome then s
    else ({ s with power := { s.power with ramp := some s.hall } } : State).chargeBank)

/-! ### Faults of a die (R366, R491, R493) -/

/-- Partitions with a group on a die. -/
def State.dieParts (s : State) (d : Nat) : List Nat :=
  (List.range 16).filter fun p => (s.part p).live && (s.groupsOf p).any fun g => g / 8 = d

/-- Every partition with a group on the die stops and is fenced; the event is logged and reported. -/
def State.dieFault (s : State) (d : Nat) (e : LogEntry) : State :=
  let ps := s.dieParts d
  let s := ps.foldl (fun s p => s.faultStop p) s
  let s := s.logEv { e with stopped := ps ≠ [] } ps
  ps.foldl (fun s p => s.reportLocal p e.cls s.moduleId 0 0 (padTo 8 e.detail)) s

/-- Rail groups 2 to 4 and 8 of a die turn off: its cores stop and its host ports lose their links. -/
def State.dieRailsOff (s : State) (d : Nat) : State :=
  let s : State := { s with power := { s.power with dieOff := s.power.dieOff ++ [d] } }
  let s := (List.range 32).foldl (fun s i => s.updCore (32 * d + i) fun x => { x with run := .held }) s
  (s.portReset (2 * d)).portReset (2 * d + 1)

/-- REGULATOR_LIMIT of a die's rail group `rail`: 2 to 4 or 8. -/
def execRegulatorLimit (d : DieId) (rail : DieRail) (s : State) : Out3 :=
    let code := 0x40 + rail.num
    let detail := leBytes 4 (s.sensor code % 2 ^ 32).toNat ++ leBytes 1 s.time.mLocal
    .next (if s.railsUp d then
        (s.dieFault d { cls := cInputPower, kind := kModule, index := 0, cause := code, detail := detail }).dieRailsOff d
      else s)

/-- SHARED_CLOCK_LOSS: the manual names no class of its own for it; the partitions are fenced (0x48, cause 2). -/
def execSharedClockLoss (d : DieId) (s : State) : Out3 :=
  .next (if s.railsUp d ∧ s.dieParts d ≠ [] then s.dieFault d { cls := cFence, kind := kModule, index := 0, cause := 2 } else s)

/-- A sensor that can trip: its code of R495, its threshold in 1/100 °C, its unit kind and index, and its die. -/
def tripOf : TripSensor → Nat × Int × Nat × Nat × Nat
  | .junction d => (0x10 + d, 11000, kModule, 0, d)
  | .near g => (0x20 + g, 9500, kNear, g, g / 8)
  | .turf k => (0x30 + k, 9500, kTurf, k, k / 4)
  | .optic k => (0x38 + k, 9000, kOptic, k, 0)

/-- An engine's lasers turn off and its 8 cords go DOWN. -/
def State.lasersOff (s : State) (k : Nat) : State :=
  let s : State := { s with power := { s.power with lasers := s.power.lasers ++ [k] } }
  (List.range 8).foldl (fun s i => s.takeDown (8 * k + i)) s

/-- THERMAL_TRIP of a sensor whose last reading is at its threshold or above. -/
def execThermalTrip (sensor : TripSensor) (s : State) : Out3 :=
  match tripOf sensor with
  | (code, limit, kind, index, d) =>
    let detail := leBytes 4 (s.sensor code % 2 ^ 32).toNat ++ leBytes 1 s.time.mLocal
    let e : LogEntry := { cls := cThermalTrip, kind := kind, index := index, cause := code, detail := detail }
    .next (if s.power.rails ≠ 8 ∨ s.sensor code < limit then s
      else if kind = kOptic then (if s.power.lasers.contains index then s else (s.logEv e).lasersOff index)
      else if s.power.dieOff.contains d then s
      else (s.dieFault d e).dieRailsOff d)

/-! ### Sensors (R495) -/

/-- A code of R495. -/
def sensorCode (c : Nat) : Bool :=
  [0x01, 0x02, 0x03, 0x04, 0x05, 0x08, 0x09, 0x0E, 0x10, 0x11].contains c || decide (0x20 ≤ c ∧ c < 0x3C) || decide (0x41 ≤ c ∧ c ≤ 0x48)

/-- SENSOR_READ: temperatures in 1/100 °C, voltages and rail deviations in mV, current in mA, power in mW. A
reading under another code is of no sensor and is not kept. -/
def execSensorRead (readings : List (Byte × Int)) (s : State) : Out3 :=
  .next (if s.collierUp then { s with sensors := (readings.filter fun r => sensorCode r.1.toNat).foldl (fun t r => tabSet 0 t r.1.toNat r.2) s.sensors } else s)

end Sys2Proof.Machine
end

