-- ==== Sys2Proof/Machine/Prefix.lean ====
section
/-! DEFINITION. The prefix hash unit (R229 to R242). -/

namespace Sys2Proof.Machine

def State.updPhu (s : State) (p : Nat) (f : PrefixUnit → PrefixUnit) : State := s.updPart p fun P => { P with phu := f P.phu }
def State.updPh (s : State) (c : Nat) (f : PhRegs → PhRegs) : State := s.updCore c fun x => { x with ph := f x.ph }

/-! ### Result codes (R242) -/

def phOk : Nat := 0
def phSgState : Nat := 1
def phSteState : Nat := 2
def phNoPt : Nat := 3
def phNoParent : Nat := 4
def phExists : Nat := 5
def phFull : Nat := 6
def phBusy : Nat := 7
def phHandle : Nat := 8
def phRange : Nat := 9
def phCommit : Nat := 10
def phSaturated : Nat := 11
def phDisabled : Nat := 12
def phPageState : Nat := 13

/-- PH_STATUS.CODE of a core. -/
def State.phEnd (s : State) (c code : Nat) : State := s.updPh c fun x => { x with code := code }

/-! ### Share groups and keys (R229 to R232) -/

def State.sgAddr (s : State) (p i : Nat) : Nat := (s.part p).phu.sgBase + 64 * i

/-- The prefix key of a share group: cached, else derived and cached (R230). -/
def State.phKey (s : State) (p i : Nat) : State × BitVec 256 :=
  match (s.part p).phu.keys.find? fun e => e.1 = i with
  | some e => (s, e.2)
  | none =>
    let a := s.sgAddr p i
    let m := leBytes 32 (s.keySlot p 1).key.toNat ++ s.memBytes (a + 0x10) 16 ++ s.memBytes (a + 2) 2 ++
      s.memBytes (a + 4) 1 ++ s.memBytes (a + 8) 3 ++ s.memBytes (a + 5) 1
    -- the context string "Elvune TM-16 prefix v1"
    let k := Config.blake3Derive ("Elvune TM-16 prefix v1".toList.map fun c => BitVec.ofNat 8 c.toNat) m
    (s.updPhu p fun u => { u with keys := u.keys ++ [(i, k)] }, k)

/-- H_j from H_{j − 1} and the tokens of the block (R231). -/
def chainOf (k : BitVec 256) (prev : Nat) (tokens : List Byte) : Nat :=
  (Config.blake3Keyed k (leBytes 16 prev ++ tokens)).toNat % 2 ^ 128

/-- The handle key of a client handle (R232). -/
def handleKey (k : BitVec 256) (h : Nat) : Nat :=
  (Config.blake3Keyed k (leBytes 1 0x48 ++ leBytes 8 h)).toNat % 2 ^ 128

/-! ### Directory entries (R233, R234) -/

def noEntry : Nat := 0xFFFFFFFF

def State.dirAt (s : State) (p d : Nat) : Nat := (s.part p).phu.base + 64 * d
def State.deKey (s : State) (p a : Nat) : Nat := s.pLe p a 16
def State.deSg (s : State) (p a : Nat) : Nat := s.pLe p (a + 0x10) 2
def State.deWord (s : State) (p a : Nat) : Nat := s.pLe p (a + 0x14) 4
def State.deBlock (s : State) (p a : Nat) : Nat := s.deWord p a % 2 ^ 24
def State.deKind (s : State) (p a : Nat) : Nat := bitsOf (s.deWord p a) 24 24
def State.deValid (s : State) (p a : Nat) : Bool := bitsOf (s.deWord p a) 26 25 = 1
def State.dePrev (s : State) (p a : Nat) : Nat := s.pLe p (a + 0x18) 4
def State.deChildren (s : State) (p a : Nat) : Nat := s.pLe p (a + 0x1C) 2
def State.deLayers (s : State) (p a : Nat) : Nat :=
  let l := s.pLe p (a + 0x1E) 1
  if l = 0 then 256 else l
def State.deList (s : State) (p a : Nat) : Nat := s.pLe p (a + 0x20) 8
def State.dePins (s : State) (p a : Nat) : Nat := s.pLe p (a + 0x34) 4

/-- Directory indices of the bucket of a key. -/
def State.bucket (s : State) (p key : Nat) : List Nat :=
  (List.range 4).map fun w => 4 * (key % 2 ^ (s.part p).phu.bits) + w

/-- The candidates of R237 step 2: VALID block entries of a key, share group and block, by way. -/
def State.candidates (s : State) (p sg key j : Nat) : List Nat :=
  (s.bucket p key).filter fun d =>
    let a := s.dirAt p d
    s.deValid p a && s.deKind p a = 0 && s.deKey p a = key && s.deSg p a = sg && s.deBlock p a = j

/-- The VALID handle entry of a share group and handle, in its key's bucket. -/
def State.findHandle (s : State) (p sg key h : Nat) : Option Nat :=
  (s.bucket p key).find? fun d =>
    let a := s.dirAt p d
    s.deValid p a && s.deKind p a = 1 && s.deSg p a = sg && s.deList p a = h

/-- A way of the bucket that is not VALID. -/
def State.freeWay (s : State) (p key : Nat) : Option Nat := (s.bucket p key).find? fun d => !s.deValid p (s.dirAt p d)

/-- Page handle of layer `l` of a block entry. -/
def State.deHandle (s : State) (p a l : Nat) : Nat := s.pLe p (s.deList p a + 4 * l) 4

/-- Addresses of a page and of its header (R209). -/
def State.pageAddr (s : State) (p h : Nat) : Nat :=
  let a := (s.part p).alloc
  (a.pool (h / 2 ^ 22)).base + h % 2 ^ 22 * a.size
def State.hdrAddr (s : State) (p h : Nat) : Nat := ((s.part p).alloc.pool (h / 2 ^ 22)).hdr + 512 * (h % 2 ^ 22)

/-- The header checks of R237 step 3 on the layer-0 page of a block entry, the token IDs apart. -/
def State.headerOk (s : State) (p sg a j : Nat) : Bool :=
  let h := s.hdrAddr p (s.deHandle p a 0)
  let g := s.sgAddr p sg
  s.handleOk p (s.deHandle p a 0) &&
  s.memLe h 3 = j && s.memLe (h + 3) 1 = 0 && s.memLe (h + 4) 1 = s.memLe (g + 4) 1 &&
  s.memLe (h + 5) 1 = s.memLe (g + 5) 1 && s.memLe (h + 8) 3 = s.memLe (g + 8) 3 && s.memLe (h + 0x0C) 4 = sg

/-- Confirmation of a candidate (R237 step 3). -/
def State.confirm (s : State) (p sg d j : Nat) (tokens : List Byte) (prev : Nat) : Bool :=
  let a := s.dirAt p d
  s.headerOk p sg a j && s.memBytes (s.hdrAddr p (s.deHandle p a 0) + 0x40) 256 = tokens &&
  (j = 0 || s.dePrev p a = prev)

/-- The candidates in order of way until one confirms: that one, and how many failed before it (R237 steps 2 to 5). -/
def State.firstGood (s : State) (p sg key j : Nat) (tokens : List Byte) (prev : Nat) : Option Nat × Nat :=
  let cs := s.candidates p sg key j
  let bad := cs.takeWhile fun d => !s.confirm p sg d j tokens prev
  ((cs.drop bad.length).head?, bad.length)

/-- PH_CONFIRM_FAIL counts `n` candidates that failed, saturating. -/
def State.confirmFails (s : State) (p n : Nat) : State :=
  s.updPhu p fun u => { u with confirmFail := min (2 ^ 32 - 1) (u.confirmFail + n) }

/-! ### Lookup (R236 to R238) -/

/-- Handles of the pages of a block entry. -/
def State.dePages (s : State) (p a nl : Nat) : List Nat := (List.range nl).map fun l => s.deHandle p a l

/-- Some page of a block entry is at the limit of its count (R241). -/
def State.blockFull (s : State) (p a nl : Nat) : Bool :=
  (s.dePages p a nl).any fun h => 65535 ≤ ((s.part p).alloc.page h).refs

/-- REF_INC of a page (R210): nothing for a page that has no count. -/
def State.refInc (s : State) (p h : Nat) : State :=
  let x := (s.part p).alloc.page h
  if ¬ s.handleOk p h ∨ x.st = .free ∨ x.st = .releasing then s else s.setPage p h { x with refs := x.refs + 1 }

/-- Map a hit block into the page table of a sequence (R237 step 4). -/
def State.mapBlock (s : State) (p ste a j : Nat) : State :=
  let nl := s.steLayers p ste
  let pdir := s.stePdir p ste
  let s := (List.range nl).foldl (fun s l =>
    let h := s.deHandle p a l
    let s := s.refInc p h
    match s.pteAddr p pdir (j * nl + l) with
    | some e => s.wrPte p e 1 1 h (s.pageAddr p h)
    | none => s) s
  (s.pWrLe p (a + 0x30) 4 (satInc 32 (s.pLe p (a + 0x30) 4))).pWrLe p (a + 0x28) 8 s.hall

/-- Where a lookup stands: blocks mapped, the chain value and entry of the last one, its result. -/
structure Look where
  hit   : Nat := 0
  chain : Nat := 0
  entry : Nat := noEntry
  code  : Nat := phOk

/-- The block-by-block part of a lookup: `n` blocks from block `j`, whose tokens start at `tok`. -/
def State.lookBlocks (s : State) (p sg ste : Nat) (k : BitVec 256) : Nat → Nat → Nat → Look → State × Look
  | 0, _, _, r => (s, r)
  | n + 1, j, tok, r =>
    if ¬ s.anyRange p tok 256 then (s.unmapped kAssist p p tok, { r with code := phRange })
    else
      let t := s.pBytes p tok 256
      let key := chainOf k r.chain t
      let c := s.firstGood p sg key j t r.entry
      let s := s.confirmFails p c.2
      match c.1 with
      | none => (s, r)
      | some d =>
        let a := s.dirAt p d
        if s.blockFull p a (s.steLayers p ste) then (s, { r with code := phSaturated })
        else (s.mapBlock p ste a j).lookBlocks p sg ste k n (j + 1) (tok + 256) { r with hit := j + 1, chain := key, entry := d }

/-- The entries of a handle's chain by walking PREV from directory index `d`, block `j` down to 0: head first.
None when an entry does not match, or a header below block `n`, where the mapping starts. -/
def State.walkChain (s : State) (p sg n : Nat) : Nat → Nat → Option (List Nat)
  | j, d =>
    let a := s.dirAt p d
    if d < 4 * 2 ^ (s.part p).phu.bits ∧ s.deValid p a ∧ s.deKind p a = 0 ∧ s.deSg p a = sg ∧ s.deBlock p a = j ∧ (n ≤ j ∨ s.headerOk p sg a j) then
      match j with
      | 0 => some [d]
      | i + 1 => (s.walkChain p sg n i (s.dePrev p a)).map fun l => d :: l
    else none

/-- SHARED_LEN, COMMITTED, TENTATIVE and CHAIN after a lookup of `h` blocks, and the core's registers. -/
def State.lookEnd (s : State) (c p ste : Nat) (r : Look) : State :=
  let a := s.steAddr p ste
  let put (s : State) (o : Nat) : State := s.pWrLe p (a + o) 4 (s.pLe p (a + o) 4 / 2 ^ 24 * 2 ^ 24 + 64 * r.hit % 2 ^ 24)
  let s := (put (put (put s 0x04) 0x08) 0x0C).pWrLe p (a + 0x40) 16 r.chain
  s.updPh c fun x => { x with
    code := r.code, hit := r.hit, existing := 0, entry := r.entry, chain := BitVec.ofNat 128 r.chain }

/-- The refusals of R236: the code of the first case that holds. -/
def State.lookRefuse (s : State) (p sg ste n : Nat) : Nat :=
  let g := s.sgAddr p sg
  let a := s.steAddr p ste
  let need := n * s.steLayers p ste
  if (s.part p).phu.sgCount ≤ sg then phSgState
  else if s.memLe g 1 ≠ 1 ∨ s.memLe (g + 2) 2 ≠ s.pLe p (a + 0x10) 2 then phSgState
  else if s.pLe p (a + 0x14) 4 ≠ sg then phSgState
  else if s.steState p ste ≠ steAdmitted ∨ s.steCommitted p ste ≠ 0 then phSteState
  else if need ≠ 0 ∧ (s.steRootBlocks p ste * 512 ≤ (need - 1) / 256 ∨
      (List.range ((need - 1) / 256 + 1)).any fun k => s.pLe p (s.stePdir p ste + 8 * k) 8 % 2 ^ 52 = 0) then phNoPt
  else phOk

/-- A command of the unit: DISABLED while ENABLE is 0 (R242). The STE it names must be mapped where `needs` says. The spec gives
averages for what a command costs: the model runs it at once and holds BUSY for the hall tick of its acceptance, in which a
further command of the core is ignored and counted (DESIGN CHOICE, entry 31). -/
def State.phCommand (s : State) (c : Nat) (needs : Bool) (f : Nat → PhRegs → State → State) : State :=
  s.byCore c fun p =>
    let x := (s.core c).ph
    if x.taken = some s.hall then s.coreFence c
    else if ¬ (s.part p).phu.enable then s.phEnd c phDisabled
    else
      let s := s.updPh c fun x => { x with taken := some s.hall }
      if needs ∧ ¬ s.steMapped p x.ste then (s.unmapped kAssist p p (s.steAddr p x.ste)).phEnd c phRange
      else f p x s

/-- RANGE where addresses that the command needs are unmapped, each counted (R392). -/
def State.phReach (s : State) (c p : Nat) (gaps : List Nat) (f : State) : State :=
  match gaps with
  | [] => f
  | l => (s.unmappedAll kAssist p p l).phEnd c phRange

/-- LOOKUP (R237). -/
def execLookup (core : CoreId) (s : State) : Out3 :=
  .next (s.phCommand core true fun p x s =>
    let e := s.lookRefuse p x.sg x.ste x.blocks
    if e ≠ phOk then s.phEnd core e
    else s.phReach core p (s.tableGaps p (s.stePdir p x.ste) (x.blocks * s.steLayers p x.ste)) <|
      let k := s.phKey p x.sg
      let z := k.1.lookBlocks p x.sg x.ste k.2 x.blocks 0 x.tokens {}
      z.1.lookEnd core p x.ste z.2)

/-- LOOKUP with USE_HANDLE (R238): the head's chain whole or not at all, then hashing goes on. -/
def execLookupHandle (core : CoreId) (s : State) : Out3 :=
  .next (s.phCommand core true fun p x s =>
    let e := s.lookRefuse p x.sg x.ste x.blocks
    if e ≠ phOk then s.phEnd core e
    else s.phReach core p (s.tableGaps p (s.stePdir p x.ste) (x.blocks * s.steLayers p x.ste)) <|
      let k := s.phKey p x.sg
      let s := k.1
      let bad : State := s.lookEnd core p x.ste { code := phHandle }
      match s.findHandle p x.sg (handleKey k.2 x.handle) x.handle with
      | none => bad
      | some hd =>
        let ha := s.dirAt p hd
        let b := s.deBlock p ha
        match s.walkChain p x.sg x.blocks b (s.dePrev p ha) with
        | none => bad
        | some chain =>
          -- block of position i of the walk is b − i; blocks at or beyond N are passed over
          let ds := chain.drop (b + 1 - x.blocks)
          let nl := s.steLayers p x.ste
          if ds.any fun d => s.blockFull p (s.dirAt p d) nl then s.lookEnd core p x.ste { code := phSaturated }
          else
            let s := ds.foldl (fun s d => s.mapBlock p x.ste (s.dirAt p d) (s.deBlock p (s.dirAt p d))) s
            let s := (s.pWrLe p (ha + 0x30) 4 (satInc 32 (s.pLe p (ha + 0x30) 4))).pWrLe p (ha + 0x28) 8 s.hall
            let r : Look := match ds with
              | [] => {}
              | d :: _ => { hit := ds.length, chain := s.deKey p (s.dirAt p d), entry := d }
            if x.blocks ≤ b then s.lookEnd core p x.ste r
            else
              let s := s.updPh core fun y => { y with first := b + 1 }
              let z := s.lookBlocks p x.sg x.ste k.2 (x.blocks - (b + 1)) (b + 1) x.tokens r
              z.1.lookEnd core p x.ste z.2)

/-! ### Insert, remove, register (R239 to R241) -/

/-- Write a directory entry that has just become VALID. LAST_HIT is open until a lookup maps it. -/
def State.putEntry (s : State) (p a key sg block kind prev nl list : Nat) : State :=
  let s := s.fresh
  s.putMem p a (leBytes 16 key ++ leBytes 4 sg ++ leBytes 4 (block + kind * 2 ^ 24 + 2 ^ 25) ++ leBytes 4 prev ++
    leBytes 2 0 ++ leBytes 1 nl ++ leBytes 1 0 ++ leBytes 8 list ++ leBytes 8 (Config.openField s.serial) ++
    leBytes 4 0 ++ leBytes 4 0 ++ leBytes 8 0)

/-- Where an insert stands. -/
structure Ins where
  entered  : Nat := 0
  existing : Nat := 0
  chain    : Nat := 0
  entry    : Nat := noEntry
  code     : Nat := phOk
  wrote    : Bool := false

/-- Page table entries of a block of a sequence. -/
def State.blockPtes (s : State) (p ste j : Nat) : List (Option Nat) :=
  let nl := s.steLayers p ste
  (List.range nl).map fun l => s.pteAddr p (s.stePdir p ste) (j * nl + l)

/-- Every page of the block at LOC 1 with RO 0, OWNED, with REFS 1. -/
def State.blockPrivate (s : State) (p ste j : Nat) : Bool :=
  (s.blockPtes p ste j).all fun e => match e with
    | none => false
    | some a =>
      let x := (s.part p).alloc.page (s.pteHandle p a)
      s.pteLoc p a = 1 && bitsOf (s.pLe p a 1) 3 3 = 0 && s.handleOk p (s.pteHandle p a) && x.st = .owned && x.refs = 1

/-- H_j into STE.CHAIN and the headers of the sequence's pages of the block (R239 step 1). -/
def State.putChain (s : State) (p ste j key : Nat) : State :=
  let s := s.pWrLe p (s.steAddr p ste + 0x40) 16 key
  (s.blockPtes p ste j).foldl (fun s e => match e with
    | none => s
    | some a => if s.pteLoc p a = 1 ∧ s.handleOk p (s.pteHandle p a) then s.wrLe (s.hdrAddr p (s.pteHandle p a) + 0x10) 16 key else s) s

/-- R239 step 3 for a block whose pages are private: the pages shared, the entry written. -/
def State.enterBlock (s : State) (p sg ste j key prev d plist : Nat) : State :=
  let s := (s.blockPtes p ste j).zipIdx.foldl (fun s e => match e.1 with
    | none => s
    | some a =>
      let h := s.pteHandle p a
      let x := (s.part p).alloc.page h
      let s := s.setPage p h { st := .shared, refs := x.refs + 1 }
      let s := s.pWrLe p a 1 (s.pLe p a 1 + 8)
      s.putMem p (plist + 4 * e.2) (leBytes 4 h)) s
  let s := s.putEntry p (s.dirAt p d) key sg j 0 prev (s.pLe p (s.steAddr p ste + 0x1D) 1) plist
  if j = 0 then s
  else
    let pa := s.dirAt p prev
    s.pWrLe p (pa + 0x1C) 2 (s.deChildren p pa + 1)

/-- The blocks of an INSERT in order: `n` blocks from block `j`, PLIST at `plist`. -/
def State.insBlocks (s : State) (p sg ste : Nat) (k : BitVec 256) : Nat → Nat → Nat → Ins → State × Ins
  | 0, _, _, r => (s, r)
  | n + 1, j, plist, r =>
    let nl := s.steLayers p ste
    let first := (s.blockPtes p ste j).headD none
    let h := match first with
      | some a => if s.pteLoc p a = 1 ∧ s.handleOk p (s.pteHandle p a) then some (s.pteHandle p a) else none
      | none => none
    match h with
    | none => (s, { r with code := phPageState })
    | some h =>
      let t := s.memBytes (s.hdrAddr p h + 0x40) 256
      let key := chainOf k r.chain t
      let stride := roundUp (4 * nl) 64
      let c := s.firstGood p sg key j t r.entry
      let s := s.confirmFails p c.2
      let r' := { r with chain := key, wrote := true }
      if c.1.isSome then
        (s.putChain p ste j key).insBlocks p sg ste k n (j + 1) (plist + stride)
          { r' with existing := r.existing + 1, entry := c.1.getD noEntry }
      else if ¬ s.anyRange p plist (4 * nl) then ((s.putChain p ste j key).unmapped kAssist p p plist, { r' with code := phRange })
      else if ¬ s.blockPrivate p ste j then (s.putChain p ste j key, { r' with code := phPageState })
      else match s.freeWay p key with
        | none => (s.putChain p ste j key, { r' with code := phFull })
        | some d =>
          if j ≠ 0 ∧ 65535 ≤ s.deChildren p (s.dirAt p r.entry) then (s, { r with code := phSaturated })
          else ((s.putChain p ste j key).enterBlock p sg ste j key r.entry d plist).insBlocks p sg ste k n (j + 1)
            (plist + stride) { r' with entered := r.entered + 1, entry := d }

/-- INSERT (R239). -/
def execInsert (core : CoreId) (s : State) : Out3 :=
  .next (s.phCommand core true fun p x s =>
    if (s.part p).phu.sgCount ≤ x.sg then s.phEnd core phSgState
    else if s.steState p x.ste ≠ steActive ∧ s.steState p x.ste ≠ stePaused then s.phEnd core phSteState
    else if s.steCommitted p x.ste < 64 * (x.first + x.blocks) then s.phEnd core phCommit
    else s.phReach core p (s.tableGaps p (s.stePdir p x.ste) ((x.first + x.blocks) * s.steLayers p x.ste)) <|
      let start : Option Ins :=
        if x.first = 0 then some {}
        else match (s.blockPtes p x.ste (x.first - 1)).headD none with
          | none => none
          | some a =>
            if s.pteLoc p a = 1 ∧ s.handleOk p (s.pteHandle p a) then
              let c := s.memLe (s.hdrAddr p (s.pteHandle p a) + 0x10) 16
              if c = 0 then none
              else (s.candidates p x.sg c (x.first - 1)).head?.map fun d => { chain := c, entry := d }
            else none
      match start with
      | none => s.phEnd core phNoParent
      | some r =>
        let k := s.phKey p x.sg
        let z := k.1.insBlocks p x.sg x.ste k.2 x.blocks x.first x.plist r
        let r' := z.2
        let none_ := decide (r'.entered + r'.existing = 0)
        z.1.updPh core fun y => { y with
          code := r'.code, hit := r'.entered, existing := r'.existing
          entry := if none_ then noEntry else r'.entry
          chain := if r'.wrote then BitVec.ofNat 128 r'.chain else y.chain })

/-- Set STATE of a directory entry EMPTY. -/
def State.emptyEntry (s : State) (p a : Nat) : State :=
  let w := s.deWord p a
  s.pWrLe p (a + 0x14) 4 (w - bitsOf w 26 25 * 2 ^ 25)

/-- REMOVE (R240). -/
def execRemove (core : CoreId) (s : State) : Out3 :=
  .next (s.phCommand core false fun p x s =>
    let a := s.dirAt p x.entry
    if 4 * 2 ^ (s.part p).phu.bits ≤ x.entry ∨ ¬ s.deValid p a then s.phEnd core phRange
    else if s.deKind p a = 1 then
      let ha := s.dirAt p (s.dePrev p a)
      ((s.pWrLe p (ha + 0x34) 4 (s.dePins p ha - 1)).emptyEntry p a).phEnd core phOk
    else if s.deChildren p a ≠ 0 ∨ s.dePins p a ≠ 0 then s.phEnd core phBusy
    else s.phReach core p (if s.anyRange p (s.deList p a) (4 * s.deLayers p a) then [] else [s.deList p a]) <|
      let s := (s.dePages p a (s.deLayers p a)).foldl (fun s h => s.refDec p h false) s
      let s := if s.dePrev p a = noEntry then s
        else
          let pa := s.dirAt p (s.dePrev p a)
          s.pWrLe p (pa + 0x1C) 2 (s.deChildren p pa - 1)
      (s.emptyEntry p a).phEnd core phOk)

/-- REGISTER (R240). -/
def execRegister (core : CoreId) (s : State) : Out3 :=
  .next (s.phCommand core false fun p x s =>
    let a := s.dirAt p x.entry
    if (s.part p).phu.sgCount ≤ x.sg then s.phEnd core phSgState
    else if 4 * 2 ^ (s.part p).phu.bits ≤ x.entry ∨ ¬ s.deValid p a ∨ s.deKind p a ≠ 0 then s.phEnd core phRange
    else if s.deSg p a ≠ x.sg then s.phEnd core phSgState
    else
      let k := s.phKey p x.sg
      let s := k.1
      let key := handleKey k.2 x.handle
      if (s.findHandle p x.sg key x.handle).isSome then s.phEnd core phExists
      else match s.freeWay p key with
        | none => s.phEnd core phFull
        | some d =>
          if 65535 ≤ s.dePins p a then s.phEnd core phSaturated
          else ((s.putEntry p (s.dirAt p d) key x.sg (s.deBlock p a) 1 x.entry 0 x.handle).pWrLe p (a + 0x34) 4 (s.dePins p a + 1)).phEnd core phOk)

/-- PREFIX_ENABLE: the directory and the share-group table lie in the partition's near memory (R242). -/
def execPrefixEnable (p : PartId) (s : State) : Out3 :=
  let u := (s.part p).phu
  .next (if u.enable then s
    else if 8 ≤ u.bits ∧ u.bits ≤ 22 ∧ s.nearRange p u.base (2 ^ u.bits * 256) ∧ s.nearRange p u.sgBase (64 * u.sgCount) then
      s.updPhu p fun u => { u with enable := true, cfgBad := false }
    else
      let gaps := [(u.base, 2 ^ u.bits * 256), (u.sgBase, 64 * u.sgCount)].filter fun r => !s.anyRange p r.1 r.2
      (s.unmappedAll kAssist p p (gaps.map (·.1))).updPhu p fun u => { u with cfgBad := true })

/-- PH_SG_INVAL: the cached key of a share group is dropped (R230). -/
def execPhSgInval (core : CoreId) (sg : Fin 65536) (s : State) : Out3 :=
  .next (s.byCore core fun p => s.updPhu p fun u => { u with keys := u.keys.filter fun e => e.1 ≠ sg.val })

end Sys2Proof.Machine
end

