-- ==== Sys2Proof/Machine/RegWrite.lean ====
section
/-! DEFINITION. A register write by address (R17 to R20, R500 to R505): every register of the map, field by field. A register
that has a row of its own is written through that row's meaning. -/

namespace Sys2Proof

open Sys2Proof.Machine


/-! ### Bytes of a write -/

/-- The write covers a byte of the `n` bytes at `b`. -/
def RegWrite.hit (w : RegWrite) (b n : Nat) : Bool := decide (w.off.toNat < b + n) && decide (b < w.off.toNat + w.width)

/-- What the `n` bytes at `b` hold after the write, if they held `old`. -/
def RegWrite.upd (w : RegWrite) (b n old : Nat) : Nat :=
  leNat ((List.range n).map fun i =>
    let a := b + i
    let o := w.off.toNat
    BitVec.ofNat 8 (if o ≤ a ∧ a < o + w.width then w.value.toNat / 256 ^ (a - o) else old / 256 ^ i))

/-- The value the write gives `n` bytes at `b`, its other bytes 0. -/
def RegWrite.val (w : RegWrite) (b n : Nat) : Nat := w.upd b n 0

/-- Natural alignment, 32 or 64 bits (R20). -/
def RegWrite.aligned (w : RegWrite) : Bool := (w.width = 4 || w.width = 8) && w.off.toNat % w.width = 0

/-- A register: its offset, its bytes, and what a write that reaches it does. -/
abbrev Machine.RegDef := Nat × Nat × (State → State)

/-- The registers that the write covers, in order of offset. -/
def RegWrite.apply (w : RegWrite) (l : List RegDef) (s : State) : State :=
  l.foldl (fun s r => if w.hit r.1 r.2.1 then r.2.2 s else s) s

end Sys2Proof

namespace Sys2Proof.Machine

/-- The state after a meaning, or as before where it stops. -/
def afterOf (s : State) (o : Out3) : State :=
  match o with
  | .next t => t
  | _ => s

/-- The state after a command of another row. -/
def State.does (s : State) (f : State → Out3) : State := afterOf s (f s)

/-- An index below `n`. -/
def finOf (n v : Nat) [NeZero n] : Fin n := Fin.ofNat n v

/-- A number with its low `n` bits 0, and none above bit `m`. -/
def maskOff (v n m : Nat) : Nat := v % 2 ^ m / 2 ^ n * 2 ^ n

/-- The bytes of host memory under a range that starts in a host window. -/
def State.hostBytes (s : State) (p a n : Nat) (host : Cells) : List Byte :=
  match s.reach p a with
  | .host h => rdBytes host h n
  | _ => []

/-! ### Blocks that both views reach -/

/-- The budget window: 64 bytes at `b` (R221). -/
def budgetRegs (w : RegWrite) (a : Agent) (b : Nat) : List RegDef :=
  let entry (f : Budget → Budget) (s : State) : State := match s.btEntry a with
    | some e => s.updBudget e f
    | none => s
  [(b + 0x08, 4, fun s => match a with
      | .core c => s.updCore c fun x => { x with btSel := w.upd (b + 0x08) 4 x.btSel % 4096 }
      | .host p => s.updServing p fun x => { x with btSel := w.upd (b + 0x08) 4 x.btSel % 4096 }),
   (b + 0x10, 4, entry fun x => { x with balance := (BitVec.ofNat 32 (w.val (b + 0x10) 4)).toInt }),
   (b + 0x14, 4, entry fun x => { x with refill := w.val (b + 0x14) 4 }),
   (b + 0x18, 4, entry fun x => { x with cap := w.val (b + 0x18) 4 % 2 ^ 31 }),
   (b + 0x1C, 4, entry fun x => { x with tenant := w.val (b + 0x1C) 4 % 65536, grace := w.val (b + 0x1C) 4 / 65536 }),
   (b + 0x20, 8, entry fun x => { x with period := w.upd (b + 0x20) 8 x.period }),
   (b + 0x28, 8, entry fun x => { x with next := w.upd (b + 0x28) 8 x.next }),
   (b + 0x30, 4, fun s => s.does (execBtAdd a (BitVec.ofNat 32 (w.val (b + 0x30) 4))))]

/-- The channel is IDLE with no shadow armed. -/
def StkChan.free (x : StkChan) : Bool := x.st = .idle && x.recs = [] && !x.armed

/-- The count of an ignored Stoke write: the engine's, or the writing core's own for the view it may not use. -/
def State.stkIgnored (s : State) (k : Nat) : State := s.fenceInc kStoke (k / 8)

/-- STK_CQ_CFG: HOST is the host view's to write, whoever drives the channel; LOG2 the driver's; both only while free (R410). -/
def State.writeCqCfg (s : State) (a : Agent) (ch : Nat) (v : Nat) : State :=
  match a with
  | .core _ => s.viaView a ch fun _ k =>
      if (s.chan k).free then s.updChan k fun x => { x with cqLog2 := v % 32 } else s.stkIgnored k
  | .host p => if ¬ s.fnReady p then s else match s.hostEngine p with
      | none => s
      | some g =>
        let k := 8 * g + ch
        let x := s.chan k
        if ¬ x.free then s.stkIgnored k
        else
          let t := s.updChan k fun x => { x with host := v / 256 % 2 = 1, cqLog2 := if x.host then v % 32 else x.cqLog2 }
          if x.host then t else t.stkIgnored k

/-- A channel's registers at `b` (R424). -/
def stokeRegs (w : RegWrite) (host : Cells) (a : Agent) (ch : Fin 8) (b : Nat) : List RegDef :=
  let c (i : Nat) : Bool := (w.val b 4).testBit i
  let h (i : Nat) : Bool := (w.val (b + 0x80) 4).testBit i
  let shadow (f : StkRegs → StkRegs) (s : State) : State := s.viaView a ch fun _ k =>
    if (s.chan k).armed then s.stkIgnored k else s.updChan k fun x => { x with sh := f x.sh }
  [(b, 4, fun s => s.stkCtrl a ch fun s =>
      let s := if c 0 then s.does (execAbort a ch) else s
      let s := if c 1 then s.does (execResume a ch host) else s
      if c 2 then s.does (execSkip a ch host) else s),
   (b + 0x48, 8, fun s => s.viaView a ch fun _ k =>
      if (s.chan k).free then s.updChan k fun x => { x with cqBase := maskOff (w.upd (b + 0x48) 8 x.cqBase) 5 52 } else s.stkIgnored k),
   (b + 0x50, 4, fun s => s.writeCqCfg a ch (w.val (b + 0x50) 4)),
   (b + 0x58, 4, fun s => s.does (execStokeCqSpace a ch (BitVec.ofNat 32 (w.val (b + 0x58) 4)))),
   (b + 0x80, 4, fun s => s.stkCtrl a ch fun s =>
      let s := if h 0 then s.does (execGo a ch host) else s
      if h 1 then s.does (execStokeCancel a ch) else s),
   (b + 0x88, 8, shadow fun x => { x with src := maskOff (w.upd (b + 0x88) 8 x.src) 4 52 }),
   (b + 0x90, 8, shadow fun x => { x with dst := maskOff (w.upd (b + 0x90) 8 x.dst) 4 52 }),
   (b + 0x98, 4, shadow fun x => { x with srcN := w.val (b + 0x98) 4 % 8192, dstN := w.val (b + 0x98) 4 / 65536 % 8192 }),
   (b + 0x9C, 4, shadow fun x => { x with settle := (w.val (b + 0x9C) 4).testBit 0, irq := (w.val (b + 0x9C) 4).testBit 1 }),
   (b + 0xA0, 8, shadow fun x => { x with tag := BitVec.ofNat 64 (w.upd (b + 0xA0) 8 x.tag.toNat) })]

/-! ### BAR0 of a partition function -/

/-- Identity and events: 0x0000 to 0x01FF. -/
def eventRegs (w : RegWrite) (p : PartId) : List RegDef :=
  let v (o : Nat) : BitVec 32 := BitVec.ofNat 32 (w.val o 4)
  [(0x0C, 4, fun s => s.does (execEventEnable p .fnCtrl (v 0x0C))),
   (0x100, 4, fun s => s.does (execEventClear p none (v 0x100) 0)),
   (0x104, 4, fun s => s.does (execEventEnable p .evEnable (v 0x104)))] ++
  (List.range 16).map (fun i => (0x110 + 4 * i, 4, fun s =>
    if s.fnReady p then s.updFn p fun x => { x with evVec := tabSet 0 x.evVec i (w.val (0x110 + 4 * i) 4 % 2048) } else s)) ++
  (List.finRange 8).map (fun i => (0x180 + 4 * i.val, 4, fun s => s.does (execEventClear p (some i) (v (0x180 + 4 * i.val)) 0))) ++
  (List.finRange 8).map (fun i => (0x1A0 + 4 * i.val, 4, fun s => s.does (execEventEnable p (.qEvEnable i) (v (0x1A0 + 4 * i.val)))))

/-- Q_CFG: VECTOR at any time; the ring's shape only while ENABLE is 0; setting ENABLE sets both indices to 0 (R434). -/
def State.writeQCfg (s : State) (p q v : Nat) : State :=
  let on := v % 2 = 1
  let vec := v / 65536 % 2048
  if (s.queue p q).enable then (s.updQueue p q fun x => { x with enable := on, vector := vec }).fenceInc kPart p
  else s.updQueue p q fun x =>
    { x with
      enable := on, vector := vec, output := v / 2 % 2 = 1, log2 := v / 4 % 32, esize := v / 256 % 8
      hostIdx := if on then 0 else x.hostIdx, devIdx := if on then 0 else x.devIdx }

/-- Queues: 0x2000 to 0x201F. -/
def queueRegs (w : RegWrite) (p : PartId) : List RegDef :=
  let at_ (s : State) : Nat := (s.part p).fn.qSel
  [(0x2000, 4, fun s => s.updFn p fun x => { x with qSel := w.val 0x2000 4 % 256 }),
   (0x2008, 8, fun s => if (s.queue p (at_ s)).enable then s.fenceInc kPart p
      else s.updQueue p (at_ s) fun x => { x with base := w.upd 0x2008 8 x.base % 2 ^ 52 }),
   (0x2010, 4, fun s => s.writeQCfg p (at_ s) (w.val 0x2010 4))]

/-- SRV_CTRL: one action at most (R227). -/
def State.writeSrv (s : State) (p : PartId) (v : Nat) : State :=
  match v % 8 with
  | 0 => s
  | 1 => s.does (execHalt p)
  | 2 => s.does (execStart p)
  | 4 => s.does (execStartImage p)
  | _ => s.srvErr p 1

/-- Serving: 0x3000 to 0x3010; the budget window follows at 0x3100. -/
def servingRegs (w : RegWrite) (p : PartId) : List RegDef :=
  [(0x3000, 4, fun s => s.writeSrv p (w.val 0x3000 4)),
   (0x3008, 8, fun s => s.updServing p fun x => { x with imgBase := maskOff (w.upd 0x3008 8 x.imgBase) 12 64 }),
   (0x3010, 4, fun s => s.updServing p fun x => { x with imgLen := w.val 0x3010 4 })] ++ budgetRegs w (.host p) 0x3100

/-- PLAN_CTRL: one action at most (R68). -/
def State.writePlanCtrl (s : State) (p : PartId) (v : Nat) (host : Cells) : State :=
  match v % 32 with
  | 0 => s
  | 1 => s.does (execPlanLoad p)
  | 2 => s.does (execPlanArm p)
  | 4 => s.does (execPlanStop p)
  | 8 => s.does (execPlanUnload p)
  | 16 =>
    let x := (s.part p).plan
    s.does (execRebind p ⟨[], s.hostBytes p x.delayBase x.delayLen host⟩)
  | _ => s.planRefuse p

/-- Plan control: 0x4000 to 0x4140. -/
def planRegs (w : RegWrite) (p : PartId) (host : Cells) : List RegDef :=
  [(0x4000, 4, fun s => s.writePlanCtrl p (w.val 0x4000 4) host),
   (0x4008, 8, fun s => s.updPlan p fun x => { x with base := maskOff (w.upd 0x4008 8 x.base) 12 64 }),
   (0x4010, 4, fun s => s.updPlan p fun x => { x with len := w.val 0x4010 4 }),
   (0x4018, 8, fun s => s.updPlan p fun x => { x with launchAt := w.upd 0x4018 8 x.launchAt }),
   (0x4030, 8, fun s => s.updPlan p fun x => { x with delayBase := maskOff (w.upd 0x4030 8 x.delayBase) 6 64 }),
   (0x4038, 4, fun s => s.updPlan p fun x => { x with delayLen := w.val 0x4038 4 }),
   (0x4140, 4, fun s => if (w.val 0x4140 4).testBit 0 then s.does (execSfClear p) else s)]

/-- Time: 0x5040 to 0x5180. The slip limits are locked while the plan is ARMED or runs (R356). -/
def timeRegs (w : RegWrite) (p : PartId) : List RegDef :=
  let lock (f : Clock → Clock) (s : State) : State :=
    if (s.part p).plan.st = .armed ∨ (s.part p).plan.st = .running then s.fenceInc kPart p else s.updClock p f
  [(0x5040, 4, lock fun x => { x with slipLead := max 1 (w.val 0x5040 4 % 65536) }),
   (0x5044, 4, lock fun x => { x with slipMax := w.val 0x5044 4 }),
   (0x5048, 8, lock fun x => { x with slipWindow := max 500000000 (w.upd 0x5048 8 x.slipWindow) }),
   (0x5180, 4, fun s => if (w.val 0x5180 4).testBit 0 then s.does (execCntClear p) else s)]

/-- Faults: 0x6000 and 0x6204 (R483). -/
def faultRegs (w : RegWrite) (p : PartId) : List RegDef :=
  [(0x6000, 4, fun s => s.updPart p fun x => { x with cinSel := w.val 0x6000 4 % 65536 }),
   (0x6204, 4, fun s => s.updPart p fun x => { x with flSel := w.val 0x6204 4 })]

/-- KEY_CMD. -/
def State.writeKeyCmd (s : State) (p : PartId) (v : Nat) (host : Cells) : State :=
  match v / 256 % 4 with
  | 1 => s.does (execKeyInstall p (finOf 32 (v % 32)) host)
  | 2 => s.does (execErase p (finOf 32 (v % 32)))
  | _ => s

/-- A field of a window other than HW_CTRL: locked while ENABLE is 1 (R393). -/
def State.writeWin (s : State) (p i : Nat) (f : HostWin → HostWin) : State :=
  if (tabGet {} (s.part p).sec.wins i).enable then s.fenceInc kPart p
  else s.updSec p fun x => { x with wins := tabUpd {} x.wins i f }

/-- Security: 0x7008 to 0x74FF (R408). -/
def securityRegs (w : RegWrite) (p : PartId) (host : Cells) : List RegDef :=
  [(0x7008, 8, fun s => s.updSec p fun x => { x with blobBase := maskOff (w.upd 0x7008 8 x.blobBase) 6 64 }),
   (0x7010, 4, fun s => s.writeKeyCmd p (w.val 0x7010 4) host)] ++
  (List.finRange 8).flatMap fun i =>
    let b := 0x7400 + 32 * i.val
    [(b, 8, fun s => s.writeWin p i fun x => { x with base := maskOff (w.upd b 8 x.base) 21 52 }),
     (b + 0x08, 8, fun s => s.writeWin p i fun x => { x with size := maskOff (w.upd (b + 0x08) 8 x.size) 21 52 }),
     (b + 0x10, 8, fun s => s.writeWin p i fun x => { x with target := maskOff (w.upd (b + 0x10) 8 x.target) 21 64 }),
     (b + 0x18, 4, fun s => s.does (execHostWindowEnable p i (BitVec.ofNat 3 (w.val (b + 0x18) 4))))]

/-- A write to BAR0: READY reaches every block, FENCED only plan control and faults (R367, R431). -/
def State.writeBar0 (s : State) (p : PartId) (w : RegWrite) (host : Cells) : State :=
  let o := w.off.toNat
  if s.fnPlan p ∧ 0x4000 ≤ o ∧ o < 0x5000 then w.apply (planRegs w p host) s
  else if s.fnPlan p ∧ 0x6000 ≤ o ∧ o < 0x7000 then w.apply (faultRegs w p) s
  else if ¬ s.fnReady p then s
  else if o < 0x1000 then w.apply (eventRegs w p) s
  else if o < 0x1800 then w.apply (stokeRegs w host (.host p) (finOf 8 ((o - 0x1000) / 0x100)) (o / 0x100 * 0x100)) s
  else if o < 0x2000 then s
  else if o < 0x3000 then w.apply (queueRegs w p) s
  else if o < 0x4000 then w.apply (servingRegs w p) s
  else if o < 0x6000 then w.apply (timeRegs w p) s
  else w.apply (securityRegs w p host) s

/-! ### BAR2 and BAR4, function 0, configuration space -/

/-- BAR2: a doorbell at the start of each 4 KiB page. -/
def State.writeBar2 (s : State) (p : PartId) (w : RegWrite) : State :=
  let q := w.off.toNat / 4096
  if q < 256 ∧ w.off.toNat % 4096 = 0 then s.does (execDoorbell p (finOf 256 q) (BitVec.ofNat 32 (w.val (4096 * q) 4))) else s

/-- An MSI-X entry after a write; a message that waited for its mask leaves (R437, PCIe). -/
def State.writeMsix (s : State) (p v : Nat) (w : RegWrite) : State :=
  let x := tabGet {} (s.part p).fn.msix v
  let b := 16 * v
  let y : Msix :=
    { x with
      addr := BitVec.ofNat 64 (w.upd b 8 x.addr.toNat), data := BitVec.ofNat 32 (w.upd (b + 8) 4 x.data.toNat)
      masked := (w.upd (b + 12) 4 (if x.masked then 1 else 0)).testBit 0 }
  let go := y.pend && !y.masked
  let s := s.updFn p fun f => { f with msix := tabSet {} f.msix v { y with pend := y.pend && y.masked } }
  if go then s.send (.msix p v y.addr y.data) else s

/-- BAR4: the MSI-X table; the pending bits are RO. A fenced function takes no write (R367). -/
def State.writeBar4 (s : State) (p : PartId) (w : RegWrite) : State :=
  if w.off.toNat < 0x8000 ∧ s.fnStateOf p ≠ 3 then s.writeMsix p (w.off.toNat / 16) w else s

/-- FN_CTRL of function 0. -/
def State.writeFunc0 (s : State) (h : PortId) (w : RegWrite) : State :=
  if w.hit 0x0C 4 then { s with fn0 := tabSet false s.fn0 h ((w.val 0x0C 4).testBit 0) } else s

/-- Bus Master Enable: bit 2 of the command register at 4 (PRESUMED, PCIe). -/
def State.writeConfig (s : State) (h : PortId) (fn : Fin 17) (w : RegWrite) : State :=
  if fn.val = 0 ∨ ¬ w.hit 4 1 then s
  else s.updPort h fun x =>
    { x with bme := x.bme.filter (fun q => q ≠ fn.val - 1) ++ if (w.val 4 1).testBit 2 then [fn.val - 1] else [] }

/-! ### The Ember view (R189) -/

/-- A register that ENABLE locks (R19): ignored and counted once for the assists. -/
def locked (on : Bool) (p : Nat) (f : State → State) (s : State) : State := if on then s.assistFence p else f s

/-- The page allocator at 0x2000_0000 (R211). -/
def pageRegs (w : RegWrite) (core : CoreId) (p : PartId) : List RegDef :=
  let b := 0x20000000
  let lock (f : State → State) (s : State) : State := locked (s.part p).alloc.enable p f s
  let v := w.val b 4
  let op (s : State) : State :=
    let s := s.fresh
    let x := w.upd (b + 0x500) 8 (Config.openField s.serial % 2 ^ 64)
    let h := BitVec.ofNat 32 x
    if ¬ w.hit (b + 0x504) 4 then s
    else match x / 2 ^ 32 % 8 with
      | 1 => s.does (execFree core h)
      | 2 => s.does (execRefInc core h)
      | 3 => s.does (execRefDec core h)
      | 4 => s.does (execShare core h)
      | 5 => s.does (execQuery core h)
      | _ => s
  [(b, 4, lock fun s =>
      let s := s.updAlloc p fun a => { a with shift := v % 8 }
      if v.testBit 3 then s.does (execPagePoolEnable p) else s)] ++
  (List.range 16).flatMap (fun g =>
    let o := b + 0x100 + 0x20 * g
    let pool (f : Pool → Pool) (s : State) : State := s.updAlloc p fun a => { a with pools := tabUpd {} a.pools g f }
    [(o, 8, lock (pool fun x => { x with base := w.upd o 8 x.base })),
     (o + 0x08, 8, lock (pool fun x => { x with hdr := w.upd (o + 0x08) 8 x.hdr })),
     (o + 0x10, 4, lock fun s => pool (fun x => { x with pages := if s.owns p g then w.val (o + 0x10) 4 % 2 ^ 22 else 0 }) s),
     (o + 0x18, 4, pool fun x => { x with low := w.val (o + 0x18) 4 % 2 ^ 22 })]) ++
  [(b + 0x500, 8, op)]

/-- PH_CMD. -/
def State.writePhCmd (s : State) (core : CoreId) (v : Nat) : State :=
  match v % 8 with
  | 1 => if v.testBit 3 then s.does (execLookupHandle core) else s.does (execLookup core)
  | 2 => s.does (execInsert core)
  | 3 => s.does (execRemove core)
  | 4 => s.does (execRegister core)
  | _ => s

/-- The prefix hash unit at 0x2000_1000 (R242). -/
def prefixRegs (w : RegWrite) (core : CoreId) (p : PartId) : List RegDef :=
  let b := 0x20001000
  let ph (f : PhRegs → PhRegs) (s : State) : State := s.updCore core fun x => { x with ph := f x.ph }
  let lock (f : State → State) (s : State) : State := locked (s.part p).phu.enable p f s
  let v := w.val (b + 0x108) 4
  [(b, 4, ph fun x => { x with sg := w.val b 4 % 65536 }),
   (b + 0x04, 4, ph fun x => { x with ste := w.val (b + 0x04) 4 % 16384 }),
   (b + 0x08, 8, ph fun x => { x with tokens := w.upd (b + 0x08) 8 x.tokens }),
   (b + 0x10, 8, ph fun x => { x with handle := w.upd (b + 0x10) 8 x.handle }),
   (b + 0x18, 4, ph fun x => { x with blocks := w.val (b + 0x18) 4 % 2 ^ 24 }),
   (b + 0x1C, 4, ph fun x => { x with first := w.val (b + 0x1C) 4 % 2 ^ 24 }),
   (b + 0x20, 8, ph fun x => { x with plist := w.upd (b + 0x20) 8 x.plist }),
   (b + 0x28, 4, fun s => s.writePhCmd core (w.val (b + 0x28) 4)),
   (b + 0x2C, 4, ph fun x => { x with entry := w.val (b + 0x2C) 4 }),
   (b + 0x100, 8, lock fun s => s.updPhu p fun u => { u with base := w.upd (b + 0x100) 8 u.base }),
   (b + 0x108, 4, lock fun s =>
      let s := s.updPhu p fun u => { u with bits := v % 32 }
      if v.testBit 8 then s.does (execPrefixEnable p) else s),
   (b + 0x110, 8, lock fun s => s.updPhu p fun u => { u with sgBase := w.upd (b + 0x110) 8 u.sgBase }),
   (b + 0x118, 4, lock fun s => s.updPhu p fun u => { u with sgCount := w.val (b + 0x118) 4 % 2 ^ 17 }),
   (b + 0x11C, 4, fun s => s.does (execPhSgInval core (finOf 65536 (w.val (b + 0x11C) 4 % 65536))))]

/-- FB_CMD: both bits at once have no effect and are counted (R216). -/
def State.writeFbCmd (s : State) (core : CoreId) (p v : Nat) : State :=
  match v % 4 with
  | 1 => s.does (execSeal core)
  | 2 => s.does (execUnseal core)
  | 3 => s.assistFence p
  | _ => s

/-- FB_RELEASE: CANCEL rules over TRIM (R217). -/
def State.writeFbRelease (s : State) (core : CoreId) (v : Nat) : State :=
  let i : Fin 65536 := finOf 65536 (v % 65536)
  if v.testBit 16 then s.does (execCancel core i) else if v.testBit 17 then s.does (execTrim core i) else s.does (execRelease core i)

/-- FB_EPOCH_CMD. -/
def State.writeEpochCmd (s : State) (core : CoreId) (v : Nat) : State :=
  let e : Byte := BitVec.ofNat 8 v
  let kv := v.testBit 8
  let s := if v.testBit 16 then s.does (execEpochSet core e kv) else s
  let s := if v.testBit 17 then s.does (execEpochArm core e kv) else s
  if v.testBit 18 then s.does (execEpochDisarm core) else s

/-- OV_CMD: the low word carries the operation. -/
def State.writeOvCmd (s : State) (core : CoreId) (x : Nat) : State :=
  let h := BitVec.ofNat 24 x
  match x / 2 ^ 24 % 8 with
  | 1 => s.does (execInstall core h (x.testBit 27) (BitVec.ofNat 16 (x / 2 ^ 40)))
  | 2 => s.does (execPin core h)
  | 3 => s.does (execUnpin core h (BitVec.ofNat 8 (x / 2 ^ 32)))
  | 4 => s.does (execWithdraw core h)
  | _ => s

/-- WL_LAYER: PENDING may be written while the layer is open and no flip is armed (R263). -/
def State.writeLayer (s : State) (core : CoreId) (p : Nat) (l : Fin 256) (v : Nat) : State :=
  let x := (s.part p).wts
  if v.testBit 17 then s.does (execLayerOpen core l (BitVec.ofNat 16 v))
  else if x.armed ∨ ¬ (x.layer l).opened then s.assistFence p
  else s.updWts p fun x => { x with layers := tabUpd {} x.layers l fun y => { y with pending := v % 65536 } }

/-- STE_IN_USE reads 0 while FB_STE is 0 (R227). -/
def State.noTable (s : State) (p : Nat) : State :=
  if (s.part p).frame.ste = 0 then s.updServing p fun v => { v with inUse := 0 } else s

/-- Frame builder, weights and overlays at 0x2000_3000 (R218, R257, R263, R270). -/
def frameRegs (w : RegWrite) (core : CoreId) (p : PartId) : List RegDef :=
  let b := 0x20003000
  let ctxBusy (s : State) : Bool := (s.part p).wts.ctxs.any fun e => e.2.st = cxArmed || e.2.st = cxReady
  let live (s : State) : Bool := (s.part p).wts.handles ≠ []
  let bound (s : State) : Bool := !((s.part p).plan.st = .empty || (s.part p).plan.st = .loaded || (s.part p).plan.st = .stopped)
  [(b + 0x18, 8, fun s => locked (bound s) p (fun s => s.updFrame p fun f => { f with ste := w.upd (b + 0x18) 8 f.ste }) s |>.noTable p),
   (b + 0x20, 4, fun s => locked (bound s) p (fun s => s.updFrame p fun f => { f with missHold := (w.val (b + 0x20) 4).testBit 0 }) s),
   (b + 0x38, 4, fun s => s.writeFbCmd core p (w.val (b + 0x38) 4)),
   (b + 0x3C, 4, fun s => s.writeFbRelease core (w.val (b + 0x3C) 4)),
   (b + 0x104, 4, fun s => s.writeEpochCmd core (w.val (b + 0x104) 4)),
   (b + 0x108, 8, fun s => s.updWts p fun x => { x with stepReg := w.upd (b + 0x108) 8 x.stepReg }),
   (b + 0x200, 8, fun s => locked (ctxBusy s) p (fun s => s.updWts p fun x => { x with ctxBase := maskOff (w.upd (b + 0x200) 8 x.ctxBase) 7 64 }) s),
   (b + 0x208, 4, fun s =>
      let v := w.val (b + 0x208) 4
      match v / 256 % 4 with
      | 1 => s.does (execContextArm core (finOf 256 (v % 256)))
      | 2 => s.does (execContextDisarm core (finOf 256 (v % 256)))
      | _ => s),
   (b + 0x300, 8, fun s => locked (live s) p (fun s => s.updWts p fun x => { x with ovBase := maskOff (w.upd (b + 0x300) 8 x.ovBase) 6 64 }) s),
   (b + 0x308, 4, fun s => locked (live s) p (fun s => s.updWts p fun x => { x with ovCount := w.val (b + 0x308) 4 % 2 ^ 25 }) s),
   (b + 0x310, 8, fun s => s.updCore core fun x => { x with reg := { x.reg with ovArg := w.upd (b + 0x310) 8 x.reg.ovArg % 2 ^ 52 } }),
   (b + 0x318, 8, fun s =>
      let s := s.fresh
      if w.hit (b + 0x318) 4 then s.writeOvCmd core (w.upd (b + 0x318) 8 (Config.openField s.serial % 2 ^ 64)) else s)] ++
  (List.finRange 256).map fun l => (b + 0x400 + 4 * l.val, 4, fun s => s.writeLayer core p l (w.val (b + 0x400 + 4 * l.val) 4))

/-- The banking engine at 0x2000_4000 (R251). -/
def bankRegs (w : RegWrite) (core : CoreId) (p : PartId) : List RegDef :=
  let b := 0x20004000
  let lock (f : Banking → Banking) (s : State) : State := locked (s.part p).bank.enable p (fun s => s.updBank p f) s
  [(b, 8, lock fun x => { x with turfBase := w.upd b 8 x.turfBase }),
   (b + 0x08, 4, lock fun x => { x with turfSlots := w.val (b + 0x08) 4 % 2 ^ 24 }),
   (b + 0x10, 8, lock fun x => { x with farBase := w.upd (b + 0x10) 8 x.farBase }),
   (b + 0x18, 4, lock fun x => { x with farSlots := w.val (b + 0x18) 4 % 2 ^ 24 }),
   (b + 0x20, 8, lock fun x => { x with tagBase := w.upd (b + 0x20) 8 x.tagBase }),
   (b + 0x28, 4, fun s => if (w.val (b + 0x28) 4).testBit 0 then s.does (execBankEnable p) else s),
   (b + 0x2C, 4, fun s => s.updBank p fun x => ({ x with high := w.val (b + 0x2C) 4 % 2 ^ 24 } : Banking).watch),
   (b + 0x30, 4, fun s => s.updBank p fun x => ({ x with low := w.val (b + 0x30) 4 % 2 ^ 24 } : Banking).watch),
   (b + 0x38, 8, fun s => s.updBank p fun x => { x with cqBase := w.upd (b + 0x38) 8 x.cqBase }),
   (b + 0x40, 4, fun s => s.updBank p fun x => { x with cqLog2 := w.val (b + 0x40) 4 % 32 }),
   (b + 0x48, 4, fun s => s.does (execBankCqSpace core (BitVec.ofNat 32 (w.val (b + 0x48) 4)))),
   (b + 0x50, 4, fun s => s.updCore core fun x =>
      { x with reg := { x.reg with bkSte := w.val (b + 0x50) 4 % 16384, bkGroup := w.val (b + 0x50) 4 / 65536 % 16 } }),
   (b + 0x58, 8, fun s => s.updCore core fun x => { x with reg := { x.reg with bkTtl := w.upd (b + 0x58) 8 x.reg.bkTtl } }),
   (b + 0x60, 4, fun s => match w.val (b + 0x60) 4 % 4 with
      | 1 => s.does (execBank core)
      | 2 => s.does (execRekindle core)
      | _ => s)]

/-- Steal queues at 0x2000_5000 (R198). A half of SQ_PUSH leaves the other half open. -/
def stealRegs (w : RegWrite) (core : CoreId) : List RegDef :=
  let b := 0x20005000
  [(b, 8, fun s => s.updCore core fun x => { x with sqWord0 := BitVec.ofNat 64 (w.upd b 8 x.sqWord0.toNat) }),
   (b + 0x08, 8, fun s =>
      let s := s.fresh
      s.does (execSqPush core (BitVec.ofNat 64 (w.upd (b + 0x08) 8 (Config.openField s.serial)))))]

/-- Queue registers of the mirror at 0x2000_6800 (R435). -/
def mirrorRegs (w : RegWrite) (core : CoreId) (p : PartId) : List RegDef :=
  let b := 0x20006800
  [(b, 4, fun s => s.updCore core fun x => { x with hqSel := w.val b 4 % 256 }),
   (b + 0x18, 4, fun s => s.does (execHqDevIdxWrite core (BitVec.ofNat 32 (w.val (b + 0x18) 4)))),
   (b + 0x20, 4, fun s => s.does (execHqRaise core (finOf 256 (w.val (b + 0x20) 4 % 256))))] ++
  (List.range 8).map fun i => (b + 0x40 + 4 * i, 4, fun s =>
    (setBits (BitVec.ofNat 32 (w.val (b + 0x40 + 4 * i) 4))).foldl
      (fun s j => s.updQueue p (32 * i + j) fun x => { x with pend := false }) s)

/-- The core-local block at 0x3000_0000 (R192, R194). -/
def localRegs (w : RegWrite) (core : CoreId) : List RegDef :=
  let b := 0x30000000
  [(b + 0x18, 4, fun s => s.updCore core fun x => { x with event := x.event &&& ~~~ BitVec.ofNat 6 (w.val (b + 0x18) 4) }),
   (b + 0x1C, 4, fun s => s.updCore core fun x => { x with eventEn := BitVec.ofNat 6 (w.val (b + 0x1C) 4) }),
   (b + 0x24, 4, fun s => s.does (execMbTailWrite core (finOf 128 (w.val (b + 0x24) 4 % 128))))]

/-- A TMBX write: whole, or a half. -/
def State.writeTmbx (s : State) (core : CoreId) (w : RegWrite) : State :=
  let o := w.off.toNat - 0x30001000
  let half : Option (Fin 2) := if w.width = 8 then none else some (finOf 2 (o % 8 / 4))
  s.does (execTmbxWrite core (finOf 192 (o / 0x80)) (finOf 16 (o % 0x80 / 8)) half w.value)

/-- The registers of a core's address space, an assist's 4 KiB page at a time. -/
def State.writeAssist (s : State) (core : CoreId) (p : PartId) (w : RegWrite) (host : Cells) : State :=
  let o := w.off.toNat
  if 0x30001000 ≤ o ∧ o < 0x30007000 then s.writeTmbx core w
  else if 0x30000000 ≤ o then w.apply (localRegs w core) s
  else match (o - 0x20000000) / 0x1000 with
    | 0 => w.apply (pageRegs w core p) s
    | 1 => w.apply (prefixRegs w core p) s
    | 2 => w.apply (budgetRegs w (.core core) 0x20002000) s
    | 3 => w.apply (frameRegs w core p) s
    | 4 => w.apply (bankRegs w core p) s
    | 5 => w.apply (stealRegs w core) s
    | _ => if o < 0x20006800 then w.apply (stokeRegs w host (.core core) (finOf 8 ((o - 0x20006000) / 0x100)) (o / 0x100 * 0x100)) s
        else w.apply (mirrorRegs w core p) s

/-- The MPA in the Ember store that an address in a core's own view names (R189, R190). -/
def storeAt (core : CoreId) (o : Nat) : Nat := 0x30000000000 + core.val / 32 * 0x100000000 + (o - 0x10000000)

/-- A store of bytes at a partition address; anywhere unmapped it is counted and has no effect (R190, R392). -/
def State.coreStore (s : State) (core : CoreId) (p a : Nat) (bytes : List Byte) : State :=
  if s.allWritable p a bytes.length then (s.writeAll p a bytes (some s.moduleId)).1
  else (s.unmapped kCore core p a).accessFault core true (emberWindow + a)

/-- A write on a core's bus: private memory, the Ember store of its die, the assists, the core-local block, the
partition-mapped window; anything else faults in the core, and so does a register access that is misaligned or of
another width (R20, R190). -/
def State.writeCore (s : State) (core : CoreId) (p : PartId) (w : RegWrite) (host : Cells) : State :=
  let o := w.off.toNat
  let bytes := leBytes w.width w.value.toNat
  let mem := [1, 2, 4, 8].contains w.width
  if (0x20000000 ≤ o ∧ o < 0x20007000) ∨ (0x30000000 ≤ o ∧ o < 0x30008000) then
    if w.aligned then s.writeAssist core p w host else s.accessFault core true o
  else if ¬ mem then s
  else if o + w.width ≤ 0x40000 then s.updCore core fun x => { x with priv := wrBytes x.priv o bytes }
  else if 0x10000000 ≤ o ∧ o < 0x12000000 then
    if s.storeRange p (storeAt core o) w.width then s.wrMems (storeAt core o) bytes
    else (s.coreFence core).accessFault core true o
  else if emberWindow ≤ o ∧ o + w.width ≤ emberWindow + 2 ^ 52 then s.coreStore core p (o - emberWindow) bytes
  else (s.coreFence core).accessFault core true o

/-- GENERIC_REGISTER_WRITE. `host`: host memory as it stands, for the commands that read it. -/
def execGenericRegisterWrite (w : RegWrite) (host : Cells) (s : State) : Out3 :=
  .next (match w.bus with
    | .core c => s.byCore c fun p => s.writeCore c (finOf 16 p) w host
    | .bar0 p => if w.aligned then s.writeBar0 p w host else s
    | .bar2 p => if w.aligned then s.writeBar2 p w else s
    | .bar4 p => if w.aligned then s.writeBar4 p w else s
    | .func0 h => if w.aligned then s.writeFunc0 h w else s
    | .config h fn => s.writeConfig h fn w)

end Sys2Proof.Machine
end

