-- ==== Sys2Proof/Machine/Dispatch.lean ====
section
/-! DEFINITION. One arm per command: the call of its meaning. -/

namespace Sys2Proof.Machine

def exec (i : Instr) (s : State) : Host.Outcome State Fault Refusal :=
  match i with
  | .planLoad p => Sys2Proof.Machine.execPlanLoad p s
  | .loadDone p img host => Sys2Proof.Machine.execLoadDone p img host s
  | .planArm p => Sys2Proof.Machine.execPlanArm p s
  | .planStop p => Sys2Proof.Machine.execPlanStop p s
  | .planUnload p => Sys2Proof.Machine.execPlanUnload p s
  | .unloadComplete p => Sys2Proof.Machine.execUnloadComplete p s
  | .rebind p host => Sys2Proof.Machine.execRebind p host s
  | .launch p => Sys2Proof.Machine.execLaunch p s
  | .sfClear p => Sys2Proof.Machine.execSfClear p s
  | .beat p => Sys2Proof.Machine.execBeat p s
  | .stepBoundary p => Sys2Proof.Machine.execStepBoundary p s
  | .loopEntry at_ ag level => Sys2Proof.Machine.execLoopEntry at_ ag level s
  | .loopSpanEnd t ag level => Sys2Proof.Machine.execLoopSpanEnd t ag level s
  | .flueBudgetWindow p => Sys2Proof.Machine.execFlueBudgetWindow p s
  | .wld at_ src form consume => Sys2Proof.Machine.execWld at_ src form consume s
  | .wldWithOverlay at_ src form ovl d chunks consume => Sys2Proof.Machine.execWldWithOverlay at_ src form ovl d chunks consume s
  | .wsw at_ => Sys2Proof.Machine.execWsw at_ s
  | .mmaAcc at_ row src fmt consume => Sys2Proof.Machine.execMmaAcc at_ row src fmt consume s
  | .mmaStart at_ row src fmt consume => Sys2Proof.Machine.execMmaStart at_ row src fmt consume s
  | .acz at_ row exact => Sys2Proof.Machine.execAcz at_ row exact s
  | .drn at_ row dst fmt => Sys2Proof.Machine.execDrn at_ row dst fmt s
  | .drw at_ row dst => Sys2Proof.Machine.execDrw at_ row dst s
  | .vop at_ op vd va vb vc => Sys2Proof.Machine.execVop at_ op vd va vb vc s
  | .vsf at_ fn vd va => Sys2Proof.Machine.execVsf at_ fn vd va s
  | .vrd at_ op seg vd va => Sys2Proof.Machine.execVrd at_ op seg vd va s
  | .vrg at_ vd vc key => Sys2Proof.Machine.execVrg at_ vd vc key s
  | .vtk at_ k vd vcand vlist base => Sys2Proof.Machine.execVtk at_ k vd vcand vlist base s
  | .vld at_ vd src consume => Sys2Proof.Machine.execVld at_ vd src consume s
  | .vst at_ va dst => Sys2Proof.Machine.execVst at_ va dst s
  | .snd at_ eng src n dst tag consume => Sys2Proof.Machine.execSnd at_ eng src n dst tag consume s
  | .draw at_ mem dst n => Sys2Proof.Machine.execDraw at_ mem dst n s
  | .lay at_ src mem n consume => Sys2Proof.Machine.execLay at_ src mem n consume s
  | .awt at_ slot => Sys2Proof.Machine.execAwt at_ slot s
  | .sclAlu at_ op rd a b => Sys2Proof.Machine.execSclAlu at_ op rd a b s
  | .sclMul at_ rd a b => Sys2Proof.Machine.execSclMul at_ rd a b s
  | .sclDiv at_ op rd a b => Sys2Proof.Machine.execSclDiv at_ op rd a b s
  | .sclLd at_ rd src consume => Sys2Proof.Machine.execSclLd at_ rd src consume s
  | .sclSt at_ rs dst => Sys2Proof.Machine.execSclSt at_ rs dst s
  | .cnt at_ ag level v => Sys2Proof.Machine.execCnt at_ ag level v s
  | .pcr at_ rd => Sys2Proof.Machine.execPcr at_ rd s
  | .mbx at_ rs core mtag => Sys2Proof.Machine.execMbx at_ rs core mtag s
  | .landingBeat t landing ecc => Sys2Proof.Machine.execLandingBeat t landing ecc s
  | .flueEntryComplete t slot ecc word => Sys2Proof.Machine.execFlueEntryComplete t slot ecc word s
  | .mailboxEntryArrival core => Sys2Proof.Machine.execMailboxEntryArrival core s
  | .tmbxWrite core tile word half v => Sys2Proof.Machine.execTmbxWrite core tile word half v s
  | .mbTailWrite core tail => Sys2Proof.Machine.execMbTailWrite core tail s
  | .emberHalt core mcause mepc mtval => Sys2Proof.Machine.execEmberHalt core mcause mepc mtval s
  | .halt p => Sys2Proof.Machine.execHalt p s
  | .start p => Sys2Proof.Machine.execStart p s
  | .startImage p => Sys2Proof.Machine.execStartImage p s
  | .steCount p => Sys2Proof.Machine.execSteCount p s
  | .sqPush core word1 => Sys2Proof.Machine.execSqPush core word1 s
  | .sqPop core => Sys2Proof.Machine.execSqPop core s
  | .sqSteal core => Sys2Proof.Machine.execSqSteal core s
  | .alloc core g => Sys2Proof.Machine.execAlloc core g s
  | .free core h => Sys2Proof.Machine.execFree core h s
  | .refInc core h => Sys2Proof.Machine.execRefInc core h s
  | .refDec core h => Sys2Proof.Machine.execRefDec core h s
  | .share core h => Sys2Proof.Machine.execShare core h s
  | .query core h => Sys2Proof.Machine.execQuery core h s
  | .pagePoolEnable p => Sys2Proof.Machine.execPagePoolEnable p s
  | .seal core => Sys2Proof.Machine.execSeal core s
  | .sealComplete p => Sys2Proof.Machine.execSealComplete p s
  | .unseal core => Sys2Proof.Machine.execUnseal core s
  | .release core ste => Sys2Proof.Machine.execRelease core ste s
  | .cancel core ste => Sys2Proof.Machine.execCancel core ste s
  | .trim core ste => Sys2Proof.Machine.execTrim core ste s
  | .releaseWalkEnd p => Sys2Proof.Machine.execReleaseWalkEnd p s
  | .btBalanceRead a => Sys2Proof.Machine.execBtBalanceRead a s
  | .btAdd a delta => Sys2Proof.Machine.execBtAdd a delta s
  | .lookup core => Sys2Proof.Machine.execLookup core s
  | .lookupHandle core => Sys2Proof.Machine.execLookupHandle core s
  | .insert core => Sys2Proof.Machine.execInsert core s
  | .remove core => Sys2Proof.Machine.execRemove core s
  | .register core => Sys2Proof.Machine.execRegister core s
  | .prefixEnable p => Sys2Proof.Machine.execPrefixEnable p s
  | .phSgInval core sg => Sys2Proof.Machine.execPhSgInval core sg s
  | .bank core => Sys2Proof.Machine.execBank core s
  | .bankMoveStart p => Sys2Proof.Machine.execBankMoveStart p s
  | .bankDone p => Sys2Proof.Machine.execBankDone p s
  | .migrate p => Sys2Proof.Machine.execMigrate p s
  | .rekindle core => Sys2Proof.Machine.execRekindle core s
  | .rekindleDone p far => Sys2Proof.Machine.execRekindleDone p far s
  | .bankEnable p => Sys2Proof.Machine.execBankEnable p s
  | .bankCqSpace core tail => Sys2Proof.Machine.execBankCqSpace core tail s
  | .contextArm core ctx => Sys2Proof.Machine.execContextArm core ctx s
  | .contextDisarm core ctx => Sys2Proof.Machine.execContextDisarm core ctx s
  | .shardWindowWrite p ctx off bytes from_ => Sys2Proof.Machine.execShardWindowWrite p ctx off bytes from_ s
  | .shardWindowRead p ctx off n => Sys2Proof.Machine.execShardWindowRead p ctx off n s
  | .resealVerifyDone p ctx => Sys2Proof.Machine.execResealVerifyDone p ctx s
  | .layerOpen core layer value => Sys2Proof.Machine.execLayerOpen core layer value s
  | .epochSet core epoch compat => Sys2Proof.Machine.execEpochSet core epoch compat s
  | .epochArm core epoch compat => Sys2Proof.Machine.execEpochArm core epoch compat s
  | .epochDisarm core => Sys2Proof.Machine.execEpochDisarm core s
  | .install core h atFlip tenant => Sys2Proof.Machine.execInstall core h atFlip tenant s
  | .pin core h => Sys2Proof.Machine.execPin core h s
  | .unpin core h gen => Sys2Proof.Machine.execUnpin core h gen s
  | .withdraw core h => Sys2Proof.Machine.execWithdraw core h s
  | .segmentSend c fit => Sys2Proof.Machine.execSegmentSend c fit s
  | .segmentReceive c bytes waves waits fec => Sys2Proof.Machine.execSegmentReceive c bytes waves waits fec s
  | .replayTimeout c => Sys2Proof.Machine.execReplayTimeout c s
  | .nackRepeat c => Sys2Proof.Machine.execNackRepeat c s
  | .laneFailing c lane cond fit => Sys2Proof.Machine.execLaneFailing c lane cond fit s
  | .wavelengthRestore c wave => Sys2Proof.Machine.execWavelengthRestore c wave s
  | .laneReq c => Sys2Proof.Machine.execLaneReq c s
  | .laneCmd c => Sys2Proof.Machine.execLaneCmd c s
  | .laneDone c => Sys2Proof.Machine.execLaneDone c s
  | .laneCmdRetry c => Sys2Proof.Machine.execLaneCmdRetry c s
  | .sync c => Sys2Proof.Machine.execSync c s
  | .ident c module number level => Sys2Proof.Machine.execIdent c module number level s
  | .trainingDone c => Sys2Proof.Machine.execTrainingDone c s
  | .measuringDone c => Sys2Proof.Machine.execMeasuringDone c s
  | .cordDown c => Sys2Proof.Machine.execCordDown c s
  | .leasePropose c => Sys2Proof.Machine.execLeasePropose c s
  | .leaseAck c => Sys2Proof.Machine.execLeaseAck c s
  | .leaseCommit c => Sys2Proof.Machine.execLeaseCommit c s
  | .leaseAbort c => Sys2Proof.Machine.execLeaseAbort c s
  | .leaseDone c => Sys2Proof.Machine.execLeaseDone c s
  | .leaseEffective c => Sys2Proof.Machine.execLeaseEffective c s
  | .packetComplete c => Sys2Proof.Machine.execPacketComplete c s
  | .rdReq p room host => Sys2Proof.Machine.execRdReq p room host s
  | .wrReq p => Sys2Proof.Machine.execWrReq p s
  | .rdRsp p => Sys2Proof.Machine.execRdRsp p s
  | .wrRsp p host => Sys2Proof.Machine.execWrRsp p host s
  | .nack p => Sys2Proof.Machine.execNack p s
  | .attemptTimeout p => Sys2Proof.Machine.execAttemptTimeout p s
  | .reqTimeout p => Sys2Proof.Machine.execReqTimeout p s
  | .completionEntryExpiry p => Sys2Proof.Machine.execCompletionEntryExpiry p s
  | .routeInval p => Sys2Proof.Machine.execRouteInval p s
  | .timeExchangeStart c => Sys2Proof.Machine.execTimeExchangeStart c s
  | .timeReq c frac => Sys2Proof.Machine.execTimeReq c frac s
  | .timeRsp c frac => Sys2Proof.Machine.execTimeRsp c frac s
  | .timeLabel c => Sys2Proof.Machine.execTimeLabel c s
  | .holdoverLimit => Sys2Proof.Machine.execHoldoverLimit s
  | .ntpRequest req => Sys2Proof.Machine.execNtpRequest req s
  | .damperUp c => Sys2Proof.Machine.execDamperUp c s
  | .damperSet c => Sys2Proof.Machine.execDamperSet c s
  | .damperChange p => Sys2Proof.Machine.execDamperChange p s
  | .desiredDamperUpdate slow => Sys2Proof.Machine.execDesiredDamperUpdate slow s
  | .freeze d warn => Sys2Proof.Machine.execFreeze d warn s
  | .freezeLift d warn => Sys2Proof.Machine.execFreezeLift d warn s
  | .slipReq c => Sys2Proof.Machine.execSlipReq c s
  | .domainBeacon c => Sys2Proof.Machine.execDomainBeacon c s
  | .domainBeaconSend p => Sys2Proof.Machine.execDomainBeaconSend p s
  | .beaconTimeout p => Sys2Proof.Machine.execBeaconTimeout p s
  | .cntClear p => Sys2Proof.Machine.execCntClear p s
  | .join p => Sys2Proof.Machine.execJoin p s
  | .joinRetry p => Sys2Proof.Machine.execJoinRetry p s
  | .joinTimeout p => Sys2Proof.Machine.execJoinTimeout p s
  | .domainJoin c => Sys2Proof.Machine.execDomainJoin c s
  | .domainAck c => Sys2Proof.Machine.execDomainAck c s
  | .domainCount c => Sys2Proof.Machine.execDomainCount c s
  | .leave p => Sys2Proof.Machine.execLeave p s
  | .leaveTakeEffect p => Sys2Proof.Machine.execLeaveTakeEffect p s
  | .partitionTeardown p bank => Sys2Proof.Machine.execPartitionTeardown p bank s
  | .shadowStart p => Sys2Proof.Machine.execShadowStart p s
  | .shadowSync c => Sys2Proof.Machine.execShadowSync c s
  | .shadowDigest c => Sys2Proof.Machine.execShadowDigest c s
  | .swap p => Sys2Proof.Machine.execSwap p s
  | .swapTakeEffect p => Sys2Proof.Machine.execSwapTakeEffect p s
  | .epochAdvance p => Sys2Proof.Machine.execEpochAdvance p s
  | .faultEpoch c => Sys2Proof.Machine.execFaultEpoch c s
  | .faultReport c => Sys2Proof.Machine.execFaultReport c s
  | .mergeClose => Sys2Proof.Machine.execMergeClose s
  | .twinModeWrite c valid b mode swap => Sys2Proof.Machine.execTwinModeWrite c valid b mode swap s
  | .cmsRead r type inst off count => Sys2Proof.Machine.execCmsRead r type inst off count s
  | .cmsWrite r type inst off data => Sys2Proof.Machine.execCmsWrite r type inst off data s
  | .create r args => Sys2Proof.Machine.execCreate r args s
  | .dissolve r args => Sys2Proof.Machine.execDissolve r args s
  | .move r args => Sys2Proof.Machine.execMove r args s
  | .lease r args => Sys2Proof.Machine.execLease r args s
  | .enableTest r args => Sys2Proof.Machine.execEnableTest r args s
  | .stageBegin r args => Sys2Proof.Machine.execStageBegin r args s
  | .stageWrite r args => Sys2Proof.Machine.execStageWrite r args s
  | .stageCopy r args => Sys2Proof.Machine.execStageCopy r args s
  | .stageEnd r args => Sys2Proof.Machine.execStageEnd r args s
  | .activate r args => Sys2Proof.Machine.execActivate r args s
  | .cancelActivate r args => Sys2Proof.Machine.execCancelActivate r args s
  | .activationRetest bank => Sys2Proof.Machine.execActivationRetest bank s
  | .activation => Sys2Proof.Machine.execActivation s
  | .confirm r args => Sys2Proof.Machine.execConfirm r args s
  | .healthConfirm bank => Sys2Proof.Machine.execHealthConfirm bank s
  | .trialTimeout => Sys2Proof.Machine.execTrialTimeout s
  | .restart r args => Sys2Proof.Machine.execRestart r args s
  | .persistNow r args => Sys2Proof.Machine.execPersistNow r args s
  | .holdupTest r args => Sys2Proof.Machine.execHoldupTest r args s
  | .holdupRetest bank => Sys2Proof.Machine.execHoldupRetest bank s
  | .cinderPersist bank => Sys2Proof.Machine.execCinderPersist bank s
  | .fuseRepair r args stackFull => Sys2Proof.Machine.execFuseRepair r args stackFull s
  | .selftest r args => Sys2Proof.Machine.execSelftest r args s
  | .selftestDone found sram stack waves bank => Sys2Proof.Machine.execSelftestDone found sram stack waves bank s
  | .cinderClear r args => Sys2Proof.Machine.execCinderClear r args s
  | .scrubDone g => Sys2Proof.Machine.execScrubDone g s
  | .coalesceClose => Sys2Proof.Machine.execCoalesceClose s
  | .keyInstall p slot host => Sys2Proof.Machine.execKeyInstall p slot host s
  | .erase p slot => Sys2Proof.Machine.execErase p slot s
  | .hostWindowEnable p w v => Sys2Proof.Machine.execHostWindowEnable p w v s
  | .go a ch host => Sys2Proof.Machine.execGo a ch host s
  | .stokeCancel a ch => Sys2Proof.Machine.execStokeCancel a ch s
  | .promotion g ch host => Sys2Proof.Machine.execPromotion g ch host s
  | .abort a ch => Sys2Proof.Machine.execAbort a ch s
  | .resume a ch host => Sys2Proof.Machine.execResume a ch host s
  | .skip a ch host => Sys2Proof.Machine.execSkip a ch host s
  | .stokeUnitDone g ch unit host => Sys2Proof.Machine.execStokeUnitDone g ch unit host s
  | .stokeUnitFail g ch unit write cause off => Sys2Proof.Machine.execStokeUnitFail g ch unit write cause off s
  | .settleReadDone g ch err => Sys2Proof.Machine.execSettleReadDone g ch err s
  | .stokeCqSpace a ch tail => Sys2Proof.Machine.execStokeCqSpace a ch tail s
  | .doorbell p q v => Sys2Proof.Machine.execDoorbell p q v s
  | .hqDevIdxWrite core v => Sys2Proof.Machine.execHqDevIdxWrite core v s
  | .hqRaise core q => Sys2Proof.Machine.execHqRaise core q s
  | .eventClear p w v same => Sys2Proof.Machine.execEventClear p w v same s
  | .eventEnable p r v => Sys2Proof.Machine.execEventEnable p r v s
  | .functionLevelReset h p => Sys2Proof.Machine.execFunctionLevelReset h p s
  | .perst h pin => Sys2Proof.Machine.execPerst h pin s
  | .hostLinkUp h speed width cxl => Sys2Proof.Machine.execHostLinkUp h speed width cxl s
  | .hostLinkDown h => Sys2Proof.Machine.execHostLinkDown h s
  | .genericRegisterWrite w host => Sys2Proof.Machine.execGenericRegisterWrite w host s
  | .powerUp => Sys2Proof.Machine.execPowerUp s
  | .kindleRomDone => Sys2Proof.Machine.execKindleRomDone s
  | .kindleRails late => Sys2Proof.Machine.execKindleRails late s
  | .kindleSelftest f bank => Sys2Proof.Machine.execKindleSelftest f bank s
  | .kindleLoad resets bank => Sys2Proof.Machine.execKindleLoad resets bank s
  | .kindleSync => Sys2Proof.Machine.execKindleSync s
  | .kindlePartitions => Sys2Proof.Machine.execKindlePartitions s
  | .moduleReset watchdog => Sys2Proof.Machine.execModuleReset watchdog s
  | .inputPower c => Sys2Proof.Machine.execInputPower c s
  | .inrushRamp => Sys2Proof.Machine.execInrushRamp s
  | .regulatorLimit d rail => Sys2Proof.Machine.execRegulatorLimit d rail s
  | .thermalTrip sensor => Sys2Proof.Machine.execThermalTrip sensor s
  | .sensorRead readings => Sys2Proof.Machine.execSensorRead readings s
  | .lossOfSymbolLock c ingress lane => Sys2Proof.Machine.execLossOfSymbolLock c ingress lane s
  | .symbolLockRegained c => Sys2Proof.Machine.execSymbolLockRegained c s
  | .spdmRequest h fn req => Sys2Proof.Machine.execSpdmRequest h fn req s
  | .romPldmUpdate hdr body => Sys2Proof.Machine.execRomPldmUpdate hdr body s
  | .sharedClockLoss d => Sys2Proof.Machine.execSharedClockLoss d s
  | .inputPowerRecovery => Sys2Proof.Machine.execInputPowerRecovery s
  | .timeLabelSend tai utc => Sys2Proof.Machine.execTimeLabelSend tai utc s
  | .leaseAcceptEnd c => Sys2Proof.Machine.execLeaseAcceptEnd c s
  | .leaveReleaseTimeout p => Sys2Proof.Machine.execLeaveReleaseTimeout p s
  | .kindleSyncTimeout => Sys2Proof.Machine.execKindleSyncTimeout s

end Sys2Proof.Machine
end

