-- ==== Sys2Proof/Machine/Idle.lean ====
section
/-! DEFINITION. The hall tick that passes while no command waits (R11, R13). -/

namespace Sys2Proof.Machine

/-- One hall tick: the 64-bit hall count goes on. -/
def State.idle (s : State) : State := { s with hall := (s.hall + 1) % 2 ^ 64 }

/-- Take the command at the front of the queue. -/
def State.rest (s : State) : State := { s with pending := s.pending.tail }

/-- Put a command at the front of the queue. -/
def State.put (s : State) (c : Instr) : State := { s with pending := c :: s.pending }

end Sys2Proof.Machine
end

