-- ==== Sys2Proof/Machine/RegRead.lean ====
section
/-! DEFINITION. A register read by address (R4, R17, R18, R20, R21, R500 to R505): what every register of the map reads as, in
every view. No row of the table is a read of this kind; the four reads with effects that have rows act through those. -/

namespace Sys2Proof.Machine

/-! ### Readers and values -/

/-- Where a register is read: a partition function of a port, function 0 of a port, a function's configuration space, or an
Ember core's bus. -/
inductive RegView where
  | bar0 (h : PortId) (p : PartId)
  | bar2 (h : PortId) (p : PartId)
  | bar4 (h : PortId) (p : PartId)
  | func0 (h : PortId)
  | config (h : PortId) (fn : Fin 17)
  | core (c : CoreId)
deriving DecidableEq, Repr

/-- What a read answers: a value, or an access fault in the core (R20, R190). -/
inductive Reading where
  | value (v : Nat)
  | fault
deriving DecidableEq, Repr

/-- A register as it reads: its offset, its bytes, its value. -/
abbrev RegVal := Nat × Nat × Nat

/-- A byte of a block: of the register that covers it, 0 where none does (R17, R18). -/
def regByte (l : List RegVal) (a : Nat) : Nat :=
  match l.find? fun r => r.1 ≤ a && a < r.1 + r.2.1 with
  | some r => r.2.2 / 256 ^ (a - r.1) % 256
  | none => 0

/-- `n` bytes of a block, as a number. -/
def regBytes (l : List RegVal) (a n : Nat) : Nat := ((List.range n).map fun i => regByte l (a + i) * 256 ^ i).sum

/-- A bit at a place. -/
def bitAt (b : Bool) (i : Nat) : Nat := if b then 2 ^ i else 0

/-- Natural alignment, 32 or 64 bits (R20). -/
def alignedAt (off width : Nat) : Bool := (width = 4 || width = 8) && off % width = 0

/-! ### Identity (R4, R429, R431, R466) -/

/-- The partition function is bound to the port (R429). -/
def State.boundTo (s : State) (h p : Nat) : Bool := (s.part p).live && (s.part p).port = h

/-- FN_STATUS.STATE of function `fn` of a port. -/
def State.fnStateAt (s : State) (h fn : Nat) : Nat :=
  if fn = 0 then (if s.kindle.phase = 6 then 1 else 0) else if s.boundTo h (fn - 1) then s.fnStateOf (fn - 1) else 2

/-- FN_ID: partition, port and FUNC0, the stepping, the highest PCL implemented (R4). -/
def fnId (h fn : Nat) : Nat := (fn - 1) + h * 2 ^ 4 + bitAt (fn = 0) 6 + 0xA1 * 2 ^ 8 + Config.maxPcl * 2 ^ 16

/-- The identity block of function `fn` of a port, 0x0000 to 0x001F. -/
def State.identRegs (s : State) (h fn : Nat) : List RegVal :=
  let x := s.portX h
  let groups := if fn = 0 then (s.portParts h).foldl (fun a p => a + 2 ^ p) 0
    else if s.boundTo h (fn - 1) then s.groupBits (fn - 1) else 0
  let msg := if fn = 0 then tabGet false s.fn0 h else s.boundTo h (fn - 1) && (s.part (fn - 1)).fn.msgEn
  [(0x00, 4, fnId h fn),
   (0x04, 4, s.moduleId + groups * 2 ^ 16),
   (0x08, 4, s.fnStateAt h fn + x.speed * 2 ^ 8 + x.width * 2 ^ 11 + bitAt x.cxl 16),
   (0x0C, 4, bitAt msg 0),
   (0x10, 8, s.hall),
   (0x18, 4, s.fnKindle),
   (0x1C, 4, fld s.runHdr 16 4)]

/-- Configuration space: vendor and device, the command register's Bus Master Enable, revision and class (R429). -/
def State.configRegs (s : State) (h fn : Nat) : List RegVal :=
  [(0, 4, Config.vendorId.toNat + (if fn = 0 then 0x0160 else 0x0161) * 2 ^ 16),
   (4, 4, bitAt (fn ≠ 0 && (s.portX h).bme.contains (fn - 1)) 2),
   (8, 4, 0xA1 + 0x120000 * 2 ^ 8)]

/-! ### Blocks that both views reach -/

/-- The budget window at `b` (R221); an entry outside BT_RANGE reads 0. -/
def State.budgetVals (s : State) (a : Agent) (p b : Nat) : List RegVal :=
  let x := match s.btEntry a with
    | some e => s.budget e
    | none => {}
  let sel := match a with
    | .core c => (s.core c).btSel
    | .host q => (s.part q).serving.btSel
  [(b, 4, (s.part p).btFirst + (s.part p).btCount * 2 ^ 16),
   (b + 0x08, 4, sel),
   (b + 0x10, 4, (x.balance % 2 ^ 32).toNat),
   (b + 0x14, 4, x.refill),
   (b + 0x18, 4, x.cap),
   (b + 0x1C, 4, x.tenant + x.grace * 2 ^ 16),
   (b + 0x20, 8, x.period),
   (b + 0x28, 8, x.next),
   (b + 0x38, 8, x.charged)]

/-- STK_STATUS.STATE: CQ_WAIT while records wait for room in the ring (R415, R423). -/
def StkChan.stateCode (x : StkChan) : Nat :=
  if x.recs ≠ [] then 4 else match x.st with
    | .idle | .ended => 0
    | .running => 1
    | .halted => 2
    | .settling => 3

/-- A channel's registers at `b` (R424). -/
def stokeVals (x : StkChan) (b : Nat) : List RegVal :=
  let opts (r : StkRegs) : Nat := bitAt r.settle 0 + bitAt r.irq 1
  [(b + 0x04, 4, x.stateCode + bitAt x.armed 3 + bitAt x.cqBad 4 + x.cause * 2 ^ 8),
   (b + 0x08, 8, x.act.src), (b + 0x10, 8, x.act.dst),
   (b + 0x18, 4, x.act.srcN + x.act.dstN * 2 ^ 16),
   (b + 0x1C, 4, opts x.act),
   (b + 0x20, 8, x.act.tag.toNat),
   (b + 0x28, 4, x.seq),
   (b + 0x30, 8, x.movedBytes),
   (b + 0x38, 8, x.haltAddr),
   (b + 0x40, 8, x.haltOff % 2 ^ 32 + x.haltIdx * 2 ^ 32 + bitAt x.haltDst 45),
   (b + 0x48, 8, x.cqBase),
   (b + 0x50, 4, x.cqLog2 + bitAt x.host 8),
   (b + 0x54, 4, x.cqHead), (b + 0x58, 4, x.cqTail), (b + 0x5C, 4, x.cqStalls),
   (b + 0x88, 8, x.sh.src), (b + 0x90, 8, x.sh.dst),
   (b + 0x98, 4, x.sh.srcN + x.sh.dstN * 2 ^ 16),
   (b + 0x9C, 4, opts x.sh),
   (b + 0xA0, 8, x.sh.tag.toNat)]

/-- The eight channels of an engine, from `b`. -/
def State.engineVals (s : State) (g : Option Nat) (b : Nat) : List RegVal :=
  match g with
  | some g => (List.range 8).flatMap fun k => stokeVals (s.chan (8 * g + k)) (b + 0x100 * k)
  | none => []

/-! ### BAR0 of a partition function -/

/-- Events: 0x0100 to 0x01BF (R437). -/
def eventVals (x : Fn) : List RegVal :=
  [(0x100, 4, x.evStatus.toNat), (0x104, 4, x.evEnable.toNat)] ++
  ((List.range 16).map fun i => (0x110 + 4 * i, 4, tabGet 0 x.evVec i)) ++
  [(0x180, 32, x.qEvent.toNat), (0x1A0, 32, x.qEvEnable.toNat)]

/-- Q_CFG of a queue. -/
def Queue.cfg (q : Queue) : Nat := bitAt q.enable 0 + bitAt q.output 1 + q.log2 * 2 ^ 2 + q.esize * 2 ^ 8 + q.vector * 2 ^ 16

/-- Queues: 0x2000 to 0x201F (R434). -/
def queueVals (x : Fn) : List RegVal :=
  let q : Queue := tabGet {} x.queues x.qSel
  [(0x2000, 4, x.qSel), (0x2008, 8, q.base), (0x2010, 4, q.cfg), (0x2014, 4, q.hostIdx.toNat), (0x2018, 4, q.devIdx.toNat),
   (0x201C, 4, q.dbBad)]

/-- Serving: 0x3000 to 0x3014 (R227). -/
def State.servingVals (s : State) (p : Nat) : List RegVal :=
  let v := (s.part p).serving
  let core := if v.srvState = 3 then ((s.coresOf p).find? fun c => (s.core c).run = .halted).getD 0 else 0
  [(0x3004, 4, v.srvState + v.error * 2 ^ 8 + core * 2 ^ 16),
   (0x3008, 8, v.imgBase), (0x3010, 4, v.imgLen),
   (0x3014, 4, if (s.part p).frame.ste = 0 then 0 else v.inUse)]

/-- Plan control: 0x4000 to 0x4127 (R75). -/
def State.planVals (s : State) (p : Nat) : List RegVal :=
  let x := (s.part p).plan
  let f := x.sf
  let pcl := if x.st = .empty then 0 else (x.loaded.map (·.pcl)).getD 0
  [(0x4004, 4, s.planCode p + bitAt x.rebind.isSome 4 + bitAt f.valid 5 + pcl * 2 ^ 8 + Config.maxPcl * 2 ^ 16),
   (0x4008, 8, x.base), (0x4010, 4, x.len),
   (0x4014, 4, x.errCode + x.errDetail * 2 ^ 8),
   (0x4018, 8, x.launchAt), (0x4020, 8, x.pc), (0x4028, 8, x.step),
   (0x4030, 8, x.delayBase), (0x4038, 4, x.delayLen),
   (0x403C, 4, x.spareMin + x.spareHop * 2 ^ 16),
   (0x4100, 4, bitAt f.valid 0 + bitAt f.more 1 + f.cls * 2 ^ 8 + f.tile * 2 ^ 16 + f.slot * 2 ^ 24),
   (0x4104, 4, f.bundle + f.tagExp * 2 ^ 16 + f.tagGot * 2 ^ 20),
   (0x4108, 8, f.planTick), (0x4110, 8, f.hall),
   (0x4118, 8, f.src.tile + f.src.module * 2 ^ 8 + f.src.cord * 2 ^ 23 + bitAt f.src.via 28 + f.src.route * 2 ^ 32),
   (0x4120, 8, f.detLo + f.detMid * 2 ^ 16 + f.detHi * 2 ^ 32)]

/-- TDC_TOTAL: every counter but HOLD_TICKS (R355). -/
def Counters.total (c : Counters) : Nat :=
  min (2 ^ 64 - 1) (c.holdEvents + c.slipsIssued + c.slipsApplied + c.retries + c.lateAwaits + c.damper + c.steals + c.inexact)

/-- The determinism counters in the order of their offsets (R356). -/
def Counters.list (c : Counters) : List Nat :=
  [c.holdEvents, c.holdTicks, c.slipsIssued, c.slipsApplied, c.retries, c.lateAwaits, c.damper, c.steals, c.inexact, c.total]

/-- TIME_STATUS (R356): the cord in use as parent, OFFSET in 1/16 tick, signed and saturating. -/
def State.timeStatus (s : State) : Nat :=
  let t := s.time
  let free := t.st = .root ∨ t.st = .free
  let cord := if free then 0 else (if t.useAlt then t.altRec else t.parent) % 32
  let off := if free then 0 else max (-128) (min 127 ((s.cord cord).theta / 4))
  t.st.code + cord * 2 ^ 8 + bitAt t.useAlt 13 + t.depth * 2 ^ 16 + (off % 256).toNat * 2 ^ 24

/-- Time: 0x5000 to 0x514F (R356). -/
def State.timeVals (s : State) (p : Nat) : List RegVal :=
  let c := (s.part p).clock
  let x := (s.part p).plan
  let t := s.time
  let sat (v : Nat) : Nat := min v (2 ^ 32 - 1)
  [(0x5000, 8, s.hall), (0x5008, 4, s.timeStatus),
   (0x5010, 8, t.labelHall), (0x5018, 8, t.labelTai),
   (0x5020, 4, c.m + c.mNext * 2 ^ 5 + bitAt c.pend 10 + t.mLocal * 2 ^ 16 + c.seq % 256 * 2 ^ 24),
   (0x5028, 8, c.damperAt),
   (0x5040, 4, c.slipLead), (0x5044, 4, c.slipMax), (0x5048, 8, c.slipWindow),
   (0x5050, 8, c.stepStart),
   (0x5058, 8, if x.st = .empty then 0 else c.g x.stepLen (x.step + 1)),
   (0x5060, 8, c.x (x.step + 1)),
   (0x5068, 4, sat c.lag), (0x506C, 4, sat (c.lag + c.stepHeld)), (0x5070, 4, sat c.debtMax), (0x5074, 4, sat c.winSum),
   (0x5078, 4, c.holdCause + c.holdTile * 2 ^ 8)] ++
  c.cnt.list.zipIdx.map fun e => (0x5100 + 8 * e.2, 8, e.1)

/-- The unit of CIN_SEL that the partition's view shows: its kind and physical index (R483). -/
def State.cinUnit (s : State) (p kind i : Nat) : Option Nat :=
  if kind = kTile then (if i < 192 ∧ s.tilePart i = some p then some (s.physTile i) else none)
  else if kind = kCore then (if i < 64 ∧ s.owns p (i / 4) then some i else none)
  else if kind = kNear ∨ kind = kStoke then (if i < 16 ∧ s.owns p i then some i else none)
  else if kind = kTurf then (if i < 8 ∧ (s.owns p (2 * i) ∨ s.owns p (2 * i + 1)) then some i else none)
  else if kind = kPart ∨ kind = kAssist ∨ kind = kKeys then (if i = p then some i else none)
  else none

/-- Faults: 0x6000 to 0x627F (R483). -/
def State.faultVals (s : State) (p : Nat) : List RegVal :=
  let P := s.part p
  let kind := P.cinSel % 256
  let unit := s.cinUnit p kind (P.cinSel / 256)
  let count (c : Nat) : Nat := match unit with
    | some i => tabGet 0 s.cinder (cinderKey kind i c)
    | none => 0
  let back := (P.flHead + 2 ^ 32 - 1 - P.flSel) % 2 ^ 32
  let entry := if back < P.flLog.length then ((P.flLog[P.flLog.length - 1 - back]?).map entryBytes).getD [] else []
  [(0x6000, 4, P.cinSel), (0x6004, 4, bitAt unit.isNone 0)] ++
  ((List.range 48).map fun w => (0x6100 + 4 * w, 4, count (2 * w) + count (2 * w + 1) * 2 ^ 16)) ++
  [(0x6200, 4, P.flHead), (0x6204, 4, P.flSel)] ++
  ((List.range 8).map fun i => (0x6240 + 8 * i, 8, fld entry (8 * i) 8))

/-- Security: 0x7000 to 0x74FF (R408). -/
def State.securityVals (s : State) (p : Nat) : List RegVal :=
  let P := s.part p
  let x := P.sec
  [(0x7000, 4, bitAt P.keysReady 0 + bitAt s.tap.production 1 + bitAt (!P.serving.elvune && !P.serving.held) 2),
   (0x7004, 4, x.wrapGen), (0x7008, 8, x.blobBase), (0x7014, 4, x.code + x.slot * 2 ^ 8)] ++
  ((List.range 32).flatMap fun i =>
    let k : KeySlot := tabGet {} x.slots i
    [(0x7100 + 16 * i, 4, bitAt k.valid 0 + k.use * 2 + bitAt k.drawn 4), (0x7108 + 16 * i, 8, k.keyId)]) ++
  ((List.range 8).flatMap fun i =>
    let w : HostWin := tabGet {} x.wins i
    [(0x7400 + 32 * i, 8, w.base), (0x7408 + 32 * i, 8, w.size), (0x7410 + 32 * i, 8, w.target),
     (0x7418 + 32 * i, 4, bitAt w.enable 0 + bitAt w.cxl 1 + bitAt w.readOnly 2)])

/-- BAR0 of a partition function: the identity block in every state, the other blocks while READY or FENCED (R367, R431). -/
def State.bar0Vals (s : State) (h p off : Nat) : List RegVal :=
  let P := s.part p
  let st := s.fnStateAt h (p + 1)
  if off < 0x100 then s.identRegs h (p + 1)
  else if st = 0 ∨ st = 2 then []
  else if off < 0x1000 then eventVals P.fn
  else if off < 0x2000 then s.engineVals (s.hostEngine p) 0x1000
  else if off < 0x3000 then queueVals P.fn
  else if off < 0x3100 then s.servingVals p
  else if off < 0x4000 then s.budgetVals (.host (finOf 16 p)) p 0x3100
  else if off < 0x5000 then s.planVals p
  else if off < 0x6000 then s.timeVals p
  else if off < 0x7000 then s.faultVals p
  else if off < 0x8000 then s.securityVals p
  else []

/-- BAR4: the MSI-X entry at an offset, or the pending bits (R429). -/
def State.bar4Vals (s : State) (h p off : Nat) : List RegVal :=
  let x := (s.part p).fn
  if ¬ s.boundTo h p then []
  else if off < 0x8000 then
    let v := off / 16
    let m : Msix := tabGet {} x.msix v
    [(16 * v, 8, m.addr.toNat), (16 * v + 8, 4, m.data.toNat), (16 * v + 12, 4, bitAt m.masked 0)]
  else if off < 0x8100 then
    let w := (off - 0x8000) / 8
    [(0x8000 + 8 * w, 8, ((List.range 64).map fun i => bitAt (tabGet {} x.msix (64 * w + i)).pend i).sum)]
  else []

/-! ### The Ember view (R189) -/

/-- The core-local block (R192). -/
def State.localVals (s : State) (c p : Nat) : List RegVal :=
  let x := s.core c
  let b := 0x30000000
  [(b, 4, coreInfo c p), (b + 0x08, 8, s.hall), (b + 0x10, 8, (s.part p).plan.step),
   (b + 0x18, 4, x.event.toNat), (b + 0x1C, 4, x.eventEn.toNat),
   (b + 0x20, 4, x.mbHead), (b + 0x24, 4, x.mbTail), (b + 0x28, 4, x.mbDropped)] ++
  ((List.range 64).map fun i => (b + 0x400 + 16 * i, 16, leNat (tabGet [] x.ring i)))

/-- The page allocator (R211). -/
def State.pageVals (s : State) (c p : Nat) : List RegVal :=
  let a := (s.part p).alloc
  let x := s.core c
  let b := 0x20000000
  [(b, 4, a.shift + bitAt a.enable 3 + bitAt a.cfgBad 8 + a.badGroup * 2 ^ 12)] ++
  ((List.range 16).flatMap fun g =>
    let o := b + 0x100 + 0x20 * g
    let y := a.pool g
    [(o, 8, y.base), (o + 0x08, 8, y.hdr), (o + 0x10, 4, if s.owns p g then y.pages else 0),
     (o + 0x14, 4, if s.owns p g then a.freeCount g else 0), (o + 0x18, 4, y.low)]) ++
  [(b + 0x508, 4, x.paStatus + x.paState * 2 ^ 3 + min x.paRefs 0xFFFF * 2 ^ 16)]

/-- The prefix hash unit (R242): BUSY in the hall tick in which the core's command was accepted. -/
def State.prefixVals (s : State) (c p : Nat) : List RegVal :=
  let x := (s.core c).ph
  let u := (s.part p).phu
  let b := 0x20001000
  [(b, 4, x.sg), (b + 0x04, 4, x.ste), (b + 0x08, 8, x.tokens), (b + 0x10, 8, x.handle), (b + 0x18, 4, x.blocks),
   (b + 0x1C, 4, x.first), (b + 0x20, 8, x.plist), (b + 0x2C, 4, x.entry),
   (b + 0x30, 4, bitAt (x.taken = some s.hall) 0 + x.code * 2 ^ 4),
   (b + 0x34, 8, x.hit + x.existing * 2 ^ 32),
   (b + 0x40, 16, x.chain.toNat),
   (b + 0x100, 8, u.base), (b + 0x108, 4, u.bits + bitAt u.enable 8 + bitAt u.cfgBad 9), (b + 0x110, 8, u.sgBase),
   (b + 0x118, 4, u.sgCount), (b + 0x120, 4, u.confirmFail)]

/-- Frame builder, weights and overlays (R218, R257, R263, R270). -/
def State.frameVals (s : State) (c p : Nat) : List RegVal :=
  let f := (s.part p).frame
  let w := (s.part p).wts
  let x := (s.core c).reg
  let b := 0x20003000
  let units (n : Nat) : Nat := if f.slotCeil = 0 then 0 else n / 4096
  let shadow := match f.shadow with
    | .open_ => 0
    | .sealing => 1
    | .sealed => 2
  let ctx := x.wlRes
  [(b, 8, f.area), (b + 0x08, 8, f.mirror), (b + 0x10, 8, f.out), (b + 0x18, 8, f.ste), (b + 0x20, 4, bitAt f.missHold 0),
   (b + 0x24, 4, f.slotCeil + units (frameStride f.slotCeil) * 2 ^ 16 + units (outStride f.slotCeil) * 2 ^ 24),
   (b + 0x28, 4, shadow + f.shadowBuf * 2 ^ 2 + f.voidLast * 2 ^ 16),
   (b + 0x30, 8, f.target), (b + 0x40, 4, f.missed), (b + 0x44, 4, f.voided), (b + 0x48, 8, f.digest),
   (b + 0x50, 4, f.queue.length + f.walks.length * 2 ^ 16),
   (b + 0x100, 4, w.active + w.prev * 2 ^ 8 + bitAt w.kvCompat 16 + bitAt w.armed 17 + w.next * 2 ^ 24),
   (b + 0x108, 8, w.stepReg), (b + 0x110, 4, w.errCode + w.errLayer * 2 ^ 8), (b + 0x114, 4, w.swapViol),
   (b + 0x200, 8, w.ctxBase), (b + 0x20C, 4, ctx), (b + 0x210, 4, w.dropped),
   (b + 0x300, 8, w.ovBase), (b + 0x308, 4, w.ovCount), (b + 0x310, 8, x.ovArg),
   (b + 0x320, 4, x.ovCode + x.ovGen * 2 ^ 8 + x.ovPins * 2 ^ 16)] ++
  ((List.range 256).map fun l => (b + 0x400 + 4 * l, 4, (w.layer l).pending + bitAt (w.layer l).opened 16))

/-- The banking engine (R247, R251). -/
def State.bankVals (s : State) (c p : Nat) : List RegVal :=
  let k := (s.part p).bank
  let x := (s.core c).reg
  let b := 0x20004000
  let e := s.bankExpiry p
  [(b, 8, k.turfBase), (b + 0x08, 4, k.turfSlots), (b + 0x10, 8, k.farBase), (b + 0x18, 4, k.farSlots), (b + 0x20, 8, k.tagBase),
   (b + 0x28, 4, bitAt k.enable 0 + bitAt k.cfgBad 1), (b + 0x2C, 4, k.high), (b + 0x30, 4, k.low),
   (b + 0x38, 8, k.cqBase), (b + 0x40, 4, k.cqLog2), (b + 0x44, 4, k.cqHead), (b + 0x48, 4, k.cqTail),
   (b + 0x50, 4, x.bkSte + x.bkGroup * 2 ^ 16), (b + 0x58, 8, x.bkTtl), (b + 0x64, 4, x.bkRes),
   (b + 0x68, 4, k.turfUsed.length), (b + 0x6C, 4, k.farUsed.length), (b + 0x70, 4, k.deferred), (b + 0x74, 4, k.stalls),
   (b + 0x78, 4, match e with
     | some y => y.1 + 2 ^ 31
     | none => 0),
   (b + 0x80, 8, (e.map (·.2)).getD 0)]

/-- Steal queues (R199). -/
def State.stealVals (s : State) (c p : Nat) : List RegVal :=
  let x := s.core c
  let b := 0x20005000
  [(b + 0x20, 8, x.sqLatch.toNat), (b + 0x28, 4, x.sq.length + bitAt x.sqRefused 16 + x.sqVictim * 2 ^ 24)] ++
  ((List.range 64).map fun e => (b + 0x100 + 4 * e, 4, if s.owns p (e / 4) then (s.core e).sq.length else 0))

/-- Queue registers of the Stoke mirror (R435). -/
def State.mirrorVals (s : State) (c p : Nat) : List RegVal :=
  let f := (s.part p).fn
  let sel := (s.core c).hqSel
  let q : Queue := tabGet {} f.queues sel
  let b := 0x20006800
  [(b, 4, sel), (b + 0x08, 8, q.base), (b + 0x10, 4, q.cfg), (b + 0x14, 4, q.hostIdx.toNat), (b + 0x18, 4, q.devIdx.toNat),
   (b + 0x40, 32, ((List.range 256).map fun i => bitAt (tabGet {} f.queues i).pend i).sum), (b + 0x60, 4, f.hqGen)]

/-- The block of a core's device space that holds an offset. -/
def State.emberVals (s : State) (c p o : Nat) : List RegVal :=
  if 0x30000000 ≤ o then s.localVals c p
  else match (o - 0x20000000) / 0x1000 with
    | 0 => s.pageVals c p
    | 1 => s.prefixVals c p
    | 2 => s.budgetVals (.core (finOf 64 c)) p 0x20002000
    | 3 => s.frameVals c p
    | 4 => s.bankVals c p
    | 5 => s.stealVals c p
    | _ => if o < 0x20006800 then s.engineVals (some (c / 4)) 0x20006000 else s.mirrorVals c p

/-! ### Counters read in halves (R21, R504) -/

/-- A reader, as a number. -/
def RegView.reader : RegView → Nat
  | .bar0 h p | .bar2 h p | .bar4 h p => 17 * h + p + 1
  | .func0 h => 17 * h
  | .config h fn => 256 + 17 * h + fn
  | .core c => 128 + c

/-- Offsets of the 64-bit counters that are read as R21 (R504). -/
def RegView.counterAt (v : RegView) (o : Nat) : Bool :=
  match v with
  | .bar0 _ _ => o = 0x10 || o = 0x5000 || o = 0x4020 || o = 0x3138 || (0x1000 ≤ o && o < 0x1800 && o % 0x100 = 0x30) ||
      (0x5100 ≤ o && o < 0x5150 && o % 8 = 0)
  | .func0 _ => o = 0x10
  | .core _ => o = 0x30000008 || o = 0x20002038 || o = 0x20004080 || (0x20006000 ≤ o && o < 0x20006800 && o % 0x100 = 0x30)
  | _ => false

/-- The latch of a counter at `o` for a reader. -/
def RegView.latchKey (v : RegView) (o : Nat) : Nat := v.reader * 2 ^ 32 + o

/-- A read of a block of registers: a 32-bit read of a counter's low half latches the high half, and one of its high half
returns what was latched (R21). -/
def State.readBlock (s : State) (v : RegView) (l : List RegVal) (o width : Nat) : State × Reading :=
  if width = 4 ∧ v.counterAt o then
    ({ s with latches := tabSet 0 s.latches (v.latchKey o) (regBytes l (o + 4) 4) }, .value (regBytes l o 4))
  else if width = 4 ∧ 4 ≤ o ∧ v.counterAt (o - 4) then (s, .value (tabGet 0 s.latches (v.latchKey (o - 4))))
  else (s, .value (regBytes l o width))

/-! ### A read -/

/-- What the last reply to a reader carried. -/
def State.lastRead (s : State) : Nat :=
  match s.outbox.getLast? with
  | some (.coreRead _ v) => v
  | some (.hostRead _ v) => v
  | _ => 0

/-- A read that has a row of its own: the state after it, and the bytes of its reply that the width takes. -/
def State.readRow (s : State) (f : State → Out3) (width : Nat) : State × Reading :=
  (s.does f, .value ((s.does f).lastRead % 256 ^ width))

/-- A read of BT_BALANCE: its row acts, and what the width takes is read of the window after it (R219). -/
def State.readBalance (s : State) (a : Agent) (p b o width : Nat) : State × Reading :=
  let t := s.does (execBtBalanceRead a)
  (t, .value (regBytes (t.budgetVals a p b) o width))

/-- A load that reaches nothing: counted, and an access fault in the core (R190). -/
def State.loadFault (s : State) (c : CoreId) (o : Nat) : State × Reading := ((s.coreFence c).accessFault c false o, .fault)

/-- A load from a core's device space. -/
def State.loadReg (s : State) (c : CoreId) (p o width : Nat) : State × Reading :=
  if ¬ alignedAt o width then (s.accessFault c false o, .fault)
  else if 0x20000400 ≤ o ∧ o < 0x20000480 ∧ o % 8 = 0 then s.readRow (execAlloc c (finOf 16 ((o - 0x20000400) / 8))) width
  else if o = 0x20005010 then s.readRow (execSqPop c) width
  else if o = 0x20005018 then s.readRow (execSqSteal c) width
  else if o = 0x20002010 then s.readBalance (.core c) p 0x20002000 o width
  else s.readBlock (.core c) (s.emberVals c p o) o width

/-- A load on a core's bus: its private memory, the Ember store of its die, the device space, the partition-mapped window (R189,
R190). -/
def State.loadCore (s : State) (c : CoreId) (p o width : Nat) : State × Reading :=
  if (0x20000000 ≤ o ∧ o < 0x20007000) ∨ (0x30000000 ≤ o ∧ o < 0x30008000) then s.loadReg c p o width
  else if o + width ≤ 0x40000 then (s, .value (rdLe (s.core c).priv o width))
  else if 0x10000000 ≤ o ∧ o < 0x12000000 then
    if s.storeRange p (storeAt c o) width then (s, .value (s.memLe (storeAt c o) width)) else s.loadFault c o
  else if emberWindow ≤ o ∧ o + width ≤ emberWindow + 2 ^ 52 then
    if s.anyRange p (o - emberWindow) width then (s.fresh, .value (s.pLe p (o - emberWindow) width))
    else ((s.unmapped kCore c p (o - emberWindow)).accessFault c false o, .fault)
  else s.loadFault c o

/-- A host read of another width or misaligned returns all ones (R20). -/
def State.hostRead (s : State) (v : RegView) (l : List RegVal) (o width : Nat) : State × Reading :=
  if alignedAt o width then s.readBlock v l o width else (s, .value (256 ^ width - 1))

/-- A read of `width` bytes at an offset of a view. -/
def State.readReg (s : State) (v : RegView) (o width : Nat) : State × Reading :=
  match v with
  | .bar0 h p =>
    if alignedAt o width ∧ o = 0x3110 ∧ s.boundTo h p ∧ s.fnReady p then s.readBalance (.host p) p 0x3100 o width
    else s.hostRead v (s.bar0Vals h p o) o width
  | .bar2 _ _ => s.hostRead v [] o width
  | .bar4 h p => s.hostRead v (s.bar4Vals h p o) o width
  | .func0 h => s.hostRead v (s.identRegs h 0) o width
  | .config h fn => s.hostRead v (s.configRegs h fn) o width
  | .core c =>
    match s.ownerOf (c.val / 4) with
    | some p => if (s.core c).run = .running then s.loadCore c p o width else (s, .fault)
    | none => (s, .fault)

end Sys2Proof.Machine
end

