-- ==== Sys2Proof/Safety.lean ====
section
/-! DEFINITION. The terms statements use: what a command leaves as it was, and the canonical form of what State holds. -/

namespace Sys2Proof.Machine

/-- The canonical form of a byte memory: addresses strictly rising, no byte 0 listed. -/
abbrev Memory.wf (m : Cells) : Bool := tabWf 0#8 m

/-- Partitions other than `p` are unchanged. -/
def PartsBut (p : Nat) (s t : State) : Prop := ∀ q, q ≠ p → t.part q = s.part q
/-- Tiles other than `k` are unchanged. -/
def TilesBut (k : Nat) (s t : State) : Prop := ∀ j, j ≠ k → t.tile j = s.tile j
/-- Ember cores other than `c` are unchanged. -/
def CoresBut (c : Nat) (s t : State) : Prop := ∀ j, j ≠ c → t.core j = s.core j
/-- Cords other than `c` are unchanged. -/
def CordsBut (c : Nat) (s t : State) : Prop := ∀ j, j ≠ c → t.cord j = s.cord j
/-- Groups other than `g` are unchanged. -/
def GroupsBut (g : Nat) (s t : State) : Prop := ∀ j, j ≠ g → t.group j = s.group j

/-- Nothing of the state differs but partition `p`. -/
def OnlyPart (p : Nat) (s t : State) : Prop := t = { s with parts := t.parts } ∧ PartsBut p s t
/-- Nothing of the state differs but tile `k`. -/
def OnlyTile (k : Nat) (s t : State) : Prop := t = { s with tiles := t.tiles } ∧ TilesBut k s t
/-- Nothing of the state differs but Ember core `c`. -/
def OnlyCore (c : Nat) (s t : State) : Prop := t = { s with cores := t.cores } ∧ CoresBut c s t
/-- Nothing of the state differs but cord `c`. -/
def OnlyCord (c : Nat) (s t : State) : Prop := t = { s with cords := t.cords } ∧ CordsBut c s t
/-- Nothing of the state differs but group `g`. -/
def OnlyGroup (g : Nat) (s t : State) : Prop := t = { s with groups := t.groups } ∧ GroupsBut g s t

/-- Nothing differs but the fault log, its counters and the events that an entry raises (R480 to R482). -/
def OnlyLogged (s t : State) : Prop :=
  t = { s with parts := t.parts, cinder := t.cinder, coalesce := t.coalesce, log := t.log, logSeq := t.logSeq, outbox := t.outbox } ∧
  ∀ q, t.part q = { s.part q with flLog := (t.part q).flLog, flHead := (t.part q).flHead, fn := (t.part q).fn }

/-- An operation of a slot of a tile issues: the tile is of partition `p`, whose plan runs in a step that has begun; no bundle
of the tile waits and no loop is still to be entered; the operation's bundle is the one at the program position, it issues
in this tick, and the slot has issued nothing in it (R76, R78, R80, R83, R86). -/
def CanIssue (s : State) (i : Issue) (p slot : Nat) : Prop :=
  s.tilePart i.tile = some p ∧ (s.part p).plan.st = .running ∧ (s.tile i.tile).wait = none ∧ s.mayIssue p i slot = true ∧
  (s.tile i.tile).dueLoop (s.part p).plan.pc (s.part p).plan.workEnd = none

/-- A tile one of whose slots is used in this tick (R76). -/
def Tile.used (t : Tile) (slot : Nat) : Tile := { t with slots := slot :: t.slots }

/-- The state after an operation that issued: what its meaning did, and its slot used in this tick (R76). -/
def State.slotUsed (s : State) (i : Issue) (slot : Nat) : State := s.updTile i.tile fun t => t.used slot

/-- The checks of a read pass and nothing holds it (R48 to R53). -/
def ReadPasses (r : OpRes) : Prop := r.fails = [] ∧ r.wait = none

/-- Ember core `c` belongs to partition `p` and runs (R27, R195, R197). -/
def CoreActs (s : State) (c : CoreId) (p : Nat) : Prop := s.ownerOf (c.val / 4) = some p ∧ (s.core c).run = .running

/-- The oldest CTL message of a kind in a cord's receive buffers (R294, R295). -/
def CtlFront (s : State) (c kind : Nat) (m : CtlMsg) : Prop :=
  (s.cord c).ctlIn.find? (fun m => fld m.bytes 0 1 = kind) = some m

/-- No dissolution waits for a transfer to end (R390, R422). -/
def State.noneEnding (s : State) : Bool := (List.range 16).all fun q => !(s.part q).ending

/-- A consumer has taken a message: its buffer is freed. -/
def State.ctlFreed (s : State) (c : Nat) (m : CtlMsg) : State :=
  s.updCord c fun x => { x with ctlIn := x.ctlIn.erase m, freed := (x.freed + 1) % 16 }

end Sys2Proof.Machine
end

