-- ==== Sys2Proof/Certificates/Slice0/Obligations.lean ====
section
/-! DEFINITION. The statements about the block. Each is a Prop over every state: what a command does to the state it is given,
and what it leaves as it was. -/

open Sys2Proof Sys2Proof.Machine


/-- One step with a command at the front of the queue is that command's effect on the state whose queue is the rest. -/
def Obligations.StepRunsTheFrontCommand : Prop :=
  ∀ (c : Instr) (r : List Instr) (s : State), s.pending = c :: r → step s = exec c { s with pending := r }

/-- With nothing waiting, one hall tick passes: the 64-bit hall count advances by one, wrapping, and nothing else changes
(R11; that the model's empty queue is a hall tick is log entry 2). -/
def Obligations.IdleStepIsOneHallTick : Prop :=
  ∀ s : State, s.pending = [] →
    ∃ t, step s = .next t ∧ t.hall = (s.hall + 1) % 2 ^ 64 ∧ { t with hall := s.hall } = s

/-- After reset: no command waits, every group is SCRUBBING, every cord DOWN, the time unit FREE, kindling in its ROM phase,
no partition exists, every plan EMPTY with SPARE_MIN 0xFFFF, every damper 16/16, every memory byte and every counter 0. What
the model chose or inferred in it: log entry 1. -/
def Obligations.ResetLeavesTheStatedValues : Prop :=
  State.reset.pending = [] ∧ (∀ g, (State.reset.group g).st = .scrubbing) ∧ (∀ c, (State.reset.cord c).st = .down) ∧
  State.reset.time.st = .free ∧ State.reset.kindle.phase = 0 ∧
  (∀ p, (State.reset.part p).live = false ∧ (State.reset.part p).plan.st = .empty ∧
    (State.reset.part p).plan.spareMin = 0xFFFF ∧ (State.reset.part p).clock.m = 16 ∧
    (State.reset.part p).plan.sf.valid = false) ∧
  (∀ c, (State.reset.core c).mbHead = 0 ∧ (State.reset.core c).mbTail = 0) ∧
  (∀ a, rdByte State.reset.mem a = 0) ∧ Memory.wf State.reset.mem = true ∧ (∀ k, tabGet 0 State.reset.cinder k = 0)

/-- The actions of PLAN_CTRL in a plan state that accepts them (R68, R70): LOAD, ARM, STOP and UNLOAD while flue entries are
in flight, and SF_CLEAR (R74). Each changes its own partition's plan control block as said and nothing else. An action of
PLAN_CTRL in a state not listed for it, or while an accepted UNLOAD waits, has no effect but LOAD_ERROR = STATE with the
state's code as its detail (R68). -/
def Obligations.PlanActionsFollowTheState : Prop :=
  (∀ (s : State) (p : PartId), s.fnPlan p = true →
      let pl := (s.part p).plan
      (pl.unloadWait = false →
        (pl.st = .empty → ∃ t, exec (.planLoad p) s = .next t ∧ OnlyPart p s t ∧
          t.part p = { s.part p with plan := { pl with st := .loading, errCode := 0, errDetail := 0 } }) ∧
        (pl.st = .loaded ∨ pl.st = .stopped → (s.part p).dom.st ≠ .joining → (s.part p).dom.st ≠ .leaving →
          s.hall + 65536 ≤ pl.launchAt → ∃ t, exec (.planArm p) s = .next t ∧ OnlyPart p s t ∧
          t.part p = { s.part p with plan := { pl with st := .armed, errCode := 0, errDetail := 0 } }) ∧
        (pl.st = .loaded ∨ pl.st = .stopped → (s.part p).dom.st ≠ .joining → (s.part p).dom.st ≠ .leaving →
          pl.launchAt < s.hall + 65536 → ∃ t, exec (.planArm p) s = .next t ∧ OnlyPart p s t ∧
          t.part p = { s.part p with plan := { pl with errCode := 0x0B, errDetail := 0 } }) ∧
        (pl.st = .running → ∃ t, exec (.planStop p) s = .next t ∧ OnlyPart p s t ∧
          t.part p = { s.part p with plan := { pl with stopReq := true } }) ∧
        (pl.st = .loaded ∨ pl.st = .armed ∨ pl.st = .stopped ∨ pl.st = .faulted → s.flueBusy p = true →
          ∃ t, exec (.planUnload p) s = .next t ∧ OnlyPart p s t ∧
          t.part p = { s.part p with plan := { pl with unloadWait := true } })) ∧
      ∃ t, exec (.sfClear p) s = .next t ∧ OnlyPart p s t ∧
        t.part p = { s.part p with plan := { pl with sf := { pl.sf with valid := false, more := false } } }) ∧
  (∀ (s : State) (p : PartId) (host : HostData), s.fnPlan p = true →
      let pl := (s.part p).plan
      let refused (c : Instr) : Prop := ∃ t, exec c s = .next t ∧ OnlyPart p s t ∧
        t.part p = { s.part p with plan := { pl with errCode := 0x0C, errDetail := s.planCode p } }
      (pl.unloadWait = true ∨ pl.st ≠ .empty → refused (.planLoad p)) ∧
      (pl.unloadWait = true ∨ (pl.st ≠ .loaded ∧ pl.st ≠ .stopped) ∨ (s.part p).dom.st = .joining ∨
        (s.part p).dom.st = .leaving → refused (.planArm p)) ∧
      (pl.unloadWait = true ∨ pl.st ≠ .running → refused (.planStop p) ∧ refused (.rebind p host)) ∧
      (pl.unloadWait = true ∨ pl.st = .empty ∨ pl.st = .loading ∨ pl.st = .running → refused (.planUnload p)))

/-- What an UNLOAD leaves when no flue entry is in flight, and UNLOAD_COMPLETE once an accepted one's last entry completes
(R68, R186): state EMPTY, nothing bound, the schedule-fault record clear, every store of the partition's tiles as unloadTile
says, a fence that no LEAVE made ended (R368). Other partitions and other tiles keep what they hold, and so does memory unless
an armed flip of weight epochs is cancelled with the plan. What the model chose or inferred in it: log entry 10. -/
def Obligations.UnloadEmptiesThePlan : Prop :=
  ∀ (s : State) (p : PartId), s.flueBusy p = false →
    let pl := (s.part p).plan
    let emptied (c : Instr) : Prop := ∃ t, exec c s = .next t ∧
      (t.part p).plan = { pl with
        st := .empty, loaded := none, spares := [], spareMin := 0xFFFF, spareHop := 0, sf := {}, failOpen := false
        rebind := none, stopReq := false, unloadWait := false, near := [], turf := [], circuits := [], passes := []
        arrived := [] } ∧
      ((s.part p).dom.st ≠ .leaving → (t.part p).dom.fenced = false) ∧ (t.part p).clock = (s.part p).clock ∧
      (∀ k, s.tilePart k = some p.val → k < 192 → t.tile k = unloadTile (s.tile k)) ∧
      (∀ k, s.tilePart k ≠ some p.val → t.tile k = s.tile k) ∧
      PartsBut p s t ∧ t.groups = s.groups ∧ t.hall = s.hall ∧
      ((s.part p).wts.armed = false → t.mem = s.mem ∧ t.turf = s.turf)
    (s.fnPlan p = true → pl.unloadWait = false →
      pl.st = .loaded ∨ pl.st = .armed ∨ pl.st = .stopped ∨ pl.st = .faulted → emptied (.planUnload p)) ∧
    (pl.unloadWait = true → emptied (.unloadComplete p))

/-- LOAD_DONE (R71): the first check that fails returns the plan to EMPTY with its code and detail and touches nothing else; a
package that passes makes the plan LOADED, keeps what the package declares and the spares of its binding, and writes the
partition's tiles and the padding registers of their units (R62). -/
def Obligations.LoadDoneBindsOrRefuses : Prop :=
  ∀ (s : State) (p : PartId) (img : PlanImage) (host : HostData),
    let pl := (s.part p).plan
    let refused (code detail : Nat) : Prop := ∃ t, exec (.loadDone p img host) s = .next t ∧ OnlyPart p s t ∧
      t.part p = { s.part p with plan := { pl with st := .empty, errCode := code, errDetail := detail % 2 ^ 24 } }
    pl.st = .loading →
    (s.rdRange p pl.base pl.len host.pkg = none → refused 0x0E 0) ∧
    (∀ b, s.rdRange p pl.base pl.len host.pkg = some b →
      (s.rdRange p pl.delayBase pl.delayLen host.tbl = none → refused 0x0E 1) ∧
      ∀ d, s.rdRange p pl.delayBase pl.delayLen host.tbl = some d →
        (∀ code detail, s.checkPackage p b img d = .fail code detail → refused code detail) ∧
        ∀ l spares, s.checkPackage p b img d = .ok l spares →
          ∃ t, exec (.loadDone p img host) s = .next t ∧
            (t.part p).plan.st = .loaded ∧ (t.part p).plan.loaded = some l ∧ (t.part p).plan.spares = spares ∧
            (t.part p).plan.sf = pl.sf ∧ (t.part p).plan.base = pl.base ∧ (t.part p).plan.errCode = pl.errCode ∧
            (t.part p).frame.area = l.fbArea ∧ (t.part p).frame.slotCeil = l.slotCeil ∧
            (t.part p).frame.shadow = .open_ ∧ (t.part p).plan.contract = l.pcl ∧
            (∀ k u, s.tilePart k = some p.val → k < 192 → u < 10 →
              tabGet 0 (t.part p).plan.pads (16 * k + u) = Config.padding l.pcl u) ∧
            (∀ k, s.tilePart k = some p.val → k < 192 → t.tile k = loadTile (tileImage img k) (s.tile k)) ∧
            (∀ k, s.tilePart k ≠ some p.val → t.tile k = s.tile k) ∧
            PartsBut p s t ∧ t.mem = s.mem ∧ t.turf = s.turf ∧ t.hall = s.hall)

/-- REBIND of a RUNNING plan (R61): a table that passes MAPPING, TABLE, NO_DELAY and CEILING waits for the boundary and
replaces one already waiting; a refused one sets LOAD_ERROR and leaves what is bound and what waits. -/
def Obligations.RebindWaitsForTheBoundary : Prop :=
  ∀ (s : State) (p : PartId) (host : HostData), s.fnPlan p = true →
    let pl := (s.part p).plan
    pl.unloadWait = false → pl.st = .running →
    (s.rdRange p pl.delayBase pl.delayLen host.tbl = none →
      ∃ t, exec (.rebind p host) s = .next t ∧ OnlyPart p s t ∧
        t.part p = { s.part p with plan := { pl with errCode := 0x0E, errDetail := 1 } }) ∧
    ∀ b, s.rdRange p pl.delayBase pl.delayLen host.tbl = some b →
      (∀ code detail, s.bindTable p (pl.loaded.getD {}).hops b = .error (code, detail) →
        ∃ t, exec (.rebind p host) s = .next t ∧ OnlyPart p s t ∧
          t.part p = { s.part p with plan := { pl with errCode := code, errDetail := detail % 2 ^ 24 } }) ∧
      ∀ sp, s.bindTable p (pl.loaded.getD {}).hops b = .ok sp →
        ∃ t, exec (.rebind p host) s = .next t ∧ OnlyPart p s t ∧
          t.part p = { s.part p with plan := { pl with errCode := 0, errDetail := 0, rebind := some sp } }

/-- The slack ceiling of a hop is I − s − f; a table of hops binds exactly when every hop's delay is in the delay table and
does not exceed its ceiling, and the spare of a hop is what the delay leaves of it (R57, R58). -/
def Obligations.HopsBindWithinTheirSlackCeilings : Prop :=
  ∀ (tab : List (Nat × Nat × Nat)),
    let measured (h : Hop) (d : Nat) : Prop :=
      tab.find? (fun e => e.1 = h.module ∧ e.2.1 = h.cord) = some (h.module, h.cord, d)
    (∀ h : Hop,
      ((∀ e ∈ tab, ¬ (e.1 = h.module ∧ e.2.1 = h.cord)) → bindHop tab h = .error 0x09) ∧
      ∀ d, measured h d →
        (h.interval < d + h.slack + h.fixed → bindHop tab h = .error 0x0A) ∧
        (d + h.slack + h.fixed ≤ h.interval → ∃ v, bindHop tab h = .ok v ∧ v + d + h.slack + h.fixed = h.interval)) ∧
    ∀ hops : List Hop,
      ((∃ l, bindAll tab hops = .ok l) ↔ ∀ h ∈ hops, ∃ d, measured h d ∧ d + h.slack + h.fixed ≤ h.interval) ∧
      ∀ l, bindAll tab hops = .ok l → l.length = hops.length ∧ ∀ k (i : k < hops.length) (j : k < l.length), ∀ d, measured hops[k] d →
        l[k] + d + hops[k].slack + hops[k].fixed = hops[k].interval

/-- LAUNCH at or after LAUNCH_AT (R70, R99, R126, R228): the plan counter and the step index are 0, the plan RUNNING, the
counters of R355 clear, no beat taken yet and step 0 to begin with the first, and every tile of the partition in its launch
state. The first launch takes the shadow frame as it stands, a relaunch buffer 0 as the shadow for step 0; under MISS_HOLD a
launch whose frame is not SEALED waits for the seal, and any other makes that buffer active for step 0. What the model chose
or inferred in it: log entry 10. -/
def Obligations.LaunchStartsStepZero : Prop :=
  ∀ (s : State) (p : PartId),
    let pl := (s.part p).plan
    let f := (s.part p).frame
    let sealedFrame := f.shadow = .sealed ∧ (f.launched = true → f.target = 0)
    let buffer := if f.launched then 0 else f.shadowBuf
    pl.st = .armed → pl.launchAt ≤ s.hall →
      ∃ t, exec (.launch p) s = .next t ∧
        (t.part p).plan.st = .running ∧ (t.part p).plan.pc = 0 ∧ (t.part p).plan.step = 0 ∧
        (t.part p).clock.stepStart = s.hall ∧ (t.part p).clock.beat = 0 ∧ (t.part p).clock.cnt = {} ∧
        (t.part p).clock.started = false ∧ (t.part p).plan.circuits = [] ∧ (t.part p).plan.passes = [] ∧
        (t.part p).frame.launched = true ∧
        (f.missHold = false ∨ sealedFrame → (t.part p).frame.target = 1 ∧ (t.part p).frame.active = some buffer ∧
          (t.part p).frame.launchWait = false) ∧
        (f.missHold = true → ¬ sealedFrame → (t.part p).frame.target = (if f.launched then 0 else f.target) ∧
          (t.part p).frame.shadowBuf = buffer ∧ (t.part p).frame.launchWait = true) ∧
        (∀ k, s.tilePart k = some p.val → k < 192 →
          t.tile k = launchTile (tileImage (pl.loaded.getD {}).image k) (s.tile k)) ∧
        (∀ k, s.tilePart k ≠ some p.val → t.tile k = s.tile k) ∧ PartsBut p s t ∧ t.hall = s.hall

/-- Loops (R83, R86 to R89): when the program position reaches the first bundle of a loop whose span fits, the entry latches
COUNT and starts the loop there, idle at once if the count is 0; a count above the declared maximum is latched and stops the
partition with LOOP_BOUND; and at the end of the span's last tick INDEX returns to 0 and a waiting SHADOW is taken. What the
model chose or inferred in it: log entry 11. -/
def Obligations.LoopsLatchRunAndEnd : Prop :=
  ∀ (s : State) (i : Issue) (p : Nat) (g : Fin 4) (l : Fin 6),
    s.tilePart i.tile = some p → (s.part p).plan.st = .running →
    let pl := (s.part p).plan
    let x := (s.tile i.tile).level g l
    (∀ d, (s.tile i.tile).dueLoop pl.pc pl.workEnd = some d → d.ag = g → d.level = l → d.first = i.bundle →
      (s.part p).clock.started = true →
      (x.count ≤ d.max → ∃ t, exec (.loopEntry i g l) s = .next t ∧ OnlyTile i.tile s t ∧
        t.tile i.tile = (s.tile i.tile).updLevel g l fun _ =>
          { x with max := d.max, latched := x.count, index := 0, running := true, idle := x.count = 0
                   entry := pl.pc, body := d.body, first := d.first, after := d.after }) ∧
      (d.max < x.count → pl.sf.valid = false → ∃ t, exec (.loopEntry i g l) s = .next t ∧
        (t.part p).plan.st = .faulted ∧ (t.part p).dom.fenced = true ∧ (t.part p).plan.pc = pl.pc ∧
        (t.tile i.tile).level g l = { x with latched := x.count } ∧
        (t.part p).plan.sf = { valid := true, more := false, cls := 0x03, tile := i.tile, slot := 5, bundle := i.bundle,
                               planTick := pl.pc, hall := s.hall, detLo := g * 8 + l, detHi := x.count })) ∧
    (x.running = true → (s.tile i.tile).ended = false → x.entry + x.max * x.body ≤ pl.pc + 1 →
      ∃ t, exec (.loopSpanEnd i.tile g l) s = .next t ∧ OnlyTile i.tile s t ∧
        t.tile i.tile =
          { s.tile i.tile with work := (s.tile i.tile).work ++ [⟨pl.pc, 15, pl.pc, 5, 0, .loopEnd g l⟩] }) ∧
    ∀ (q n : Nat) (w : Work), w.act = .loopEnd g l →
      let y := (s.tile n).level g l
      OnlyTile n s (s.applyAct q n w) ∧ ((s.applyAct q n w).tile n).level g l =
        { y with running := false, idle := false, index := 0, waiting := false
                 count := if y.waiting then y.shadow else y.count }

/-- A flue entry in range and within its group's budget (R170 to R177): it takes its slot, a LAY's source bytes are read, and
the 64-byte blocks it touches count in the group's window. Its memory access comes at the end of the tick: a DRAW then holds
the bytes of its memory range and leaves its destination open, a LAY stores its bytes in memory and nowhere else. An entry out
of range counts in no budget, makes no access and draws zeros (R185). A new budget window starts every group's counts from 0
(R177): a count of an earlier window is gone, one of this window stays. What the model chose or inferred in it: log entry 21.
-/
def Obligations.FlueEntriesIssueInTheirBudget : Prop :=
  (∀ (s : State) (i : Issue) (p : Nat) (m b : Opnd) (n : Fin 4096), CanIssue s i p 4 →
      let pl := (s.part p).plan
      let len := n.val + 1
      let slot := pl.pc % 2048
      let x := s.tile i.tile
      let mem := (x.opnd m).toNat % 2 ^ 52
      let ls := lsAddr (x.opnd b) 512
      let issued (t : State) (e : FlueEntry) : Prop :=
        t = { s with tiles := t.tiles, parts := t.parts } ∧ TilesBut i.tile s t ∧ PartsBut p s t ∧
        (t.tile i.tile).slotEntry slot = e ∧ (t.tile i.tile).store = x.store ∧ (t.tile i.tile).slots = 4 :: x.slots ∧
        ∃ w ∈ (t.tile i.tile).work, w.tick = pl.pc ∧ w.act = .flueGo slot
      let drawn : FlueEntry := { used := true, draw := true, issue := pl.pc, ls := ls, n := len, addr := mem }
      let laid : FlueEntry := { used := true, draw := false, issue := pl.pc, ls := ls, n := len, addr := mem }
      ((x.slotEntry slot).used = false ∨ (x.slotEntry slot).awaited = true →
        (∀ g turf, s.flueTarget p (tileDie i.tile) mem len = some (g, turf) →
          let cnt := winCount (if turf then pl.turf else pl.near) g (pl.pc / 256) + flueCount mem len
          let budget := tabGet (0, 0) (pl.loaded.getD {}).budgets g
          let counted (t : State) : Prop := t.part p = { s.part p with plan :=
            if turf then { pl with turf := tabSet (0, 0) pl.turf g (pl.pc / 256, cnt) }
            else { pl with near := tabSet (0, 0) pl.near g (pl.pc / 256, cnt) } }
          cnt ≤ (if turf then budget.2 else budget.1) →
          (∃ t, exec (.draw i m b n) s = .next t ∧ issued t { drawn with inRange := true } ∧ counted t) ∧
          ∀ cm, ReadPasses (s.readLs i 4 pl.pc ls len cm false) →
            ∃ t, exec (.lay i b m n cm) s = .next t ∧ issued t { laid with inRange := true, data := x.rdLs ls len } ∧ counted t) ∧
        (s.flueTarget p (tileDie i.tile) mem len = none →
          (∃ t, exec (.draw i m b n) s = .next t ∧ issued t { drawn with data := List.replicate len 0 } ∧ t.part p = s.part p) ∧
          ∀ cm, ReadPasses (s.readLs i 4 pl.pc ls len cm false) →
            ∃ t, exec (.lay i b m n cm) s = .next t ∧ issued t { laid with data := List.replicate len 0 } ∧
              t.part p = s.part p)) ∧
      ∀ w k, w.act = .flueGo k → let e := x.slotEntry k
        e.used = true → e.taken = false → e.addr + e.n ≤ 2 ^ 52 →
        let t := s.applyAct p i.tile w
        TilesBut i.tile s t ∧
        (e.inRange = false → (t.tile i.tile).slotEntry k = { e with taken := true } ∧ t.mem = s.mem ∧ t.turf = s.turf) ∧
        (e.draw = true → t.mem = s.mem ∧ t.turf = s.turf ∧
          (e.inRange = true → (t.tile i.tile).slotEntry k = { e with taken := true, data := s.memBytes e.addr e.n }) ∧
          (e.ls + e.n ≤ 2 ^ 22 → ∀ a, a < e.ls ∨ e.ls + e.n ≤ a → rdByte (t.tile i.tile).store a = rdByte x.store a)) ∧
        (e.draw = false → (t.tile i.tile).store = x.store ∧
          (e.inRange = true → (t.tile i.tile).slotEntry k = { e with taken := true } ∧
            t.mem = (s.wrMems e.addr e.data).mem ∧ t.turf = (s.wrMems e.addr e.data).turf))) ∧
  (∀ (s : State) (p : PartId),
      let pl := (s.part p).plan
      ∃ t, exec (.flueBudgetWindow p) s = .next t ∧ OnlyPart p s t ∧
        t.part p = { s.part p with plan := { pl with
          near := pl.near.filter fun e => e.2.1 = pl.pc / 256, turf := pl.turf.filter fun e => e.2.1 = pl.pc / 256 } } ∧
        ∀ g, (tabGet (0, 0) pl.near g).1 ≠ pl.pc / 256 → tabWf (0, 0) pl.near = true →
          winCount (t.part p).plan.near g (pl.pc / 256) = 0)

/-- Scalar arithmetic (R41, R507): shifts use the low six bits of their amount, a division by zero gives all ones and the
dividend, −2^63 by −1 gives −2^63 and 0, and none of these cases changes the occupancy or the tick of the result: 1 and 1 for
the ALU, 18 and 18 for the divider. Nothing but the issuing tile's unit, its slot, its pending work and this tick's cut-off
accesses changes. -/
def Obligations.ScalarArithmetic : Prop :=
  ∀ (s : State) (i : Issue) (p : Nat) (rd : Fin 32) (a b : Opnd), CanIssue s i p 5 →
    let pc := (s.part p).plan.pc
    let x := s.tile i.tile
    let va := x.opnd a
    let vb := x.opnd b
    let gives (c : Instr) (u occ lat : Nat) (v : BitVec 64) : Prop := ∃ t, exec c s = .next t ∧ OnlyTile i.tile s t ∧
      t.tile i.tile = ((x.takeUnit u 5 pc occ).later (pc + lat - 1) u pc 5 i (.wrScalar rd v)).used 5
    gives (.sclAlu i .add rd a b) 8 1 1 (va + vb) ∧ gives (.sclAlu i .sub rd a b) 8 1 1 (va - vb) ∧
    gives (.sclAlu i .band rd a b) 8 1 1 (va &&& vb) ∧ gives (.sclAlu i .bor rd a b) 8 1 1 (va ||| vb) ∧
    gives (.sclAlu i .bxor rd a b) 8 1 1 (va ^^^ vb) ∧
    gives (.sclAlu i .sll rd a b) 8 1 1 (va <<< (vb.toNat % 64)) ∧
    gives (.sclAlu i .srl rd a b) 8 1 1 (va >>> (vb.toNat % 64)) ∧
    gives (.sclAlu i .sra rd a b) 8 1 1 (va.sshiftRight (vb.toNat % 64)) ∧
    gives (.sclAlu i .slt rd a b) 8 1 1 (if va.toInt < vb.toInt then 1 else 0) ∧
    gives (.sclAlu i .sltu rd a b) 8 1 1 (if va.toNat < vb.toNat then 1 else 0) ∧
    gives (.sclAlu i .seq rd a b) 8 1 1 (if va = vb then 1 else 0) ∧
    gives (.sclMul i rd a b) 8 1 3 (BitVec.ofNat 64 (va.toNat * vb.toNat)) ∧
    (vb = 0 → gives (.sclDiv i .div rd a b) 9 18 18 (BitVec.allOnes 64) ∧
      gives (.sclDiv i .divu rd a b) 9 18 18 (BitVec.allOnes 64) ∧
      gives (.sclDiv i .rem rd a b) 9 18 18 va ∧ gives (.sclDiv i .remu rd a b) 9 18 18 va) ∧
    (vb ≠ 0 → gives (.sclDiv i .div rd a b) 9 18 18 (BitVec.ofInt 64 (va.toInt.tdiv vb.toInt)) ∧
      gives (.sclDiv i .rem rd a b) 9 18 18 (BitVec.ofInt 64 (va.toInt.tmod vb.toInt)) ∧
      gives (.sclDiv i .divu rd a b) 9 18 18 (BitVec.ofNat 64 (va.toNat / vb.toNat)) ∧
      gives (.sclDiv i .remu rd a b) 9 18 18 (BitVec.ofNat 64 (va.toNat % vb.toNat))) ∧
    (va.toInt = -2 ^ 63 → vb.toInt = -1 → gives (.sclDiv i .div rd a b) 9 18 18 va ∧
      gives (.sclDiv i .rem rd a b) 9 18 18 0)

/-- The scalar unit's other operations (R41, R81, R89, R96): loads of data memory and mailbox read at t + 1, stores of data
memory and of a stream BASE, CNT, PCR, and MBX, whose entry leaves for a core of the tile's own die and partition and is
otherwise discarded and counted. -/
def Obligations.ScalarMemoryAndCounter : Prop :=
  ∀ (s : State) (i : Issue) (p : Nat) (r : Fin 32) (a : Opnd), CanIssue s i p 5 →
    let pc := (s.part p).plan.pc
    let x := s.tile i.tile
    let gives (c : Instr) (tick : Nat) (act : Act) : Prop := ∃ t, exec c s = .next t ∧ OnlyTile i.tile s t ∧
      t.tile i.tile = ((x.takeUnit 8 5 pc 1).later tick 8 pc 5 i act).used 5
    (∀ k, sclAddr (x.opnd a) = .dmem k → ∀ cm, gives (.sclLd i r a cm) (pc + 1) (.wrScalar r (tabGet 0 x.dmem k))) ∧
    (∀ k, sclAddr (x.opnd a) = .mbox k → ∀ cm, gives (.sclLd i r a cm) (pc + 1) (.wrScalar r (tabGet 0 x.mbox k))) ∧
    (∀ g o, sclAddr (x.opnd a) = .ag g o → ∀ cm, gives (.sclLd i r a cm) (pc + 1) (.wrScalar r (x.agRead g o))) ∧
    (sclAddr (x.opnd a) = .none → ∀ cm, gives (.sclLd i r a cm) (pc + 1) (.wrScalar r 0)) ∧
    (∀ k, sclAddr (x.opnd a) = .store k → ∀ cm, ReadPasses (s.readLs i 5 pc k 8 cm false) →
      let z := (s.readLs i 5 pc k 8 cm false).st
      ∃ t, exec (.sclLd i r a cm) s = .next t ∧ OnlyTile i.tile z t ∧
        t.tile i.tile = (((z.tile i.tile).takeUnit 8 5 pc 1).later (pc + 1) 8 pc 5 i
          (.wrScalar r (BitVec.ofNat 64 (leNat (x.rdLs k 8))))).used 5) ∧
    (∀ k, sclAddr (x.opnd a) = .dmem k → gives (.sclSt i r a) (pc + 1) (.wrDmem k (x.scalar r))) ∧
    (∀ k, sclAddr (x.opnd a) = .store k → gives (.sclSt i r a) (pc + 1) (.wrLine k (leBytes 8 (x.scalar r).toNat))) ∧
    (∀ g k, sclAddr (x.opnd a) = .ag g (0x100 + 0x40 * k) → k < 8 → gives (.sclSt i r a) pc (.wrBase g k (x.scalar r))) ∧
    (sclAddr (x.opnd a) = .none ∨ (∃ k, sclAddr (x.opnd a) = .mbox k) ∨
        (∃ g o, sclAddr (x.opnd a) = .ag g o ∧ ¬ ∃ k, k < 8 ∧ o = 0x100 + 0x40 * k) →
      ∃ t, exec (.sclSt i r a) s = .next t ∧ OnlyTile i.tile s t ∧ t.tile i.tile = (x.takeUnit 8 5 pc 1).used 5) ∧
    (∀ g l, gives (.cnt i g l a) pc (.count g l ((x.opnd a).toNat % 2 ^ 32))) ∧
    gives (.pcr i r) pc (.wrScalar r (BitVec.ofNat 64 pc)) ∧
    ∀ (core : CoreId) (m : Byte), ∃ t, exec (.mbx i r core m) s = .next t ∧
      t.tile i.tile = (x.takeUnit 8 5 pc 1).used 5 ∧ TilesBut i.tile s t ∧
      (i.tile.val / 96 = core.val / 32 → s.owns p (core.val / 4) = true →
        t = { s with tiles := t.tiles, mail := s.mail ++ [{
                part := p, core := core
                due := pc + (if i.tile.val / 12 = core.val / 4 then 24 else 32)
                bytes := leBytes 8 (x.scalar r).toNat ++ leBytes 1 i.tile ++ [m] ++ leBytes 2 (s.part p).plan.step ++
                  leBytes 4 pc }] }) ∧
      (i.tile.val / 96 ≠ core.val / 32 ∨ s.owns p (core.val / 4) = false →
        t = { s with tiles := t.tiles, cinder := t.cinder })

/-- What an act does when its tick ends (R41, R79, R81, R85, R89, R107): the destination takes the value, s0 discards its
write, and every other register, byte and unit of the tile stays. -/
def Obligations.ActsLandAtTheEndOfTheirTick : Prop :=
  ∀ (s : State) (p n : Nat) (w : Work),
    let t := s.applyAct p n w
    (∀ r v, w.act = .wrScalar r v → OnlyTile n s t ∧ (t.tile n).scalar 0 = 0 ∧
      (r ≠ 0 → (t.tile n).scalar r = v) ∧ ∀ q, q ≠ r → (t.tile n).scalar q = (s.tile n).scalar q) ∧
    (∀ a b, w.act = .wrLine a b → a < 2 ^ 22 → b.length ≤ 2 ^ 22 →
      OnlyTile n s t ∧ t.tile n = { s.tile n with store := (t.tile n).store } ∧
      (∀ k (h : k < b.length), rdByte (t.tile n).store ((a + k) % 2 ^ 22) = b[k]) ∧
      ∀ x, (∀ k, k < b.length → x ≠ (a + k) % 2 ^ 22) → rdByte (t.tile n).store x = rdByte (s.tile n).store x) ∧
    (∀ k v, w.act = .wrDmem k v → OnlyTile n s t ∧ tabGet 0 (t.tile n).dmem k = v ∧
      ∀ j, j ≠ k → tabGet 0 (t.tile n).dmem j = tabGet 0 (s.tile n).dmem j) ∧
    (∀ k v, w.act = .wrVreg k v → OnlyTile n s t ∧ (t.tile n).vreg k = v ∧
      ∀ j, j ≠ k → (t.tile n).vreg j = (s.tile n).vreg j) ∧
    (∀ g k v, w.act = .wrBase g k v → OnlyTile n s t ∧ ((t.tile n).stream g k).base = v) ∧
    (∀ g l v, w.act = .count g l v → ((s.tile n).level g l).running = false → OnlyTile n s t ∧
      (t.tile n).level g l = { (s.tile n).level g l with count := v }) ∧
    (∀ g l v, w.act = .count g l v → ((s.tile n).level g l).running = true →
      (t.tile n).level g l = { (s.tile n).level g l with shadow := v, waiting := true } ∧ t.parts = s.parts ∧
      tabGet 0 t.cinder (cinderKey 1 (s.physTile n) 0x03) =
        satInc 16 (tabGet 0 s.cinder (cinderKey 1 (s.physTile n) 0x03))) ∧
    (w.act = .swap → OnlyTile n s t ∧ t.tile n = { s.tile n with active := !(s.tile n).active }) ∧
    (∀ r e, w.act = .accZero r e → OnlyTile n s t ∧ tabGet {} (t.tile n).accRows r = { exact := e } ∧
      ∀ q, q ≠ r → tabGet {} (t.tile n).accRows q = tabGet {} (s.tile n).accRows q)

/-- The matrix engine issues (R106, R107, R109 to R113, R115 to R121, R125): a weight load's 32 chunks, the exchange of the
buffers, a row through the array whose sums land four ticks later, ACZ, and the drains at their ticks. An error in a word of
the array that an operation uses is met in the tick in which it uses it. What the model chose or inferred in it: log entries
24 and 60. -/
def Obligations.MatrixEngineIssues : Prop :=
  ∀ (s : State) (i : Issue) (p : Nat) (row : Fin 256) (a : Opnd) (cm : Bool) (ecc : Option MxeEcc), CanIssue s i p 0 →
    let pc := (s.part p).plan.pc
    let x := s.tile i.tile
    (∃ t, exec (.wsw i) s = .next t ∧ OnlyTile i.tile s t ∧
      t.tile i.tile = ((x.takeUnit 0 0 pc 1).later pc 0 pc 0 i .swap).used 0) ∧
    (∀ e, ∃ t, exec (.acz i row e) s = .next t ∧ OnlyTile i.tile s t ∧
      t.tile i.tile = ((x.takeUnit 2 0 pc 1).later pc 2 pc 0 i (.accZero row e)).used 0) ∧
    (∀ f, ∃ t, exec (.drn ⟨i, ecc⟩ row a f) s = .next t ∧ OnlyTile i.tile s t ∧
      t.tile i.tile = (((x.takeUnit 2 0 pc 1).eccAt [.accRow] ecc pc 2 pc i).later (pc + 3) 2 pc 0 i
        (.wrLine (lsAddr (x.opnd a) (drainAlign f)) (drainBytes f (tabGet {} x.accRows row)))).used 0) ∧
    (∃ t, exec (.drw ⟨i, ecc⟩ row a) s = .next t ∧ OnlyTile i.tile s t ∧
      (t.tile i.tile).work = ((x.takeUnit 2 0 pc 5).eccAt [.accRow] ecc pc 2 pc i).work ++ (List.range 5).map fun k =>
        ⟨pc + 3 + k, 2, pc, 0, i.bundle, .wrLine (lsAddr (x.opnd a) 512 + 512 * k)
          (((drwBytes (tabGet {} x.accRows row)).drop (512 * k)).take 512)⟩) ∧
    (∀ f : StreamFmt, ReadPasses (s.readLs i 0 pc (lsAddr (x.opnd a) 1024) 1024 cm false) →
      let r := s.readLs i 0 pc (lsAddr (x.opnd a) 1024) 1024 cm false
      let y := (((r.st.tile i.tile).takeUnit 1 0 pc 1).eccAt [.stat] ecc pc 1 pc i).eccAt [.accRow] ecc (pc + 4) 1 pc i
      let cols := columnSums f.fmt (x.rdLs (lsAddr (x.opnd a) 1024) 1024) (x.stat x.active)
      (∃ t, exec (.mmaAcc ⟨i, ecc⟩ row a f cm) s = .next t ∧ OnlyTile i.tile r.st t ∧ t.tile i.tile =
        (y.later (pc + 4) 1 pc 0 i (.accAdd row false (f.fmt.cls = .c16) cols)).used 0) ∧
      (∃ t, exec (.mmaStart ⟨i, ecc⟩ row a f cm) s = .next t ∧ OnlyTile i.tile r.st t ∧ t.tile i.tile =
        (y.later (pc + 4) 1 pc 0 i (.accAdd row true (f.fmt.cls = .c16) cols)).used 0)) ∧
    (∀ (units : List MxeUnit) (tick unit : Nat), x.eccAt units none tick unit pc i = x ∧
      ∀ e : MxeEcc, (e.unit ∈ units → x.eccAt units (some e) tick unit pc i = x.later tick unit pc 0 i (.eccHit e)) ∧
        (e.unit ∉ units → x.eccAt units (some e) tick unit pc i = x)) ∧
    let src := lsAddr (x.opnd a) 4096
    let chunks (f : ImgForm) : List Work :=
      ⟨pc + 2, 0, pc, 0, i.bundle, .wrStat (!x.active) f 0 (x.rdLs src 4096)⟩ ::
      ((List.range 31).map fun k => ⟨pc + k + 1, 0, pc, 0, i.bundle, .rdWld src (k + 1) (!x.active) f⟩) ++
      (match (if cm then x.landAt src else none) with
        | some l => [⟨pc + 31, 0, pc, 0, i.bundle, .consumed l⟩]
        | none => [])
    ReadPasses (s.readLs i 0 pc src 4096 cm true) → (tabGet {} x.units 0).ends ≤ pc →
    (∀ w ∈ x.work, w.unit = 0 → w.issue ≠ pc) →
    (∀ f : ImgOpnd, ∃ t, exec (.wld i a f cm) s = .next t ∧ OnlyTile i.tile s t ∧
      (t.tile i.tile).store = x.store ∧ (t.tile i.tile).active = x.active ∧ (t.tile i.tile).lands = x.lands ∧
      (tabGet {} (t.tile i.tile).units 0).ends = pc + 32 ∧ (t.tile i.tile).slots = 0 :: x.slots ∧
      (t.tile i.tile).work = x.work ++ chunks f.form) ∧
    ∀ (f : ImgOpnd) (o : Opnd) (d : Density) (n : Fin 512), x.overruns (lsAddr (x.opnd o) 4096) 4096 none = [] →
      let c := min (n.val + 1) (ovlOcc f.form d)
      ∃ t, exec (.wldWithOverlay ⟨i, ecc⟩ a f o d n cm) s = .next t ∧ OnlyTile i.tile s t ∧
        (t.tile i.tile).store = x.store ∧ (t.tile i.tile).active = x.active ∧ (t.tile i.tile).lands = x.lands ∧
        (t.tile i.tile).ovl = x.ovl.filter (fun e => e.1 ≠ pc) ++ [(pc, x.rdLs (lsAddr (x.opnd o) 4096) 4096)] ∧
        (tabGet {} (t.tile i.tile).units 0).ends = pc + ovlOcc f.form d ∧ (t.tile i.tile).slots = 0 :: x.slots ∧
        (t.tile i.tile).work = (({ x with work := x.work ++ chunks f.form ++
            ((List.range (c - 1)).map fun k => ⟨pc + k + 1, 0, pc, 0, i.bundle, .rdOvl (lsAddr (x.opnd o) 4096) (k + 1)⟩) } : Tile).eccAt
          [.merge] ecc (pc + ovlOcc f.form d + 1) 0 pc i).work ++
          [⟨pc + ovlOcc f.form d + 1, 0, pc, 0, i.bundle, .merge (!x.active) f.form d c⟩]

/-- The vector unit issues (R41, R93, R145, R147 to R152): each operation reads its registers at issue, and its result reaches
vd at the end of the tick before its latency has passed: 3 for VOP, 9 for VSF, 8 for VRD, 12 for VRG, 16 for VTK; a VLD reads
its second half at t + 1, and a VST writes its halves at t + 1 and t + 2. VRD reduces each segment of 16 to 2,048 lanes, VRG
is Philox over 512 counters, VTK keeps the best of its list and its candidates, and only a VOP's wide add may count in
INEXACT. What the model chose or inferred in it: log entries 13 and 17. -/
def Obligations.VectorUnitIssues : Prop :=
  ∀ (s : State) (i : Issue) (p : Nat) (vd va vb vc : Fin 16), CanIssue s i p 1 →
    let pc := (s.part p).plan.pc
    let x := s.tile i.tile
    let result (occ lat : Nat) (v : Tab (BitVec 32)) : Tile :=
      ((x.takeUnit 3 1 pc occ).later (pc + lat - 1) 3 pc 1 i (.wrVreg vd v)).used 1
    (∀ op, ∃ t, exec (.vop i op vd va vb vc) s = .next t ∧ t = { s with tiles := t.tiles, parts := t.parts } ∧
      TilesBut i.tile s t ∧ PartsBut p s t ∧
      t.part p = { s.part p with clock := { (s.part p).clock with cnt := { (s.part p).clock.cnt with
        inexact := min (2 ^ 64 - 1) ((s.part p).clock.cnt.inexact + (vecResult x op (x.vreg va) (x.vreg vb) (x.vreg vc)).2) } } } ∧
      (op ≠ .wideAdd → (vecResult x op (x.vreg va) (x.vreg vb) (x.vreg vc)).2 = 0) ∧
      t.tile i.tile = result 1 3 (vecResult x op (x.vreg va) (x.vreg vb) (x.vreg vc)).1) ∧
    (∀ fn, ∃ t, exec (.vsf i fn vd va) s = .next t ∧ OnlyTile i.tile s t ∧
      t.tile i.tile = result 2 9 (lanes fun k => specResult fn (x.lane va k))) ∧
    (∀ (op : RedOp) (seg : Fin 8), ∃ t, exec (.vrd i op seg vd va) s = .next t ∧ OnlyTile i.tile s t ∧
      let n := 16 * 2 ^ seg.val
      t.tile i.tile = result 1 8 (lanes fun k =>
        if k < 2048 / n then
          let l := (List.range n).map fun m => x.lane va (n * k + m)
          if op = .argmax then BitVec.ofNat 32 (n * k + argmaxOf l) else reduceSeg op (seg.val + 4) l
        else 0)) ∧
    (∀ key, ∃ t v, exec (.vrg i vd vc key) s = .next t ∧ OnlyTile i.tile s t ∧ t.tile i.tile = result 1 12 v ∧
      ∀ n : Fin 512,
        let out := philox (x.lane vc (4 * n), x.lane vc (4 * n + 1), x.lane vc (4 * n + 2), x.lane vc (4 * n + 3)) (x.scalar key)
        tabGet 0 v (4 * n) = out.1 ∧ tabGet 0 v (4 * n + 1) = out.2.1 ∧ tabGet 0 v (4 * n + 2) = out.2.2.1 ∧
        tabGet 0 v (4 * n + 3) = out.2.2.2) ∧
    (∀ (k : Fin 64) base, ∃ t v, exec (.vtk i k vd va vb base) s = .next t ∧ OnlyTile i.tile s t ∧ t.tile i.tile = result 4 16 v ∧
      let best := topList (k.val + 1) (x.lane vb) (x.lane va) (x.scalar base)
      best.length = k.val + 1 ∧ ∀ m : Nat,
        (m < 64 → tabGet 0 v m = (best.getD m (0xFF800000#32, 0xFFFFFFFF#32)).1 ∧
          tabGet 0 v (64 + m) = (best.getD m (0xFF800000#32, 0xFFFFFFFF#32)).2) ∧
        (128 ≤ m → tabGet 0 v m = 0)) ∧
    (∀ a cm, ReadPasses (s.readLs i 1 pc (lsAddr (x.opnd a) 512) 4096 cm false) →
      let z := (s.readLs i 1 pc (lsAddr (x.opnd a) 512) 4096 cm false).st
      ∃ t, exec (.vld i vd a cm) s = .next t ∧ OnlyTile i.tile z t ∧
        t.tile i.tile = (((z.tile i.tile).takeUnit 4 1 pc 2).later (pc + 1) 4 pc 1 i
          (.rdVld vd (lsAddr (x.opnd a) 512 + 4096) (x.rdLs (lsAddr (x.opnd a) 512) 4096))).used 1) ∧
    (∀ a, ∃ t, exec (.vst i va a) s = .next t ∧ OnlyTile i.tile s t ∧
      let b := vregBytes (x.vreg va) 8192
      t.tile i.tile = (((x.takeUnit 4 1 pc 2).later (pc + 1) 4 pc 1 i (.wrLine (lsAddr (x.opnd a) 512) (b.take 4096))).later
        (pc + 2) 4 pc 1 i (.wrLine (lsAddr (x.opnd a) 512 + 4096) (b.drop 4096))).used 1)

/-- A read of local store (R48 to R53): without the consume mark, or where no landing buffer is declared, it fails only on a
FILLING or VALID buffer its range meets; with the mark on a VALID buffer it completes at the end of its tick, where a tag that
is not the tick's is SCHED_TAG and the buffer is emptied otherwise; on a buffer not VALID it holds. What the model chose or
inferred in it: log entries 16 and 56. -/
def Obligations.ReadsConsumeLandingBuffers : Prop :=
  ∀ (s : State) (i : Issue) (slot pc a n : Nat),
    let x := s.tile i.tile
    (x.overruns a n none = [] → let r := s.readLs i slot pc a n false false
      ReadPasses r ∧ OnlyTile i.tile s r.st ∧ r.st.tile i.tile = x.note i slot pc a n) ∧
    ((s.readLs i slot pc a n false false).fails = (x.overruns a n none).map fun k => {
      cls := 0x04, tile := i.tile, slot := slot, bundle := i.bundle, tick := pc, detLo := k, detMid := 2 }) ∧
    (∀ k, k ∈ x.overruns a n none ↔ 0 < n ∧ ∃ b, (k, b) ∈ x.lands ∧ b.st ≠ .empty ∧ b.meets a n = true) ∧
    ∀ l, x.landAt a = some l →
      ((x.land l).st ≠ .valid → (s.readLs i slot pc a n true false).wait = some (.landing l) ∧
        (s.readLs i slot pc a n true false).st = s) ∧
      ((x.land l).st = .valid → x.overruns a n (some l) = [] → let r := s.readLs i slot pc a n true false
        ReadPasses r ∧ OnlyTile i.tile s r.st ∧
          r.st.tile i.tile = (x.note i slot pc a n).later pc 15 pc slot i (.consumed l)) ∧
      ∀ (p : Nat) (w : Work), w.act = .consumed l →
        let t := s.applyAct p i.tile w
        (t.tile i.tile).land l = { x.land l with st := .empty, landed := 0, retx := 0 } ∧
        (∀ m, m ≠ l → (t.tile i.tile).land m = x.land m) ∧ (t.tile i.tile).store = x.store ∧ TilesBut i.tile s t ∧
        (t.part p).clock.cnt.retries = min (2 ^ 64 - 1) ((s.part p).clock.cnt.retries + (x.land l).retx) ∧
        (w ∈ x.work → w.tick = pc → (x.land l).tag.toNat ≠ pc % 16 → {
            cls := 0x01, tile := i.tile, slot := w.slot, bundle := w.bundle, tick := pc, tagExp := pc % 16
            tagGot := (x.land l).tag.toNat, src := (x.land l).src, detLo := l, detMid := (x.land l).landed } ∈
          tileFails x i.tile pc)

/-- SND (R159, R161, R165, R96): the first beat leaves in the issue tick toward a landing buffer, an egress port or a mailbox
ring, with the tracks of its path; each later beat's read is planned one tick after the one before, and the engine is occupied
a tick for each 512 bytes; a beat whose path does not lead to its end in the travel time never arrives, and an entry for a
core it cannot reach is discarded and counted. Tracks (R158, R161, R166): in a plan tick a track that two beats of a partition
claim, or a beat and one of its landing circuits, carries none of them; the beats that share no track in that tick keep their
way, and nothing else changes. What the model chose or inferred in it: log entry 62. -/
def Obligations.BeatsTravelTheirTracks : Prop :=
  (∀ (s : State) (i : Issue) (p : Nat) (eng : Fin 2) (a : Opnd) (n : Nat) (tag : BitVec 4) (cm : Bool) (dst : SndDst),
      CanIssue s i p (2 + eng.val) →
      let pc := (s.part p).plan.pc
      let x := s.tile i.tile
      let len := n + 1
      let addr := lsAddr (x.opnd a) 512
      let r := s.readLs i (2 + eng.val) pc addr (min len 512) cm false
      let bytes := x.rdLs addr (min 512 len)
      let z := s.cutSend i.tile pc eng
      ReadPasses r → ∃ t, exec (.snd i eng a n dst tag cm) s = .next t ∧ TilesBut i.tile s t ∧
        t.tile i.tile = ((List.range (ceilDiv len 512 - 1)).foldl (fun y k => y.later (pc + k + 1) (5 + eng.val) pc (2 + eng.val) i
          (.rdSnd (addr + 512 * (k + 1)) (k + 1) len dst tag))
          ((r.st.tile i.tile).takeUnit (5 + eng.val) (2 + eng.val) pc (ceilDiv len 512))).used (2 + eng.val) ∧
        match dst with
        | .tile u l path =>
          (tileClaims i.tile u pc path = none → t = { z with tiles := t.tiles }) ∧
          ∀ cs, tileClaims i.tile u pc path = some cs → t = { z with tiles := t.tiles, beats := z.beats ++ [{
            part := p, circuit := false, due := pc + travelTile i.tile u, tile := u, landing := l, total := ceilDiv len 512
            tag := tag, src := { tile := i.tile, module := s.moduleId }, off := 0, bytes := bytes
            xfer := (pc * 192 + i.tile) * 2 + eng, claims := cs }] }
        | .cord c route deps path =>
          (cordClaims i.tile c pc path = none → t = { z with tiles := t.tiles }) ∧
          ∀ cs, cordClaims i.tile c pc path = some cs → t = { z with tiles := t.tiles, egBeats := z.egBeats ++ [{
            part := p, cord := c, due := pc + travelCord i.tile c, route := route.toNat, tag := tag, tile := i.tile
            issue := pc, eng := eng, index := 0, last := 1 = ceilDiv len 512, deps := deps, bytes := bytes, claims := cs }] }
        | .mailbox core m =>
          (i.tile.val / 96 = core.val / 32 → s.owns p (core.val / 4) = true → t = { z with tiles := t.tiles, mail := s.mail ++ [{
            part := p, core := core, due := pc + travelMbx i.tile core
            bytes := bytes.take 8 ++ leBytes 1 i.tile ++ [m] ++ leBytes 2 (s.part p).plan.step ++ leBytes 4 pc }] }) ∧
          (i.tile.val / 96 ≠ core.val / 32 ∨ s.owns p (core.val / 4) = false →
            t = { z with tiles := t.tiles, cinder := t.cinder })) ∧
  (∀ (s : State) (p pc : Nat),
      let t := s.trackTick p pc
      let uses (b : Beat) (k : Track) : Prop := b.part = p ∧ b.circuit = false ∧ (⟨pc, k⟩ : Claim) ∈ b.claims
      t = { s with beats := t.beats, egBeats := t.egBeats } ∧
      (∀ b, b ∈ t.beats → b ∈ s.beats) ∧ (∀ b, b ∈ t.egBeats → b ∈ s.egBeats) ∧
      (∀ b ∈ s.beats, b.part ≠ p → b ∈ t.beats) ∧ (∀ b ∈ s.egBeats, b.part ≠ p → b ∈ t.egBeats) ∧
      (∀ b k, uses b k → k ∈ s.heldTracks p → b ∉ t.beats) ∧
      (∀ b c k, b ∈ s.beats → c ∈ s.beats → b ≠ c → uses b k → uses c k → b ∉ t.beats ∧ c ∉ t.beats) ∧
      (∀ b e k, b ∈ s.beats → e ∈ s.egBeats → uses b k → e.part = p → (⟨pc, k⟩ : Claim) ∈ e.claims → b ∉ t.beats ∧ e ∉ t.egBeats) ∧
      ∀ b ∈ s.beats, b.part = p → b.circuit = false → (∀ k, ¬ uses b k) → b ∈ t.beats)

/-- AWT, FLUE_ENTRY_COMPLETE and the waits of a full slot (R172, R173, R181): an AWT of a completed draw puts its data at its
destination and counts the entry awaited; of an entry in flight it holds the tile; a completing entry is complete and, where
no bundle waits on the tile, changes nothing else. -/
def Obligations.FlueEntriesCompleteAndAreAwaited : Prop :=
  ∀ (s : State) (i : Issue) (p : Nat) (slot : Fin 2048), CanIssue s i p 4 →
    let x := s.tile i.tile
    let e := x.slotEntry slot
    let pc := (s.part p).plan.pc
    (e.used = true → e.awaited = false → e.complete = true → e.failed = false →
      ∃ t, exec (.awt i slot) s = .next t ∧ OnlyTile i.tile s t ∧
        (t.tile i.tile).slotEntry slot = { e with awaited := true } ∧
        (e.draw = true → (t.tile i.tile).store = (x.wrLs e.ls e.data).store) ∧
        (e.draw = false → (t.tile i.tile).store = x.store)) ∧
    (e.used = false ∨ e.awaited = true → ∃ t, exec (.awt i slot) s = .next t ∧ OnlyTile i.tile s t ∧
      t.tile i.tile = (x.takeUnit 7 4 pc 1).used 4) ∧
    (e.used = true → e.awaited = false → e.complete = false →
      ∃ t, exec (.awt i slot) s = .next t ∧ TilesBut i.tile s t ∧ PartsBut p s t ∧ t.mem = s.mem ∧
        t.tile i.tile = { x with wait := some (.await slot), held := x.held ++ [.awt i slot] } ∧
        (t.part p).clock.cnt.lateAwaits = satInc 64 (s.part p).clock.cnt.lateAwaits ∧ (t.part p).plan = (s.part p).plan) ∧
    (e.used = true → e.complete = false → e.taken = true → s.badWords = [] → ∀ w,
      ∃ t, exec (.flueEntryComplete i.tile slot .none w) s = .next t ∧ OnlyTile i.tile s t ∧
        t.tile i.tile = { x with flue := tabSet {} x.flue slot { e with complete := true } })

/-- A beat that lands while its plan runs (R48, R53, R161, R162): an EMPTY or its own FILLING buffer takes the bytes at its
base plus the beat's offset, counts the beat and becomes VALID with the last one; a buffer that is VALID, or FILLING from
another transfer, stops the partition, as a beat with an uncorrectable error does with no schedule-fault record. -/
def Obligations.BeatsFillLandingBuffers : Prop :=
  ∀ (s : State) (b : Beat) (rest : List Beat) (k : TileId) (l : Fin 512),
    takeBeat (fun c => c.tile = k.val ∧ c.landing = l.val ∧ s.beatDue c) s.beats = some (b, rest) →
    let x := s.tile k
    let y := x.land l
    0 < y.size → x.wait = none → (s.part b.part).plan.st = .running →
    (y.st = .empty ∨ (y.st = .filling ∧ y.xfer = b.xfer) →
      ∃ t, exec (.landingBeat k l .none) s = .next t ∧ t = { s with beats := rest, tiles := t.tiles } ∧ TilesBut k s t ∧
        let n := (if y.st = .empty then 0 else y.landed) + 1
        ((t.tile k).land l) = { y with
          st := if b.total ≤ n then .valid else .filling, landed := n, total := b.total, tag := b.tag, xfer := b.xfer
          src := b.src, retx := (if y.st = .empty then 0 else y.retx) + b.retx } ∧
        (∀ m, m ≠ l.val → (t.tile k).land m = x.land m) ∧
        (b.off < y.size → (t.tile k).store = (x.wrLs (y.base + b.off) b.bytes).store) ∧
        (y.size ≤ b.off → (t.tile k).store = x.store)) ∧
    ((s.part b.part).plan.sf.valid = false → (y.st = .valid ∨ (y.st = .filling ∧ y.xfer ≠ b.xfer)) →
      ∃ t, exec (.landingBeat k l .none) s = .next t ∧ (t.part b.part).plan.st = .faulted ∧
        (t.part b.part).plan.sf.cls = 0x04 ∧ (t.part b.part).plan.sf.detLo = l ∧
        (t.part b.part).plan.sf.detMid = (if y.st = .valid then 0 else 1) ∧ (t.part b.part).plan.sf.src = b.src) ∧
    ∃ t, exec (.landingBeat k l .uncorrectable) s = .next t ∧ (t.part b.part).plan.st = .faulted ∧
      (t.part b.part).plan.sf = (s.part b.part).plan.sf ∧ ∀ m, (t.tile k).land m = x.land m

/-- A beat of a running plan (R340, R341, R342, R345): changes of the damper that are due are applied first; a hall tick that
is no beat under the damper, or one already used, does nothing more. An open beat first ends the plan tick before it (e; with
nothing in flight in the tiles that changes no partition), then moves the plan counter on by one; a beat at which a tile
waits, or at which a launch waits for its seal, is held, counted, and leaves the counter; the beat at which a launched plan's
first step begins takes the counter's tick as it stands. What the model chose or inferred in it: log entry 7. -/
def Obligations.BeatsAdvanceOrHoldThePlan : Prop :=
  ∀ (s : State) (p : PartId),
    let d := s.damperNow p
    let b := (d.part p).clock.beat
    let e := d.endPrev p
    let P := e.part p
    let len := P.plan.stepLen
    OnlyPart p s d ∧ d.part p = { s.part p with clock := (d.part p).clock } ∧
    ((s.part p).clock.pend = false ∨ s.hall < (s.part p).clock.damperAt → d.part p = s.part p) ∧
    ((d.part p).plan.st = .running →
      (d.beatNow p = false → exec (.beat p) s = .next d) ∧
      ((∀ k ∈ s.tilesOf p, (s.tile k).work = [] ∧ (s.tile k).accs = [] ∧ (s.tile k).loops = []) → e.parts = d.parts) ∧
      (d.beatNow p = true → P.plan.st = .running → P.clock.beat = b → b < P.clock.g len (P.clock.sched + 1) →
        e.frozen p = false →
        (P.clock.started = true → e.boundaryDue p b = false →
          (e.waiting p = none → P.plan.pc + 1 ≠ (P.plan.step + 1) * len →
            ∃ t, exec (.beat p) s = .next t ∧ (t.part p).plan.pc = P.plan.pc + 1 ∧ (t.part p).plan.step = P.plan.step ∧
              (t.part p).clock.beat = b + 1 ∧ (t.part p).clock.lastBeat = some s.hall ∧ t.hall = s.hall)) ∧
        (P.clock.started = false → P.frame.launchWait = false → e.boundaryDue p b = false →
          ∃ t, exec (.beat p) s = .next t ∧ (t.part p).clock.started = true ∧ (t.part p).clock.stepStart = s.hall ∧
            (t.part p).plan.pc = P.plan.pc ∧ (t.part p).clock.beat = b + 1 ∧ t.hall = s.hall) ∧
        ∀ k c, (P.clock.started = true ∧ e.boundaryDue p b = false ∧ e.waiting p = some (k, c)) ∨
            (P.clock.started = false ∧ P.frame.launchWait = true ∧ e.isSealed p = false ∧ k = 0xFF ∧ c = 4) →
          ∃ t, exec (.beat p) s = .next t ∧ (t.part p).plan.pc = P.plan.pc ∧ (t.part p).clock.beat = b + 1 ∧
            (t.part p).clock.cnt.holdTicks = satInc 64 P.clock.cnt.holdTicks ∧
            (t.part p).clock.stepHeld = P.clock.stepHeld + 1 ∧ (t.part p).clock.inHold = true ∧
            (P.clock.inHold = false → (t.part p).clock.holdCause = c ∧ (t.part p).clock.holdTile = k ∧
              (t.part p).clock.cnt.holdEvents = satInc 64 P.clock.cnt.holdEvents) ∧ t.hall = s.hall))

/-- The boundary into step n = STEP + 1 (R48, R83, R98, R99, R225), with nothing left in flight in the tiles: with its
conditions met, a binding that waits takes effect, the shadow frame's buffer becomes active, the mailbox words written before
this hall tick become visible, flues are empty, no loop runs, the program is at bundle 0 and the counter is n × L; under a
STOP the plan is STOPPED where it stands. What the model chose or inferred in it: log entry 7. -/
def Obligations.BoundaryBeginsTheNextStep : Prop :=
  ∀ (s : State) (p : PartId),
    let d := s.damperNow p
    let P := d.part p
    let b := P.clock.beat
    let len := P.plan.stepLen
    let n := P.plan.step + 1
    P.plan.st = .running → d.quiet p = true → (∀ k ∈ d.tilesOf p, (d.tile k).ended = true ∨ (d.tile k).loops = []) →
    d.beatNow p = true → b < P.clock.g len (P.clock.sched + 1) → d.boundaryDue p b = true →
    d.boundaryWait p = none → d.boundaryFails p (n * len) = [] →
    ((d.tilesOf p).any fun k => (d.tile k).flue.any fun e => e.2.used && e.2.failed && !e.2.awaited) = false →
    (P.plan.stopReq = false →
      ∃ t, exec (.stepBoundary p) s = .next t ∧ (t.part p).plan.step = n ∧ (t.part p).plan.pc = n * len ∧
        (∀ sp, P.plan.rebind = some sp → (t.part p).plan.spares = sp) ∧
        (t.part p).clock.stepStart = s.hall ∧ (t.part p).clock.beat = b + 1 ∧
        (t.part p).frame.active = some P.frame.shadowBuf ∧ (t.part p).frame.shadow = .open_ ∧
        (t.part p).frame.target = n + 1 ∧
        (∀ k, s.tilePart k = some p.val → k < 192 → (t.tile k).flue = [] ∧ (t.tile k).wait = none ∧
          (t.tile k).pos = 0 ∧ (t.tile k).gap = 0 ∧ ((t.tile k).levels.all fun e => !e.2.running) = true ∧
          (t.tile k).mboxIn = ((s.tile k).mboxIn.filter fun w => s.hall ≤ w.hall) ∧
          (t.tile k).mbox = (mboxCopy s.hall (s.tile k)).mbox) ∧ t.hall = s.hall) ∧
    (P.plan.stopReq = true →
      ∃ t, exec (.stepBoundary p) s = .next t ∧ (t.part p).plan.st = .stopped ∧ (t.part p).plan.stopReq = false ∧
        (t.part p).plan.pc = P.plan.pc ∧ (t.part p).plan.step = P.plan.step ∧ t.hall = s.hall)

/-- The inbound mailbox (R193, R97): an entry that arrives at a ring that is not full goes to HEAD and HEAD advances modulo
128, raising MAILBOX; at a full ring, HEAD − TAIL = 64, it is dropped, counted in MB_DROPPED and raises MB_DROP; a TAIL write
that would make HEAD − TAIL exceed 64 is ignored, any other is taken. A disabled core drops what arrives too (R472). -/
def Obligations.MailboxRingFillsAndDrops : Prop :=
  ∀ (s : State) (c : CoreId),
    let x := s.core c
    (∀ b rest, takeMail (fun e => e.core = c.val ∧ e.due ≤ (s.part e.part).plan.pc) s.mail = some (b, rest) →
      ∃ t, exec (.mailboxEntryArrival c) s = .next t ∧ t = { s with mail := rest, cores := t.cores } ∧ CoresBut c s t ∧
        ((x.mbHead + 128 - x.mbTail) % 128 = 64 ∨ s.coreOff c = true →
          t.core c = { x with mbDropped := satInc 32 x.mbDropped, event := x.event ||| 4#6 }) ∧
        ((x.mbHead + 128 - x.mbTail) % 128 ≠ 64 → s.coreOff c = false →
          t.core c = { x with ring := tabSet [] x.ring (x.mbHead % 64) b.bytes, mbHead := (x.mbHead + 1) % 128
                              event := x.event ||| 2#6 })) ∧
    (takeMail (fun e => e.core = c.val ∧ e.due ≤ (s.part e.part).plan.pc) s.mail = none →
      exec (.mailboxEntryArrival c) s = .next s) ∧
    (∀ p (tail : Fin 128), CoreActs s c p →
      ((x.mbHead + 128 - tail) % 128 ≤ 64 → ∃ t, exec (.mbTailWrite c tail) s = .next t ∧ OnlyCore c s t ∧
        t.core c = { x with mbTail := tail }) ∧
      (64 < (x.mbHead + 128 - tail) % 128 → exec (.mbTailWrite c tail) s = .next s))

/-- A TMBX write enters the pending copy of its word with the hall tick it came in (R194, R98): a copy made in a later tick
shows the whole word, or the half addressed with the other half as it stood; the visible word is untouched until then; a tile
of another partition or of the other die takes nothing and the core's counter for PARTITION_FENCE counts. Steal queues (R198):
a push appends at the back or, full or with word 0 equal to 0, sets REFUSED; a pop takes the oldest entry of the core's own
queue and a steal the oldest of the fullest other queue, so that each entry goes to one core. -/
def Obligations.MailboxWordsAndStealQueues : Prop :=
  (∀ (s : State) (c : CoreId) (k : TileId) (w : Fin 16) (v : BitVec 64) (half : Option (Fin 2)) (p : Nat), CoreActs s c p →
      let x := s.tile k
      (s.tilePart k = some p → k.val / 96 = c.val / 32 →
        ∃ t, exec (.tmbxWrite c k w half v) s = .next t ∧ OnlyTile k s t ∧
          t.tile k = { x with mboxIn := x.mboxIn ++ [⟨w, half.map (·.val), v, s.hall⟩] } ∧
          ∀ h, s.hall < h → (∀ e ∈ x.mboxIn, e.hall < h) →
            let old := tabGet 0 (mboxCopy h x).mbox w
            let new := tabGet 0 (mboxCopy h (t.tile k)).mbox w
            (half = none → new = v) ∧
            (half = some 0 → new.extractLsb' 0 32 = v.extractLsb' 0 32 ∧ new.extractLsb' 32 32 = old.extractLsb' 32 32) ∧
            (half = some 1 → new.extractLsb' 0 32 = old.extractLsb' 0 32 ∧ new.extractLsb' 32 32 = v.extractLsb' 0 32)) ∧
      (s.tilePart k ≠ some p ∨ k.val / 96 ≠ c.val / 32 →
        ∃ t, exec (.tmbxWrite c k w half v) s = .next t ∧ t = { s with cinder := t.cinder } ∧
          (∀ j, j ≠ cinderKey 0x02 c 0x48 → tabGet 0 t.cinder j = tabGet 0 s.cinder j) ∧
          tabGet 0 t.cinder (cinderKey 0x02 c 0x48) = satInc 16 (tabGet 0 s.cinder (cinderKey 0x02 c 0x48)))) ∧
  (∀ (s : State) (c : CoreId) (p : Nat) (v : BitVec 64), CoreActs s c p →
      let x := s.core c
      (x.sq.length = 256 ∨ x.sqWord0 = 0 → ∃ t, exec (.sqPush c v) s = .next t ∧ OnlyCore c s t ∧
        t.core c = { x with sqRefused := true }) ∧
      (x.sq.length ≠ 256 → x.sqWord0 ≠ 0 → ∃ t, exec (.sqPush c v) s = .next t ∧ OnlyCore c s t ∧
        t.core c = { x with sq := x.sq ++ [(x.sqWord0, v)], sqRefused := false }) ∧
      (∀ e r, x.sq = e :: r → ∃ t, exec (.sqPop c) s = .next t ∧ CoresBut c s t ∧
        t = { s with cores := t.cores, outbox := s.outbox ++ [.coreRead c e.1.toNat] } ∧
        t.core c = { x with sq := r, sqLatch := e.2 }) ∧
      (x.sq = [] → ∃ t, exec (.sqPop c) s = .next t ∧ CoresBut c s t ∧
        t = { s with cores := t.cores, outbox := s.outbox ++ [.coreRead c 0] } ∧ t.core c = { x with sqLatch := 0 }) ∧
      (∀ u, s.victim p c = some u → u ∈ s.coresOf p ∧ u ≠ c.val ∧ (s.core u).sq ≠ [] ∧
        (∀ e ∈ s.coresOf p, e ≠ c.val → (s.core e).sq.length ≤ (s.core u).sq.length) ∧
        ∃ t, exec (.sqSteal c) s = .next t ∧ (∀ j, j ≠ c.val → j ≠ u → t.core j = s.core j) ∧ PartsBut p s t ∧
          t.core u = { s.core u with sq := (s.core u).sq.tail } ∧
          t.core c = { x with sqLatch := ((s.core u).sq.headD (0, 0)).2, sqVictim := u } ∧
          (t.part p).clock.cnt.steals = satInc 64 (s.part p).clock.cnt.steals ∧ (t.part p).plan = (s.part p).plan ∧
          t = { s with cores := t.cores, parts := t.parts
                       outbox := s.outbox ++ [.coreRead c ((s.core u).sq.headD (0, 0)).1.toNat] }) ∧
      (s.victim p c = none → ∃ t, exec (.sqSteal c) s = .next t ∧ CoresBut c s t ∧
        t = { s with cores := t.cores, outbox := s.outbox ++ [.coreRead c 0] } ∧ t.core c = { x with sqLatch := 0 }))

/-- The serving block (R195, R197, R227): HALT holds every core of the partition, START and START_IMAGE start every core that
is not disabled in machine mode with its CORE_INFO value in a0, all three empty the steal queues and none acts in a plan state
not listed; an image of length 0 or outside the owned Ember store is refused by its code; a trap that a core cannot handle
halts that core alone and STATE reads FAULTED. EMBER_HALT and STE_COUNT (R197, R227). -/
def Obligations.ServingBlockAndTrapsStopCores : Prop :=
  (∀ (s : State) (p : PartId), s.fnReady p = true →
      let v := (s.part p).serving
      let st := (s.part p).plan.st
      let started (c : Nat) (t : State) (entry : BitVec 64) : Prop :=
        (t.core c).run = .running ∧ (t.core c).mode = .machine ∧ (t.core c).pc = entry ∧
        tabGet 0 (t.core c).xs 10 = BitVec.ofNat 64 (coreInfo c p)
      (st = .empty ∨ st = .loaded ∨ st = .stopped ∨ st = .faulted →
        (∃ t, exec (.halt p) s = .next t ∧ (t.part p).serving.srvState = 0 ∧ (t.part p).serving.error = 0 ∧
          (t.part p).serving.held = true ∧ (∀ c ∈ s.coresOf p, (t.core c).run = .held ∧ (t.core c).sq = []) ∧
          (∀ c, c ∉ s.coresOf p → c ≠ (s.part p).frame.sealer → t.core c = s.core c) ∧ (t.part p).plan = (s.part p).plan ∧ t.mem = s.mem ∧ PartsBut p s t) ∧
        (∃ t, exec (.start p) s = .next t ∧ (t.part p).serving.srvState = 1 ∧ (t.part p).serving.error = 0 ∧
          (t.part p).serving.held = false ∧ (t.part p).serving.elvune = true ∧
          (∀ c ∈ s.coresOf p, (t.core c).sq = [] ∧ (s.coreOff c = true → (t.core c).run = .held) ∧
            (s.coreOff c = false → started c t Config.elvuneEntry)) ∧
          (∀ c, c ∉ s.coresOf p → c ≠ (s.part p).frame.sealer → t.core c = s.core c) ∧
          (∀ k, 2 ≤ k → k < 32 → t.keySlot p k = {}) ∧ (t.part p).sec.wrapGen ≠ (s.part p).sec.wrapGen ∧
          (t.part p).plan = (s.part p).plan ∧ PartsBut p s t) ∧
        (v.imgLen = 0 → ∃ t, exec (.startImage p) s = .next t ∧ OnlyPart p s t ∧
          t.part p = { s.part p with serving := { v with error := 3 } }) ∧
        (v.imgLen ≠ 0 → s.storeRange p v.imgBase v.imgLen = false → ∃ t, exec (.startImage p) s = .next t ∧ OnlyPart p s t ∧
          t.part p = { s.part p with serving := { v with error := 2 } }) ∧
        (v.imgLen ≠ 0 → s.storeRange p v.imgBase v.imgLen = true → ∃ t, exec (.startImage p) s = .next t ∧
          (t.part p).serving.srvState = 2 ∧ (t.part p).serving.error = 0 ∧ (t.part p).serving.elvune = false ∧
          (t.part p).serving.measure = Config.sha384 (s.memBytes v.imgBase v.imgLen) ∧
          (∀ c ∈ s.coresOf p, (t.core c).sq = [] ∧ (s.coreOff c = true → (t.core c).run = .held) ∧
            (s.coreOff c = false → started c t (BitVec.ofNat 64 (0x400000000000 + v.imgBase)))) ∧
          (∀ c, c ∉ s.coresOf p → c ≠ (s.part p).frame.sealer → t.core c = s.core c) ∧ PartsBut p s t)) ∧
      (st = .loading ∨ st = .armed ∨ st = .running → ∀ c : Instr, c = .halt p ∨ c = .start p ∨ c = .startImage p →
        ∃ t, exec c s = .next t ∧ OnlyPart p s t ∧ t.part p = { s.part p with serving := { v with error := 1 } })) ∧
  (∀ (s : State) (c : CoreId) (p : PartId) (mcause mepc mtval : BitVec 64),
      (CoreActs s c p → ∃ t, exec (.emberHalt c mcause mepc mtval) s = .next t ∧ CoresBut c s t ∧
        t.core c = { s.core c with run := .halted, mcause := mcause, mepc := mepc, mtval := mtval } ∧
        (t.part p).serving.srvState = 3 ∧ (t.part p).plan = (s.part p).plan ∧ PartsBut p s t ∧ t.mem = s.mem ∧
        tabGet 0 t.cinder (cinderKey 0x02 c 0x40) = satInc 16 (tabGet 0 s.cinder (cinderKey 0x02 c 0x40)) ∧
        ∃ e, t.log = ringKeep 16384 (s.log ++ [e]) ∧ e.cls = 0x40 ∧ e.index = c.val ∧ e.part = p.val ∧ e.addr = mepc.toNat ∧
          e.detail = leBytes 8 mcause.toNat ++ leBytes 8 mtval.toNat) ∧
      ∃ t, exec (.steCount p) s = .next t ∧ OnlyPart p s t ∧
        t.part p = { s.part p with serving := { (s.part p).serving with inUse :=
          if (s.part p).frame.ste = 0 then 0 else ((List.range 16384).filter fun i => s.steState p i ≠ 0).length } })

/-- Page operations of a core on a handle that names a page (R210, R211): FREE, REF_INC, REF_DEC and SHARE move the page as
the table says or leave it with STATUS STATE or SATURATED, QUERY leaves it, and PA_RESULT shows the outcome; every other page
and every byte of memory stays. ALLOC takes a FREE page of the group, which becomes OWNED with REFS 1, and answers its handle,
or 0xFFFFFFFF and EMPTY when there is none (R210, R211); PAGE_POOL_ENABLE sets ENABLE with every page FREE, or CFG_BAD and the
lowest bad group. Which FREE page ALLOC takes is left open, so the statement says only that it was FREE. -/
def Obligations.PagesAreAllocatedAndCounted : Prop :=
  (∀ (s : State) (c : CoreId) (p : Nat) (h : BitVec 32), CoreActs s c p → s.handleOk p h.toNat = true →
      let x := (s.part p).alloc.page h.toNat
      let gives (i : Instr) (status : Nat) (y : Page) : Prop := ∃ t, exec i s = .next t ∧
        t = { s with parts := t.parts, cores := t.cores } ∧ PartsBut p s t ∧
        (t.part p).alloc.page h.toNat = y ∧ (∀ k, k ≠ h.toNat → (t.part p).alloc.page k = (s.part p).alloc.page k) ∧
        (t.core c).paStatus = status ∧ (t.core c).paState = y.st.code ∧ (t.core c).paRefs = min y.refs 0xFFFF
      (x.st = .owned → x.refs = 1 → gives (.free c h) 0 { st := .releasing, refs := 0 }) ∧
      (x.st ≠ .owned ∨ x.refs ≠ 1 → gives (.free c h) 3 x) ∧
      (x.st = .owned ∨ x.st = .shared → x.refs < 65535 → gives (.refInc c h) 0 { x with refs := x.refs + 1 }) ∧
      (x.st = .owned ∨ x.st = .shared → 65535 ≤ x.refs → gives (.refInc c h) 4 x) ∧
      (x.st = .free ∨ x.st = .releasing → gives (.refInc c h) 3 x ∧ gives (.refDec c h) 3 x) ∧
      (x.st = .owned ∨ x.st = .shared → 1 < x.refs → gives (.refDec c h) 0 { x with refs := x.refs - 1 }) ∧
      (x.st = .owned ∨ x.st = .shared → x.refs ≤ 1 → gives (.refDec c h) 0 { st := .releasing, refs := 0 }) ∧
      (x.st = .owned → gives (.share c h) 0 { x with st := .shared }) ∧
      (x.st ≠ .owned → gives (.share c h) 3 x) ∧ gives (.query c h) 0 x) ∧
  (∀ (s : State) (c : CoreId) (p : PartId) (g : GroupId),
      (CoreActs s c p → (∀ k, s.pickPage p g = some k →
          ∃ t, exec (.alloc c g) s = .next t ∧ ((s.part p).alloc.page (pageKey g k)).st = .free ∧
            (t.part p).alloc.page (pageKey g k) = { st := .owned, refs := 1 } ∧
            (∀ j, j ≠ pageKey g k → (t.part p).alloc.page j = (s.part p).alloc.page j) ∧ PartsBut p s t ∧
            (t.core c).paStatus = 0 ∧ t.outbox = s.outbox ++ [.coreRead c (pageKey g k)] ∧ t.mem = s.mem) ∧
        (s.pickPage p g = none → ∃ t, exec (.alloc c g) s = .next t ∧ (t.core c).paStatus = 1 ∧ CoresBut c s t ∧
          t = { s with cores := t.cores, serial := t.serial, outbox := s.outbox ++ [.coreRead c 0xFFFFFFFF] })) ∧
      ((s.part p).alloc.enable = false →
        (∀ b, (s.groupsOf p).find? (fun k => ¬ s.poolOk p k) = some b → ∃ t, exec (.pagePoolEnable p) s = .next t ∧
          PartsBut p s t ∧ t.mem = s.mem ∧ t.turf = s.turf ∧ t.tiles = s.tiles ∧ t.groups = s.groups ∧ t.part p = { s.part p with alloc := { (s.part p).alloc with cfgBad := true, badGroup := b } }) ∧
        ((∀ b ∈ s.groupsOf p, s.poolOk p b = true) → ∃ t, exec (.pagePoolEnable p) s = .next t ∧ OnlyPart p s t ∧
          t.part p = { s.part p with alloc := { (s.part p).alloc with enable := true, cfgBad := false, pages := [] } })))

/-- Seals (R216): SEAL makes an OPEN shadow SEALING, SEAL_COMPLETE writes STEP and DIGEST into the frame, makes it SEALED and
raises SEAL_DONE at the core that sealed, and UNSEAL opens it again; a SEAL with the plan EMPTY is refused and counted. What
the model chose or inferred in it: log entry 34. -/
def Obligations.SealsMoveTheShadow : Prop :=
  ∀ (s : State) (c : CoreId) (p : PartId),
    let f := (s.part p).frame
    (CoreActs s c p → (s.part p).plan.st ≠ .empty → f.shadow = .open_ →
      ∃ t, exec (.seal c) s = .next t ∧ (t.part p).frame.shadow = .sealing ∧ (t.part p).frame.sealer = c ∧
        (t.part p).frame.target = f.target ∧ (t.part p).frame.queue = f.queue ∧ (t.part p).plan = (s.part p).plan ∧
        PartsBut p s t ∧ t.cores = s.cores ∧ t.tiles = s.tiles) ∧
    (CoreActs s c p → (s.part p).plan.st = .empty →
      ∃ t, exec (.seal c) s = .next t ∧ t = { s with cinder := t.cinder } ∧
        tabGet 0 t.cinder (cinderKey 0x11 p 0x48) = satInc 16 (tabGet 0 s.cinder (cinderKey 0x11 p 0x48))) ∧
    (f.shadow = .sealing → ∃ t, exec (.sealComplete p) s = .next t ∧ (t.part p).frame = { f with shadow := .sealed } ∧
        PartsBut p s t ∧ CoresBut f.sealer s t ∧
        t.core f.sealer = { s.core f.sealer with event := (s.core f.sealer).event ||| 8#6 } ∧
        (f.mirror = 0 → (∀ k, k < 16 → t.memByte (s.shadowBase p + k) =
            (leBytes 8 f.target ++ leBytes 8 ((s.wrLe (s.shadowBase p) 8 f.target).frameDigest p (s.shadowBase p))).getD k 0) ∧
          ∀ a, a < s.shadowBase p ∨ s.shadowBase p + 16 ≤ a → t.memByte a = s.memByte a)) ∧
    (CoreActs s c p → f.shadow = .sealed → ∃ t, exec (.unseal c) s = .next t ∧ OnlyPart p s t ∧
      t.part p = { s.part p with frame := { f with shadow := .open_ } })

/-- Releases (R217): a RELEASE, a CANCEL and a TRIM of a mapped sequence that is neither FREE nor RELEASING enter the queue of
the next boundary, where CANCEL accumulates and a release overrides a trim; with the shadow OPEN the first and the last change
nothing else, and CANCEL sets CANCEL and CANCEL_STEP of the STE and no other byte. Of an index of 16,384 or more, or of a FREE
or RELEASING sequence, they do nothing but count PARTITION_FENCE at the core. RELEASE_WALK_END (R217, R201): the sequence
whose walk ends is FREE with GEN one higher modulo 65,536, its walk is gone, every core of the partition has RELEASE_DONE, and
no other byte of memory changes. -/
def Obligations.SequencesAreReleasedAtTheBoundary : Prop :=
  (∀ (s : State) (c : CoreId) (p : Nat) (i : Fin 65536), CoreActs s c p →
      let f := (s.part p).frame
      let a := s.steAddr p i
      (16384 ≤ i.val ∨ (s.steMapped p i = true ∧ (s.steState p i = 0 ∨ s.steState p i = 7)) →
        ∀ x : Instr, x = .release c i ∨ x = .cancel c i ∨ x = .trim c i → ∃ t, exec x s = .next t ∧ t = { s with cinder := t.cinder } ∧
          tabGet 0 t.cinder (cinderKey 0x02 c 0x48) = satInc 16 (tabGet 0 s.cinder (cinderKey 0x02 c 0x48))) ∧
      (i.val < 16384 → s.steMapped p i = true → s.steState p i ≠ 0 → s.steState p i ≠ 7 → f.shadow = .open_ →
        (∃ t, exec (.release c i) s = .next t ∧ OnlyPart p s t ∧
          t.part p = { s.part p with frame := { f with queue := mergeRel f.queue i false false } }) ∧
        (∃ t, exec (.trim c i) s = .next t ∧ OnlyPart p s t ∧
          t.part p = { s.part p with frame := { f with queue := mergeRel f.queue i false true } }) ∧
        ∃ t, exec (.cancel c i) s = .next t ∧ PartsBut p s t ∧ t.cores = s.cores ∧
          t.part p = { s.part p with frame := { f with queue := mergeRel f.queue i true false } } ∧
          bitsOf (t.memLe a 4) 4 4 = 1 ∧ (∀ b, b < 32 → b ≠ 4 → (t.memLe a 4).testBit b = (s.memLe a 4).testBit b) ∧
          ((s.part p).plan.step < 2 ^ 64 → t.memLe (a + 0x38) 8 = (s.part p).plan.step) ∧
          ∀ x, (x < a ∨ a + 4 ≤ x) → (x < a + 0x38 ∨ a + 0x40 ≤ x) → t.memByte x = s.memByte x) ∧
      ((∀ e ∈ f.queue, e.ste ≠ i.val) → ∀ k d, mergeRel f.queue i k d = f.queue ++ [⟨i, k, d⟩])) ∧
  (∀ (s : State) (p : PartId) (i : Nat) (rest : List Nat), (s.part p).frame.walks = i :: rest → s.steMapped p i = true →
      ∃ t, exec (.releaseWalkEnd p) s = .next t ∧ (t.part p).frame.walks = rest ∧ t.steState p i = 0 ∧
        t.steGen p i = (s.steGen p i + 1) % 65536 ∧ (∀ c ∈ s.coresOf p, (t.core c).event.getLsbD 4 = true) ∧
        (∀ a, a < s.steAddr p i ∨ s.steAddr p i + 4 ≤ a → t.memByte a = s.memByte a) ∧
        PartsBut p s t ∧ (t.part p).plan = (s.part p).plan)

/-- Budgets (R219, R221): the refill due comes before a read and before an addition; a read answers the balance; an addition
saturates at both ends of signed 32 bits; no other entry changes; outside BT_RANGE a read gives 0 and an addition nothing. -/
def Obligations.BudgetsRefillBeforeUse : Prop :=
  ∀ (s : State) (a : Agent) (d : BitVec 32), s.agentOk a = true →
    (∀ e, s.btEntry a = some e →
      let b := (s.budget e).refillAt s.hall
      (∃ t, exec (.btBalanceRead a) s = .next t ∧ t = { s with budgets := t.budgets, outbox := t.outbox } ∧
        t.budget e = b ∧ (∀ k, k ≠ e → t.budget k = s.budget k) ∧
        t.outbox = s.outbox ++ [match a with
          | .core c => .coreRead c (b.balance % 2 ^ 32).toNat
          | .host p => .hostRead p (b.balance % 2 ^ 32).toNat]) ∧
      ∃ t, exec (.btAdd a d) s = .next t ∧ t = { s with budgets := t.budgets } ∧
        t.budget e = { b with balance := max (-(2 ^ 31)) (min (2 ^ 31 - 1) (b.balance + d.toInt)) } ∧
        ∀ k, k ≠ e → t.budget k = s.budget k) ∧
    (s.btEntry a = none → exec (.btAdd a d) s = .next s ∧
      exec (.btBalanceRead a) s = .next (s.reply a 0))

/-- LOOKUP (R236, R237, R242): a command of a core whose last one is of the same hall tick is ignored and counted; any other
ends with DISABLED while ENABLE is 0; a refused LOOKUP changes nothing else. The first block of an accepted one that no
candidate confirms ends it with OK, BLOCKS 0 and no entry, each candidate that failed counted; a confirmed hit of its one
block is mapped, counted, and becomes the head of the chain in PH_RESULT and in the STE. LOOKUP with USE_HANDLE and INSERT
(R238, R239): a handle that is not in the directory is answered HANDLE with nothing mapped; a handle whose chain covers the
blocks asked for maps its chain whole; an INSERT of one private block that no entry of the directory confirms writes a VALID
block entry in a free way of its bucket and answers one block entered. What the model chose or inferred in it: log entry 31.
-/
def Obligations.PrefixLookupsMapConfirmedBlocks : Prop :=
  (∀ (s : State) (c : CoreId) (p : Nat), CoreActs s c p →
      let x := (s.core c).ph
      let y := { x with taken := some s.hall }
      let u := (s.part p).phu
      let e := s.lookRefuse p x.sg x.ste x.blocks
      (∀ i : Instr, i = .lookup c ∨ i = .lookupHandle c ∨ i = .insert c ∨ i = .remove c ∨ i = .register c →
        (x.taken = some s.hall → ∃ t, exec i s = .next t ∧ t = { s with cinder := t.cinder } ∧
          tabGet 0 t.cinder (cinderKey 0x02 c 0x48) = satInc 16 (tabGet 0 s.cinder (cinderKey 0x02 c 0x48))) ∧
        (x.taken ≠ some s.hall → u.enable = false → ∃ t, exec i s = .next t ∧ OnlyCore c s t ∧
          t.core c = { s.core c with ph := { x with code := 12 } })) ∧
      (x.taken ≠ some s.hall → u.enable = true → s.steMapped p x.ste = true →
        (e ≠ 0 → ∀ i : Instr, i = .lookup c ∨ i = .lookupHandle c → ∃ t, exec i s = .next t ∧ OnlyCore c s t ∧
          t.core c = { s.core c with ph := { y with code := e } }) ∧
        (e = 0 → s.anyRange p x.tokens 256 = true →
          s.tableGaps p (s.stePdir p x.ste) (x.blocks * s.steLayers p x.ste) = [] →
          let k := s.phKey p x.sg
          let tok := s.pBytes p x.tokens 256
          let key := chainOf k.2 0 tok
          let z := k.1.firstGood p x.sg key 0 tok 0xFFFFFFFF
          (0 < x.blocks → z.1 = none → ∃ t, exec (.lookup c) s = .next t ∧ CoresBut c s t ∧
            (t.core c).ph.code = 0 ∧ (t.core c).ph.hit = 0 ∧ (t.core c).ph.entry = 0xFFFFFFFF ∧
            (t.part p).phu.confirmFail = min (2 ^ 32 - 1) (u.confirmFail + z.2) ∧
            (t.part p).alloc = (s.part p).alloc ∧ PartsBut p s t ∧ t.steCommitted p x.ste = 0 ∧
            ∀ a, a < s.steAddr p x.ste + 4 ∨ s.steAddr p x.ste + 0x50 ≤ a → t.memByte a = s.memByte a) ∧
          ∀ d, x.blocks = 1 → z.1 = some d → k.1.blockFull p (k.1.dirAt p d) (s.steLayers p x.ste) = false →
            ∃ t, exec (.lookup c) s = .next t ∧ (t.core c).ph.code = 0 ∧ (t.core c).ph.hit = 1 ∧ (t.core c).ph.entry = d ∧
              (t.core c).ph.chain.toNat = key % 2 ^ 128 ∧ t.steCommitted p x.ste = 64 ∧ t.steTentative p x.ste = 64 ∧
              t.memLe (s.steAddr p x.ste + 0x40) 16 = key % 2 ^ 128 ∧ PartsBut p s t ∧ t.tiles = s.tiles))) ∧
  (∀ (s : State) (c : CoreId) (p : Nat), CoreActs s c p →
      let x := (s.core c).ph
      let u := (s.part p).phu
      x.taken ≠ some s.hall → u.enable = true → s.steMapped p x.ste = true →
      let k := s.phKey p x.sg
      (s.lookRefuse p x.sg x.ste x.blocks = 0 → s.tableGaps p (s.stePdir p x.ste) (x.blocks * s.steLayers p x.ste) = [] →
        (k.1.findHandle p x.sg (handleKey k.2 x.handle) x.handle = none → ∃ t, exec (.lookupHandle c) s = .next t ∧
          (t.core c).ph.code = 8 ∧ (t.core c).ph.hit = 0 ∧ t.steCommitted p x.ste = 0 ∧ (t.part p).alloc = (s.part p).alloc ∧
          CoresBut c s t ∧ PartsBut p s t) ∧
        ∀ hd, k.1.findHandle p x.sg (handleKey k.2 x.handle) x.handle = some hd →
          let b := k.1.deBlock p (k.1.dirAt p hd)
          ∀ ch, k.1.walkChain p x.sg x.blocks b (k.1.dePrev p (k.1.dirAt p hd)) = some ch →
          ∀ d r, ch.drop (b + 1 - x.blocks) = d :: r → x.blocks ≤ b + 1 → ((d :: r).any fun d => k.1.blockFull p (k.1.dirAt p d) (s.steLayers p x.ste)) = false →
          ∃ t, exec (.lookupHandle c) s = .next t ∧ (t.core c).ph.code = 0 ∧ (t.core c).ph.hit = r.length + 1 ∧
            (t.core c).ph.entry = d ∧ t.steCommitted p x.ste = 64 * (r.length + 1) % 2 ^ 24 ∧ PartsBut p s t) ∧
      (x.sg < u.sgCount → (s.steState p x.ste = 2 ∨ s.steState p x.ste = 3) → 64 ≤ s.steCommitted p x.ste →
        x.first = 0 → x.blocks = 1 → s.tableGaps p (s.stePdir p x.ste) (s.steLayers p x.ste) = [] →
        ∀ e, (s.blockPtes p x.ste 0).headD none = some e → s.pteLoc p e = 1 →
        s.handleOk p (s.pteHandle p e) = true → s.anyRange p x.plist (4 * s.steLayers p x.ste) = true →
        s.nearRange p u.base (2 ^ u.bits * 256) = true →
        let tok := s.memBytes (s.hdrAddr p (s.pteHandle p e) + 0x40) 256
        let key := chainOf k.2 0 tok
        (k.1.firstGood p x.sg key 0 tok 0xFFFFFFFF).1 = none → s.blockPrivate p x.ste 0 = true →
        ∀ d, s.freeWay p key = some d → ∃ t, exec (.insert c) s = .next t ∧ (t.core c).ph.code = 0 ∧ (t.core c).ph.hit = 1 ∧ (t.core c).ph.existing = 0 ∧
          (t.core c).ph.entry = d ∧ t.deValid p (t.dirAt p d) = true ∧ t.deKey p (t.dirAt p d) = key ∧
          t.deKind p (t.dirAt p d) = 0 ∧ PartsBut p s t))

/-- REMOVE and REGISTER (R240): a handle entry that is removed lowers PINS of its block entry and becomes EMPTY; a block entry
with children or pins is BUSY and stays, any other becomes EMPTY; a REGISTER writes a VALID handle entry naming the block
entry in a free way of the handle's bucket and adds one pin. PREFIX_ENABLE sets ENABLE when DIR_LOG2, the directory and the
share-group table are in range and CFG_BAD otherwise (R242), and PH_SG_INVAL drops the cached key of its share group and no
other (R230). -/
def Obligations.PrefixDirectoryComesAndGoes : Prop :=
  (∀ (s : State) (c : CoreId) (p : Nat), CoreActs s c p →
      let x := (s.core c).ph
      let u := (s.part p).phu
      let a := s.dirAt p x.entry
      x.taken ≠ some s.hall → u.enable = true → u.bits ≤ 22 → s.nearRange p u.base (2 ^ u.bits * 256) = true →
      x.entry < 4 * 2 ^ u.bits → s.deValid p a = true →
      (s.deKind p a = 1 → s.dePrev p a < 4 * 2 ^ u.bits →
        let ha := s.dirAt p (s.dePrev p a)
        ∃ t, exec (.remove c) s = .next t ∧ (t.core c).ph.code = 0 ∧ t.deValid p a = false ∧ CoresBut c s t ∧ t.parts = s.parts ∧
          (∀ b, (b < ha + 0x34 ∨ ha + 0x38 ≤ b) → (b < a + 0x14 ∨ a + 0x18 ≤ b) → t.memByte b = s.memByte b) ∧
          (ha ≠ a → t.dePins p ha = s.dePins p ha - 1)) ∧
      (s.deKind p a = 0 → s.deChildren p a ≠ 0 ∨ s.dePins p a ≠ 0 → ∃ t, exec (.remove c) s = .next t ∧ OnlyCore c s t ∧
        t.core c = { s.core c with ph := { x with taken := some s.hall, code := 7 } }) ∧
      (s.deKind p a = 0 → s.deChildren p a = 0 → s.dePins p a = 0 →
        s.anyRange p (s.deList p a) (4 * s.deLayers p a) = true → ∃ t, exec (.remove c) s = .next t ∧ (t.core c).ph.code = 0 ∧
        t.deValid p a = false ∧ PartsBut p s t ∧ t.tiles = s.tiles) ∧
      (s.deKind p a = 0 → x.sg < u.sgCount → s.deSg p a = x.sg → s.dePins p a < 65535 →
        let k := s.phKey p x.sg
        let key := handleKey k.2 x.handle
        (s.findHandle p x.sg key x.handle).isSome = false → ∀ d, s.freeWay p key = some d →
          ∃ t, exec (.register c) s = .next t ∧ (t.core c).ph.code = 0 ∧ CoresBut c s t ∧ PartsBut p s t ∧ d ≠ x.entry ∧
            t.deValid p (s.dirAt p d) = true ∧ t.deKind p (s.dirAt p d) = 1 ∧ t.dePrev p (s.dirAt p d) = x.entry ∧
            t.deBlock p (s.dirAt p d) = s.deBlock p a ∧ t.deList p (s.dirAt p d) = x.handle % 2 ^ 64 ∧
            t.dePins p a = s.dePins p a + 1 ∧
            ∀ b, (b < s.dirAt p d ∨ s.dirAt p d + 64 ≤ b) → (b < a + 0x34 ∨ a + 0x38 ≤ b) → t.memByte b = s.memByte b)) ∧
  (∀ (s : State) (p : PartId),
      let u := (s.part p).phu
      let good := 8 ≤ u.bits ∧ u.bits ≤ 22 ∧ s.nearRange p u.base (2 ^ u.bits * 256) = true ∧
        s.nearRange p u.sgBase (64 * u.sgCount) = true
      (u.enable = false →
        (good → ∃ t, exec (.prefixEnable p) s = .next t ∧ OnlyPart p s t ∧
          t.part p = { s.part p with phu := { u with enable := true, cfgBad := false } }) ∧
        (¬ good → ∃ t, exec (.prefixEnable p) s = .next t ∧
          OnlyLogged (s.updPart p fun P => { P with phu := { u with cfgBad := true } }) t)) ∧
      ∀ (c : CoreId) (g : Fin 65536), CoreActs s c p → ∃ t, exec (.phSgInval c g) s = .next t ∧ OnlyPart p s t ∧
        t.part p = { s.part p with phu := { u with keys := u.keys.filter fun e => e.1 ≠ g.val } })

/-- BANK and REKINDLE (R245, R248, R250, R251): while ENABLE is 0 both are REFUSED; while the completion ring has no room the
command waits and the wait is counted once; with room, a BANK of a PAUSED sequence with a free turf slot for each page it will
move reserves them and makes the sequence BANKING, one without is DEFERRED with a record, and a REKINDLE of a BANKED sequence
into an owned group with enough FREE pages allocates them, makes it REKINDLING and takes it from the migration order; a
sequence in another state is answered STATE, a group of another partition REFUSED, with nothing else changed. The banking
engine's own events (R245, R246, R248, R250, R251): a transfer whose boundary has passed starts to move; a finished one leaves
the list, its sequence BANKED and last in the migration order or PAUSED, and writes a record; none finishes while the ring is
full. MIGRATE runs only from above BK_HIGH until the slots in use are at or below BK_LOW, and takes the pages in turf of the
oldest BANKED sequence that has some to far slots. BANK_ENABLE checks the pools. A write of BK_CQ_TAIL ends a wait where it
makes room. -/
def Obligations.BankingMovesSequences : Prop :=
  (∀ (s : State) (c : CoreId) (p : Nat), CoreActs s c p →
      let r := (s.core c).reg
      let b := (s.part p).bank
      let res (v : Nat) : Core := { s.core c with reg := { r with bkRes := v } }
      let engine := s.servingRetort p ((b.turfBase - 0x10000000000) / 0x1000000000)
      (∀ i : Instr, i = .bank c ∨ i = .rekindle c →
        (b.enable = false → ∃ t, exec i s = .next t ∧ OnlyCore c s t ∧ t.core c = res 2) ∧
        (b.enable = true → s.steMapped p r.bkSte = true → b.canRun = false → ∃ t, exec i s = .next t ∧ OnlyPart p s t ∧
          t.part p = { s.part p with bank := { b with
            waiting := b.waiting ++ [⟨c, decide (i = .bank c), r.bkSte, r.bkGroup, r.bkTtl⟩], stalled := true,
            stalls := if b.stalled then b.stalls else satInc 32 b.stalls } })) ∧
      (b.enable = true → s.steMapped p r.bkSte = true → b.canRun = true →
        (s.steState p r.bkSte ≠ 3 → ∃ t, exec (.bank c) s = .next t ∧ OnlyCore c s t ∧ t.core c = res 1) ∧
        (s.owns p r.bkGroup = false → ∃ t, exec (.rekindle c) s = .next t ∧ OnlyCore c s t ∧ t.core c = res 2) ∧
        (s.owns p r.bkGroup = true → s.steState p r.bkSte ≠ 5 → ∃ t, exec (.rekindle c) s = .next t ∧ OnlyCore c s t ∧
          t.core c = res 1) ∧
        (s.tableGaps p (s.stePdir p r.bkSte) (s.tableSize p r.bkSte) = [] →
          (s.steState p r.bkSte = 3 → b.turfUsed.length + (s.toMove p r.bkSte).length ≤ b.turfSlots →
            ∃ t ks, exec (.bank c) s = .next t ∧ t.core c = res 0 ∧ CoresBut c s t ∧ PartsBut p s t ∧
              t.steState p r.bkSte = 4 ∧ ks.length = (s.toMove p r.bkSte).length ∧ (∀ k ∈ ks, k < b.turfSlots ∧ k ∉ b.turfUsed) ∧
              (let j : BankJob := { ste := r.bkSte, bank := true, ttl := r.bkTtl, slots := ks, retort := engine }
              (t.part p).bank = ({ b with turfUsed := b.turfUsed ++ ks, jobs := b.jobs ++ [j] } : Banking).watch) ∧
              ∀ a, a < s.steAddr p r.bkSte ∨ s.steAddr p r.bkSte + 4 ≤ a → t.memByte a = s.memByte a) ∧
          (s.steState p r.bkSte = 3 → b.turfSlots < b.turfUsed.length + (s.toMove p r.bkSte).length →
            let a := b.cqBase + 16 * (b.cqHead % 2 ^ b.cqLog2)
            ∃ t, exec (.bank c) s = .next t ∧ t.core c = res 0 ∧ CoresBut c s t ∧ PartsBut p s t ∧ t.tiles = s.tiles ∧ t.cords = s.cords ∧
              t.part p = { s.part p with bank := { b with deferred := satInc 32 b.deferred, cqHead := (b.cqHead + 1) % 2 ^ 32 } } ∧
              (s.mappedRange p a 16 = true → t.memBytes a 16 = bankRec r.bkSte (s.steGen p r.bkSte) 1 1 0 0) ∧
              ∀ x, x < a ∨ a + 16 ≤ x → t.memByte x = s.memByte x) ∧
          (s.owns p r.bkGroup = true → s.steState p r.bkSte = 5 →
            (s.banked p r.bkSte).length ≤ (s.part p).alloc.freeCount r.bkGroup →
            ∃ t hs, exec (.rekindle c) s = .next t ∧ (t.core c).reg.bkRes = 0 ∧ PartsBut p s t ∧ t.steState p r.bkSte = 6 ∧
              hs.length = (s.banked p r.bkSte).length ∧ (∀ h ∈ hs, (t.part p).alloc.page h = { st := .owned, refs := 1 } ∧
                ((s.part p).alloc.page h).st = .free ∧
                (((s.part p).alloc.pool r.bkGroup).pages ≤ 2 ^ 22 → h / 2 ^ 22 = r.bkGroup)) ∧
              (let j : BankJob := { ste := r.bkSte, bank := false, pages := hs, retort := s.servingRetort p r.bkGroup }
              (t.part p).bank = { b with order := b.order.filter fun k => k ≠ r.bkSte, jobs := b.jobs ++ [j] }) ∧
              ∀ a, a < s.steAddr p r.bkSte ∨ s.steAddr p r.bkSte + 4 ≤ a → t.memByte a = s.memByte a)))) ∧
  (∀ (s : State) (p : PartId),
      let b := (s.part p).bank
      let ring := b.cqBase + 16 * (b.cqHead % 2 ^ b.cqLog2)
      let away (i : Nat) : Prop := s.steMapped p i = true ∧ (ring + 16 ≤ s.steAddr p i ∨ s.steAddr p i + 128 ≤ ring)
      let stall : Part := { s.part p with bank := { b with
        stalled := true, stalls := if b.stalled then b.stalls else satInc 32 b.stalls } }
      (∀ j, b.jobs.find? (fun j => j.bank && j.ready && !j.moving) = some j → ∃ t, exec (.bankMoveStart p) s = .next t ∧
        OnlyPart p s t ∧ t.part p = { s.part p with bank := { b with
          jobs := b.jobs.map fun x => if x.ste = j.ste then { x with moving := true } else x } }) ∧
      (∀ j, b.jobs.find? (fun j => j.bank && j.moving) = some j →
        (b.canRun = true → ∃ t, exec (.bankDone p) s = .next t ∧ (t.part p).bank.jobs = b.jobs.filter (fun x => x.ste ≠ j.ste) ∧
          (t.part p).bank.order = b.order ++ [j.ste] ∧ (t.part p).bank.cqHead = (b.cqHead + 1) % 2 ^ 32 ∧
          (away j.ste → t.steState p j.ste = 5 ∧ t.pLe p (t.steAddr p j.ste + 0x28) 8 = j.ttl % 2 ^ 64) ∧ PartsBut p s t) ∧
        (b.canRun = false → ∃ t, exec (.bankDone p) s = .next t ∧ OnlyPart p s t ∧ t.part p = stall)) ∧
      (∀ j far, b.jobs.find? (fun j => !j.bank) = some j →
        (b.canRun = true → ∃ t, exec (.rekindleDone p far) s = .next t ∧
          (t.part p).bank.jobs = b.jobs.filter (fun x => x.ste ≠ j.ste) ∧ (t.part p).bank.order = b.order ∧
          (t.part p).bank.cqHead = (b.cqHead + 1) % 2 ^ 32 ∧ (away j.ste → t.steState p j.ste = 3) ∧ PartsBut p s t) ∧
        (b.canRun = false → ∃ t, exec (.rekindleDone p far) s = .next t ∧ OnlyPart p s t ∧ t.part p = stall)) ∧
      (b.enable = false ∨ b.migrating = false → exec (.migrate p) s = .next s) ∧
      (∀ i, b.enable = true → b.migrating = true → s.farUp p = true →
        b.order.find? (fun i => decide (s.steState p i = 5 ∧ (s.banked p i).filter (fun e => s.pteLoc p e.2 = 2) ≠ [])) = some i →
        let es := (s.banked p i).filter fun e => s.pteLoc p e.2 = 2
        b.farUsed.length + es.length ≤ b.farTotal →
        ∃ t ks, exec (.migrate p) s = .next t ∧ (t.part p).bank.farUsed = b.farUsed ++ ks ∧ PartsBut p s t ∧
          ks.length = es.length ∧ (∀ k ∈ ks, k < b.farTotal ∧ k ∉ b.farUsed) ∧ (t.part p).bank.order = b.order ∧
          let e := (es.headD (0, 0)).2
          (es.length = 1 → s.mappedRange p e 16 = true →
            t.pteLoc p e = 3 ∧ t.pteTarget p e = s.farSlotAddr p (ks.headD 0) % 2 ^ 52 ∧ (t.part p).bank.turfUsed =
              b.turfUsed.filter fun x => x ≠ slotIndex b.turfBase (slotSize (s.part p).alloc) (s.pteTarget p e))) ∧
      (b.enable = false →
        let size := slotSize (s.part p).alloc
        let good := s.turfRange p b.turfBase (b.turfSlots * size) = true ∧
          s.nearRange p b.tagBase (32 * (b.turfSlots + b.farTotal)) = true ∧
          (b.farTotal * size = 0 ∨ s.hostRange p b.farBase (b.farTotal * size) = true)
        (good → ∃ t, exec (.bankEnable p) s = .next t ∧ OnlyPart p s t ∧
          t.part p = { s.part p with bank := { b with enable := true, cfgBad := false } }) ∧
        (¬ good → ∃ t, exec (.bankEnable p) s = .next t ∧
          OnlyLogged (s.updPart p fun P => { P with bank := { b with cfgBad := true } }) t)) ∧
      ∀ (c : CoreId) (v : BitVec 32), CoreActs s c p →
        let b' : Banking := { b with cqTail := v.toNat }
        (b.recs = [] → b.waiting = [] → ∃ t, exec (.bankCqSpace c v) s = .next t ∧ OnlyPart p s t ∧
          t.part p = { s.part p with bank := { b' with stalled := b.stalled && b'.room = 0 } }) ∧
        (b'.room = 0 → b.recs ≠ [] → ∃ t, exec (.bankCqSpace c v) s = .next t ∧ OnlyPart p s t ∧
          t.part p = { s.part p with bank := { b' with
            stalled := true, stalls := if b.stalled then b.stalls else satInc 32 b.stalls } }))

/-- Shard contexts (R257 to R261): an ARM makes the checks of R258 and leaves the context in the STATUS they give, RANGE with
a count at the Retort engine where the record is unmapped, an ARM of an ARMED or READY one changes nothing but the answer, a
DISARM aborts an ARMED or READY one and logs a missing shard for an OPEN context, and a verifying pass whose tag matches makes
a RESEAL context READY and one that does not TAG_FAIL. The shard windows (R259, R260): a write not wholly below LENGTH, or to
a context that is not ARMED for OPEN, is dropped and counted; a write below LENGTH stores the plaintext of its bytes at its
place and counts them; the last byte with a matching tag makes the context OK and lowers PENDING of its layer once for its
index; a read of a READY context answers the ciphertext. -/
def Obligations.ShardsArmOpenAndReseal : Prop :=
  (∀ (s : State) (c : CoreId) (p : PartId) (k : Fin 256),
      let x := (s.part p).wts.ctx k
      let a := s.ctxAddr p k
      (CoreActs s c p →
        (x.st = 1 ∨ x.st = 2 → ∃ t, exec (.contextArm c k) s = .next t ∧ OnlyCore c s t ∧
          t.core c = { s.core c with reg := { (s.core c).reg with wlRes := x.st } }) ∧
        (x.st ≠ 1 → x.st ≠ 2 → s.mappedRange p a 128 = true → (s.armCheck p k).st = 1 →
          ∃ t, exec (.contextArm c k) s = .next t ∧ (t.part p).wts.ctx k = s.armCheck p k ∧ CoresBut c s t ∧ PartsBut p s t ∧
            (t.core c).reg.wlRes = 1 ∧ (∀ j, j ≠ k.val → (t.part p).wts.ctx j = (s.part p).wts.ctx j) ∧
            (t.part p).wts.layers = (s.part p).wts.layers) ∧
        (x.st ≠ 1 → x.st ≠ 2 → s.mappedRange p a 128 = true → s.mappedRange p (s.armCheck p k).addr (s.armCheck p k).len = true →
          (s.armCheck p k).st ≠ 1 → ∃ t, exec (.contextArm c k) s = .next t ∧
            (t.part p).wts.ctx k = { s.armCheck p k with count := x.count } ∧ CoresBut c s t ∧ PartsBut p s t ∧
            (t.core c).reg.wlRes = (s.armCheck p k).st ∧ t.log = s.log) ∧
        (x.st ≠ 1 → x.st ≠ 2 → s.mappedRange p a 128 = false → ∃ t, exec (.contextArm c k) s = .next t ∧ CoresBut c s t ∧
          (t.core c).reg.wlRes = 8 ∧ ((t.part p).wts.ctx k).st = 8 ∧
          (let u := cinderKey 0x07 (s.armCheck p k).retort 0x48
          tabGet 0 t.cinder u = satInc 16 (tabGet 0 s.cinder u))) ∧
        (x.st ≠ 1 → x.st ≠ 2 → ∃ t, exec (.contextDisarm c k) s = .next t ∧ OnlyCore c s t ∧
          t.core c = { s.core c with reg := { (s.core c).reg with wlRes := x.st } }) ∧
        (x.st = 1 ∨ x.st = 2 → ∃ t, exec (.contextDisarm c k) s = .next t ∧ (t.part p).wts.ctx k = { x with st := 5 } ∧
          (t.core c).reg.wlRes = 5 ∧ PartsBut p s t ∧ CoresBut c s t ∧ (x.opened = false → t.log = s.log) ∧
          (x.opened = true → ∃ e, t.log = ringKeep 16384 (s.log ++ [e]) ∧ e.cls = 0x29 ∧ e.part = p.val))) ∧
      (x.st = 1 → x.opened = false →
        ((s.shardSeal p x (s.memBytes x.addr x.len)).2 = x.tag → ∃ t, exec (.resealVerifyDone p k) s = .next t ∧
          (t.part p).wts.ctx k = { x with st := 2 } ∧ PartsBut p s t ∧ t.cores = s.cores ∧ t.log = s.log) ∧
        ((s.shardSeal p x (s.memBytes x.addr x.len)).2 ≠ x.tag → ∃ t, exec (.resealVerifyDone p k) s = .next t ∧
          (t.part p).wts.ctx k = { x with st := 4 } ∧ PartsBut p s t ∧ t.cores = s.cores))) ∧
  (∀ (s : State) (p : PartId) (k : Fin 256) (off : Nat) (bytes : List Byte) (m : Option (BitVec 15)),
      let w := (s.part p).wts
      let x := w.ctx k
      let y : ShardCtx := { x with
        cipher := wrBytes x.cipher off bytes, got := x.got ++ [(off, bytes.length)], count := x.count + bytes.length
        storage := m.isNone, source := (m.map (·.toNat)).getD 0 }
      (x.st ≠ 1 ∨ x.opened = false ∨ x.len < off + bytes.length → ∃ t, exec (.shardWindowWrite p k off bytes m) s = .next t ∧
        OnlyPart p s t ∧ t.part p = { s.part p with wts := { w with dropped := satInc 32 w.dropped } }) ∧
      (x.st = 1 → x.opened = true → off + bytes.length ≤ x.len → bytes ≠ [] →
        (x.count + bytes.length < x.len → ∃ t, exec (.shardWindowWrite p k off bytes m) s = .next t ∧
          (t.part p).wts.ctx k = y ∧ PartsBut p s t ∧ (t.part p).wts.layers = w.layers ∧ t.cores = s.cores ∧
          let plain := Config.gcmStream ((s.modelKey p x.keySlot).getD 0) x.nonce off bytes
          ∀ i (h : i < plain.length), (x.addr + off + i < s.ctxAddr p k ∨ s.ctxAddr p k + 16 ≤ x.addr + off + i) →
            t.memByte (x.addr + off + i) = plain[i]) ∧
        (x.len ≤ x.count + bytes.length → s.openTagOk p y = true → ∃ t, exec (.shardWindowWrite p k off bytes m) s = .next t ∧
          (t.part p).wts.ctx k = { y with st := 3 } ∧ PartsBut p s t ∧
          ((w.layer x.layer).verified.contains x.index = false → ((t.part p).wts.layer x.layer).pending = (w.layer x.layer).pending - 1 ∧
            ((t.part p).wts.layer x.layer).verified = (w.layer x.layer).verified ++ [x.index]) ∧
          ((w.layer x.layer).verified.contains x.index = true → (t.part p).wts.layer x.layer = w.layer x.layer)) ∧
        (x.len ≤ x.count + bytes.length → s.openTagOk p y = false → ∃ t, exec (.shardWindowWrite p k off bytes m) s = .next t ∧
          (t.part p).wts.ctx k = { y with st := 4 } ∧ PartsBut p s t ∧ (t.part p).wts.layers = w.layers)) ∧
      ∀ n, (x.st = 2 → off + n ≤ x.len → ∃ t, exec (.shardWindowRead p k off n) s = .next t ∧ PartsBut p s t ∧
          (t.part p).wts.ctx k = { x with count := (x.count + n) % 2 ^ 32 } ∧
          Out.shardRead p k (some (((s.shardSeal p x (s.memBytes x.addr x.len)).1.drop off).take n)) ∈ t.outbox) ∧
        (x.st ≠ 2 ∨ x.len < off + n → exec (.shardWindowRead p k off n) s = .next (s.send (.shardRead p k none))))

/-- The weight epoch (R261, R263): LAYER_OPEN opens a layer and empties its verified-index record, and is ignored and counted
while a flip is armed; SET takes effect at once in a plan state that permits it and ARM waits for its step, each only with no
OPEN layer pending and an epoch that R263 permits; DISARM cancels an armed flip. A refused one changes only FB_EPOCH_ERR:
STATE, PENDING with the lowest such layer, STEP or EPOCH. Overlays (R270, R271): INSTALL of a free handle writes generation 1
in record A, PENDING or PENDING_AT_FLIP, INSTALL of a LIVE one the next generation in a FREE record; PIN and UNPIN move PINS
of a generation by one and answer it; WITHDRAW registers the handle for the next boundary. Each refusal answers its code and
changes nothing else: RANGE, TWO_LIVE, NONE, STATE, TENANT, SATURATED. -/
def Obligations.EpochsAndOverlaysFollowTheirCommands : Prop :=
  (∀ (s : State) (c : CoreId) (p : Nat), CoreActs s c p →
      let w := (s.part p).wts
      let noCtx := ∀ e ∈ w.ctxs, e.2.st ≠ 1 ∧ e.2.st ≠ 2
      let st := (s.part p).plan.st
      (∀ (l : Fin 256) (v : BitVec 16), w.armed = false → noCtx → ∃ t, exec (.layerOpen c l v) s = .next t ∧ PartsBut p s t ∧
        (t.part p).wts.layer l = { pending := if (w.layer l).opened then v.toNat else (w.layer l).pending, opened := true } ∧
        (∀ j, j ≠ l.val → (t.part p).wts.layer j = w.layer j) ∧ t.cores = s.cores ∧ t.mem = s.mem) ∧
      (∀ (e : Byte) (kv : Bool), w.openPending = none → e.toNat ≠ w.prev →
        (st = .empty ∨ st = .loaded ∨ st = .stopped ∨ st = .faulted → e.toNat ≠ w.active → noCtx →
          ∃ t, exec (.epochSet c e kv) s = .next t ∧ OnlyPart p s t ∧ (t.part p).wts.active = e.toNat ∧
            (t.part p).wts.prev = w.active ∧ (t.part p).wts.kvCompat = kv ∧ (t.part p).wts.errCode = 0 ∧
            ∀ l, l < 256 → ((t.part p).wts.layer l).opened = false) ∧
        (w.armed = false → (s.part p).frame.target ≤ w.stepReg → noCtx → ∃ t, exec (.epochArm c e kv) s = .next t ∧ OnlyPart p s t ∧
          let w' : Weights := { w with armed := true, next := e.toNat, nextKv := kv, armStep := w.stepReg, errCode := 0 }
          t.part p = { s.part p with wts := { w' with armSame := e.toNat = w.active } })) ∧
      (∀ (l : Fin 256) (v : BitVec 16), w.armed = true → ∃ t, exec (.layerOpen c l v) s = .next t ∧ t = { s with cinder := t.cinder } ∧
        tabGet 0 t.cinder (cinderKey 0x11 p 0x48) = satInc 16 (tabGet 0 s.cinder (cinderKey 0x11 p 0x48))) ∧
      (∀ (e : Byte) (kv : Bool) (i : Instr), i = .epochArm c e kv ∨ i = .epochSet c e kv →
        s.srvAccepts p = true ∨ i = .epochArm c e kv → w.armed = false ∨ i = .epochSet c e kv →
        (∀ l, w.openPending = some l → ∃ t, exec i s = .next t ∧ OnlyPart p s t ∧
          t.part p = { s.part p with wts := { w with errCode := 2, errLayer := l } }) ∧
        (w.openPending = none → w.stepReg < (s.part p).frame.target → i = .epochArm c e kv → ∃ t, exec i s = .next t ∧
          OnlyPart p s t ∧ t.part p = { s.part p with wts := { w with errCode := 3 } }) ∧
        (w.openPending = none → (s.part p).frame.target ≤ w.stepReg ∨ i = .epochSet c e kv →
          (e.toNat = w.prev ∧ e.toNat ≠ w.active) ∨ (e.toNat = w.active ∧ i = .epochSet c e kv) → ∃ t, exec i s = .next t ∧
          OnlyPart p s t ∧ t.part p = { s.part p with wts := { w with errCode := 4 } })) ∧
      (∀ (e : Byte) (kv : Bool), st = .loading ∨ st = .armed ∨ st = .running → ∃ t, exec (.epochSet c e kv) s = .next t ∧
        OnlyPart p s t ∧ t.part p = { s.part p with wts := { w with errCode := 1 } }) ∧
      (∀ (e : Byte) (kv : Bool), w.armed = true → ∃ t, exec (.epochArm c e kv) s = .next t ∧ OnlyPart p s t ∧
        t.part p = { s.part p with wts := { w with errCode := 1 } }) ∧
      (w.handles = [] → ∃ t, exec (.epochDisarm c) s = .next t ∧ OnlyPart p s t ∧
        t.part p = { s.part p with wts := { w with armed := false, errCode := 0 } })) ∧
  (∀ (s : State) (c : CoreId) (p : Nat) (h : BitVec 24), CoreActs s c p →
      let w := (s.part p).wts
      let a := s.ovAddr p h.toNat
      let r := (s.core c).reg
      let live := w.handles.contains h.toNat
      let ends (i : Instr) (code : Nat) : Prop := ∃ t, exec i s = .next t ∧ OnlyCore c s t ∧
        t.core c = { s.core c with reg := { r with ovCode := code } }
      let keeps (t : State) (b : Bool) : Prop := t.parts = s.parts ∧ CoresBut c s t ∧
        ∀ x, x < a + ovRec b + 2 ∨ a + ovRec b + 4 ≤ x → t.memByte x = s.memByte x
      (h.toNat = 0 ∨ w.ovCount ≤ h.toNat → ends (.pin c h) 3 ∧ ends (.withdraw c h) 3 ∧ (∀ g, ends (.unpin c h g) 4) ∧
        ∀ f t, ends (.install c h f t) 1) ∧
      (0 < h.toNat → h.toNat < w.ovCount → s.mappedRange p a 64 = true →
        (∀ (f : Bool) (ten : BitVec 16), (f = true → w.armed = true) →
          (live = false → ∃ t, exec (.install c h f ten) s = .next t ∧ PartsBut p s t ∧ CoresBut c s t ∧
            (t.part p).wts = { w with handles := w.handles ++ [h.toNat] } ∧
            t.core c = { s.core c with reg := { r with ovCode := 0, ovGen := 1, ovPins := 0 } } ∧
            t.ovGst p a false = (if f then 4 else 1) ∧ t.ovGen p a false = 1 ∧ t.ovPins p a false = 0 ∧ t.ovGst p a true = 0 ∧
            t.pLe p (a + 2) 2 = ten.toNat ∧ t.pLe p (a + 0x10) 8 = r.ovArg % 2 ^ 64 ∧
            ∀ b, b < a ∨ a + 64 ≤ b → t.memByte b = s.memByte b) ∧
          (live = true → s.pLe p (a + 2) 2 = ten.toNat → ∀ b, s.ovFind (fun b => s.ovGst p a b = 0) = some b →
            let g := nextGen (newerGen (s.ovGen p a false) (s.ovGen p a true))
            ∃ t, exec (.install c h f ten) s = .next t ∧ t.parts = s.parts ∧ CoresBut c s t ∧
              t.core c = { s.core c with reg := { r with ovCode := 0, ovGen := g, ovPins := 0 } } ∧
              t.ovGst p a b = (if f then 4 else 1) ∧ t.ovGen p a b = g % 256 ∧ t.ovPins p a b = 0 ∧
              t.ovGst p a (!b) = s.ovGst p a (!b) ∧ t.ovPins p a (!b) = s.ovPins p a (!b))) ∧
        (∀ (f : Bool) (ten : BitVec 16), live = true → s.pLe p (a + 2) 2 ≠ ten.toNat → ends (.install c h f ten) 5) ∧
        (∀ (f : Bool), live = true → s.ovGst p a false ≠ 0 → s.ovGst p a true ≠ 0 →
          ends (.install c h f (BitVec.ofNat 16 (s.pLe p (a + 2) 2))) 2) ∧
        (∀ ten, live = false → w.armed = false → ends (.install c h true ten) 4) ∧
        (s.ovCur p h.toNat a = none → ends (.pin c h) 3 ∧ ends (.withdraw c h) 3) ∧
        (∀ b, s.ovCur p h.toNat a = some b →
          (s.ovPins p a b = 65535 → ends (.pin c h) 6) ∧
          (s.ovPins p a b < 65535 → ∃ t, exec (.pin c h) s = .next t ∧ keeps t b ∧ t.ovPins p a b = s.ovPins p a b + 1 ∧
            t.core c = { s.core c with reg := { r with ovCode := 0, ovGen := s.ovGen p a b, ovPins := s.ovPins p a b + 1 } }) ∧
          ∃ t, exec (.withdraw c h) s = .next t ∧ t.mem = s.mem ∧ t.turf = s.turf ∧ PartsBut p s t ∧ CoresBut c s t ∧
            t.part p = { s.part p with wts := { w with withdraw := h.toNat :: w.withdraw.filter fun x => x ≠ h.toNat } } ∧
            t.core c = { s.core c with reg := { r with ovCode := 0, ovPins := s.ovPins p a b } }) ∧
        ∀ g : Byte,
          let found := s.ovFind fun b => s.ovGst p a b ≠ 0 && s.ovGen p a b = g.toNat && 0 < s.ovPins p a b
          (live = false ∨ found = none → ends (.unpin c h g) 4) ∧
          (live = true → ∀ b, found = some b → ∃ t, exec (.unpin c h g) s = .next t ∧ keeps t b ∧
            t.ovPins p a b = s.ovPins p a b - 1 ∧
            t.core c = { s.core c with reg := { r with ovCode := 0, ovPins := s.ovPins p a b - 1 } })))

/-- SEGMENT_SEND (R283, R285, R291, R293, R294, R296): one segment departs in a hall tick, on the wavelengths of the egress
map. In a module slot: the oldest retransmission first, marked and under its own number; else a waiting CTL message while
there is a credit, under the next number and kept in the replay buffer; else FILL, which takes no number. In a slot of a
partition: a PLAN segment planned for this tick, retransmissions, a late PLAN segment, a CTL message of the partition, RSP,
REQ, FILL; a fenced partition sends nothing new but NACKs. What the model chose or inferred in it: log entry 22. -/
def Obligations.SegmentsDepartInOrder : Prop :=
  ∀ (s : State) (c : CordId) (fit : Bool),
    let x := s.cord c
    let i := s.hall % 256
    let o := x.slotOwner i
    let departs (t : State) (h : SegHdr) (payload : List Byte) : Prop :=
      t.outbox = s.outbox ++ [.segment c x.txMap (segment h payload x.egWidth)] ∧ (t.cord c).sentHall = some s.hall ∧
      h.width = BitVec.ofNat 4 x.egWidth ∧ h.gen = x.egGen ∧ CordsBut c s t ∧ t.hall = s.hall ∧ t.tiles = s.tiles ∧ t.mem = s.mem
    let again (k : Kept) : Prop := ∃ t h, exec (.segmentSend c fit) s = .next t ∧
      departs t h (if k.cls = clCtl then stampTime s.hall k.payload else k.payload) ∧ h.retx = true ∧
      h.seq = BitVec.ofNat 12 k.seq ∧ h.cls = BitVec.ofNat 3 k.cls ∧ h.owner = BitVec.ofNat 5 k.owner ∧
      (t.cord c).nextSeq = x.nextSeq ∧ (t.cord c).retxQ = x.retxQ.filter (fun q => q ≠ k.seq) ∧
      (t.cord c).retxSent = satInc 32 x.retxSent ∧
      (t.cord c).kept = x.kept.map fun e => if e.seq = k.seq then { e with sent := s.hall } else e
    let new (owner cls info : Nat) (payload : List Byte) (more : State → Prop) : Prop := ∃ t h,
      exec (.segmentSend c fit) s = .next t ∧ departs t h payload ∧ h.cls = BitVec.ofNat 3 cls ∧ h.retx = false ∧
      h.seq = BitVec.ofNat 12 x.nextSeq ∧ h.owner = BitVec.ofNat 5 owner ∧ h.info = BitVec.ofNat 32 info ∧
      (t.cord c).nextSeq = (x.nextSeq + 1) % 4096 ∧ (t.cord c).kept = x.kept ++ [⟨x.nextSeq, owner, cls, info, payload, s.hall⟩] ∧ more t
    let fill (stall : Bool) : Prop := ∃ t h, exec (.segmentSend c fit) s = .next t ∧ departs t h [] ∧ h.cls = 0 ∧ h.stall = stall ∧
      (t.cord c).nextSeq = x.nextSeq ∧ (t.cord c).kept = x.kept ∧ (t.cord c).ctlOut = x.ctlOut ∧
      (t.cord c).stallTicks = if stall then satInc 32 x.stallTicks else x.stallTicks
    (x.active = false ∨ x.sentHall = some s.hall ∨ x.slotRuns s.hall = false → exec (.segmentSend c fit) s = .next s) ∧
    (x.active = true → x.sentHall ≠ some s.hall → x.slotRuns s.hall = true → x.change = none →
      (o = ownModule →
        (∀ k, x.nextRetx (fun k => k.owner = ownModule) = some k → again k) ∧
        (x.retxQ = [] → x.kept.length < 2048 → 0 < x.credits → ∀ m r, x.ctlOut = m :: r →
          new ownModule clCtl (msgInfo m.length true true) (stampTime s.hall m) fun t =>
            (t.cord c).ctlSent = (x.ctlSent + 1) % 16 ∧ (t.cord c).ctlOut = r ∧ t.parts = s.parts) ∧
        (x.retxQ = [] → x.credits = 0 ∨ (x.ctlOut = [] ∧ (∀ e ∈ x.ctlPart, (s.part e.1).dom.fenced = true) ∧
          ∀ e ∈ s.reportQ, e.1 ≠ c.val) → x.kept.length < 2048 → fill false) ∧
        (x.retxQ = [] → 2048 ≤ x.kept.length → fill true)) ∧
      (o < 16 →
        let room := decide (x.kept.length < 2048) && x.slotSends i
        let fenced := (s.part o).dom.fenced
        let ready := if room && !fenced then x.staged.filter (fun y => y.part = o && s.stagedReady y) else []
        let onTime := ready.find? fun y => y.planned = (s.part o).plan.pc
        let retx := x.nextRetx fun k => k.owner = o
        (∀ y, onTime.or (if retx = none then ready.head? else none) = some y →
          new y.part clPlan (planInfo y.route y.index y.tag) y.payload fun t => (t.cord c).staged = x.staged.erase y) ∧
        (onTime = none → ∀ k, retx = some k → again k) ∧
        (retx = none → ready = [] → room = true →
          (fenced = false → ∀ m, x.nextCtl o = some m → new o clCtl (msgInfo m.2.length true true) (stampTime s.hall m.2) fun t =>
            (t.cord c).ctlSent = (x.ctlSent + 1) % 16 ∧ (t.cord c).ctlPart = x.ctlPart.erase m) ∧
          (fenced = true ∨ x.nextCtl o = none →
            let sends (k : OutPkt) : Prop := ∀ g r, k.segs = g :: r →
              new o k.cls g.1 (if k.begun || k.transit then g.2 else withStamp (s.leftAt k) g.2) fun t =>
                r = [] → (t.cord c).outPkts = x.outPkts.erase k
            (∀ k, x.nextPkt o clRsp fenced = some k → sends k) ∧
            (x.nextPkt o clRsp fenced = none → ∀ k, x.nextPkt o clReq fenced = some k → sends k) ∧
            (x.nextPkt o clRsp fenced = none → x.nextPkt o clReq fenced = none → fill false))) ∧
        (retx = none → room = false → fill (decide (2048 ≤ x.kept.length)))))

/-- SEGMENT_RECEIVE (R284 to R290, R292, R307): 800 bytes are a segment, and nothing else is one; a header that fails its
check counts, a payload that fails its check counts and asks for the number again, a number already received is discarded, and
a CTL segment in order reaches a receive buffer and moves the cumulative point, while one that an earlier number of its stream
is missing for is held. What the model chose or inferred in it: log entry 24. -/
def Obligations.SegmentsAreCheckedOnArrival : Prop :=
  ∀ (s : State) (c : CordId) (b : List Byte) (waves waits : List Nat) (fec : LaneReport),
    let x := s.cord c
    let y := x.fecSeen s.hall fec
    let run := exec (.segmentReceive c b waves waits fec) s
    (b.length ≠ 800 ∨ x.active = false → run = .next s) ∧
    (b.length = 800 → x.active = true →
      (hdrOfBytes (b.take 16) = none → ∃ t, run = .next t ∧ OnlyCord c s t ∧ t.cord c = { y with hdrErr := satInc 32 x.hdrErr }) ∧
      ∀ h, hdrOfBytes (b.take 16) = some h →
        let seq := h.seq.toNat
        let due := decide (seqDist x.cum seq < 2048) && !x.got.contains seq
        let queued := x.nackQ.any fun e => e.1 = seq
        (leNat ((b.drop 784).take 8) ≠ (crc64 (b.take 784)).toNat →
          (due = false ∨ queued = true ∨ 64 ≤ x.nackQ.length → ∃ t, run = .next t ∧ OnlyCord c s t ∧
            t.cord c = { y with crcErr := satInc 32 x.crcErr }) ∧
          (due = true → queued = false → x.nackQ.length < 64 → ∃ t, run = .next t ∧ OnlyCord c s t ∧
            t.cord c = { y with crcErr := satInc 32 x.crcErr, nackQ := x.nackQ ++ [(seq, s.hall)],
                                nackOut := x.nackOut.filter fun e => e.1 ≠ seq })) ∧
        (leNat ((b.drop 784).take 8) = (crc64 (b.take 784)).toNat → x.denies h = true → run = .next s) ∧
        (leNat ((b.drop 784).take 8) = (crc64 (b.take 784)).toNat → x.denies h = false → h.gen = x.inGen →
          let ctl := h.cls.toNat = clCtl ∧ h.owner.toNat = ownModule
          (h.cls.toNat ≠ clFill → due = false → ∃ t, run = .next t ∧ OnlyCord c s t ∧
            (t.cord c).dupDiscard = satInc 32 x.dupDiscard ∧ (t.cord c).cum = x.cum ∧ (t.cord c).got = x.got ∧
            (t.cord c).ctlIn = x.ctlIn ∧ (t.cord c).reorder = x.reorder ∧ (t.cord c).inPkts = x.inPkts ∧
            (t.cord c).asm = x.asm) ∧
          (ctl → seq = x.cum → x.got = [] → x.reorder = [] → x.ctlIn.length < 8 →
            ∃ t, run = .next t ∧ OnlyCord c s t ∧ (t.cord c).cum = (x.cum + 1) % 4096 ∧ (t.cord c).got = [] ∧
              (t.cord c).reorder = [] ∧ (t.cord c).farFreed = h.freed.toNat ∧
              (t.cord c).ctlIn = x.ctlIn ++ [⟨((b.drop 16).take 768).take (h.info.toNat % 1024), s.hall⟩]) ∧
          (ctl → due = true → seq ≠ x.cum → x.cum < 4096 → x.cum ∉ x.got → x.reorder = [] → x.cum ∈ waits →
            ∃ t, run = .next t ∧ OnlyCord c s t ∧ (t.cord c).cum = x.cum ∧ (t.cord c).got = x.got ++ [seq] ∧
              (t.cord c).ctlIn = x.ctlIn ∧ (t.cord c).reorder.map (·.seq) = [seq])))

/-- The events of a cord (R287, R289, R301 to R304, R313): a replay timeout queues the oldest kept segment again, a repeated
NACK takes up what is still missing, training and measuring end, the down timer starts and stops, and a cord that goes DOWN
discards what its end holds. -/
def Obligations.CordsTrainMeasureAndGoDown : Prop :=
  ∀ (s : State) (c : CordId),
    let x := s.cord c
    let gives (i : Instr) (y : Cord) : Prop := ∃ t, exec i s = .next t ∧ OnlyCord c s t ∧ t.cord c = y
    (∀ k r, x.kept = k :: r → x.active = true → x.ackHall + 2 * x.rtt + 256 ≤ s.hall → k.seq ∉ x.retxQ →
      gives (.replayTimeout c) { x with
        retxQ := x.retxQ ++ [k.seq], ackHall := s.hall, replayTo := satInc 32 x.replayTo }) ∧
    (s.hall < x.ackHall + 2 * x.rtt + 256 → gives (.replayTimeout c) x) ∧
    (∀ n h, x.nackOut = [(n, h)] → x.active = true → x.nackQ = [] →
      (h + x.rtt + 32 ≤ s.hall → gives (.nackRepeat c) { x with nackOut := [], nackQ := [(n, s.hall)] }) ∧
      (s.hall < h + x.rtt + 32 → gives (.nackRepeat c) x)) ∧
    (∀ ingress lane, x.active = true → lane.val < (if ingress then x.inWidth else x.egWidth) →
      (ingress, lane.val) ∉ x.unlocked → gives (.lossOfSymbolLock c ingress lane)
        { x with unlocked := x.unlocked ++ [(ingress, lane.val)], lostAt := some (x.lostAt.getD s.hall)
                 lostSince := x.lostSince ++ if ingress then [(lane.val, s.hall)] else [] }) ∧
    (x.st ≠ .down → gives (.symbolLockRegained c) { x with unlocked := [], lostAt := none, lostSince := [] }) ∧
    let lanes (ret : List Nat) : List Nat := (List.range 9).filter fun w => !ret.contains w
    (x.st = .down → x.reason ≠ 5 → (lanes x.retEg).length < 7 ∨ (lanes x.retIn).length < 7 →
      gives (.symbolLockRegained c) { x with reason := 4 }) ∧
    (x.st = .down → x.reason ≠ 5 → 7 ≤ (lanes x.retEg).length → 7 ≤ (lanes x.retIn).length → ∃ t, exec (.symbolLockRegained c) s = .next t ∧ CordsBut c s t ∧
      (t.cord c).st = .training ∧ (t.cord c).egGen = false ∧ (t.cord c).inGen = false ∧
      (t.cord c).txMap = (lanes x.retEg).take 8 ∧
      (t.cord c).inMap = (lanes x.retIn).take 8 ∧
      t = { s with cords := t.cords, outbox := s.outbox ++ [.ident c s.moduleId c 1] }) ∧
    (x.st = .down → x.reason = 5 → gives (.symbolLockRegained c) x) ∧
    (∀ m n l, x.st = .training → gives (.ident c m n l)
      { x with peerModule := m.toNat, peerCord := n, peerProto := l.toNat }) ∧
    (x.st = .training → x.peerProto = 0 → gives (.trainingDone c) { x with st := .down, reason := 3, proto := 0 }) ∧
    (x.st = .training → x.peerProto ≠ 0 → gives (.trainingDone c) { x with st := .measuring, exTx := [], exRx := [] }) ∧
    (x.st = .measuring → x.exTx.length = 64 → x.exRx.length = 64 →
      let dtx := meanDelay x.exTx
      let drx := meanDelay x.exRx
      (420 < dtx ∨ 420 < drx → gives (.measuringDone c)
        { x with delayTx := dtx, delayRx := drx, st := .down, reason := 2, proto := 0 }) ∧
      (dtx ≤ 420 → drx ≤ 420 → ∃ t, exec (.measuringDone c) s = .next t ∧ (t.cord c).st = .up ∧
        (t.cord c).delayTx = dtx ∧ (t.cord c).delayRx = drx ∧ (t.cord c).nextSeq = 0 ∧ (t.cord c).kept = [] ∧
        (t.cord c).leases = [] ∧ t.hall = s.hall ∧ t.mem = s.mem)) ∧
    let downs (reason : Nat) : Prop := ∃ t, exec (.cordDown c) s = .next t ∧ (t.cord c).st = .down ∧
      (t.cord c).reason = reason ∧ (t.cord c).kept = [] ∧ (t.cord c).retxQ = [] ∧ (t.cord c).staged = [] ∧
      (t.cord c).ctlIn = [] ∧ (t.cord c).leases = [] ∧ (t.cord c).slots = [] ∧ (t.cord c).twin = 0 ∧ t.hall = s.hall ∧ t.tiles = s.tiles
    (x.active = true → x.narrow = true → downs 4) ∧
    (∀ h, x.active = true → x.narrow = false → x.lostAt = some h →
      (h + x.downTime * 500 ≤ s.hall → downs 1) ∧ (s.hall < h + x.downTime * 500 → exec (.cordDown c) s = .next s))

/-- Lane changes (R278 to R280, R297 to R300): a lane for which a condition of R279 holds is declared failing and asks for the
spare, else for a lane less; the sender opens one change at a time and sends its LANE_CMD; the receiver that has followed
confirms; LANE_DONE ends the change; an unanswered LANE_CMD is sent again; SYNC carries a number and nothing else. -/
def Obligations.LaneChangesAreConfirmed : Prop :=
  ∀ (s : State) (c : CordId),
    let x := s.cord c
    (∀ lane cond fit, x.laneFails s.hall (lane : Fin 8) cond = false → exec (.laneFailing c lane cond fit) s = .next s) ∧
    (∀ lane cond fit w, x.st = .up → x.inMap[(lane : Fin 8).val]? = some w → x.laneFails s.hall lane cond = true →
      let good := fit && x.inSpare.isSome
      ∃ t, exec (.laneFailing c lane cond fit) s = .next t ∧ OnlyCord c s t ∧ t.cord c = { x.declare s.hall true w with
        inFit := good, alarm := true
        narrow := x.narrow || (!good && x.inWidth = 7)
        ctlOut := x.ctlOut ++ [msgLaneReq (if good then 1 else 2) lane w ((cond : Fin 3).val + 1)] }) ∧
    (∀ wave, x.st = .up → (x.testIn.any fun e => e.1 = (wave : Fin 9).val && e.2 + 5000000000 ≤ s.hall) = true → ∃ t, exec (.wavelengthRestore c wave) s = .next t ∧
      t.cord c = { x with
        testIn := x.testIn.filter fun e => e.1 ≠ wave.val
        inSpare := if x.inWidth = 7 then x.inSpare else some wave.val
        laneSwaps := if x.inWidth = 7 then x.laneSwaps else satInc 32 x.laneSwaps
        ctlOut := x.ctlOut ++ [msgLaneReq 3 x.inMap.length wave 0] } ∧ CordsBut c s t ∧
      t = { s with cords := t.cords, cinder := t.cinder, log := t.log, logSeq := s.logSeq + 1 }) ∧
    (∀ wave, (x.testIn.any fun e => e.1 = (wave : Fin 9).val && e.2 + 5000000000 ≤ s.hall) = false →
      exec (.wavelengthRestore c wave) s = .next s) ∧
    (∀ m, CtlFront s c 1 m →
      let y := (s.ctlFreed c m).cord c
      let gives (z : Cord) : Prop := ∃ t, exec (.laneReq c) s = .next t ∧ OnlyCord c s t ∧ t.cord c = z
      let opens (action : Nat) (map : List Nat) (cls : Nat) (z : Cord) : Cord := { z with
        change := some { action := action, gen := !x.egGen, width := map.length, s := 0, map := map, sentAt := none
                         begun := false, logCls := cls }
        ctlOut := x.ctlOut ++ [msgLaneCmd action (!x.egGen) map.length map] }
      let wave := fld m.bytes 3 1
      let fails (z : Cord) : Cord := z.declare s.hall false wave
      (x.change.isSome = true → gives y) ∧
      (x.change = none → x.txMap[fld m.bytes 2 1]? = some wave →
        (fld m.bytes 1 1 = 1 → ∀ w, x.spare = some w →
          gives (opens 1 (x.txMap.map fun v => if v = wave then w else v) cLaneSwap (fails y))) ∧
        (fld m.bytes 1 1 = 2 ∨ (fld m.bytes 1 1 = 1 ∧ x.spare = none) → x.egWidth = 8 →
          gives (opens 2 (inWaveOrder (x.txMap.filter fun v => v ≠ wave)) cWidthDrop (fails y))) ∧
        (fld m.bytes 1 1 = 2 → x.egWidth = 7 → gives { fails y with narrow := true })) ∧
      (x.change = none → fld m.bytes 1 1 = 3 →
        (x.egWidth = 7 → gives (opens 3 (inWaveOrder (x.txMap ++ [wave])) cLaneSwap
          { y with testEg := x.testEg.filter fun w => w ≠ wave })) ∧
        (x.egWidth = 8 → ∃ t, exec (.laneReq c) s = .next t ∧ CordsBut c s t ∧
          t = { s with cords := t.cords, cinder := t.cinder, log := t.log, logSeq := s.logSeq + 1 } ∧ t.cord c = { y with
            testEg := x.testEg.filter fun w => w ≠ wave, spare := some wave, spareSt := 0
            laneSwaps := satInc 32 x.laneSwaps }))) ∧
    (∀ m, CtlFront s c 2 m →
      let g := fld m.bytes 2 1 % 2
      (x.inGen = decide (g = 1) → ∃ t, exec (.laneCmd c) s = .next t ∧ OnlyCord c s t ∧
        t.cord c = { (s.ctlFreed c m).cord c with ctlOut := x.ctlOut ++ [leBytes 1 3 ++ leBytes 1 g ++ leBytes 1 0] }) ∧
      (x.inGen ≠ decide (g = 1) → exec (.laneCmd c) s = .next (s.ctlFreed c m))) ∧
    (∀ m ch, CtlFront s c 3 m → x.change = some ch → ch.begun = true → fld m.bytes 2 1 = 0 →
      (ch.gen = decide (fld m.bytes 1 1 % 2 = 1) → ∃ t, exec (.laneDone c) s = .next t ∧ OnlyCord c s t ∧
        t.cord c = { (s.ctlFreed c m).cord c with change := none }) ∧
      (ch.gen ≠ decide (fld m.bytes 1 1 % 2 = 1) → ∃ t, exec (.laneDone c) s = .next t ∧ OnlyCord c s t ∧
        (t.cord c).change = some ch)) ∧
    (∀ ch h, x.change = some ch → ch.sentAt = some h →
      (h + 2 * x.rtt + 256 ≤ s.hall → ∃ t, exec (.laneCmdRetry c) s = .next t ∧ OnlyCord c s t ∧ t.cord c = { x with
        change := some { ch with sentAt := some s.hall }
        ctlOut := x.ctlOut ++ [msgLaneCmd ch.action ch.gen ch.width ch.map] }) ∧
      (s.hall < h + 2 * x.rtt + 256 → exec (.laneCmdRetry c) s = .next s)) ∧
    (∀ m, CtlFront s c 4 m → exec (.sync c) s = .next (s.ctlFreed c m))

/-- Slot leases (R306 to R312): a proposal that the receiver's checks pass reserves its slots and is answered ACCEPT, one that
fails changes nothing but the answer, SLOT_BUSY, PART, LATE or FULL; an ACCEPT before H is committed; an abort frees the
reservation; a committed lease acts at H: granted slots are owned, released ones are given up; DONE lets the proposer of a
grant send. What the model chose or inferred in it: log entry 27. -/
def Obligations.LeasesReserveCommitAndAct : Prop :=
  ∀ (s : State) (c : CordId),
    let x := s.cord c
    (∀ m, CtlFront s c 0x20 m →
      let b := m.bytes
      let l : Lease :=
        { id := fld b 1 4, proposer := false, grant := fld b 5 1 = 1, mine := fld b 6 1 / 16, theirs := fld b 6 1 % 16
          domain := fld b 7 2, h := fld b 9 8, slots := bitmapSlots ((b.drop 17).take 32), accepted := true }
      let taken (i : Nat) : Bool := x.leases.any (fun k => k.slots.contains i) || if l.grant then x.slotOwner i ≠ 16 || x.slotState i ≠ 0
        else x.slotOwner i ≠ l.mine || x.slotState i ≠ 2 || x.farOf l.mine ≠ some l.theirs
      let e := if l.slots.any taken then 1 else if s.leaseMember l.mine l.domain l.grant = false then 2
        else if l.h < m.hall + 4096 then 3 else if 8 ≤ x.leases.length then 4 else 0
      let y := (s.ctlFreed c m).cord c
      (e ≠ 0 → ∃ t, exec (.leasePropose c) s = .next t ∧ OnlyCord c s t ∧
        t.cord c = { y with ctlOut := x.ctlOut ++ [msgLeaseAck l.id e] }) ∧
      (e = 0 → ∃ t, exec (.leasePropose c) s = .next t ∧ OnlyCord c s t ∧ (t.cord c).leases = x.leases ++ [l] ∧
        (t.cord c).ctlOut = x.ctlOut ++ [msgLeaseAck l.id 0] ∧ (t.cord c).partner = x.partner ∧
        (l.grant = false → (t.cord c).slots = x.slots) ∧
        (l.grant = true → ∀ i, tabGet 0x10 (t.cord c).slots i =
          if i ∈ l.slots then slotByteReserved else tabGet 0x10 x.slots i))) ∧
    (∀ m l, CtlFront s c 0x21 m → x.lease (fld m.bytes 1 4) true = some l → l.commit = false →
      let y := (s.ctlFreed c m).cord c
      (fld m.bytes 5 1 = 0 → m.hall < l.h → ∃ t, exec (.leaseAck c) s = .next t ∧ OnlyCord c s t ∧
        t.cord c = { y with
          leases := x.leases.map fun k => if k = l then { l with accepted := true, commit := true } else k
          ctlOut := x.ctlOut ++ [msgLease 0x22 l.id] }) ∧
      (fld m.bytes 5 1 ≠ 0 ∨ l.h ≤ m.hall → ∃ t, exec (.leaseAck c) s = .next t ∧ OnlyCord c s t ∧
        (t.cord c).leases = x.leases.erase l ∧ (t.cord c).ctlOut = x.ctlOut ++ [msgLease 0x23 l.id] ∧
        ∀ i, tabGet 0x10 (t.cord c).slots i =
          if l.grant = true ∧ i ∈ l.slots then slotByteModule else tabGet 0x10 x.slots i)) ∧
    (∀ m l, CtlFront s c 0x22 m → x.lease (fld m.bytes 1 4) false = some l → l.begun = false →
      (s.hall < l.h → ∃ t, exec (.leaseCommit c) s = .next t ∧ OnlyCord c s t ∧
        t.cord c = { (s.ctlFreed c m).cord c with
          leases := x.leases.map fun k => if k = l then { l with commit := true } else k }) ∧
      (l.h ≤ s.hall → l.grant = true → ∃ t, exec (.leaseCommit c) s = .next t ∧ OnlyCord c s t ∧
        (t.cord c).ctlOut = x.ctlOut ++ [msgLease 0x24 l.id] ∧
        (l.theirs < 16 → (t.cord c).farOf l.mine = some l.theirs) ∧
        ∀ i, tabGet 0x10 (t.cord c).slots i = if i ∈ l.slots then slotByteOwned l.mine true else tabGet 0x10 x.slots i)) ∧
    (∀ m l, CtlFront s c 0x23 m → x.lease (fld m.bytes 1 4) false = some l → l.commit = false →
      ∃ t, exec (.leaseAbort c) s = .next t ∧ OnlyCord c s t ∧ (t.cord c).leases = x.leases.erase l ∧
        (t.cord c).ctlOut = x.ctlOut ∧
        ∀ i, tabGet 0x10 (t.cord c).slots i =
          if l.grant = true ∧ i ∈ l.slots then slotByteModule else tabGet 0x10 x.slots i) ∧
    (∀ m l, CtlFront s c 0x24 m → x.lease (fld m.bytes 1 4) true = some l → l.commit = true →
      (l.begun = false → ∃ t, exec (.leaseDone c) s = .next t ∧ OnlyCord c s t ∧
        t.cord c = { (s.ctlFreed c m).cord c with
          leases := x.leases.map fun k => if k = l then { l with done := true } else k }) ∧
      (l.begun = true → l.grant = true → ∃ t, exec (.leaseDone c) s = .next t ∧ OnlyCord c s t ∧
        ∀ i, tabGet 0x10 (t.cord c).slots i = if i ∈ l.slots then slotByteOwned l.mine true else tabGet 0x10 x.slots i) ∧
      (l.begun = true → l.grant = false → ∃ t, exec (.leaseDone c) s = .next t ∧ OnlyCord c s t ∧
        ∀ i, tabGet 0x10 (t.cord c).slots i = if i ∈ l.slots then slotByteModule else tabGet 0x10 x.slots i)) ∧
    (∀ l, x.leases = [l] → l.commit = true → l.begun = false →
      (s.hall < l.h → exec (.leaseEffective (some c)) s = .next s) ∧
      (l.h ≤ s.hall → ∃ t, exec (.leaseEffective (some c)) s = .next t ∧ OnlyCord c s t ∧
        ∀ i, i ∉ l.slots → tabGet 0x10 (t.cord c).slots i = tabGet 0x10 x.slots i) ∧
      (l.h ≤ s.hall → l.grant = false → l.done = false → l.proposer = false →
        ∃ t, exec (.leaseEffective (some c)) s = .next t ∧
          (t.cord c).leases = [{ l with begun := true, endAt := s.hall + x.delayRx + 2 }] ∧
          (t.cord c).ctlOut = x.ctlOut ++ [msgLease 0x24 l.id] ∧
          ∀ i ∈ l.slots, tabGet 0x10 (t.cord c).slots i = slotByteReleasing l.mine) ∧
      (l.h ≤ s.hall → l.grant = true → l.done = false → l.proposer = true →
        ∃ t, exec (.leaseEffective (some c)) s = .next t ∧ (t.cord c).leases = [{ l with begun := true }] ∧
          (t.cord c).ctlOut = x.ctlOut ∧ ∀ i ∈ l.slots, tabGet 0x10 (t.cord c).slots i = slotByteOwned l.mine false)) ∧
    (∀ l, s.laneLeases = [l] → l.h ≤ s.hall → ∃ t, exec (.leaseEffective none) s = .next t ∧ t.laneLeases = [] ∧
      t = { s with lanes := t.lanes, laneLeases := [] } ∧
      ∀ i, tabGet 0x10 (tabGet [] t.lanes l.lane) i =
        if i ∈ l.slots then (if l.grant then slotByteOwned l.part true else slotByteModule)
        else tabGet 0x10 (tabGet [] s.lanes l.lane) i) ∧
    (∀ l, x.leases = [l] → l.grant = false → l.proposer = false → l.begun = true →
      (l.endAt ≤ s.hall → ∃ t, exec (.leaseAcceptEnd c) s = .next t ∧ OnlyCord c s t ∧ (t.cord c).leases = [] ∧
        ∀ i, tabGet 0x10 (t.cord c).slots i = if i ∈ l.slots then slotByteModule else tabGet 0x10 x.slots i) ∧
      (s.hall < l.endAt → exec (.leaseAcceptEnd c) s = .next s))

/-- A whole packet at an ingress port (R315, R316, R318 to R321): a malformed one is counted, one for this module is
delivered, one on its route leaves by the next hop of it with HOPS raised when that cord has a slot soon, and a response that
is too old, has made 48 hops, or meets a full store or a fence is dropped and counted, a request also answered with a NACK
that names the reason. ROUTE_INVAL empties both caches (R317). What the model chose or inferred in it: log entry 26. -/
def Obligations.PacketsFollowTheirRoutes : Prop :=
  ∀ (s : State) (c : CordId) (k : InPkt), (s.cord c).inPkts.find? (·.whole) = some k →
    let z := s.updCord c fun x => { x with inPkts := x.inPkts.erase k }
    let h := pktHdr k.bytes
    let q := k.part
    (malformed k.bytes = true → ∃ t, exec (.packetComplete c) s = .next t ∧ OnlyPart q z t ∧
      t.part q = { s.part q with routing := { (s.part q).routing with
        pktBad := satInc 32 (s.part q).routing.pktBad } }) ∧
    (malformed k.bytes = false →
      (h.dstModule.toNat = s.moduleId → ∃ t, exec (.packetComplete c) s = .next t ∧ OnlyPart h.dstPart.toNat z t ∧
        let P := s.part h.dstPart.toNat
        t.part h.dstPart.toNat = { P with routing := { P.routing with inbox := P.routing.inbox ++ [⟨c, q, k.bytes⟩] } }) ∧
      (h.dstModule.toNat ≠ s.moduleId → h.cls = clRsp →
        (s.part q).dom.fenced = true ∨ 32 ≤ s.transit q ∨ 60 ≤ h.age s.hall ∨ h.hops.toNat = 48 →
        ∃ t, exec (.packetComplete c) s = .next t ∧ t.cords = z.cords ∧ t.mem = s.mem ∧
          ∀ n, (t.part n).routing = if n = q then { (s.part q).routing with fwdDrops := satInc 32 (s.part q).routing.fwdDrops }
            else (s.part n).routing) ∧
      (h.dstModule.toNat ≠ s.moduleId → h.cls = clReq → ∀ reason, reason = (if (s.part q).dom.fenced then 6 else if 32 ≤ s.transit q then 2
          else if 60 ≤ h.age s.hall then 7 else if h.hops.toNat = 48 then 1 else 0) → reason ≠ 0 →
        ∀ e r, (s.part q).routing.routes.find? (fun x => x.1 = h.srcModule.toNat) = some (h.srcModule.toNat, e) →
        s.usable e false = some r → ∃ t, exec (.packetComplete c) s = .next t ∧ CordsBut (r.2 % 32) z t ∧ t.mem = s.mem ∧
          (t.part q).routing.fwdDrops = satInc 32 (s.part q).routing.fwdDrops ∧
          let a := (s.answer q h 5 reason).onRoute r
          (t.cord (r.2 % 32)).outPkts = (z.cord (r.2 % 32)).outPkts ++ [⟨q, clRsp, false, false, pktSegs a.bytes, none, true, a.bytes⟩]) ∧
      (h.dstModule.toNat ≠ s.moduleId → (s.part q).dom.fenced = false → s.transit q < 32 → h.age s.hall < 60 →
        h.hops.toNat < 48 → h.detour = false → h.rptr.toNat < h.rlen.toNat →
        let out := h.hop h.rptr.toNat
        z.soon out q h.cls = true →
        let h' : PktHdr := { h with rptr := h.rptr + 1, hops := h.hops + 1 }
        ∃ t, exec (.packetComplete c) s = .next t ∧ OnlyCord out z t ∧ t.cord out = { z.cord out with outPkts :=
          (z.cord out).outPkts ++ [⟨q, h.cls, true, false, pktSegs (h'.bytes ++ k.bytes.drop 32), none, h.type = 5, h'.bytes⟩] })) ∧
    ∀ p : PartId, (s.part p).live = true → ∃ t, exec (.routeInval p) s = .next t ∧ OnlyPart p s t ∧
      t.part p = { s.part p with routing := { (s.part p).routing with routes := [], homes := [] } }

/-- The responder (R321, R323, R324): a read of near memory is answered with its bytes, BUSY without room; a write is applied
once under its completion entry and answered when all of its bytes have come, a packet that comes again is counted and changes
no memory; a request from outside the domain is refused with PART; entries of 32,000 hall ticks expire. What the model chose
or inferred in it: log entry 26. -/
def Obligations.RequestsAreServedOnce : Prop :=
  ∀ (s : State) (p : PartId),
    let R := (s.part p).routing
    (∀ (m : InMsg) (room : Bool) (host : Cells) (e : List Byte) (r : Nat × Nat),
      R.inbox.find? (fun m => (pktHdr m.bytes).type = 1) = some m →
      let h := pktHdr m.bytes
      R.routes.find? (fun x => x.1 = h.srcModule.toNat) = some (h.srcModule.toNat, e) → s.usable e false = some r →
      let z := s.updRouting p fun r => { r with inbox := r.inbox.erase m }
      let replies (type : BitVec 4) (reason : Nat) (data : List Byte) : Prop :=
        ∃ t, exec (.rdReq p room host) s = .next t ∧ OnlyCord (r.2 % 32) z t ∧
          let a := ({ s.answer p h type reason with index := if type = 5 then h.index else 0 } : PktHdr).onRoute r
          t.cord (r.2 % 32) = { s.cord (r.2 % 32) with outPkts := (s.cord (r.2 % 32)).outPkts ++
            [⟨p, clRsp, false, false, pktSegs (a.bytes ++ data), none, type = 5, a.bytes⟩] }
      let n := h.msgLen.toNat
      let a := h.addr.toNat
      s.sameDomain p m.via = true → h.age s.hall < 60 → s.pieceList p a n = some [(a, n)] →
      (∃ g, s.reach p a = .near g a) →
      (room = false → replies 5 4 []) ∧
      (room = true → 1 ≤ n → n ≤ 8192 → (∀ w ∈ s.badWords, w + 32 ≤ a ∨ a + n ≤ w) → replies 3 0 (s.memBytes a n))) ∧
    (∀ m : InMsg, R.inbox.find? (fun m => (pktHdr m.bytes).type = 2) = some m →
      let h := pktHdr m.bytes
      let a := h.addr.toNat
      let b := m.bytes.drop 32
      s.sameDomain p m.via = true → h.age s.hall < 60 → h.index = 0 → b.length = h.msgLen.toNat →
      s.pieceList p a b.length = some [(a, b.length)] → a + b.length ≤ 0x10000000000 → (∃ g, s.reach p a = .near g a) →
      (R.table.length < 1024 → (∀ e ∈ R.table, ¬ (e.module = h.srcModule.toNat ∧ e.part = h.srcPart.toNat ∧ e.id = h.reqId.toNat)) →
        ∃ t, exec (.wrReq p) s = .next t ∧ (∀ q, q ≠ p.val → (t.part q).routing = (s.part q).routing) ∧ t.turf = s.turf ∧
          (∀ i (hi : i < b.length), rdByte t.mem (a + i) = b[i]) ∧
          (∀ x, x < a ∨ a + b.length ≤ x → rdByte t.mem x = rdByte s.mem x) ∧
          (t.part p).routing.table = R.table ++ [⟨h.srcModule.toNat, h.srcPart.toNat, h.reqId.toNat, s.hall, [0],
            b.length, b.length, true⟩]) ∧
      ∀ e, R.table.find? (fun e => e.module = h.srcModule.toNat && e.part = h.srcPart.toNat && e.id = h.reqId.toNat) = some e →
        e.done = true ∨ 0 ∈ e.seen → ∃ t, exec (.wrReq p) s = .next t ∧ t.mem = s.mem ∧ t.turf = s.turf ∧
          (t.part p).routing.table = R.table ∧ (t.part p).routing.dedup = satInc 32 R.dedup) ∧
    ∃ t, exec (.completionEntryExpiry p) s = .next t ∧ OnlyPart p s t ∧
      t.part p = { s.part p with routing := { R with table := R.table.filter fun e => s.hall < e.created + 32000 } }

/-- The requester (R322, R325 to R327): a response of the current attempt counts once per INDEX and gives the unit its bytes
when all have come; a write's response ends it; a refusal ends it, another NACK of the current attempt and an attempt's
timeout start the next attempt on the other route; REQ_TIMEOUT ends a request, counts and logs it. -/
def Obligations.RequestsCompleteOrRetry : Prop :=
  ∀ (s : State) (p : PartId) (r : Req), s.noneEnding = true →
    let R := (s.part p).routing
    let x := s.chan r.unit.1
    let took (m : InMsg) : State := s.updRouting p fun r => { r with inbox := r.inbox.erase m }
    let front (type : BitVec 4) (m : InMsg) : Prop := R.inbox.find? (fun m => (pktHdr m.bytes).type = type) = some m
    let less : List Req := R.reqs.filter fun y => y.id ≠ r.id
    (∀ m, front 3 m → R.reqs.find? (fun r => r.id = (pktHdr m.bytes).reqId.toNat ∧ ¬ r.write) = some r →
      let h := pktHdr m.bytes
      let got := r.got ++ [(h.index.toNat, m.bytes.drop 32)]
      (h.attempt.toNat ≠ r.attempt ∨ (∃ g ∈ r.got, g.1 = h.index.toNat) → exec (.rdRsp p) s = .next (took m)) ∧
      (h.attempt.toNat = r.attempt → (∀ g ∈ r.got, g.1 ≠ h.index.toNat) →
        ((got.map fun g => g.2.length).sum ≠ r.len → ∃ t, exec (.rdRsp p) s = .next t ∧ OnlyPart p s t ∧
          t.part p = { s.part p with routing := { R with
            inbox := R.inbox.erase m, reqs := R.reqs.map fun y => if y.id = r.id then { r with got := got } else y } }) ∧
        ((got.map fun g => g.2.length).sum = r.len → R.waiting = [] → ∃ t, exec (.rdRsp p) s = .next t ∧
          (t.part p).routing = { R with inbox := R.inbox.erase m, reqs := less } ∧
          t = { s with parts := t.parts, stoke := t.stoke } ∧ t.chan r.unit.1 = { x with
            flight := x.flight.map fun u => if u.uid = r.unit.2 then { u with data := some (gathered got r.len) } else u
            orphans := x.orphans.map fun u => if u.uid = r.unit.2 then { u with data := some (gathered got r.len) } else u }))) ∧
    (∀ m host u, front 4 m → R.reqs.find? (fun r => r.id = (pktHdr m.bytes).reqId.toNat ∧ r.write) = some r →
      R.waiting = [] → x.flight.find? (fun u => u.uid = r.unit.2) = some u → x.fail ≠ none →
      (∃ v ∈ x.flight, v.uid ≠ u.uid) → ∃ t, exec (.wrRsp p host) s = .next t ∧
        t = { s with parts := t.parts, stoke := t.stoke } ∧
        (t.part p).routing = { R with inbox := R.inbox.erase m, reqs := less } ∧ t.chan r.unit.1 = { x with
          flight := x.flight.filter fun y => y.uid ≠ u.uid, moved := x.moved ++ [(u.at_, u.len)] }) ∧
    (∀ m, front 5 m → R.reqs.find? (fun r => r.id = (pktHdr m.bytes).reqId.toNat) = some r →
      let h := pktHdr m.bytes
      let why := h.reason.toNat
      (why = nrRange ∨ why = nrPart → R.waiting = [] → s.reqUnit r = none → ∃ t, exec (.nack p) s = .next t ∧
        OnlyPart p s t ∧ t.part p = { s.part p with routing := { R with
          inbox := R.inbox.erase m, nackRx := satInc 32 R.nackRx, reqs := less } }) ∧
      (why ≠ nrRange → why ≠ nrPart → h.attempt.toNat ≠ r.attempt → ∃ t, exec (.nack p) s = .next t ∧
        OnlyPart p s t ∧ t.part p = { s.part p with routing := { R with
          inbox := R.inbox.erase m, nackRx := satInc 32 R.nackRx } })) ∧
    (∀ e route, R.reqs.find? (fun r => decide (r.sent + R.ticks / 4 ≤ s.hall) && decide (r.attempt < 3) && s.mayAttempt p r) = some r →
      R.routes.find? (fun x => x.1 = r.module) = some (r.module, e) →
      s.usable e (decide ((r.attempt + 1) % 2 = 1)) = some route → r.write = false →
      ∃ t h, exec (.attemptTimeout p) s = .next t ∧ PartsBut p s t ∧ CordsBut (route.2 % 32) s t ∧
        t = { s with parts := t.parts, cords := t.cords } ∧
        t.part p = { s.part p with routing := { R with
          reissues := satInc 32 R.reissues
          reqs := R.reqs.map fun y => if y.id = r.id then { r with
            attempt := r.attempt + 1, sent := s.hall, got := [], left := none, cords := r.cords ++ [route.2 % 32] } else y } } ∧
        (t.cord (route.2 % 32)).outPkts = (s.cord (route.2 % 32)).outPkts ++
          [⟨p, clReq, false, false, pktSegs (PktHdr.bytes h), some r.id, false, PktHdr.bytes h⟩] ∧
        h.type = 1 ∧ h.attempt = BitVec.ofNat 2 (r.attempt + 1) ∧ h.reqId = BitVec.ofNat 20 r.id ∧
        h.addr = BitVec.ofNat 52 r.addr ∧ h.msgLen = BitVec.ofNat 22 r.len ∧ h.stamp = stampOf s.hall ∧
        h.dstModule = BitVec.ofNat 15 r.module ∧ h.route = BitVec.ofNat 80 route.2 ∧ h.rptr = 1) ∧
    (R.reqs.find? (fun r => decide (r.first + R.ticks ≤ s.hall)) = some r → R.waiting = [] → s.reqUnit r = none →
      ∃ t, exec (.reqTimeout p) s = .next t ∧ PartsBut p s t ∧ t.cords = s.cords ∧ t.stoke = s.stoke ∧ t.mem = s.mem ∧
        t.logSeq = s.logSeq + 1 ∧ (t.part p).routing = (if r.write then
          { R with unknown := satInc 32 R.unknown, reqs := less } else { R with timeouts := satInc 32 R.timeouts, reqs := less }))

/-- Hall time (R331 to R339): an exchange is started 16,384 hall ticks after the last one, answered with the arrival time, and
ended by its response, which gives the offset; the count of an ACQUIRING unit is set once from 16 offsets; HOLDOVER past its
limit is a time loss, from which the unit recovers on a usable reference; the root labels the count once in 500,000,000 hall
ticks, labels are kept and passed on; an NTP request of 48 bytes is answered from the label. What the model chose or inferred
in it: log entry 28. -/
def Obligations.TimeExchangesSetTheOffset : Prop :=
  ∀ (s : State) (c : CordId),
    let x := s.cord c
    let recent : Bool := x.exHall.any fun h => s.hall < h + 16384
    (x.active = true → recent = false → ∃ t, exec (.timeExchangeStart c) s = .next t ∧ OnlyCord c s t ∧
      let n := (x.exchange + 1) % 65536
      t.cord c = { x with
        exchange := n, exWait := true, exHall := some s.hall
        ctlOut := x.ctlOut ++ [leBytes 1 0x10 ++ leBytes 2 n ++ leBytes 8 0 ++ leBytes 5 0] }) ∧
    (x.active = false ∨ recent = true → exec (.timeExchangeStart c) s = .next s) ∧
    (∀ m frac, CtlFront s c 0x10 m → ∃ t, exec (.timeReq c frac) s = .next t ∧ OnlyCord c s t ∧
      t.cord c = { (s.ctlFreed c m).cord c with
        ctlOut := x.ctlOut ++ [leBytes 1 0x11 ++ leBytes 2 (fld m.bytes 1 2) ++ leBytes 8 m.hall ++ leBytes 1 (frac : Fin 64).val ++
          leBytes 8 0 ++ leBytes 1 s.time.st.code ++ leBytes 1 s.time.depth ++ leBytes 2 0] }) ∧
    (∀ m frac, CtlFront s c 0x11 m →
      (x.exWait = false ∨ fld m.bytes 1 2 ≠ x.exchange → exec (.timeRsp c frac) s = .next (s.ctlFreed c m)) ∧
      (x.exWait = true → fld m.bytes 1 2 = x.exchange →
        let dtx : Int := 64 * fld m.bytes 3 8 + fld m.bytes 11 1 % 64 - 64 * x.exT1
        let drx : Int := 64 * m.hall + (frac : Fin 64).val - 64 * fld m.bytes 12 8
        let θ := (drx - dtx) / 2 - tabGet 0 s.timeRec.asym c
        ∃ t, exec (.timeRsp c frac) s = .next t ∧ CordsBut c s t ∧ (t.cord c).exWait = false ∧ (t.cord c).theta = θ ∧
          (t.cord c).peerSync = fld m.bytes 20 1 ∧ (t.cord c).peerDepth = fld m.bytes 21 1 ∧
          (s.time.st = .root → t = { s with cords := t.cords }) ∧
          (s.time.st = .acquiring → s.time.cord = some c.val → x.active = true → fld m.bytes 20 1 = 2 ∨ fld m.bytes 20 1 = 4 →
            s.time.stepped = false → s.time.acq.length = 15 →
            t.hall = (((s.hall : Int) - meanTicks (s.time.acq ++ [θ])) % 2 ^ 64).toNat ∧ t.time = { s.time with
              acq := [], stepped := true, good := 0, depth := fld m.bytes 21 1 + 1 }))) ∧
    (s.time.st = .holdover → s.time.lost = false → s.time.holdFrom + s.timeRec.holdLimit * 500000 < s.hall →
      ∃ t, exec .holdoverLimit s = .next t ∧ t.time = { s.time with
          lost := true, st := if s.refOk s.time.parent || s.refOk s.time.altRec then .recovering else .holdover
          useAlt := if s.refOk s.time.parent then false else if s.refOk s.time.altRec then true else s.time.useAlt } ∧
        s.logSeq < t.logSeq ∧ t.hall = s.hall) ∧
    (s.time.st ≠ .holdover ∨ s.time.lost = true ∨ s.hall ≤ s.time.holdFrom + s.timeRec.holdLimit * 500000 →
      exec .holdoverLimit s = .next s) ∧
    let early : Bool := s.time.labelSent.any fun h => s.hall < h + 500000000
    (∀ tai utc, s.time.st ≠ .root ∨ early = true → exec (.timeLabelSend tai utc) s = .next s) ∧
    (∀ tai utc, s.time.st = .root → early = false →
      let no := (s.time.labelNo + 1) % 256
      ∃ t, exec (.timeLabelSend tai utc) s = .next t ∧ t = { s with time := t.time, cords := t.cords } ∧
        t.time = { s.time with
          labelSent := some s.hall, labelValid := true, labelHall := s.hall, labelTai := tai.toNat, labelUtc := utc.toNat, labelNo := no } ∧
        ∀ k, t.cord k = if k < 32 ∧ (s.cord k).active = true then
          { s.cord k with ctlOut := (s.cord k).ctlOut ++ [msgLabel s.hall tai.toNat utc.toNat no] } else s.cord k) ∧
    (∀ m, CtlFront s c 0x12 m →
      (s.time.st = .root ∨ s.time.cord ≠ some c.val → exec (.timeLabel c) s = .next (s.ctlFreed c m)) ∧
      (s.time.st ≠ .root → s.time.cord = some c.val →
        ∃ t, exec (.timeLabel c) s = .next t ∧ t = { s with time := t.time, cords := t.cords } ∧ t.time = { s.time with
          labelValid := true, labelHall := fld m.bytes 1 8, labelTai := fld m.bytes 9 8, labelUtc := fld m.bytes 17 2
          labelNo := fld m.bytes 19 1 } ∧
          ∀ k, k < 32 → k ≠ c.val → (s.cord k).active = true → (t.cord k).ctlOut = (s.cord k).ctlOut ++
            [msgLabel (fld m.bytes 1 8) (fld m.bytes 9 8) (fld m.bytes 17 2) (fld m.bytes 19 1)])) ∧
    ∀ req : List Byte, (req.length < 48 → exec (.ntpRequest req) s = .next s) ∧
      (48 ≤ req.length → ∃ t b, exec (.ntpRequest req) s = .next t ∧
        t = { s with serial := s.serial + 1, outbox := s.outbox ++ [.ntp b] } ∧ b.length = 48 ∧
        (b.drop 24).take 8 = (req.drop 40).take 8 ∧
        (s.time.labelValid = true → b.drop 40 = s.time.ntpTime s.hall ∧ (b.drop 32).take 8 = s.time.ntpTime s.hall ∧
          (b.drop 16).take 8 = s.time.ntpTime s.time.labelHall))

/-- The damper, freezes and slips (R340 to R344, R349, R355): a child's minimum is kept, a DAMPER_SET of the next number waits
for its H and then applies, the module's own setting falls by one when hot and rises by one when cool, a freeze sets it to 8,
a larger slip request is recorded by every member, and CNT_CLEAR clears the counters. What the model chose or inferred in it:
log entry 29. -/
def Obligations.DamperFollowsHeatAndTheTree : Prop :=
  ∀ (s : State),
    (∀ (c : CordId) m, CtlFront s c 0x13 m → s.membersOf (fld m.bytes 1 2) = [] →
      ∃ t, exec (.damperUp c) s = .next t ∧ t = { s.ctlFreed c m with time := { s.time with
        children := s.time.children.filter (fun e => ¬ (e.1 = fld m.bytes 1 2 ∧ e.2.1 = c.val)) ++
          [(fld m.bytes 1 2, c.val, fld m.bytes 3 1)] } }) ∧
    (∀ (c : CordId) m p ps, CtlFront s c 0x14 m → s.membersOf (fld m.bytes 1 2) = p :: ps →
      let last := (s.part p).clock.lastSeq
      let ahead := (fld m.bytes 3 2 + 65536 - last) % 65536
      (ahead = 0 ∨ 32768 ≤ ahead → exec (.damperSet c) s = .next (s.ctlFreed c m)) ∧
      (ahead = 1 → s.hall < fld m.bytes 6 8 → ∃ t, exec (.damperSet c) s = .next t ∧
        t = { s with parts := t.parts, cords := t.cords } ∧ (∀ q, q ∉ s.membersOf (fld m.bytes 1 2) → t.part q = s.part q) ∧
        ∀ q ∈ s.membersOf (fld m.bytes 1 2),
          let k := (s.part q).clock
          let d := k.damperDue s.hall (k.queued.length + 1)
          (d.pend = false → t.part q = { s.part q with clock := { d with
            pend := true, mNext := fld m.bytes 5 1, seqNext := fld m.bytes 3 2, damperAt := fld m.bytes 6 8 } }) ∧
          (d.pend = true → t.part q = { s.part q with clock := { d with
            queued := d.queued ++ [(fld m.bytes 3 2, fld m.bytes 5 1, fld m.bytes 6 8)] } }))) ∧
    (∀ p : PartId,
      let k := (s.part p).clock
      let k' : Clock := { k with
        m := k.mNext, seq := k.seqNext, cnt := if k.mNext = k.m then k.cnt else { k.cnt with damper := satInc 64 k.cnt.damper } }
      let changes (c : Clock) : Prop := ∃ t, exec (.damperChange p) s = .next t ∧ OnlyPart p s t ∧ t.part p = { s.part p with clock := c }
      (k.pend = true → k.damperAt ≤ s.hall →
        (k.queued = [] → changes { k' with pend := false }) ∧
        ∀ e q, k.queued = e :: q → s.hall < e.2.2 → changes { k' with seqNext := e.1, mNext := e.2.1, damperAt := e.2.2, queued := q }) ∧
      (k.pend = false ∨ s.hall < k.damperAt → changes k) ∧
      (s.fnReady p = true → ∃ t, exec (.cntClear p) s = .next t ∧ OnlyPart p s t ∧
        t.part p = { s.part p with clock := { k with cnt := {}, debtMax := 0 } }) ∧
      let sent := (s.part p).dom.beaconSent
      (s.rootPart (s.part p).dom.domainId ≠ some p.val ∨ sent.any (fun h => s.hall < h + 500000) = true →
        exec (.domainBeaconSend p) s = .next s) ∧
      (s.rootPart (s.part p).dom.domainId = some p.val → sent.any (fun h => s.hall < h + 500000) = false →
        exec (.domainBeaconSend p) s = .next ((s.updDom p fun d => { d with beaconSent := some s.hall }).sendAll (treeCords (s.part p).dom)
        (msgBeacon (s.part p).dom.domainId k.lastSeq k.lastM k.sched (k.x k.sched)))) ∧
      let due := max (s.part p).dom.beaconHall (s.part p).dom.joinFrom + 2000000
      ((s.part p).live = true → (s.part p).dom.st = .member ∨ (s.part p).dom.st = .shadow → (s.part p).dom.root = false →
        (s.part p).plan.st = .armed ∨ (s.part p).plan.st = .running → due ≤ s.hall →
        ∃ t, exec (.beaconTimeout p) s = .next t ∧ (t.part p).plan.st = .faulted ∧ (t.part p).dom.fenced = true ∧
          s.logSeq < t.logSeq ∧ t.hall = s.hall) ∧
      (s.hall < due → exec (.beaconTimeout p) s = .next s)) ∧
    (let m := s.time.mLocal
      let cap := s.timeRec.mCap
      let gives (slow : Bool) (v : Nat) (f : State → Prop) : Prop := ∃ t, exec (.desiredDamperUpdate slow) s = .next t ∧ t.time.mLocal = v ∧
        t.hall = s.hall ∧ t.mem = s.mem ∧ t.tiles = s.tiles ∧ f t
      let soon (last : Option Nat) (n : Nat) : Bool := last.any fun h => s.hall < h + n
      (cap < m → ∀ slow, gives slow cap fun _ => True) ∧
      (m ≤ cap → ∀ code, s.hot = some code →
        (8 < m → soon s.time.lowerAt 500000 = false → gives false (m - 1) fun t => t.time.lowerAt = some s.hall ∧
          ∃ e, t.log = ringKeep 16384 (s.log ++ [e]) ∧ (e.cls = 0x38 ∧ e.cause = code)) ∧
        ∀ slow, m ≤ 8 ∨ slow = true ∨ soon s.time.lowerAt 500000 = true → gives slow m fun t => t.log = s.log) ∧
      (m ≤ cap → s.hot = none →
        (s.cool = true → m < cap → soon s.time.riseAt 50000000 = false → gives true (m + 1) fun t => t.time.riseAt = some s.hall) ∧
        ∀ slow, s.cool = false ∨ m = cap ∨ slow = false ∨ soon s.time.riseAt 50000000 = true →
          gives slow m fun t => t.log = s.log)) ∧
    (∀ (d : DieId) (group : Option (Fin 8)),
      (group ≠ none ∨ 10500 ≤ s.sensor (0x10 + d) → ∃ t, exec (.freeze d group) s = .next t ∧ d.val ∈ t.time.frozen ∧
        t.time.mLocal = 8 ∧ (∀ e ∈ s.time.frozen, e ∈ t.time.frozen) ∧ t.tiles = s.tiles ∧ t.hall = s.hall ∧
        (s.time.mLocal ≠ 8 → ∃ e, t.log = ringKeep 16384 (s.log ++ [e]) ∧
          (e.cls = 0x38 ∧ e.cause = (group.map fun i => 0x41 + i.val).getD (0x10 + d.val)))) ∧
      (group = none → s.sensor (0x10 + d) < 10500 → ∃ t, exec (.freeze d group) s = .next t ∧
        t = { s with power := { s.power with warn := s.power.warn.filter fun x => x ≠ d.val } })) ∧
    (∀ (d : DieId) warn,
      (warn = false → s.sensor (0x10 + d) < 10300 → ∃ t, exec (.freezeLift d warn) s = .next t ∧ t = { s with
        power := { s.power with warn := s.power.warn.filter fun x => x ≠ d.val }
        time := { s.time with frozen := s.time.frozen.filter fun x => x ≠ d.val } }) ∧
      (warn = true ∨ 10300 ≤ s.sensor (0x10 + d) → ∃ t, exec (.freezeLift d warn) s = .next t ∧ t.time = s.time)) ∧
    (∀ (c : CordId) m, CtlFront s c 0x15 m →
      let tag := fld m.bytes 3 8
      let amount := 64 * fld m.bytes 11 4
      let qs := s.membersOf (fld m.bytes 1 2)
      ((∀ q ∈ qs, amount ≤ tabGet 0 (s.part q).clock.seen tag) → exec (.slipReq c) s = .next (s.ctlFreed c m)) ∧
      ((∃ q ∈ qs, tabGet 0 (s.part q).clock.seen tag < amount) →
        (∀ q ∈ qs, (s.part q).plan.st ≠ .running ∨ (s.part q).clock.fixed < tag + 2) →
        ∃ t, exec (.slipReq c) s = .next t ∧ t = { s with parts := t.parts, cords := t.cords } ∧
          (∀ q, q ∉ qs → t.part q = s.part q) ∧ ∀ q ∈ qs,
          tabGet 0 (t.part q).clock.seen tag = max amount (tabGet 0 (s.part q).clock.seen tag) ∧
          (t.part q).plan = (s.part q).plan)) ∧
    ∀ (c : CordId) m q qs, CtlFront s c 0x16 m → s.membersOf (fld m.bytes 1 2) = q :: qs → (s.part q).dom.root = false →
      (∀ r ∈ q :: qs, (s.part r).dom.startStep = none) → (∀ r ∈ q :: qs, s.beaconFails r (fld m.bytes 3 2) (fld m.bytes 6 8) (fld m.bytes 14 8) = none) →
      ∃ t, exec (.domainBeacon c) s = .next t ∧ t = { s with parts := t.parts, cords := t.cords } ∧
        (∀ r, r ∉ q :: qs → t.part r = s.part r) ∧ ∀ r ∈ q :: qs, t.part r = { s.part r with dom := { (s.part r).dom with
          beaconHall := s.hall, beaconStep := fld m.bytes 6 8, beaconX := fld m.bytes 14 8 } }

/-- Sync domain membership (R361 to R363, R382 to R384): a JOIN that a check refuses sets ERROR and nothing else; one that
passes makes the root MEMBER at once and sends any other partition's request to its parent; an answer makes the waiting
partitions MEMBER or returns them to NONE; a LEAVE is accepted for a hall count at least 65,536 ahead, and at that count the
partition is LEAVING and fenced; a partition with no lease left and no Stoke transfer in progress is dissolved. What the model
chose or inferred in it: log entry 37. -/
def Obligations.DomainsAreJoinedAndLeft : Prop :=
  ∀ (s : State) (p : PartId), (s.part p).live = true →
    let P := s.part p
    let d := P.dom
    let domIs (i : Instr) (e : Dom) : Prop := ∃ t, exec i s = .next t ∧ OnlyPart p s t ∧ t.part p = { P with dom := e }
    let joiners (t : State) : Nat := (((List.range 16).filter fun q => (t.part q).live && (t.part q).dom.st = .joining &&
      (t.part q).dom.domainId = d.domainId && (t.part q).dom.parent = d.parent).map fun q => 2 ^ q).sum
    (s.joinCheck p ≠ 0 → domIs (.join p) { d with error := s.joinCheck p }) ∧
    (s.joinCheck p = 0 → s.membersOf d.domainId = [] →
      (d.parentValid = false → ∃ t, exec (.join p) s = .next t ∧ (t.part p).dom.st = .member ∧ (t.part p).dom.root = true ∧
        (t.part p).dom.depth = 0 ∧ (t.part p).dom.error = 0 ∧ (t.part p).dom.rootModule = s.moduleId ∧
        (t.part p).dom.rootPart = p.val ∧ (t.part p).routing.identValid = true ∧
        (t.part p).routing.identDomain = d.domainId ∧ (t.part p).plan = P.plan ∧ t.mem = s.mem ∧ t.hall = s.hall) ∧
      (d.parentValid = true → ∃ t, exec (.join p) s = .next t ∧ t = { s with parts := t.parts, cords := t.cords } ∧
        PartsBut p s t ∧ CordsBut d.parent s t ∧
        t.part p = { P with dom := { d with st := .joining, error := 0, joinFrom := s.hall, joinSent := s.hall } } ∧
        (t.cord d.parent).ctlOut = (s.cord d.parent).ctlOut ++
          [msgJoin d.domainId s.moduleId d.pcl d.proto s.fwClass (joiners t)])) ∧
    (d.st = .joining → d.joinSent + 500000 ≤ s.hall → ∃ t, exec (.joinRetry p) s = .next t ∧
      t = { s with parts := t.parts, cords := t.cords } ∧ t.part p = { P with dom := { d with joinSent := s.hall } } ∧
      (t.cord d.parent).ctlOut = (s.cord d.parent).ctlOut ++
        [msgJoin d.domainId s.moduleId d.pcl d.proto s.fwClass (joiners t)]) ∧
    (d.st ≠ .joining ∨ s.hall < d.joinSent + 500000 → exec (.joinRetry p) s = .next s) ∧
    (d.st = .joining → d.joinFrom + 500000000 ≤ s.hall → domIs (.joinTimeout p) { d with st := .none, error := 8 }) ∧
    (d.st ≠ .joining ∨ s.hall < d.joinFrom + 500000000 → exec (.joinTimeout p) s = .next s) ∧
    (∀ (c : CordId) m, CtlFront s c 0x32 m → s.domReady (fld m.bytes 1 2) = false →
      exec (.domainJoin c) s = .next { s.ctlFreed c m with
        joinHeld := s.joinHeld.filter (fun e => e.1 ≠ c.val) ++ [(c.val, m.bytes)] }) ∧
    (∀ (c : CordId) m q qs, CtlFront s c 0x32 m → s.domReady (fld m.bytes 1 2) = true → s.membersOf (fld m.bytes 1 2) = q :: qs →
      let e := (s.part q).dom
      ∃ t, exec (.domainJoin c) s = .next t ∧ t = { s with cords := t.cords, joinHeld := s.joinHeld.filter fun e => e.1 ≠ c.val } ∧
        CordsBut c s t ∧ t.cord c = { (s.ctlFreed c m).cord c with ctlOut := (s.cord c).ctlOut ++
          [msgJoinAck (fld m.bytes 1 2) (s.joinAnswer c e m.bytes) e.depth e.rootModule
            ((s.rootPart (fld m.bytes 1 2)).getD e.rootPart)] }) ∧
    (∀ (c : CordId) m, CtlFront s c 0x33 m → d.st = .joining → d.domainId = fld m.bytes 1 2 → d.parent = c.val →
      ∃ t, exec (.domainAck c) s = .next t ∧ t.mem = s.mem ∧ t.hall = s.hall ∧
        (fld m.bytes 3 1 ≠ 0 → t.part p = { P with dom := { d with st := .none, error := fld m.bytes 3 1 } }) ∧
        (fld m.bytes 3 1 = 0 → (t.part p).dom.st = .member ∧ (t.part p).dom.root = false ∧
          (t.part p).dom.depth = fld m.bytes 4 1 + 1 ∧ (t.part p).dom.rootModule = fld m.bytes 5 2 ∧
          (t.part p).dom.rootPart = fld m.bytes 7 1 ∧ (t.part p).routing.identValid = true)) ∧
    (∀ (c : CordId) m, CtlFront s c 0x34 m →
      let z : State := { s with subCount := s.subCount.filter (fun e => ¬ (e.1 = fld m.bytes 1 2 ∧ e.2.1 = c.val)) ++
        [(fld m.bytes 1 2, c.val, fld m.bytes 3 2)] }
      ∃ t, exec (.domainCount c) s = .next t ∧ t = { z with parts := t.parts, cords := t.cords } ∧
        ∀ q ∈ s.membersOf (fld m.bytes 1 2), (t.part q).dom.membersSub = z.subMembers (fld m.bytes 1 2)) ∧
    (d.st = .joining ∨ d.st = .member ∨ d.st = .shadow →
      (s.hall + 65536 ≤ d.at_ → domIs (.leave p) { d with leaving := some d.at_, error := 0 }) ∧
      (d.at_ < s.hall + 65536 → domIs (.leave p) { d with error := 12 })) ∧
    (d.st = .none ∨ d.st = .leaving → domIs (.leave p) { d with error := 1 }) ∧
    (∀ h, d.leaving = some h → d.st ≠ .leaving →
      (s.hall < h → exec (.leaveTakeEffect p) s = .next s) ∧
      (h ≤ s.hall → ∃ t, exec (.leaveTakeEffect p) s = .next t ∧ (t.part p).dom.st = .leaving ∧
        (t.part p).dom.fenced = true ∧ (t.part p).plan.st ≠ .running ∧ (t.part p).plan.st ≠ .armed ∧
        s.logSeq < t.logSeq ∧ t.hall = s.hall)) ∧
    (d.leaving = none ∨ d.st = .leaving → exec (.leaveTakeEffect p) s = .next s) ∧
    (∀ h, d.leaving = some h → d.st = .leaving →
      (s.hall < h + 5000000 → exec (.leaveReleaseTimeout p) s = .next s) ∧
      (h + 5000000 ≤ s.hall → ∃ t, exec (.leaveReleaseTimeout p) s = .next t ∧ t = { s with cords := t.cords } ∧
        ∀ k, s.moduleId < (s.cord k).peerModule → t.cord k = s.cord k)) ∧
    ∀ bank, (d.st = .leaving → s.leaseFree p = true → (∀ k, (s.chan k).st = .idle ∧ (s.chan k).flight = []) → ∃ t, exec (.partitionTeardown p bank) s = .next t ∧
        (t.part p).live = false ∧ t.hall = s.hall ∧ ∀ g, s.owns p g = true → g < 16 → (t.group g).st = .scrubbing) ∧
      (d.st ≠ .leaving ∨ s.leaseFree p = false → exec (.partitionTeardown p bank) s = .next s)

/-- Fault epochs and reports (R370 to R372): the root alone advances the epoch; its members and the tree take it, and the keys
reported in the old one are forgotten; a report that arrives enters the root table or an open merge entry; an entry that
closes sends what it merged toward the root. -/
def Obligations.FaultReportsMergeTowardTheRoot : Prop :=
  ∀ (s : State),
    (∀ p : PartId, (s.part p).live = true →
      let d := (s.part p).dom
      (d.root = true → d.st = .member ∨ d.st = .shadow → ∃ t, exec (.epochAdvance p) s = .next t ∧
        (∀ q ∈ s.membersOf d.domainId, (t.part q).dom.epoch = (d.epoch + 1) % 65536 ∧ (t.part q).dom.st = (s.part q).dom.st) ∧
        (t.part p).dom.error = 0 ∧
        t = { s with parts := t.parts, cords := t.cords, reported := s.reported.filter fun r => r.domain ≠ d.domainId }) ∧
      (d.root = false ∨ (d.st ≠ .member ∧ d.st ≠ .shadow) → ∃ t, exec (.epochAdvance p) s = .next t ∧ OnlyPart p s t ∧
        t.part p = { s.part p with dom := { d with error := 1 } })) ∧
    (∀ (c : CordId) m q qs, CtlFront s c 0x31 m → s.membersOf (fld m.bytes 1 2) = q :: qs →
      let e := fld m.bytes 3 2
      ((s.part q).dom.root = true ∨ (s.part q).dom.epoch = e → exec (.faultEpoch c) s = .next (s.ctlFreed c m)) ∧
      ((s.part q).dom.root = false → (s.part q).dom.epoch ≠ e → ∃ t, exec (.faultEpoch c) s = .next t ∧
        (∀ r ∈ q :: qs, (t.part r).dom.epoch = e) ∧ t = { s with
          parts := t.parts, cords := t.cords, reported := s.reported.filter fun r => r.domain ≠ fld m.bytes 1 2 })) ∧
    (∀ (c : CordId) m q qs,
      let b := m.bytes
      let r : Report :=
        { domain := fld b 1 2, epoch := fld b 3 2, cls := fld b 5 1, okind := fld b 6 1 % 4, omodule := fld b 7 2 % 32768
          oindex := fld b 9 1, count := fld b 10 2, first := fld b 12 8, reporter := fld b 20 2, detail := (b.drop 22).take 8 }
      CtlFront s c 0x30 m → s.membersOf r.domain = q :: qs →
      ((s.part q).dom.root = true → s.rootTab.any (fun e => sameKey e.rep r) = false → s.rootTab.length < 1024 →
        ∃ t, exec (.faultReport c) s = .next t ∧ t.rootTab = s.rootTab ++ [⟨r, r.count, s.hall⟩] ∧ t.merge = s.merge ∧
          t.reportQ = s.reportQ) ∧
      ((s.part q).dom.root = true → s.rootTab.any (fun e => sameKey e.rep r) = false → 1024 ≤ s.rootTab.length →
        exec (.faultReport c) s = .next { s.ctlFreed c m with rootDrop := s.rootDrop + 1 }) ∧
      ((s.part q).dom.root = false → s.merge.any (fun e => sameKey e.rep r) = false → s.merge.length < 256 →
        s.reportQ.length < 4096 → ∃ t, exec (.faultReport c) s = .next t ∧
          t.merge = s.merge ++ [⟨r, 0, s.hall + 5000000⟩] ∧ t.rootTab = s.rootTab ∧
          t.reportQ = s.reportQ ++ [((s.part q).dom.parent, msgFaultReport r)] ∧
          (t.part q).dom.reportsSent = satInc 32 (s.part q).dom.reportsSent) ∧
      ((s.part q).dom.root = false → s.merge.any (fun e => sameKey e.rep r) = true →
        ∃ t, exec (.faultReport c) s = .next t ∧ t.reportQ = s.reportQ ∧
          t.merge = s.merge.map (fun e => if sameKey e.rep r then { e with pending := min 65535 (e.pending + r.count) } else e) ∧
          (t.part q).dom.merged = satInc 32 (s.part q).dom.merged)) ∧
    ((∀ e ∈ s.merge, s.hall < e.closing) → exec .mergeClose s = .next s) ∧
    ∀ e, s.merge = [e] → e.closing ≤ s.hall →
      (e.pending = 0 → exec .mergeClose s = .next { s with merge := [] }) ∧
      ∀ q qs, s.membersOf e.rep.domain = q :: qs → 0 < e.pending → s.reportQ.length < 4096 →
        ∃ t, exec .mergeClose s = .next t ∧ t.merge = [] ∧
          t.reportQ = s.reportQ ++ [((s.part q).dom.parent, msgFaultReport { e.rep with count := e.pending })]

/-- Shadows, swaps and twin records (R374 to R381): SHADOW_START, SWAP and their refusals, the SHADOW_SYNC of step K − 1 that
sets the shadow counting beats and the later one that comes too late, a digest kept for its step, the swap of the two ends,
and a twin record's write. What the model chose or inferred in it: log entry 37. -/
def Obligations.ShadowsFollowAndSwap : Prop :=
  ∀ (s : State),
    (∀ p : PartId, (s.part p).live = true →
      let P := s.part p
      let d := P.dom
      let domIs (i : Instr) (e : Dom) : Prop := ∃ t, exec i s = .next t ∧ OnlyPart p s t ∧ t.part p = { P with dom := e }
      let bound : Prop := d.pairValid = true ∧ (s.cord d.pair).st = .up ∧ d.planAs.getD s.moduleId = d.primary
      let start : Prop := (d.st = .member ∨ d.st = .shadow) ∧ P.plan.st = .loaded
      (¬ start → domIs (.shadowStart p) { d with error := 1 }) ∧
      (start → ¬ bound → domIs (.shadowStart p) { d with error := 10 }) ∧
      (start → bound → d.at_ < P.domStep + 2 → domIs (.shadowStart p) { d with error := 12 }) ∧
      (start → bound → P.domStep + 2 ≤ d.at_ → ∃ t, exec (.shadowStart p) s = .next t ∧ PartsBut p s t ∧
        t = { s with parts := t.parts, cores := t.cores } ∧ t.part p = { P with
          frame := { P.frame with shadow := .open_, target := d.at_, shadowBuf := d.at_ % 2 }
          dom := { d with
            st := .shadow, error := 0, startStep := some d.at_, syncHall := none, swapAt := none, ownDigs := [], farDigs := [] } }) ∧
      (d.st ≠ .shadow → domIs (.swap p) { d with error := 1 }) ∧
      (d.st = .shadow → d.matched < d.matchTarget → domIs (.swap p) { d with error := 11 }) ∧
      (d.st = .shadow → d.matchTarget ≤ d.matched → d.at_ < P.clock.sched + 2 → domIs (.swap p) { d with error := 12 }) ∧
      (d.st = .shadow → d.matchTarget ≤ d.matched → P.clock.sched + 2 ≤ d.at_ →
        domIs (.swap p) { d with error := 0, swapAt := some d.at_ }) ∧
      (d.st = .shadow → d.swapAt = some P.clock.sched →
        domIs (.swapTakeEffect p) { d with st := .member, ownDigs := [], farDigs := [] }) ∧
      (d.st = .member → d.pairValid = true → 0 < d.at_ → d.at_ = P.clock.sched → d.swapAt ≠ some d.at_ →
        domIs (.swapTakeEffect p) { d with
          st := .shadow, primary := (s.cord d.pair).peerModule, primaryPart := ((s.cord d.pair).farOf p).getD 0
          matched := 0, ownDigs := [], farDigs := [] })) ∧
    (∀ (c : CordId) m (p : Nat), CtlFront s c 0x35 m → s.shadowsOf c (fld m.bytes 1 2) (fld m.bytes 19 1) = [p] →
      let P := s.part p
      let n := fld m.bytes 3 8
      let missed : Prop := ∃ t, exec (.shadowSync c) s = .next t ∧ OnlyPart p (s.ctlFreed c m) t ∧
        t.part p = { P with dom := { P.dom with startStep := none, mismatches := satInc 32 P.dom.mismatches, matched := 0 } }
      ∀ k, P.dom.startStep = some k → P.dom.syncHall = none →
      (n + 1 = k →
        let x := P.dom.beaconX + ((List.range (n - P.dom.beaconStep)).map fun i => P.clock.slip (P.dom.beaconStep + 1 + i)).sum
        let g := n * P.plan.stepLen + x
        let now := g + (beatsBelow P.clock.m s.hall - beatsBelow P.clock.m (fld m.bytes 11 8))
        (g + P.plan.stepLen + P.clock.slip k < now → missed) ∧
        (now ≤ g + P.plan.stepLen + P.clock.slip k → ∃ t, exec (.shadowSync c) s = .next t ∧ OnlyPart p (s.ctlFreed c m) t ∧
          t.part p = { P with
            clock := { P.clock with sched := n, fixed := n, xs := tabSet 0 [] n x, beat := now, lastBeat := none }
            dom := { P.dom with syncHall := some (fld m.bytes 11 8) } })) ∧
      (k ≤ n → missed) ∧
      (n + 1 < k → exec (.shadowSync c) s = .next (s.ctlFreed c m))) ∧
    (∀ (c : CordId) m (p : Nat), CtlFront s c 0x36 m → s.shadowsOf c (fld m.bytes 1 2) (fld m.bytes 19 1) = [p] →
      (∀ e ∈ (s.part p).dom.ownDigs, ∀ f ∈ (s.part p).dom.farDigs ++ [(fld m.bytes 3 8, fld m.bytes 11 8)], e.1 ≠ f.1) →
      ∃ t, exec (.shadowDigest c) s = .next t ∧ OnlyPart p (s.ctlFreed c m) t ∧ t.part p = { s.part p with
        dom := { (s.part p).dom with farDigs := (s.part p).dom.farDigs ++ [(fld m.bytes 3 8, fld m.bytes 11 8)] } }) ∧
    (∀ (c : CordId) m (p : Nat) v, CtlFront s c 0x36 m → s.shadowsOf c (fld m.bytes 1 2) (fld m.bytes 19 1) = [p] →
      (s.part p).dom.ownDigs = [(fld m.bytes 3 8, v)] → (s.part p).dom.farDigs = [] → (s.digKey p).isSome = true →
      let d := (s.part p).dom
      ∃ t, exec (.shadowDigest c) s = .next t ∧ OnlyPart p (s.ctlFreed c m) t ∧ t.part p = { s.part p with
        dom := if fld m.bytes 11 8 = v then { d with matched := satInc 16 d.matched, ownDigs := [] }
          else { d with mismatches := satInc 32 d.mismatches, matched := 0, ownDigs := [] } }) ∧
    ∀ (a b : CordId) (valid : Bool) (mode : Fin 4) (swap : BitVec 64),
      let x := s.cord a
      (valid = false ∨ mode = 0 ∨ (∀ p, p < 16 → (s.part p).live = true → s.twinBinds p a b = true) →
        ∃ t, exec (.twinModeWrite a valid b mode swap) s = .next t ∧ OnlyCord a s t ∧ t.cord a = { x with
          twin := b.val + (if valid then 128 else 0), twinNext := if x.twinMode = mode.val then none else some mode.val
          swapStep := swap.toNat, twinErr := 0 }) ∧
      (valid = true → mode ≠ 0 → (∃ p, p < 16 ∧ (s.part p).live = true ∧ s.twinBinds p a b = false) →
        ∃ t, exec (.twinModeWrite a valid b mode swap) s = .next t ∧ OnlyCord a s t ∧ t.cord a = { x with twinErr := 10 })

/-- The management service (R444 to R449, R458, R459, R479): an unserved request changes nothing and a malformed one answers
RANGE; a READ within a record answers its bytes, one outside answers RANGE; a WRITE to a type without RW fields answers RANGE
and LINK_DOWN_TIME takes a value in its range; RESTART is a module reset with cause 3; the cinder history is committed while a
hold-up pass is valid, and HOLDUP is answered where none is; a hold-up test records what it measured; pending changes are
committed by a retest 60 s after the last, the cinder history once an hour. What the model chose or inferred in it: log entry
41. -/
def Obligations.ManagementRequestsAreServed : Prop :=
  ∀ (s : State) (r : CmsReq),
    let replies (i : Instr) (u : State) (code : Nat) (data : List Byte) : Prop :=
      exec i s = .next { u with outbox := u.outbox ++ [.cms r.num.toNat code 0 data] }
    (s.cmsServes r = false → (∀ ty i o n, exec (.cmsRead r ty i o n) s = .next s) ∧
      (∀ ty i o d, exec (.cmsWrite r ty i o d) s = .next s) ∧ ∀ a, exec (.restart r a) s = .next s ∧
      exec (.persistNow r a) s = .next s ∧ exec (.holdupTest r a) s = .next s ∧ exec (.cinderClear r a) s = .next s) ∧
    (s.cmsServes r = true → r.bad = true → (∀ ty i o n, replies (.cmsRead r ty i o n) s cmRange []) ∧
      (∀ ty i o d, replies (.cmsWrite r ty i o d) s cmRange []) ∧ ∀ a, replies (.create r a) s cmRange [] ∧
      replies (.dissolve r a) s cmRange [] ∧ replies (.lease r a) s cmRange [] ∧ replies (.enableTest r a) s cmRange [] ∧
      replies (.stageWrite r a) s cmRange [] ∧ replies (.restart r a) s cmRange [] ∧ replies (.holdupTest r a) s cmRange []) ∧
    (s.cmsServes r = true → r.bad = false →
      (∀ (ty : Byte) (i : BitVec 16) (o n : BitVec 32),
        (s.recSize ty.toNat i.toNat = none → replies (.cmsRead r ty i o n) s cmRange []) ∧
        ∀ size, s.recSize ty.toNat i.toNat = some size →
          (1 ≤ n.toNat → n.toNat ≤ 4096 → o.toNat + n.toNat ≤ size → replies (.cmsRead r ty i o n) { s with serial := s.serial + 1 } cmOk
            ((List.range n.toNat).map fun k => s.recByte ty.toNat i.toNat (o.toNat + k))) ∧
          (n = 0 ∨ 4096 < n.toNat ∨ size < o.toNat + n.toNat → replies (.cmsRead r ty i o n) s cmRange [])) ∧
      (∀ (ty : Byte) i o d, ty.toNat ∉ [1, 3, 4, 6, 7, 8] → replies (.cmsWrite r ty i o d) s cmRange []) ∧
      (∀ (c : CordId) (v : Nat), v < 2 ^ 32 →
        let i : Instr := .cmsWrite r 4 (BitVec.ofNat 16 c.val) 0x10 (leBytes 4 v)
        (v = 0 ∨ 10000 < v → replies i s cmRange []) ∧
        (1 ≤ v → v ≤ 10000 → ∃ t, exec i s = .next t ∧ CordsBut c s t ∧ t.cord c = { s.cord c with downTime := v } ∧
          t.parts = s.parts ∧ t.mem = s.mem ∧ t.outbox = s.outbox ++ [.cms r.num.toNat 0 0 []])) ∧
      (∃ t, exec (.restart r []) s = .next t ∧ t.kindle.phase = 0 ∧ t.kindle.cause = 3 ∧ t.hall = s.hall ∧
        t.pending = s.pending ∧ t.flash = s.flash ∧ t.images = s.images ∧ .cms r.num.toNat 0 0 [] ∈ t.outbox ∧
        (∀ p, (t.part p).live = false) ∧ (∀ a, rdByte t.mem a = 0) ∧ t.power.rails = s.power.rails) ∧
      (s.passValid = true → replies (.persistNow r []) { s with
        flash := { s.flash with
          cinder := cinderHistory s.cinder, stops := ringKeep 256 (s.log.filter (·.stopped))
          seqs := tabUpd 0 s.flash.seqs rCinder (· + 1) }
        unsaved := s.unsaved.filter fun x => x ≠ rCinder } cmOk []) ∧
      (s.passValid = false → s.mayTest = false → replies (.persistNow r []) s cmHoldup []) ∧
      (s.mayTest = false → replies (.holdupTest r []) s cmBusy []) ∧
      (s.mayTest = true → let u := s.holdTest r.bank
        u.holdup.hall = some s.hall ∧ u.holdup.mj = bankEnergy r.bank ∧
        (u.holdup.pass = true ↔ s.v54 = true ∧ s.charged = true ∧ 28000 ≤ bankEnergy r.bank) ∧
        replies (.holdupTest r []) u cmOk (leBytes 4 (bankEnergy r.bank) ++ leBytes 1 (if u.holdup.pass then 1 else 0))) ∧
      (s.opened = true → s.passValid = true → ∃ t, exec (.cinderClear r [0xFF, 0]) s = .next t ∧ t.cinder = [] ∧
        t.flash.cinder = [] ∧ t.log = s.log ∧ t.parts = s.parts)) ∧
    ∀ bank : BankVolt, s.collierUp = true →
      let tested (u : State) : State := if s.mayTest then u.holdTest bank else u
      (s.unsaved = [] ∨ s.hall < s.holdup.retest + 60 * second → exec (.holdupRetest bank) s = .next s) ∧
      (s.unsaved ≠ [] → s.holdup.retest + 60 * second ≤ s.hall →
        let u := tested { s with holdup := { s.holdup with retest := s.hall } }
        (u.passValid = true → ∃ t, exec (.holdupRetest bank) s = .next t ∧ t.unsaved = [] ∧ t.holdup = u.holdup ∧
          t.parts = s.parts ∧ t.mem = s.mem) ∧
        (u.passValid = false → exec (.holdupRetest bank) s = .next u)) ∧
      (s.hall < s.holdup.hourly + 3600 * second → exec (.cinderPersist bank) s = .next s) ∧
      (s.holdup.hourly + 3600 * second ≤ s.hall →
        let u := tested { s with holdup := { s.holdup with hourly := s.hall } }
        (u.passValid = true → ∃ t, exec (.cinderPersist bank) s = .next t ∧ t.flash.cinder = cinderHistory s.cinder ∧
          t.holdup = u.holdup ∧ t.cinder = s.cinder ∧ t.parts = s.parts) ∧
        (u.passValid = false → exec (.cinderPersist bank) s = .next u))

/-- Run-time tests, repairs and the test port (R406, R407, R474 to R477, R481): a test of a free group's memory takes the
group and gives it back free or withheld, a test of tiles or of a cord records what failed; a group's soft repairs are fused
once they fit; ENABLE_TEST hands out a nonce, refuses an authorization that fails, and otherwise zeroizes before the port
opens; a coalescing window closes after 1 s. What the model chose or inferred in it: log entries 42 and 45. -/
def Obligations.TestsTakeAndGiveBackUnits : Prop :=
  ∀ (s : State) (r : CmsReq),
    let replies (i : Instr) (u : State) (code : Nat) (data : List Byte) : Prop :=
      exec i s = .next { u with outbox := u.outbox ++ [.cms r.num.toNat code 0 data] }
    (s.cmsServes r = true → r.bad = false → s.opened = true →
      (∀ t i : Byte, badTarget t.toNat i.toNat = true → replies (.selftest r [t, i]) s cmRange []) ∧
      (∀ t i : Byte, badTarget t.toNat i.toNat = false → s.testBusy t.toNat i.toNat = true →
        replies (.selftest r [t, i]) s cmBusy []) ∧
      (∀ g : GroupId, s.testBusy 1 g = false → ∃ t, exec (.selftest r [1, BitVec.ofNat 8 g]) s = .next t ∧
        (t.group g).st = .scrubbing ∧ GroupsBut g s t ∧ t.test = { target := 1, index := g.val, st := 1 } ∧ t.mem = s.mem ∧
        t.parts = s.parts ∧ t.outbox = s.outbox ++ [.cms r.num.toNat 0 0 []]) ∧
      ∀ (g : GroupId) full,
        let x := s.group g
        x.st = .free ∨ x.st = .withheld → s.testHolds g = false → s.passValid = true →
        (x.repSram + x.repStack = 0 ∨ s.poolFull g = true ∨ (0 < x.repStack ∧ full = true) →
          replies (.fuseRepair r [BitVec.ofNat 8 g] full) s cmRange []) ∧
        (0 < x.repSram + x.repStack → s.poolFull g = false → full = false →
          ∃ t, exec (.fuseRepair r [BitVec.ofNat 8 g] full) s = .next t ∧ GroupsBut g s t ∧
            t.group g = { x with repSram := 0, repStack := 0 } ∧
            tabGet 0 t.fuses (g / 8) = tabGet 0 s.fuses (g / 8) + x.repSram ∧ t.mem = s.mem)) ∧
    (∀ found sram stack waves bank, s.test.st ≠ 1 → exec (.selftestDone found sram stack waves bank) s = .next s) ∧
    (s.test.st = 1 → ∀ (sram stack : Nat) (waves : List (Bool × Fin 9)) (bank : BankVolt),
      (∀ g : GroupId, s.test.target = 1 → s.test.index = g.val →
        (∃ t, exec (.selftestDone (.memory none) sram stack waves bank) s = .next t ∧ (t.group g).st = .free ∧ GroupsBut g s t ∧
          t.test = { s.test with st := if 0 < sram + stack then 3 else 2, added := sram + stack, hall := s.hall } ∧
          (t.group g).repSram = (s.group g).repSram + sram ∧ (t.group g).repStack = (s.group g).repStack + stack ∧
          ∀ a, inRange (nearOf g) a = true → rdByte t.mem a = 0) ∧
        ∀ why : MemFail, ∃ t, exec (.selftestDone (.memory (some why)) sram stack waves bank) s = .next t ∧
          (t.group g).st = .withheld ∧ (t.group g).reason = why.code ∧ GroupsBut g s t ∧ t.test.st = 4 ∧ t.mem = s.mem) ∧
      (∀ g : GroupId, s.test.target = 2 → s.test.index = g.val →
        exec (.selftestDone (.tiles none) sram stack waves bank) s = .next { s with test := { s.test with st := 2, added := 0, hall := s.hall } } ∧
        ∀ router : Bool, ∃ t, exec (.selftestDone (.tiles (some router)) sram stack waves bank) s = .next t ∧ OnlyGroup g { s with test := t.test } t ∧
          t.test = { s.test with st := 4, added := 0, hall := s.hall } ∧
          t.group g = { s.group g with st := .withheld, reason := if router then 2 else 1 }) ∧
      (∀ c : CordId, s.test.target = 3 → s.test.index = c.val → ∃ t, exec (.selftestDone .cord sram stack waves bank) s = .next t ∧
        CordsBut c s t ∧ t.test = { s.test with st := if waves = [] then 2 else 4, added := 0, hall := s.hall } ∧
        (∀ w, w ∈ (t.cord c).retIn ↔ w ∈ (s.cord c).retIn ∨ ∃ v, (true, v) ∈ waves ∧ w = v.val) ∧
        (∀ w, w ∈ (t.cord c).retEg ↔ w ∈ (s.cord c).retEg ∨ ∃ v, (false, v) ∈ waves ∧ w = v.val) ∧ t.parts = s.parts) ∧
      (s.test.target = 4 → ∃ t, exec (.selftestDone .calibrate sram stack waves bank) s = .next t ∧
        t.test = { s.test with st := 2, added := 0, hall := s.hall } ∧ t.groups = s.groups ∧ t.parts = s.parts)) ∧
    (s.cmsServes r = true → r.bad = false →
      replies (.enableTest r []) { s with
        serial := s.serial + 1, tap := { s.tap with nonce := some (s.serial + 1) } } cmOk (nonceBytes (s.serial + 1)) ∧
      (∀ a : List Byte, a ≠ [] → a.length ≠ 256 → replies (.enableTest r a) s cmRange []) ∧
      (∀ a : List Byte, a.length = 256 → s.tap.production = true → s.authOk a = false → replies (.enableTest r a) s cmAuth []) ∧
      ∀ a : List Byte, a.length = 256 → s.tap.production = false ∨ s.authOk a = true →
        ∃ t, exec (.enableTest r a) s = .next t ∧ t.tap.debug = true ∧ t.tap.scope = fld a 68 4 % 4 ∧ t.tap.nonce = none ∧
          t.mem = [] ∧ t.tiles = [] ∧ (∀ p, p < 16 → (s.part p).live = true → (t.part p).plan.st = .faulted ∧
            (t.part p).dom = { fenced := true } ∧ (t.part p).sec.slots = [])) ∧
    (∀ c : Coalesce, s.coalesce = [c] → c.entry.part = 255 →
      (c.entry.hall + 500000000 ≤ s.hall → exec .coalesceClose s = .next { s with
        coalesce := [], log := ringKeep 16384 (s.log ++ [{ c.close with seq := s.logSeq }]), logSeq := s.logSeq + 1 }) ∧
      (s.hall < c.entry.hall + 500000000 → exec .coalesceClose s = .next s))

/-- Partitions are created, dissolved and moved (R390, R397, R404, R442, R448): CREATE refuses before OPEN, out of range, and
where something is held; else the groups become the partition's and it starts with an EMPTY plan and its keys; DISSOLVE scrubs
its groups, after the units of its Stoke transfers still in flight; MOVE keeps the plan; a scrub leaves a group free and its
near memory zero; a LEASE proposes on the cord. What the model chose or inferred in it: log entries 65 and 67. -/
def Obligations.PartitionsAreCreatedAndScrubbed : Prop :=
  ∀ (s : State) (r : CmsReq),
    let replies (i : Instr) (u : State) (code : Nat) (data : List Byte) : Prop :=
      exec i s = .next { u with outbox := u.outbox ++ [.cms r.num.toNat code 0 data] }
    (∀ g : GroupId,
      ((s.group g).st = .scrubbing → s.testHolds g = false → ∃ t, exec (.scrubDone g) s = .next t ∧ (t.group g).st = .free ∧
        GroupsBut g s t ∧ t.parts = s.parts ∧ (∀ a, inRange (nearOf g) a = true ∨ inRange (sliceOf g) a = true → rdByte t.mem a = 0) ∧
        (∀ a, inRange (nearOf g) a = false → inRange (sliceOf g) a = false → rdByte t.mem a = rdByte s.mem a) ∧
        (∀ k, k / 12 = g.val → t.tile k = {}) ∧ ∀ k, k / 12 ≠ g.val → t.tile k = s.tile k) ∧
      ((s.group g).st ≠ .scrubbing ∨ s.testHolds g = true → exec (.scrubDone g) s = .next s)) ∧
    (s.cmsServes r = true → r.bad = false → ∀ (p : PartId) (port : PortId) (gs first count : BitVec 16),
      let args : List Byte := leBytes 1 p ++ leBytes 1 port ++ leBytes 2 gs.toNat ++ leBytes 2 first.toNat ++ leBytes 2 count.toNat
      (s.opened = false → replies (.create r args) s cmState []) ∧
      (s.opened = true → gs = 0 ∨ 4096 < first.toNat + count.toNat → replies (.create r args) s cmRange []) ∧
      (s.opened = true → gs ≠ 0 → first.toNat + count.toNat ≤ 4096 →
        (s.createBusy p gs.toNat port first.toNat count.toNat = true → replies (.create r args) s cmBusy []) ∧
        (s.createBusy p gs.toNat port first.toNat count.toNat = false → ∃ t, exec (.create r args) s = .next t ∧
          (t.part p).live = true ∧ (t.part p).port = port.val ∧ (t.part p).plan.st = .empty ∧ (t.part p).keysReady = true ∧
          (t.part p).btFirst = first.toNat ∧ (t.part p).btCount = count.toNat ∧ PartsBut p s t ∧
          (∀ g, g < 16 → (gs.toNat.testBit g = true → t.owns p g = true) ∧
            (gs.toNat.testBit g = false → t.group g = s.group g)) ∧
          t.outbox.getLast? = some (.cms r.num.toNat 0 0 [])))) ∧
    (s.cmsServes r = true → r.bad = false → s.opened = true → ∀ p : PartId, (s.part p).live = true →
      ((s.part p).plan.st ≠ .empty ∨ (s.part p).dom.st ≠ .none → replies (.dissolve r (leBytes 1 p)) s cmState []) ∧
      ((s.part p).plan.st = .empty → (s.part p).dom.st = .none → (∃ k, k ∈ s.chansOf p ∧ (s.chan k).flight ≠ []) →
        ∃ t, exec (.dissolve r (leBytes 1 p)) s = .next t ∧ (t.part p).live = true ∧ (t.part p).ending = true ∧
          (t.part p).dom.fenced = true ∧ t.groups = s.groups ∧ t.outbox.getLast? = some (.cms r.num.toNat 0 0 [])) ∧
      ((s.part p).plan.st = .empty → (s.part p).dom.st = .none → (∀ k, (s.chan k).st = .idle ∧ (s.chan k).flight = []) → ∃ t, exec (.dissolve r (leBytes 1 p)) s = .next t ∧
        (t.part p).live = false ∧ (t.part p).sec.slots = [] ∧ t.hall = s.hall ∧
        (∀ g, g < 16 → s.owns p g = true → (t.group g).st = .scrubbing) ∧
        (∀ g, g < 16 → s.owns p g = false → t.group g = s.group g) ∧ t.outbox.getLast? = some (.cms r.num.toNat 0 0 [])) ∧
      ∀ port : PortId,
        (s.mayMove p = false → replies (.move r (leBytes 1 p ++ leBytes 1 port)) s cmState []) ∧
        (s.mayMove p = true → ∃ t, exec (.move r (leBytes 1 p ++ leBytes 1 port)) s = .next t ∧ (t.part p).port = port.val ∧
          (t.part p).plan = (s.part p).plan ∧ (t.part p).dom = (s.part p).dom ∧ (t.part p).alloc = (s.part p).alloc ∧
          (t.part p).fn.hqGen = ((s.part p).fn.hqGen + 1) % 65536 ∧ (t.part p).fn.queues = [] ∧ t.groups = s.groups ∧
          t.mem = s.mem)) ∧
    (s.cmsServes r = true → r.bad = false → s.opened = true → ∀ (p : PartId) (c : CordId) (q : PartId) (dom : BitVec 16) (bits : List Byte),
      bits.length = 32 → (s.part p).live = true → (s.cord c).st = .up →
      let args := leBytes 1 p ++ leBytes 1 c ++ leBytes 1 q ++ leBytes 1 1 ++ leBytes 2 dom.toNat ++ leBytes 2 0 ++ leBytes 8 0 ++ bits
      let h := s.hall + 32768
      let e := s.leaseCheck c s.hall true p q dom.toNat h 16384 (bitmapSlots bits)
      let id := (s.cord c).leaseId
      let l : Lease :=
        { id := id, proposer := true, grant := true, mine := p, theirs := q, domain := dom.toNat, h := h, slots := bitmapSlots bits }
      (e ≠ 0 → replies (.lease r args) { s with serial := s.serial + 1 } (leaseCode e) []) ∧
      (e = 0 → ∃ t, exec (.lease r args) s = .next t ∧ CordsBut c s t ∧ (t.cord c).leases = (s.cord c).leases ++ [l] ∧
        (t.cord c).leaseId = (id + 1) % 2 ^ 32 ∧ (t.cord c).ctlOut = (s.cord c).ctlOut ++ [msgPropose l] ∧
        t.outbox = s.outbox ++ [.cms r.num.toNat 0 0 (leBytes 4 id)] ∧ t.parts = s.parts))

/-- Keys and host windows (R393, R401, R402): the checks of KEY_INSTALL in their order, the first that fails being the result;
a key that passes fills its slot; ERASE empties a slot above 1; a host window is enabled when its range is its own. -/
def Obligations.KeysAndWindowsAreChecked : Prop :=
  ∀ (s : State) (p : PartId), s.fnReady p = true →
    let x := (s.part p).sec
    let result (i : Instr) (u : State) (slot code : Nat) : Prop := ∃ t, exec i s = .next t ∧ OnlyPart p u t ∧
      t.part p = { u.part p with sec := { (u.part p).sec with code := code, slot := slot } }
    (∀ (slot : Fin 32) host, s.allMapped p x.blobBase 176 = false →
      ∃ t, exec (.keyInstall p slot host) s = .next t ∧ (t.part p).sec = { x with code := krRange, slot := slot } ∧
        t.mem = s.mem ∧ tabGet 0 t.cinder (cinderKey kKeys p cFence) = satInc 16 (tabGet 0 s.cinder (cinderKey kKeys p cFence))) ∧
    (∀ (slot : Fin 32) host b, s.allMapped p x.blobBase 176 = true → s.readAll p x.blobBase 176 host = (s, .ok b) →
      let i : Instr := .keyInstall p slot host
      let use := fld b 5 1
      (blobOk b = false → result i s slot krFormat) ∧
      (blobOk b = true →
        (slot = 0 ∨ (slot = 1 ↔ use ≠ 3) → result i s slot krSlot) ∧
        ((slot.val = 1 ∧ use = 3) ∨ (1 < slot.val ∧ use ≠ 3) →
          (use = 3 → (s.part p).phu.enable = true → result i s slot krBusy) ∧
          (1 < slot.val → (s.keySlot p slot).valid = true → result i s slot krOccupied) ∧
          let free : Prop := (use = 3 → (s.part p).phu.enable = false) ∧ (1 < slot.val → (s.keySlot p slot).valid = false)
          (free → fld b 8 4 ≠ x.wrapGen → result i s slot krStale) ∧
          (free → fld b 8 4 = x.wrapGen →
            (Config.hpkeOpen x.wrapPair b = none → ∃ t, exec i s = .next t ∧ (t.part p).sec = { x with code := krUnwrap, slot := slot } ∧
              t = { s with parts := t.parts, cinder := t.cinder }) ∧
            ∀ k, Config.hpkeOpen x.wrapPair b = some k → ∃ t, exec i s = .next t ∧ OnlyPart p s t ∧ (t.part p).sec.code = 0 ∧
              (t.part p).sec.slot = slot.val ∧ t.keySlot p slot = { valid := true, use := use, keyId := fld b 16 8, key := k } ∧
              ∀ j, j ≠ slot.val → t.keySlot p j = s.keySlot p j)))) ∧
    (∀ slot : Fin 32, (slot.val ≤ 1 → result (.erase p slot) s slot krSlot) ∧
      (1 < slot.val → ∃ t, exec (.erase p slot) s = .next t ∧ OnlyPart p s t ∧ (t.part p).sec.code = 0 ∧
        t.keySlot p slot = {} ∧ ∀ j, j ≠ slot.val → t.keySlot p j = s.keySlot p j)) ∧
    ∀ (w : Fin 8) (v : BitVec 3),
      let y := tabGet {} x.wins w
      let becomes (z : HostWin) : Prop := ∃ t, exec (.hostWindowEnable p w v) s = .next t ∧ OnlyPart p s t ∧
        tabGet {} (t.part p).sec.wins w = z ∧ ∀ k, k ≠ w.val → tabGet {} (t.part p).sec.wins k = tabGet {} x.wins k
      (y.enable = false → v.getLsbD 0 = false → becomes { y with cxl := v.getLsbD 1, readOnly := v.getLsbD 2 }) ∧
      (y.enable = false → v.getLsbD 0 = true → s.winRefused p w = true →
        becomes { y with cxl := v.getLsbD 1, readOnly := v.getLsbD 2 }) ∧
      (y.enable = false → v.getLsbD 0 = true → s.winRefused p w = false →
        becomes { y with enable := true, cxl := v.getLsbD 1, readOnly := v.getLsbD 2 }) ∧
      (y.enable = true → ∃ t, exec (.hostWindowEnable p w v) s = .next t ∧
        tabGet {} (t.part p).sec.wins w = { y with enable := v.getLsbD 0 })

/-- Firmware update (R468 to R470): STAGE_BEGIN empties the inactive bank, STAGE_WRITE and STAGE_COPY fill its slots,
STAGE_END and ACTIVATE check in their order, a scheduled activation is cancelled, retested, or at H switches the bank under
trial with module reset, and a trial is confirmed or reverted. -/
def Obligations.UpdatesStageActivateAndConfirm : Prop :=
  ∀ (s : State) (r : CmsReq),
    let replies (i : Instr) (u : State) (code detail : Nat) : Prop :=
      exec i s = .next { u with outbox := u.outbox ++ [.cms r.num.toNat code detail []] }
    let idle := s.idleBank
    let ptr := s.flash.pointer
    let up := s.update
    (s.cmsServes r = true → r.bad = false →
      (ptr.trial = true → replies (.stageBegin r []) s cmTrial 0) ∧
      (ptr.trial = false → up.activation = 1 → replies (.stageBegin r []) s cmState 0) ∧
      (ptr.trial = false → up.activation ≠ 1 → s.passValid = true → ∃ t, exec (.stageBegin r []) s = .next t ∧
        t.update.stage = 1 ∧ (∀ k, k < 8 → tabGet {} t.images (slotKey idle k) = {}) ∧
        (∀ k, k < 8 → tabGet {} t.images (slotKey (!idle) k) = tabGet {} s.images (slotKey (!idle) k)) ∧ t.flash = s.flash ∧
        t.parts = s.parts) ∧
      (∀ (t off : Nat) (data : List Byte), 1 ≤ t → t ≤ 5 → off < 2 ^ 32 → 1 ≤ data.length → data.length ≤ 4096 →
        let args := leBytes 1 t ++ leBytes 3 0 ++ leBytes 4 off ++ data
        let x := s.slotOf idle t
        (up.stage ≠ 1 → replies (.stageWrite r args) s cmState 0) ∧
        (up.stage = 1 → x.hdr = [] → off = 0 → 256 ≤ data.length →
          (s.hdrDetail t (data.take 256) ≠ 0 → s.hdrDetail t (data.take 256) ≠ 9 →
            replies (.stageWrite r args) s cmHeader (s.hdrDetail t (data.take 256))) ∧
          (s.hdrDetail t (data.take 256) = 9 → replies (.stageWrite r args) s cmSignature 9)) ∧
        (up.stage = 1 → x.hdr ≠ [] → 256 ≤ off → off - 256 + data.length ≤ fld x.hdr 8 4 → s.passValid = true →
          ∃ t', exec (.stageWrite r args) s = .next t' ∧ t' = { s with images := t'.images
                                                                       outbox := s.outbox ++ [.cms r.num.toNat 0 0 []] } ∧
            tabGet {} t'.images (slotKey idle t) = { x with
              body := wrBytes x.body (off - 256) data, got := x.got ++ [(off - 256, data.length)] } ∧
            ∀ k, k ≠ slotKey idle t → tabGet {} t'.images k = tabGet {} s.images k)) ∧
      (∀ t, 1 ≤ t → t ≤ 5 → up.stage = 1 → s.passValid = true → ∃ t', exec (.stageCopy r (leBytes 1 t)) s = .next t' ∧
        tabGet {} t'.images (slotKey idle t) = s.slotOf (!idle) t ∧
        ∀ k, k ≠ slotKey idle t → tabGet {} t'.images k = tabGet {} s.images k) ∧
      (let slots := [1, 2, 3, 4, 5].map fun t => s.slotOf idle t
       let v := fld (s.slotOf idle 1).hdr 0x14 2
       (up.stage ≠ 1 ∨ slots.all (·.whole) = false → replies (.stageEnd r []) s cmState 0) ∧
       (up.stage = 1 → slots.all (·.whole) = true → slots.all (·.digestOk) = false → replies (.stageEnd r []) s cmDigest 0) ∧
       (up.stage = 1 → slots.all (·.whole) = true → slots.all (·.digestOk) = true →
         (v ≠ ptr.dataVer → v ≠ ptr.dataVer + 1 → replies (.stageEnd r []) s cmDataVersion 0) ∧
         (v = ptr.dataVer ∨ v = ptr.dataVer + 1 → s.passValid = true →
           replies (.stageEnd r []) { s with update := { up with stage := 2 } } cmOk 0))) ∧
      (∀ h : BitVec 64,
        let free : Prop := ∀ p, p < 16 → (s.part p).live = true → (s.part p).dom.st = .none
        (up.stage ≠ 2 → replies (.activate r (leBytes 8 h.toNat)) s cmState 0) ∧
        (up.stage = 2 → ptr.trial = true → replies (.activate r (leBytes 8 h.toNat)) s cmTrial 0) ∧
        (up.stage = 2 → ptr.trial = false → up.activation ≠ 1 → free →
          (h.toNat < s.hall + 500000000 ∨ s.hall + 500000000000 < h.toNat → replies (.activate r (leBytes 8 h.toNat)) s cmRange 0) ∧
          (s.hall + 500000000 ≤ h.toNat → h.toNat ≤ s.hall + 500000000000 → s.passValid = true →
            replies (.activate r (leBytes 8 h.toNat)) { s with update := { up with activation := 1, at_ := h.toNat } } cmOk 0))) ∧
      (up.activation = 1 → s.hall + 250000000 ≤ up.at_ →
        replies (.cancelActivate r []) { s with update := { up with activation := 3 } } cmOk 0) ∧
      (up.activation ≠ 1 ∨ up.at_ < s.hall + 250000000 → replies (.cancelActivate r []) s cmState 0) ∧
      (ptr.trial = true → replies (.confirm r []) { s with update := { up with confirm := true } } cmOk 0) ∧
      (ptr.trial = false → replies (.confirm r []) s cmState 0)) ∧
    (∀ bank : BankVolt, up.activation = 1 → up.at_ ≤ s.hall + 250000000 →
      let u := s.holdTest bank
      (u.passValid = true → exec (.activationRetest bank) s = .next u) ∧
      (u.passValid = false → ∃ t, exec (.activationRetest bank) s = .next t ∧ t.update = { up with activation := 2 } ∧
        t.holdup = u.holdup ∧ t.flash = s.flash ∧ t.images = s.images ∧ t.mem = s.mem ∧ t.hall = s.hall)) ∧
    (∀ bank : BankVolt, up.activation ≠ 1 ∨ s.hall + 250000000 < up.at_ → exec (.activationRetest bank) s = .next s) ∧
    (up.activation ≠ 1 ∨ s.hall < up.at_ → exec .activation s = .next s) ∧
    (up.activation = 1 → up.at_ ≤ s.hall →
      (s.passValid = false → exec .activation s = .next { s with update := { up with activation := 2 } }) ∧
      (s.passValid = true → ∃ t, exec .activation s = .next t ∧ t.kindle.phase = 0 ∧ t.kindle.cause = 4 ∧
        t.flash.pointer = { ptr with
          active := !ptr.active, prev := ptr.active, trial := true, boots := 0, reverted := false, actHall := up.at_ } ∧
        t.update.window = s.hall + 300000000000 ∧ t.images = s.images ∧ t.hall = s.hall ∧ t.pending = s.pending ∧
        ∀ p, (t.part p).live = false)) ∧
    (∀ bank : BankVolt,
      let ready : Prop := ptr.trial = true ∧ s.inPhase 6 = true ∧ (∀ t, 1 ≤ t → t ≤ 5 → s.imgOk t (s.runImage t) = true) ∧
        (rdLe s.ident 4 1 = 1 ∨ up.confirm = true)
      (¬ ready → exec (.healthConfirm bank) s = .next s) ∧
      (ready → s.passValid = true → ∃ t, exec (.healthConfirm bank) s = .next t ∧
        t.flash.pointer = { ptr with trial := false, dataVer := fld s.runHdr 0x14 2 } ∧ t.update.window = 0 ∧
        t.parts = s.parts ∧ t.images = s.images)) ∧
    (s.power.aux = true → ptr.trial = true → up.window ≤ s.hall → ∃ t, exec .trialTimeout s = .next t ∧ t.kindle.phase = 0 ∧
      t.kindle.cause = 5 ∧ t.flash.pointer = { ptr with active := ptr.prev, trial := false, reverted := true } ∧
      t.hall = s.hall ∧ t.images = s.images) ∧
    (s.power.aux = false ∨ ptr.trial = false ∨ s.hall < up.window → exec .trialTimeout s = .next s)

/-- A Stoke channel's commands (R410, R412, R415, R416, R419 to R424): a write through a view that does not drive the channel
is ignored and counted; GO arms the shadow, or refuses a ring that is not mapped; a transfer whose lists fail starts and ends
with LIST_ERROR; CANCEL disarms; ABORT, RESUME and SKIP act while their states allow. What the model chose or inferred in it:
log entry 39. -/
def Obligations.StokeCommandsArmAndEndTransfers : Prop :=
  ∀ (s : State) (p : PartId) (c : CoreId) (ch : Fin 8), s.ownerOf (c.val / 4) = some p.val → (s.core c).run = .running →
    let k := 8 * (c.val / 4) + ch.val
    let x := s.chan k
    let a : Agent := .core c
    let gives (i : Instr) (y : StkChan) : Prop := ∃ t, exec i s = .next t ∧ t = { s with stoke := t.stoke } ∧ t.chan k = y ∧
      ∀ j, j ≠ k → t.chan j = s.chan j
    (x.host = true → ∀ host tail i, i ∈ [Instr.go a ch host, .stokeCancel a ch, .abort a ch, .resume a ch host, .skip a ch host,
      .stokeCqSpace a ch tail] → exec i s = .next (s.fenceInc kCore c)) ∧
    (x.host = false →
      (∀ host, x.armed = true → exec (.go a ch host) s = .next s) ∧
      (∀ host, x.armed = false → s.memMapped p x.cqBase (32 * 2 ^ x.cqLog2) = false → gives (.go a ch host) { x with cqBad := true }) ∧
      (∀ host, x.armed = false → s.memMapped p x.cqBase (32 * 2 ^ x.cqLog2) = true → x.st = .running ∨ x.st = .halted ∨ x.st = .settling →
        gives (.go a ch host) { x with cqBad := false, armed := true }) ∧
      (∀ host, x.armed = false → s.memMapped p x.cqBase (32 * 2 ^ x.cqLog2) = true → x.st = .idle → x.recs = [] →
        x.sh.srcN = 0 → x.sh.dstN = 0 → x.fenceSh = none → x.full = false → (s.part p).dom.fenced = false →
        ∃ t, exec (.go a ch host) s = .next t ∧ (t.chan k).st = .idle ∧ (t.chan k).armed = false ∧
          (t.chan k).seq = (x.seq + 1) % 2 ^ 32 ∧ (t.chan k).act = x.sh ∧ (t.chan k).cqHead = (x.cqHead + 1) % 2 ^ 32 ∧
          let slot := x.cqBase + 32 * (x.cqHead % 2 ^ x.cqLog2)
          ∀ g m, s.reach p slot = .near g m → s.canPut p slot = true → m + 32 ≤ 0x10000000000 → ∀ n, n < 32 →
            rdByte t.mem (m + n) =
              (stkRecord k srListError (if x.sh.settle then 1 else 0) 0 ((x.seq + 1) % 2 ^ 32) x.sh.tag 0 0).getD n 0) ∧
      gives (.stokeCancel a ch) { x with armed := false, st := if x.st = .ended then .idle else x.st } ∧
      (x.st = .running ∨ x.st = .halted → x.ending = none → x.flight ≠ [] →
        gives (.abort a ch) { x with ending := some srAborted, again := [], fail := none }) ∧
      (x.st ≠ .running → x.st ≠ .halted → exec (.abort a ch) s = .next s) ∧
      (∀ host, x.st ≠ .halted → exec (.resume a ch host) s = .next s ∧ exec (.skip a ch host) s = .next s) ∧
      (∀ host f, x.st = .halted → x.recs = [] → x.fail = some f → x.flight.length = 16 →
        gives (.resume a ch host) { x with st := .running, fail := none, again := (f.unit.at_, f.unit.len) :: x.again }) ∧
      (∀ host f, x.st = .halted → x.recs = [] → x.fail = some f → x.flight.length = 16 → f.off = 0 → f.dst = false →
        x.moved = [] → x.skips = [] → x.again = [] → ∀ e, x.srcL[f.unit.si]? = some e → f.unit.so < e.len →
        let hi := f.unit.at_ + (e.len - f.unit.so)
        gives (.skip a ch host) { x with st := .running, fail := none, next := max x.next hi, skips := [(f.unit.at_, hi - f.unit.at_)] }) ∧
      ∀ tail : BitVec 32, x.recs = [] → gives (.stokeCqSpace a ch tail) { x with cqTail := tail.toNat })

/-- What a Stoke engine does by itself (R413, R414, R416, R417, R419, R421): the promotion of an armed shadow, a local unit
whose bytes leave the engine and land, a unit that fails and stops the channel, and the settling read that ends a transfer.
What the model chose or inferred in it: log entry 39. -/
def Obligations.StokeUnitsMoveAndFail : Prop :=
  ∀ (s : State) (p : PartId) (g : GroupId) (ch : Fin 8), s.ownerOf g = some p.val → s.noneEnding = true →
    let k := 8 * g.val + ch.val
    let x := s.chan k
    (∀ host, x.st ≠ .ended ∨ x.armed = false ∨ x.recs ≠ [] → exec (.promotion g ch host) s = .next s) ∧
    (∀ host, x.st = .ended → x.armed = true → x.recs = [] →
      ∃ t, exec (.promotion g ch host) s = .next t ∧ (t.chan k).act = x.sh ∧ (t.chan k).seq = (x.seq + 1) % 2 ^ 32 ∧
        (t.chan k).armed = false ∧ t.hall = s.hall ∧ t.groups = s.groups) ∧
    (∀ u host sm dm, x.flight.head? = some u → u.src.remote = false → u.dst.remote = false → u.data = none → x.mixed = false →
      s.pieceList p u.src.addr u.len = some [(u.src.addr, u.len)] → (∃ j, s.reach p u.src.addr = .near j sm) →
      (∀ w ∈ s.badWords, w + 32 ≤ sm ∨ sm + u.len ≤ w) →
      s.pieceList p u.dst.addr u.len = some [(u.dst.addr, u.len)] → (∃ j, s.reach p u.dst.addr = .near j dm) →
      dm + u.len ≤ 0x10000000000 →
      let b := s.memBytes sm u.len
      let moves (t : State) : Prop := (∀ n (h : n < b.length), rdByte t.mem (dm + n) = b[n]) ∧
        (∀ a, a < dm ∨ dm + b.length ≤ a → rdByte t.mem a = rdByte s.mem a) ∧ t.parts = s.parts ∧ t.turf = s.turf
      (∀ v, x.flight = [u, v] → u.uid ≠ v.uid → x.fail ≠ none →
        ∃ t, exec (.stokeUnitDone g ch 0 host) s = .next t ∧ moves t ∧
          t.chan k = { x with flight := [v], moved := x.moved ++ [(u.at_, u.len)] }) ∧
      (x.flight = [u] → x.st = .running → x.fail = none → x.ending = none → x.next = x.total → x.again = [] → x.recs = [] →
        x.full = true → x.act.settle = false → x.fenceSh = none → x.armed = false →
        ∃ t, exec (.stokeUnitDone g ch 0 host) s = .next t ∧ moves t ∧ (t.chan k).st = .idle ∧ (t.chan k).flight = [] ∧
          (t.chan k).recs = [(x.act.irq, stkRecord k srDone x.flags 0 x.seq x.act.tag (x.movedBytes + u.len) x.skippedBytes)])) ∧
    (∀ u v write cause off, x.flight = [u, v] →
      (u.len ≤ off ∨ u.src.remote = true ∨ u.dst.remote = true → exec (.stokeUnitFail g ch 0 write cause off) s = .next s) ∧
      (u.uid ≠ v.uid → off < u.len → u.src.remote = false → u.dst.remote = false → x.ending = none → x.fail = none → x.orphans = [] →
        ∃ t, exec (.stokeUnitFail g ch 0 write cause off) s = .next t ∧ t.mem = s.mem ∧ t.hall = s.hall ∧
          (cause ≠ .memUe → t = { s with stoke := t.stoke }) ∧ (∀ j, j ≠ k → t.chan j = s.chan j) ∧
          t.chan k = { x with flight := [v], fail := some ⟨u, off, write && cause = .host, match cause with
            | .host => 1 | .poisoned => 2 | .memUe => 3 | .window => 4⟩ })) ∧
    (∀ err, x.st ≠ .settling ∨ x.recs ≠ [] → exec (.settleReadDone g ch err) s = .next s) ∧
    (∀ err, x.st = .settling → x.recs = [] → x.fenceSh = none → ∃ t, exec (.settleReadDone g ch err) s = .next t ∧
      (t.chan k).st = (if x.armed then .ended else .idle) ∧ (t.chan k).seq = x.seq ∧
      (x.full = false → (t.chan k).cqHead = (x.cqHead + 1) % 2 ^ 32 ∧ (t.chan k).recs = []) ∧
      (x.full = true → (t.chan k).cqHead = x.cqHead ∧ (t.chan k).recs = [(x.act.irq,
        stkRecord k srSettled { x with settleErr := err }.flags 0 x.seq x.act.tag x.movedBytes x.skippedBytes)]))

/-- Host functions (R393, R432 to R438): a doorbell value the queue accepts becomes its host index and is pending, any other
is counted; a device index likewise; raising a queue sets its event bit once; a W1C write clears before events of the same
cycle apply; a function-level or port reset returns the host-interface state to its reset values and keeps the plan. -/
def Obligations.HostFunctionsTakeDoorbellsAndResets : Prop :=
  ∀ (s : State) (p : PartId),
    let f := (s.part p).fn
    (∀ (q : Fin 256) (v : BitVec 32), (s.part p).live = true →
      let x := tabGet {} f.queues q
      let okSubmit : Prop := x.output = false ∧ (v - x.devIdx).toNat ≤ 2 ^ x.log2
      let okOutput : Prop := x.output = true ∧ (v - x.hostIdx).toNat ≤ (x.devIdx - x.hostIdx).toNat
      let becomes (y : Queue) : Prop := ∃ t, exec (.doorbell p q v) s = .next t ∧ OnlyPart p s t ∧
        tabGet {} (t.part p).fn.queues q = y ∧ (∀ k, k ≠ q.val → tabGet {} (t.part p).fn.queues k = tabGet {} f.queues k) ∧
        t.part p = { s.part p with fn := { f with queues := (t.part p).fn.queues } }
      (s.fnReady p = true → x.enable = true → okSubmit ∨ okOutput → becomes { x with hostIdx := v, pend := true }) ∧
      (s.fnReady p = false ∨ x.enable = false ∨ (¬ okSubmit ∧ ¬ okOutput) → becomes { x with dbBad := satInc 32 x.dbBad })) ∧
    (∀ (c : CoreId) (v : BitVec 32), CoreActs s c p →
      let q := (s.core c).hqSel
      let x := tabGet {} f.queues q
      let d := (v - x.devIdx).toNat
      let ok : Prop := x.enable = true ∧ ((x.output = false ∧ d ≤ (x.hostIdx - x.devIdx).toNat) ∨
        (x.output = true ∧ d + (x.devIdx - x.hostIdx).toNat ≤ 2 ^ x.log2))
      (ok → ∃ t, exec (.hqDevIdxWrite c v) s = .next t ∧ OnlyPart p s t ∧
        tabGet {} (t.part p).fn.queues q = { x with devIdx := v }) ∧
      (¬ ok → ∃ t, exec (.hqDevIdxWrite c v) s = .next t ∧ t = { s with cinder := t.cinder } ∧
        tabGet 0 t.cinder (cinderKey kCore c cFence) = satInc 16 (tabGet 0 s.cinder (cinderKey kCore c cFence)))) ∧
    (∀ (c : CoreId) (q : Fin 256), CoreActs s c p →
      (f.qEvent.getLsbD q = true → exec (.hqRaise c q) s = .next s) ∧
      (f.qEvent.getLsbD q = false → ∃ t, exec (.hqRaise c q) s = .next t ∧ PartsBut p s t ∧ (t.part p).fn.qEvent.getLsbD q = true ∧
        (∀ k, k ≠ q.val → (t.part p).fn.qEvent.getLsbD k = f.qEvent.getLsbD k) ∧
        t = { s with parts := t.parts, outbox := t.outbox } ∧
        (f.qEvEnable.getLsbD q = false ∨ f.msgEn = false → t.outbox = s.outbox) ∧
        (f.qEvEnable.getLsbD q = true → f.msgEn = true →
          let m := tabGet {} f.msix (tabGet {} f.queues q).vector
          m.masked = false → t.outbox = s.outbox ++ [.msix p (tabGet {} f.queues q).vector m.addr m.data]))) ∧
    (s.fnReady p = true →
      (∀ v : BitVec 32, ∃ t, exec (.eventClear p none v 0) s = .next t ∧ OnlyPart p s t ∧
        t.part p = { s.part p with fn := { f with evStatus := f.evStatus &&& ~~~ (v.setWidth 16) } }) ∧
      (∀ (w : Fin 8) (v : BitVec 32), ∃ t, exec (.eventClear p (some w) v 0) s = .next t ∧ OnlyPart p s t ∧
        t.part p = { s.part p with fn := { f with qEvent := f.qEvent &&& ~~~ (v.setWidth 256 <<< (32 * w.val)) } }) ∧
      (f.msgEn = false → ∀ v : BitVec 32, ∃ t, exec (.eventEnable p .evEnable v) s = .next t ∧ OnlyPart p s t ∧
        t.part p = { s.part p with fn := { f with evEnable := v.setWidth 16 &&& 0xFF1F#16 } }) ∧
      (f.evStatus = 0 → f.qEvent = 0 → ∀ v : BitVec 32, ∃ t, exec (.eventEnable p .fnCtrl v) s = .next t ∧ OnlyPart p s t ∧
        t.part p = { s.part p with fn := { f with msgEn := v.getLsbD 0 } })) ∧
    (∀ h : PortId, (s.part p).live = true → (s.part p).port = h.val → ∀ i ∈ [Instr.functionLevelReset h p, .perst h (some true), .perst h none],
      ∃ t, exec i s = .next t ∧ (t.part p).plan = (s.part p).plan ∧ (t.part p).fn.queues = [] ∧ (t.part p).fn.evStatus = 0 ∧
        (t.part p).fn.qEvent = 0 ∧ (t.part p).fn.msix = [] ∧ (t.part p).fn.hqGen = (f.hqGen + 1) % 65536 ∧
        (t.part p).fn.msgEn = f.msgEn ∧ p.val ∉ (t.portX h).bme ∧ t.tiles = s.tiles ∧ t.mem = s.mem) ∧
    (∀ h : PortId,
      (∃ t, exec (.perst h (some false)) s = .next t ∧ t = { s with ports := t.ports } ∧ (t.portX h).perst = false) ∧
      (∃ t, exec (.perst h (some true)) s = .next t ∧ (t.portX h).perst = true ∧ (t.portX h).up = false) ∧
      (∀ speed width cxl,
        ((s.portX h).perst = false → s.railsUp (h.val / 2) = true → ∃ t, exec (.hostLinkUp h speed width cxl) s = .next t ∧
          t = { s with ports := t.ports } ∧ t.portX h = { s.portX h with
            up := true, cxl := cxl, speed := match speed with | .gen4 => 4 | .gen5 => 5 | .gen6 => 6
            width := match width with | .x1 => 1 | .x2 => 2 | .x4 => 4 | .x8 => 8 | .x16 => 16 }) ∧
        ((s.portX h).perst = true ∨ s.railsUp (h.val / 2) = false → exec (.hostLinkUp h speed width cxl) s = .next s)) ∧
      ((s.portX h).up = true → ∃ t, exec (.hostLinkDown h) s = .next t ∧ (t.portX h).up = false ∧ (t.portX h).cxl = false ∧
        (t.portX h).bme = [] ∧ t.tiles = s.tiles ∧ t.mem = s.mem) ∧
      ((s.portX h).up = false → exec (.hostLinkDown h) s = .next s) ∧
      ∀ fn req, ((s.portX h).up = true →
          exec (.spdmRequest h fn req) s = .next { s with outbox := s.outbox ++ [.spdm h fn.val (s.spdmReply h fn req)] }) ∧
        ((s.portX h).up = false → exec (.spdmRequest h fn req) s = .next s)) ∧
    (s.fnPlan p = true → ∀ (v : BitVec 64) host,
      (∃ t, exec (.genericRegisterWrite { bus := .bar0 p, off := 0x4018, width := 8, value := v } host) s = .next t ∧ OnlyPart p s t ∧
        t.part p = { s.part p with plan := { (s.part p).plan with launchAt := v.toNat } }) ∧
      (∃ t, exec (.genericRegisterWrite { bus := .bar0 p, off := 0x4008, width := 8, value := v } host) s = .next t ∧ OnlyPart p s t ∧
        t.part p = { s.part p with plan := { (s.part p).plan with base := v.toNat / 4096 * 4096 } }) ∧
      exec (.genericRegisterWrite { bus := .bar0 p, off := 0x4019, width := 8, value := v } host) s = .next s ∧
      exec (.genericRegisterWrite { bus := .bar0 p, off := 0x4000, width := 4, value := 1 } host) s = exec (.planLoad p) s)

/-- Kindling (R443, R456, R461 to R466, R489, R490): POWER_UP starts the ROM phase; each phase goes on when its condition
holds and halts or reverts where a check fails; the time unit's state decides SYNC; PARTITIONS opens the module; MODULE_RESET
starts over and keeps the hall count, the flash and the queue of commands. -/
def Obligations.KindlingFollowsItsPhases : Prop :=
  ∀ (s : State),
    let k := s.kindle
    let ptr := s.flash.pointer
    let starts (i : Instr) (cause : Nat) : Prop := ∃ t, exec i s = .next t ∧ t.kindle.phase = 0 ∧ t.kindle.cause = cause ∧
      t.kindle.bank = ptr.active ∧ t.hall = s.hall ∧ t.flash = s.flash ∧ t.images = s.images ∧ t.pending = s.pending ∧
      (∀ p, (t.part p).live = false) ∧ (∀ g, (t.group g).st = .scrubbing) ∧ ∀ c, (t.cord c).st = .down
    (s.power.aux = false → starts .powerUp 0) ∧ (s.power.aux = true → exec .powerUp s = .next s) ∧
    (∀ w, s.power.aux = true → s.power.fault = false → starts (.moduleReset w) (if w then 2 else 1)) ∧
    (∀ w, s.power.aux = false ∨ s.power.fault = true → exec (.moduleReset w) s = .next s) ∧
    (s.inPhase 0 = true → ptr.trial = false →
      (s.imgOk 1 (s.slotOf ptr.active 1) = true →
        ∃ t, exec .kindleRomDone s = .next t ∧ t = { s with kindle := { k with bank := ptr.active, phase := 1, cdi := t.kindle.cdi } }) ∧
      (s.imgOk 1 (s.slotOf ptr.active 1) = false → s.imgOk 1 (s.slotOf (!ptr.active) 1) = true →
        ∃ t, exec .kindleRomDone s = .next t ∧ t.kindle = { k with
            bank := !ptr.active, romFallback := true, phase := 1, cdi := t.kindle.cdi } ∧
          t.flash.pointer = { ptr with active := !ptr.active }) ∧
      (s.imgOk 1 (s.slotOf ptr.active 1) = false → s.imgOk 1 (s.slotOf (!ptr.active) 1) = false →
        exec .kindleRomDone s = .next { s with kindle := { k with phase := 7, halt := 1 } })) ∧
    (s.inPhase 0 = true → ptr.trial = true → ptr.boots < 2 → s.imgOk 1 (s.slotOf ptr.active 1) = true → ∃ t, exec .kindleRomDone s = .next t ∧
      t.kindle.phase = 1 ∧ t.flash.pointer = { ptr with boots := ptr.boots + 1 }) ∧
    (s.inPhase 0 = true → ptr.trial = true → 2 ≤ ptr.boots → ∃ t, exec .kindleRomDone s = .next t ∧ t.kindle.phase = 0 ∧
      t.kindle.cause = 5 ∧ t.flash.pointer.active = ptr.prev ∧ t.flash.pointer.trial = false ∧ t.flash.pointer.reverted = true) ∧
    (∀ hdr body : List Byte,
      let x : ImgSlot := { hdr := hdr, body := wrBytes [] 0 body, got := [(0, body.length)] }
      let ok : Prop := s.inPhase 7 = true ∧ k.halt = 1 ∧ hdr.length = 256 ∧ s.imgOk 1 x = true
      (ok → ∃ t, exec (.romPldmUpdate hdr body) s = .next t ∧
        t = { s with kindle := { k with sram := some x, halt := 0, phase := 1, cdi := t.kindle.cdi } }) ∧
      (¬ ok → exec (.romPldmUpdate hdr body) s = .next s)) ∧
    (s.inPhase 1 = true →
      (s.v54 = false → ∀ late, exec (.kindleRails late) s = .next s) ∧
      (s.v54 = true → s.imgOk 5 (s.runImage 5) = true →
        exec (.kindleRails none) s = .next { s with power := { s.power with rails := 8 }, kindle := { k with phase := 2 } }) ∧
      (s.v54 = true → ∀ late : Fin 8, ∃ t, exec (.kindleRails (some late)) s = .next t ∧ t.kindle.phase = 7 ∧ t.kindle.halt = 2 ∧
        t.power.rails = 0 ∧ t.mem = s.mem)) ∧
    (s.inPhase 2 = true → ∀ (f : SelfFail) bank,
      (f.halt = true → exec (.kindleSelftest f bank) s = .next { s with kindle := { k with phase := 7, halt := 3 } }) ∧
      (f.halt = false → ∃ t, exec (.kindleSelftest f bank) s = .next t ∧ t.kindle.phase = 3 ∧ t.hall = s.hall ∧
        ∀ g, g < 16 → (t.group g).reason = whyWithheld f (sparesFor (f.tiles.map Fin.val)) g ∧
          ((t.group g).reason = 0 → (t.group g).st = .scrubbing) ∧ ((t.group g).reason ≠ 0 → (t.group g).st = .withheld))) ∧
    (s.inPhase 3 = true → ∀ bank,
      (([2, 3, 4].all fun t => s.imgOk t (s.runImage t)) = true → ∃ t, exec (.kindleLoad [] bank) s = .next t ∧ t.kindle.phase = 4 ∧
        t.time.role = s.timeRec.role ∧ t.time.parent = s.timeRec.parent ∧ t.kindle.syncFrom = s.hall ∧
        ∀ c, c < 32 → (s.cord c).reason ≠ drAdmin → (s.cord c).retEg = [] → (s.cord c).retIn = [] → (t.cord c).st = .training) ∧
      (([2, 3, 4].all fun t => s.imgOk t (s.runImage t)) = false → ptr.trial = false →
        exec (.kindleLoad [] bank) s = .next { s with kindle := { k with phase := 7, halt := 4 } })) ∧
    (s.inPhase 4 = true →
      (s.time.role = 1 → exec .kindleSync s = .next { s with
        time := { s.time with st := .root, depth := 0 }, kindle := { k with phase := 5 } }) ∧
      (s.time.role ≠ 1 → cordOf s.time.parent = none → exec .kindleSync s = .next { s with
        time := { s.time with st := .free }, kindle := { k with syncFree := true, phase := 5 } }) ∧
      (s.time.role ≠ 1 → cordOf s.time.parent ≠ none →
        (s.time.st = .locked → exec .kindleSync s = .next { s with kindle := { k with phase := 5 } }) ∧
        (s.time.st ≠ .locked → exec .kindleSync s = .next s)) ∧
      (s.time.role ≠ 1 → s.time.st ≠ .locked → k.syncFrom + 5000000000 ≤ s.hall → exec .kindleSyncTimeout s = .next { s with
        time := { s.time with st := .free }, kindle := { k with syncFree := true, phase := 5 } }) ∧
      (s.time.role = 1 ∨ s.time.st = .locked ∨ s.hall < k.syncFrom + 5000000000 → exec .kindleSyncTimeout s = .next s)) ∧
    (s.inPhase 5 = true →
      ((∃ g, g < 16 ∧ (s.group g).st = .scrubbing) → exec .kindlePartitions s = .next s) ∧
      ((∀ g, g < 16 → (s.group g).st ≠ .scrubbing) →
        (s.layout = [] → exec .kindlePartitions s = .next { s with kindle := { k with phase := 6 } }) ∧
        ∀ (p : Nat) (l : Layout), s.layout = [(p, l)] → l.valid = true → s.createBusy p l.groups l.port l.first l.count = false →
          ∃ t, exec .kindlePartitions s = .next t ∧ t.kindle.phase = 6 ∧ (t.part p).live = true ∧ (t.part p).port = l.port ∧
            ∀ g, g < 16 → l.groups.testBit g = true → t.owns p g = true))

/-- Supplies, rails, temperatures (R366, R485, R487, R491, R493, R495): the limiter's ramp begins once, and with it the charge
of an empty hold-up bank; an input fault stops every partition and holds the module in reset until recovery; a regulator
limit, a thermal trip and a lost clock stop the partitions of the die, the first two with its rails; a sensor read takes the
readings of known codes. What the model chose or inferred in it: log entry 44. -/
def Obligations.SupplyAndHeatFaultsStopTheDie : Prop :=
  ∀ (s : State),
    let trips (sensor : TripSensor) (code : Nat) (limit : Int) (d : Nat) : Prop :=
      (s.power.rails ≠ 8 ∨ s.sensor code < limit ∨ d ∈ s.power.dieOff → exec (.thermalTrip sensor) s = .next s) ∧
      (s.power.rails = 8 → limit ≤ s.sensor code → d ∉ s.power.dieOff →
          ∃ t, exec (.thermalTrip sensor) s = .next t ∧ t.railsUp d = false ∧ s.logSeq < t.logSeq ∧
            (∀ p ∈ s.dieParts d, (t.part p).plan.st = .faulted ∧ (t.part p).dom.fenced = true) ∧
            ∀ i, i < 32 → (t.core (32 * d + i)).run = .held)
    (s.power.fault = false → s.power.ramp = none → exec .inrushRamp s = .next { s with
      power := { s.power with ramp := some s.hall }
      holdup := { s.holdup with full := if s.holdup.full = none then some (s.hall + 800000000) else s.holdup.full } }) ∧
    (s.power.fault = true ∨ s.power.ramp ≠ none → exec .inrushRamp s = .next s) ∧
    (∀ c : Fin 5,
      (s.inputFaults c = false → c ≠ 3 ∨ s.power.aux = false → exec (.inputPower c) s = .next s) ∧
      (s.inputFaults c = false → c = 3 → s.power.aux = true → ∃ t, exec (.inputPower c) s = .next t ∧ t.power.aux = false ∧
        t.power.fault = s.power.fault ∧ t.power.ramp = s.power.ramp ∧ t.kindle.phase = 0 ∧ t.hall = s.hall ∧ t.pending = s.pending ∧
        t.flash = s.flash ∧ ∀ p, (t.part p).live = false) ∧
      (s.inputFaults c = true → ∃ t, exec (.inputPower c) s = .next t ∧ t.power.fault = true ∧ t.power.ramp = none ∧
        (t.power.aux = true ↔ c ≠ 3) ∧ t.kindle.phase = 0 ∧ t.hall = s.hall ∧ t.pending = s.pending ∧
        (∀ p, (t.part p).live = false) ∧ ∀ a, rdByte t.mem a = 0)) ∧
    (s.power.fault = true → ∃ t, exec .inputPowerRecovery s = .next t ∧ t.power.fault = false ∧ t.power.aux = true ∧
      t.kindle.phase = 0 ∧ t.hall = s.hall ∧ t.flash = s.flash) ∧
    (s.power.fault = false → exec .inputPowerRecovery s = .next s) ∧
    (∀ (d : DieId) rail,
      (s.railsUp d = false → exec (.regulatorLimit d rail) s = .next s) ∧
      (s.railsUp d = true → ∃ t, exec (.regulatorLimit d rail) s = .next t ∧ t.railsUp d = false ∧
        (∀ p ∈ s.dieParts d, (t.part p).plan.st = .faulted ∧ (t.part p).dom.fenced = true) ∧
        (∀ i, i < 32 → (t.core (32 * d.val + i)).run = .held) ∧ (t.portX (2 * d.val)).up = false ∧
        (t.portX (2 * d.val + 1)).up = false ∧ s.logSeq < t.logSeq ∧ t.hall = s.hall)) ∧
    (∀ d : DieId,
      (s.railsUp d = true → s.dieParts d ≠ [] → ∃ t, exec (.sharedClockLoss d) s = .next t ∧ s.logSeq < t.logSeq ∧
        t.power = s.power ∧ ∀ p ∈ s.dieParts d, (t.part p).plan.st = .faulted ∧ (t.part p).dom.fenced = true) ∧
      (s.railsUp d = false ∨ s.dieParts d = [] → exec (.sharedClockLoss d) s = .next s)) ∧
    (∀ d : DieId, trips (.junction d) (0x10 + d) 11000 d) ∧ (∀ g : GroupId, trips (.near g) (0x20 + g) 9500 (g / 8)) ∧
    (∀ k : Fin 8, trips (.turf k) (0x30 + k) 9500 (k / 4)) ∧
    (∀ k : Fin 4,
        (s.power.rails ≠ 8 ∨ s.sensor (0x38 + k) < 9000 ∨ k.val ∈ s.power.lasers → exec (.thermalTrip (.optic k)) s = .next s) ∧
        (s.power.rails = 8 → 9000 ≤ s.sensor (0x38 + k) → k.val ∉ s.power.lasers →
          ∃ t, exec (.thermalTrip (.optic k)) s = .next t ∧ t.power.lasers = s.power.lasers ++ [k.val] ∧ s.logSeq < t.logSeq ∧
            ∀ i, i < 8 → (t.cord (8 * k.val + i)).st = .down ∧ (t.cord (8 * k.val + i)).reason = drAdmin)) ∧
    ∀ readings : List (Byte × Int),
      (s.collierUp = true → ∃ t, exec (.sensorRead readings) s = .next t ∧ t = { s with sensors := t.sensors } ∧
        (∀ k, (∀ r ∈ readings, r.1.toNat ≠ k) ∨ sensorCode k = false → t.sensor k = s.sensor k) ∧
        ∀ r, readings.getLast? = some r → sensorCode r.1.toNat = true → t.sensor r.1.toNat = r.2) ∧
      (s.collierUp = false → exec (.sensorRead readings) s = .next s)

/-- What departs is what arrives (R281 to R284, R314): a segment is 800 bytes, its header is read back whole with its check
code, its payload's check code matches, its payload is where it was put, and its markers show the generation on every lane of
the width; and a packet's header is read back from the first 32 bytes. -/
def Obligations.SegmentsAndPacketsReadBack : Prop :=
  (∀ (h : SegHdr) (payload : List Byte) (w : Nat), payload.length ≤ 768 →
    let b := segment h payload w
    b.length = 800 ∧ hdrOfBits h.bits = h ∧ hdrOfBytes (b.take 16) = some h ∧
    leNat ((b.drop 784).take 8) = (crc64 (b.take 784)).toNat ∧ (b.drop 16).take payload.length = payload ∧
    (w = 7 ∨ w = 8 → markersAt w h.gen (b.drop 792) = true)) ∧
  ∀ (h : PktHdr) (payload : List Byte), pktOfBits h.bits = h ∧ pktHdr (h.bytes ++ payload) = h ∧
    (h.bytes ++ payload).drop 32 = payload

/-- No command puts another in the queue or takes one out but its own, and every step keeps memory in its canonical form:
addresses strictly rising and no byte 0 listed. What the model chose or inferred in it: log entry 1. -/
def Obligations.StepsKeepTheQueueAndTheMemoryForm : Prop :=
  ∀ s t : State, step s = .next t → t.pending = s.pending.tail ∧ (Memory.wf s.mem = true → Memory.wf t.mem = true)

/-- A read answers what the map holds (R4, R17, R18, R20, R21, R75, R190, R198, R429): FN_ID gives the partition, the port,
FUNC0, the stepping and the highest PCL; a host read that is not aligned or not of 32 or 64 bits returns all ones, and such a
load of a core ends in an access fault; reserved offsets and write-only registers read 0; the low half of HALL_TIME latches
the high half; PC reads whole while the function is READY; and a load of SQ_POP acts as its row. What the model chose or
inferred in it: log entry 48. -/
def Obligations.RegistersReadAsTheMapSays : Prop :=
  ∀ (s : State) (h : PortId) (p : PartId) (o w : Nat),
    s.readReg (.bar0 h p) 0 4 = (s, .value (p.val + h.val * 2 ^ 4 + 0xA1 * 2 ^ 8 + Config.maxPcl * 2 ^ 16)) ∧
    s.readReg (.func0 h) 0 4 = (s, .value (2 ^ 6 + h.val * 2 ^ 4 + 0xA1 * 2 ^ 8 + Config.maxPcl * 2 ^ 16)) ∧
    ((w ≠ 4 ∧ w ≠ 8) ∨ o % w ≠ 0 →
      (∀ v ∈ [RegView.bar0 h p, .bar2 h p, .bar4 h p, .func0 h], s.readReg v o w = (s, .value (256 ^ w - 1))) ∧
      ∀ c : CoreId, CoreActs s c p → (0x20000000 ≤ o ∧ o < 0x20007000) ∨ (0x30000000 ≤ o ∧ o < 0x30008000) →
        let r := s.readReg (.core c) o w
        r.2 = .fault ∧ (r.1.core c).fault = some ⟨false, o⟩ ∧ r.1 = { s with cores := r.1.cores }) ∧
    ((w = 4 ∨ w = 8) ∧ o % w = 0 →
      s.readReg (.bar2 h p) o w = (s, .value 0) ∧
      (0x8000 ≤ o → s.readReg (.bar0 h p) o w = (s, .value 0)) ∧
      (0x20 ≤ o → s.readReg (.func0 h) o w = (s, .value 0))) ∧
    (∀ wo ∈ [0x4000, 0x7010], s.readReg (.bar0 h p) wo 4 = (s, .value 0)) ∧
    (let r := s.readReg (.bar0 h p) 0x10 4
     r.2 = .value (s.hall % 2 ^ 32) ∧ r.1 = { s with latches := r.1.latches } ∧
     ∀ u : State, u.latches = r.1.latches → u.readReg (.bar0 h p) 0x14 4 = (u, .value (s.hall / 2 ^ 32 % 2 ^ 32))) ∧
    (s.boundTo h p = true → s.fnReady p = true → s.readReg (.bar0 h p) 0x4020 8 = (s, .value ((s.part p).plan.pc % 2 ^ 64))) ∧
    ∀ c : CoreId, CoreActs s c p →
      let r := s.readReg (.core c) 0x20005010 8
      exec (.sqPop c) s = .next r.1 ∧ r.2 = .value (((s.core c).sq.head?.map (·.1.toNat)).getD 0)
end

