-- ==== Sys2Proof/Laws/Tab.lean ====
section
/-! SUPPORT. Sparse tables: a read after a write, and the canonical form every write keeps. -/

namespace Sys2Proof.Machine

variable {α : Type}

theorem tabGet_erase (d : α) (t : Tab α) (k j : Nat) :
    tabGet d (tabErase t k) j = if j = k then d else tabGet d t j := by
  induction t with
  | nil => simp [tabErase, tabGet]
  | cons x r ih =>
    obtain ⟨i, v⟩ := x
    by_cases h : i = k
    · subst h; simp only [tabErase, if_true, ih, tabGet]
      by_cases hj : j = i
      · simp [hj]
      · simp [hj, Ne.symm hj]
    · simp only [tabErase, h, if_false, tabGet, ih]
      by_cases hj : j = k
      · subst hj; simp [h]
      · simp [hj]

theorem tabGet_insert (d : α) (t : Tab α) (k : Nat) (v : α) (j : Nat)
    (hk : ∀ e ∈ t, e.1 ≠ k) :
    tabGet d (tabInsert t k v) j = if j = k then v else tabGet d t j := by
  induction t with
  | nil => by_cases hj : k = j <;> simp [tabInsert, tabGet, hj, eq_comm]
  | cons x r ih =>
    obtain ⟨i, w⟩ := x
    have hi : i ≠ k := hk _ List.mem_cons_self
    have hr : ∀ e ∈ r, e.1 ≠ k := fun e he => hk e (List.mem_cons_of_mem _ he)
    by_cases hlt : k < i
    · simp only [tabInsert, hlt, if_true]
      by_cases hj : j = k
      · subst hj; simp [tabGet]
      · simp [tabGet, hj, Ne.symm hj]
    · simp only [tabInsert, hlt, if_false, tabGet, ih hr]
      by_cases hj : j = k
      · subst hj; simp [hi]
      · simp [hj]

theorem tabErase_ne (t : Tab α) (k : Nat) : ∀ e ∈ tabErase t k, e.1 ≠ k := by
  induction t with
  | nil => simp [tabErase]
  | cons x r ih =>
    by_cases h : x.1 = k
    · simpa [tabErase, h] using ih
    · simp only [tabErase, h, if_false, List.mem_cons]
      rintro e (rfl | he)
      · exact h
      · exact ih e he

variable [DecidableEq α]

/-- A read after a write: the value written at its key, what was there at every other. -/
theorem tabGet_tabSet (d : α) (t : Tab α) (k : Nat) (v : α) (j : Nat) :
    tabGet d (tabSet d t k v) j = if j = k then v else tabGet d t j := by
  unfold tabSet
  split
  · subst v; exact tabGet_erase d t k j
  · rw [tabGet_insert d _ k v j (tabErase_ne t k), tabGet_erase]
    by_cases hj : j = k <;> simp [hj]

@[simp] theorem tabGet_tabSet_self (d : α) (t : Tab α) (k : Nat) (v : α) :
    tabGet d (tabSet d t k v) k = v := by simp [tabGet_tabSet]

theorem tabGet_tabSet_ne (d : α) (t : Tab α) {k j : Nat} (v : α) (h : j ≠ k) :
    tabGet d (tabSet d t k v) j = tabGet d t j := by simp [tabGet_tabSet, h]

theorem tabGet_tabUpd (d : α) (t : Tab α) (k : Nat) (f : α → α) (j : Nat) :
    tabGet d (tabUpd d t k f) j = if j = k then f (tabGet d t k) else tabGet d t j :=
  tabGet_tabSet d t k _ j

@[simp] theorem tabGet_tabUpd_self (d : α) (t : Tab α) (k : Nat) (f : α → α) :
    tabGet d (tabUpd d t k f) k = f (tabGet d t k) := by simp [tabGet_tabUpd]

theorem tabGet_tabUpd_ne (d : α) (t : Tab α) {k j : Nat} (f : α → α) (h : j ≠ k) :
    tabGet d (tabUpd d t k f) j = tabGet d t j := by simp [tabGet_tabUpd, h]

/-! ### The canonical form -/

theorem tabWfFrom_mono (d : α) (t : Tab α) {a b : Nat} (h : a ≤ b) (ht : tabWfFrom d b t = true) :
    tabWfFrom d a t = true := by
  cases t with
  | nil => rfl
  | cons x r =>
    simp only [tabWfFrom, Bool.and_eq_true, decide_eq_true_eq] at ht ⊢
    exact ⟨⟨le_trans h ht.1.1, ht.1.2⟩, ht.2⟩

theorem tabWfFrom_erase (d : α) (t : Tab α) (k a : Nat) (ht : tabWfFrom d a t = true) :
    tabWfFrom d a (tabErase t k) = true := by
  induction t generalizing a with
  | nil => rfl
  | cons x r ih =>
    simp only [tabWfFrom, Bool.and_eq_true, decide_eq_true_eq] at ht
    by_cases h : x.1 = k
    · simp only [tabErase, h, if_true]
      exact ih a (tabWfFrom_mono d r (by omega) ht.2)
    · simp only [tabErase, h, if_false, tabWfFrom, Bool.and_eq_true, decide_eq_true_eq]
      exact ⟨ht.1, ih _ ht.2⟩

theorem tabWfFrom_insert (d : α) (t : Tab α) (k a : Nat) (v : α) (hv : v ≠ d) (hk : ∀ e ∈ t, e.1 ≠ k)
    (ha : a ≤ k) (ht : tabWfFrom d a t = true) : tabWfFrom d a (tabInsert t k v) = true := by
  induction t generalizing a with
  | nil => simp [tabInsert, tabWfFrom, ha, hv]
  | cons x r ih =>
    have hx : x.1 ≠ k := hk _ List.mem_cons_self
    have hr : ∀ e ∈ r, e.1 ≠ k := fun e he => hk e (List.mem_cons_of_mem _ he)
    simp only [tabWfFrom, Bool.and_eq_true, decide_eq_true_eq] at ht
    by_cases h : k < x.1
    · simp only [tabInsert, h, if_true, tabWfFrom, Bool.and_eq_true, decide_eq_true_eq]
      exact ⟨⟨ha, hv⟩, ⟨by omega, ht.1.2⟩, ht.2⟩
    · simp only [tabInsert, h, if_false, tabWfFrom, Bool.and_eq_true, decide_eq_true_eq]
      exact ⟨ht.1, ih _ hr (by omega) ht.2⟩

/-- A write keeps the canonical form. -/
theorem tabWf_tabSet (d : α) (t : Tab α) (k : Nat) (v : α) (ht : tabWf d t = true) :
    tabWf d (tabSet d t k v) = true := by
  unfold tabSet
  split
  · exact tabWfFrom_erase d t k 0 ht
  · rename_i hv
    exact tabWfFrom_insert d _ k 0 v hv (tabErase_ne t k) (Nat.zero_le _) (tabWfFrom_erase d t k 0 ht)

theorem tabWf_tabUpd (d : α) (t : Tab α) (k : Nat) (f : α → α) (ht : tabWf d t = true) :
    tabWf d (tabUpd d t k f) = true := tabWf_tabSet d t k _ ht

/-! ### Bytes -/

@[simp] theorem rdByte_wrByte (m : Cells) (a : Nat) (b : Byte) (x : Nat) :
    rdByte (wrByte m a b) x = if x = a then b else rdByte m x := tabGet_tabSet _ _ _ _ _

theorem wrByte_wf (m : Cells) (a : Nat) (b : Byte) (h : Memory.wf m = true) :
    Memory.wf (wrByte m a b) = true := tabWf_tabSet _ _ _ _ h

theorem wrBytes_wf (m : Cells) (a : Nat) (l : List Byte) (h : Memory.wf m = true) :
    Memory.wf (wrBytes m a l) = true := by
  induction l generalizing m a with
  | nil => exact h
  | cons b r ih => exact ih _ _ (wrByte_wf m a b h)

/-- A byte outside the bytes stored reads as before. -/
theorem rdByte_wrBytes_out (m : Cells) (a : Nat) (l : List Byte) (x : Nat)
    (h : x < a ∨ a + l.length ≤ x) : rdByte (wrBytes m a l) x = rdByte m x := by
  induction l generalizing m a with
  | nil => rfl
  | cons b r ih =>
    simp only [List.length_cons] at h
    rw [wrBytes, ih _ _ (by omega), rdByte_wrByte, if_neg (by omega)]

theorem rdByte_wrBytes_in (m : Cells) (a : Nat) (l : List Byte) (i : Nat) (h : i < l.length) :
    rdByte (wrBytes m a l) (a + i) = l[i] := by
  induction l generalizing m a i with
  | nil => simp at h
  | cons b r ih =>
    cases i with
    | zero => rw [wrBytes, Nat.add_zero, rdByte_wrBytes_out _ _ _ _ (by omega)]; simp
    | succ k =>
      have := ih (wrByte m a b) (a + 1) k (by simpa using h)
      rw [wrBytes, show a + (k + 1) = a + 1 + k by omega, this]; simp

@[simp] theorem leBytes_length (n v : Nat) : (leBytes n v).length = n := by
  induction n generalizing v with
  | zero => rfl
  | succ k ih => simp [leBytes, ih]

/-- The little-endian bytes of a number that fits read back as it. -/
theorem leNat_leBytes (n v : Nat) (h : v < 256 ^ n) : leNat (leBytes n v) = v := by
  induction n generalizing v with
  | zero => simp at h; simp [leBytes, leNat, h]
  | succ k ih =>
    have := ih (v / 256) (by rw [Nat.div_lt_iff_lt_mul (by decide)]; rw [pow_succ] at h; exact h)
    simp only [leBytes, leNat, this, BitVec.toNat_ofNat]
    omega

end Sys2Proof.Machine
end

