-- ==== Sys2Proof/Laws/State.lean ====
section
/-! SUPPORT. What each update of State changes: one lemma per field, and the read of each table after a write to it. -/

namespace Sys2Proof.Machine

namespace State

@[simp] theorem updPart_pending (s : State) (p : Nat) (f : Part → Part) : (s.updPart p f).pending = s.pending := rfl
@[simp] theorem updPart_hall (s : State) (p : Nat) (f : Part → Part) : (s.updPart p f).hall = s.hall := rfl
@[simp] theorem updPart_moduleId (s : State) (p : Nat) (f : Part → Part) : (s.updPart p f).moduleId = s.moduleId := rfl
@[simp] theorem updPart_groups (s : State) (p : Nat) (f : Part → Part) : (s.updPart p f).groups = s.groups := rfl
@[simp] theorem updPart_tiles (s : State) (p : Nat) (f : Part → Part) : (s.updPart p f).tiles = s.tiles := rfl
@[simp] theorem updPart_cores (s : State) (p : Nat) (f : Part → Part) : (s.updPart p f).cores = s.cores := rfl
@[simp] theorem updPart_cords (s : State) (p : Nat) (f : Part → Part) : (s.updPart p f).cords = s.cords := rfl
@[simp] theorem updPart_lanes (s : State) (p : Nat) (f : Part → Part) : (s.updPart p f).lanes = s.lanes := rfl
@[simp] theorem updPart_laneLeases (s : State) (p : Nat) (f : Part → Part) : (s.updPart p f).laneLeases = s.laneLeases := rfl
@[simp] theorem updPart_budgets (s : State) (p : Nat) (f : Part → Part) : (s.updPart p f).budgets = s.budgets := rfl
@[simp] theorem updPart_mem (s : State) (p : Nat) (f : Part → Part) : (s.updPart p f).mem = s.mem := rfl
@[simp] theorem updPart_turf (s : State) (p : Nat) (f : Part → Part) : (s.updPart p f).turf = s.turf := rfl
@[simp] theorem updPart_badWords (s : State) (p : Nat) (f : Part → Part) : (s.updPart p f).badWords = s.badWords := rfl
@[simp] theorem updPart_beats (s : State) (p : Nat) (f : Part → Part) : (s.updPart p f).beats = s.beats := rfl
@[simp] theorem updPart_egBeats (s : State) (p : Nat) (f : Part → Part) : (s.updPart p f).egBeats = s.egBeats := rfl
@[simp] theorem updPart_mail (s : State) (p : Nat) (f : Part → Part) : (s.updPart p f).mail = s.mail := rfl
@[simp] theorem updPart_outbox (s : State) (p : Nat) (f : Part → Part) : (s.updPart p f).outbox = s.outbox := rfl
@[simp] theorem updPart_cinder (s : State) (p : Nat) (f : Part → Part) : (s.updPart p f).cinder = s.cinder := rfl
@[simp] theorem updPart_log (s : State) (p : Nat) (f : Part → Part) : (s.updPart p f).log = s.log := rfl
@[simp] theorem updPart_logSeq (s : State) (p : Nat) (f : Part → Part) : (s.updPart p f).logSeq = s.logSeq := rfl
@[simp] theorem updPart_coalesce (s : State) (p : Nat) (f : Part → Part) : (s.updPart p f).coalesce = s.coalesce := rfl
@[simp] theorem updPart_reported (s : State) (p : Nat) (f : Part → Part) : (s.updPart p f).reported = s.reported := rfl
@[simp] theorem updPart_merge (s : State) (p : Nat) (f : Part → Part) : (s.updPart p f).merge = s.merge := rfl
@[simp] theorem updPart_rootTab (s : State) (p : Nat) (f : Part → Part) : (s.updPart p f).rootTab = s.rootTab := rfl
@[simp] theorem updPart_rootDrop (s : State) (p : Nat) (f : Part → Part) : (s.updPart p f).rootDrop = s.rootDrop := rfl
@[simp] theorem updPart_reportQ (s : State) (p : Nat) (f : Part → Part) : (s.updPart p f).reportQ = s.reportQ := rfl
@[simp] theorem updPart_ports (s : State) (p : Nat) (f : Part → Part) : (s.updPart p f).ports = s.ports := rfl
@[simp] theorem updPart_fn0 (s : State) (p : Nat) (f : Part → Part) : (s.updPart p f).fn0 = s.fn0 := rfl
@[simp] theorem updPart_stoke (s : State) (p : Nat) (f : Part → Part) : (s.updPart p f).stoke = s.stoke := rfl
@[simp] theorem updPart_images (s : State) (p : Nat) (f : Part → Part) : (s.updPart p f).images = s.images := rfl
@[simp] theorem updPart_flash (s : State) (p : Nat) (f : Part → Part) : (s.updPart p f).flash = s.flash := rfl
@[simp] theorem updPart_ident (s : State) (p : Nat) (f : Part → Part) : (s.updPart p f).ident = s.ident := rfl
@[simp] theorem updPart_layout (s : State) (p : Nat) (f : Part → Part) : (s.updPart p f).layout = s.layout := rfl
@[simp] theorem updPart_standing (s : State) (p : Nat) (f : Part → Part) : (s.updPart p f).standing = s.standing := rfl
@[simp] theorem updPart_stood (s : State) (p : Nat) (f : Part → Part) : (s.updPart p f).stood = s.stood := rfl
@[simp] theorem updPart_unsaved (s : State) (p : Nat) (f : Part → Part) : (s.updPart p f).unsaved = s.unsaved := rfl
@[simp] theorem updPart_kindle (s : State) (p : Nat) (f : Part → Part) : (s.updPart p f).kindle = s.kindle := rfl
@[simp] theorem updPart_update (s : State) (p : Nat) (f : Part → Part) : (s.updPart p f).update = s.update := rfl
@[simp] theorem updPart_holdup (s : State) (p : Nat) (f : Part → Part) : (s.updPart p f).holdup = s.holdup := rfl
@[simp] theorem updPart_power (s : State) (p : Nat) (f : Part → Part) : (s.updPart p f).power = s.power := rfl
@[simp] theorem updPart_sensors (s : State) (p : Nat) (f : Part → Part) : (s.updPart p f).sensors = s.sensors := rfl
@[simp] theorem updPart_test (s : State) (p : Nat) (f : Part → Part) : (s.updPart p f).test = s.test := rfl
@[simp] theorem updPart_tap (s : State) (p : Nat) (f : Part → Part) : (s.updPart p f).tap = s.tap := rfl
@[simp] theorem updPart_retortOff (s : State) (p : Nat) (f : Part → Part) : (s.updPart p f).retortOff = s.retortOff := rfl
@[simp] theorem updPart_fuses (s : State) (p : Nat) (f : Part → Part) : (s.updPart p f).fuses = s.fuses := rfl
@[simp] theorem updPart_spare (s : State) (p : Nat) (f : Part → Part) : (s.updPart p f).spare = s.spare := rfl
@[simp] theorem updPart_time (s : State) (p : Nat) (f : Part → Part) : (s.updPart p f).time = s.time := rfl
@[simp] theorem updPart_timeRec (s : State) (p : Nat) (f : Part → Part) : (s.updPart p f).timeRec = s.timeRec := rfl
@[simp] theorem updPart_joinHeld (s : State) (p : Nat) (f : Part → Part) : (s.updPart p f).joinHeld = s.joinHeld := rfl
@[simp] theorem updPart_subCount (s : State) (p : Nat) (f : Part → Part) : (s.updPart p f).subCount = s.subCount := rfl
@[simp] theorem updPart_turfKey (s : State) (p : Nat) (f : Part → Part) : (s.updPart p f).turfKey = s.turfKey := rfl
@[simp] theorem updPart_latches (s : State) (p : Nat) (f : Part → Part) : (s.updPart p f).latches = s.latches := rfl
@[simp] theorem updPart_serial (s : State) (p : Nat) (f : Part → Part) : (s.updPart p f).serial = s.serial := rfl
@[simp] theorem group_updPart (s : State) (p : Nat) (f : Part → Part) (k : Nat) : (s.updPart p f).group k = s.group k := rfl
@[simp] theorem tile_updPart (s : State) (p : Nat) (f : Part → Part) (k : Nat) : (s.updPart p f).tile k = s.tile k := rfl
@[simp] theorem core_updPart (s : State) (p : Nat) (f : Part → Part) (k : Nat) : (s.updPart p f).core k = s.core k := rfl
@[simp] theorem cord_updPart (s : State) (p : Nat) (f : Part → Part) (k : Nat) : (s.updPart p f).cord k = s.cord k := rfl

@[simp] theorem updGroup_pending (s : State) (p : Nat) (f : Group → Group) : (s.updGroup p f).pending = s.pending := rfl
@[simp] theorem updGroup_hall (s : State) (p : Nat) (f : Group → Group) : (s.updGroup p f).hall = s.hall := rfl
@[simp] theorem updGroup_moduleId (s : State) (p : Nat) (f : Group → Group) : (s.updGroup p f).moduleId = s.moduleId := rfl
@[simp] theorem updGroup_parts (s : State) (p : Nat) (f : Group → Group) : (s.updGroup p f).parts = s.parts := rfl
@[simp] theorem updGroup_tiles (s : State) (p : Nat) (f : Group → Group) : (s.updGroup p f).tiles = s.tiles := rfl
@[simp] theorem updGroup_cores (s : State) (p : Nat) (f : Group → Group) : (s.updGroup p f).cores = s.cores := rfl
@[simp] theorem updGroup_cords (s : State) (p : Nat) (f : Group → Group) : (s.updGroup p f).cords = s.cords := rfl
@[simp] theorem updGroup_lanes (s : State) (p : Nat) (f : Group → Group) : (s.updGroup p f).lanes = s.lanes := rfl
@[simp] theorem updGroup_laneLeases (s : State) (p : Nat) (f : Group → Group) : (s.updGroup p f).laneLeases = s.laneLeases := rfl
@[simp] theorem updGroup_budgets (s : State) (p : Nat) (f : Group → Group) : (s.updGroup p f).budgets = s.budgets := rfl
@[simp] theorem updGroup_mem (s : State) (p : Nat) (f : Group → Group) : (s.updGroup p f).mem = s.mem := rfl
@[simp] theorem updGroup_turf (s : State) (p : Nat) (f : Group → Group) : (s.updGroup p f).turf = s.turf := rfl
@[simp] theorem updGroup_badWords (s : State) (p : Nat) (f : Group → Group) : (s.updGroup p f).badWords = s.badWords := rfl
@[simp] theorem updGroup_beats (s : State) (p : Nat) (f : Group → Group) : (s.updGroup p f).beats = s.beats := rfl
@[simp] theorem updGroup_egBeats (s : State) (p : Nat) (f : Group → Group) : (s.updGroup p f).egBeats = s.egBeats := rfl
@[simp] theorem updGroup_mail (s : State) (p : Nat) (f : Group → Group) : (s.updGroup p f).mail = s.mail := rfl
@[simp] theorem updGroup_outbox (s : State) (p : Nat) (f : Group → Group) : (s.updGroup p f).outbox = s.outbox := rfl
@[simp] theorem updGroup_cinder (s : State) (p : Nat) (f : Group → Group) : (s.updGroup p f).cinder = s.cinder := rfl
@[simp] theorem updGroup_log (s : State) (p : Nat) (f : Group → Group) : (s.updGroup p f).log = s.log := rfl
@[simp] theorem updGroup_logSeq (s : State) (p : Nat) (f : Group → Group) : (s.updGroup p f).logSeq = s.logSeq := rfl
@[simp] theorem updGroup_coalesce (s : State) (p : Nat) (f : Group → Group) : (s.updGroup p f).coalesce = s.coalesce := rfl
@[simp] theorem updGroup_reported (s : State) (p : Nat) (f : Group → Group) : (s.updGroup p f).reported = s.reported := rfl
@[simp] theorem updGroup_merge (s : State) (p : Nat) (f : Group → Group) : (s.updGroup p f).merge = s.merge := rfl
@[simp] theorem updGroup_rootTab (s : State) (p : Nat) (f : Group → Group) : (s.updGroup p f).rootTab = s.rootTab := rfl
@[simp] theorem updGroup_rootDrop (s : State) (p : Nat) (f : Group → Group) : (s.updGroup p f).rootDrop = s.rootDrop := rfl
@[simp] theorem updGroup_reportQ (s : State) (p : Nat) (f : Group → Group) : (s.updGroup p f).reportQ = s.reportQ := rfl
@[simp] theorem updGroup_ports (s : State) (p : Nat) (f : Group → Group) : (s.updGroup p f).ports = s.ports := rfl
@[simp] theorem updGroup_fn0 (s : State) (p : Nat) (f : Group → Group) : (s.updGroup p f).fn0 = s.fn0 := rfl
@[simp] theorem updGroup_stoke (s : State) (p : Nat) (f : Group → Group) : (s.updGroup p f).stoke = s.stoke := rfl
@[simp] theorem updGroup_images (s : State) (p : Nat) (f : Group → Group) : (s.updGroup p f).images = s.images := rfl
@[simp] theorem updGroup_flash (s : State) (p : Nat) (f : Group → Group) : (s.updGroup p f).flash = s.flash := rfl
@[simp] theorem updGroup_ident (s : State) (p : Nat) (f : Group → Group) : (s.updGroup p f).ident = s.ident := rfl
@[simp] theorem updGroup_layout (s : State) (p : Nat) (f : Group → Group) : (s.updGroup p f).layout = s.layout := rfl
@[simp] theorem updGroup_standing (s : State) (p : Nat) (f : Group → Group) : (s.updGroup p f).standing = s.standing := rfl
@[simp] theorem updGroup_stood (s : State) (p : Nat) (f : Group → Group) : (s.updGroup p f).stood = s.stood := rfl
@[simp] theorem updGroup_unsaved (s : State) (p : Nat) (f : Group → Group) : (s.updGroup p f).unsaved = s.unsaved := rfl
@[simp] theorem updGroup_kindle (s : State) (p : Nat) (f : Group → Group) : (s.updGroup p f).kindle = s.kindle := rfl
@[simp] theorem updGroup_update (s : State) (p : Nat) (f : Group → Group) : (s.updGroup p f).update = s.update := rfl
@[simp] theorem updGroup_holdup (s : State) (p : Nat) (f : Group → Group) : (s.updGroup p f).holdup = s.holdup := rfl
@[simp] theorem updGroup_power (s : State) (p : Nat) (f : Group → Group) : (s.updGroup p f).power = s.power := rfl
@[simp] theorem updGroup_sensors (s : State) (p : Nat) (f : Group → Group) : (s.updGroup p f).sensors = s.sensors := rfl
@[simp] theorem updGroup_test (s : State) (p : Nat) (f : Group → Group) : (s.updGroup p f).test = s.test := rfl
@[simp] theorem updGroup_tap (s : State) (p : Nat) (f : Group → Group) : (s.updGroup p f).tap = s.tap := rfl
@[simp] theorem updGroup_retortOff (s : State) (p : Nat) (f : Group → Group) : (s.updGroup p f).retortOff = s.retortOff := rfl
@[simp] theorem updGroup_fuses (s : State) (p : Nat) (f : Group → Group) : (s.updGroup p f).fuses = s.fuses := rfl
@[simp] theorem updGroup_spare (s : State) (p : Nat) (f : Group → Group) : (s.updGroup p f).spare = s.spare := rfl
@[simp] theorem updGroup_time (s : State) (p : Nat) (f : Group → Group) : (s.updGroup p f).time = s.time := rfl
@[simp] theorem updGroup_timeRec (s : State) (p : Nat) (f : Group → Group) : (s.updGroup p f).timeRec = s.timeRec := rfl
@[simp] theorem updGroup_joinHeld (s : State) (p : Nat) (f : Group → Group) : (s.updGroup p f).joinHeld = s.joinHeld := rfl
@[simp] theorem updGroup_subCount (s : State) (p : Nat) (f : Group → Group) : (s.updGroup p f).subCount = s.subCount := rfl
@[simp] theorem updGroup_turfKey (s : State) (p : Nat) (f : Group → Group) : (s.updGroup p f).turfKey = s.turfKey := rfl
@[simp] theorem updGroup_latches (s : State) (p : Nat) (f : Group → Group) : (s.updGroup p f).latches = s.latches := rfl
@[simp] theorem updGroup_serial (s : State) (p : Nat) (f : Group → Group) : (s.updGroup p f).serial = s.serial := rfl
@[simp] theorem part_updGroup (s : State) (p : Nat) (f : Group → Group) (k : Nat) : (s.updGroup p f).part k = s.part k := rfl
@[simp] theorem tile_updGroup (s : State) (p : Nat) (f : Group → Group) (k : Nat) : (s.updGroup p f).tile k = s.tile k := rfl
@[simp] theorem core_updGroup (s : State) (p : Nat) (f : Group → Group) (k : Nat) : (s.updGroup p f).core k = s.core k := rfl
@[simp] theorem cord_updGroup (s : State) (p : Nat) (f : Group → Group) (k : Nat) : (s.updGroup p f).cord k = s.cord k := rfl

@[simp] theorem updTile_pending (s : State) (p : Nat) (f : Tile → Tile) : (s.updTile p f).pending = s.pending := rfl
@[simp] theorem updTile_hall (s : State) (p : Nat) (f : Tile → Tile) : (s.updTile p f).hall = s.hall := rfl
@[simp] theorem updTile_moduleId (s : State) (p : Nat) (f : Tile → Tile) : (s.updTile p f).moduleId = s.moduleId := rfl
@[simp] theorem updTile_parts (s : State) (p : Nat) (f : Tile → Tile) : (s.updTile p f).parts = s.parts := rfl
@[simp] theorem updTile_groups (s : State) (p : Nat) (f : Tile → Tile) : (s.updTile p f).groups = s.groups := rfl
@[simp] theorem updTile_cores (s : State) (p : Nat) (f : Tile → Tile) : (s.updTile p f).cores = s.cores := rfl
@[simp] theorem updTile_cords (s : State) (p : Nat) (f : Tile → Tile) : (s.updTile p f).cords = s.cords := rfl
@[simp] theorem updTile_lanes (s : State) (p : Nat) (f : Tile → Tile) : (s.updTile p f).lanes = s.lanes := rfl
@[simp] theorem updTile_laneLeases (s : State) (p : Nat) (f : Tile → Tile) : (s.updTile p f).laneLeases = s.laneLeases := rfl
@[simp] theorem updTile_budgets (s : State) (p : Nat) (f : Tile → Tile) : (s.updTile p f).budgets = s.budgets := rfl
@[simp] theorem updTile_mem (s : State) (p : Nat) (f : Tile → Tile) : (s.updTile p f).mem = s.mem := rfl
@[simp] theorem updTile_turf (s : State) (p : Nat) (f : Tile → Tile) : (s.updTile p f).turf = s.turf := rfl
@[simp] theorem updTile_badWords (s : State) (p : Nat) (f : Tile → Tile) : (s.updTile p f).badWords = s.badWords := rfl
@[simp] theorem updTile_beats (s : State) (p : Nat) (f : Tile → Tile) : (s.updTile p f).beats = s.beats := rfl
@[simp] theorem updTile_egBeats (s : State) (p : Nat) (f : Tile → Tile) : (s.updTile p f).egBeats = s.egBeats := rfl
@[simp] theorem updTile_mail (s : State) (p : Nat) (f : Tile → Tile) : (s.updTile p f).mail = s.mail := rfl
@[simp] theorem updTile_outbox (s : State) (p : Nat) (f : Tile → Tile) : (s.updTile p f).outbox = s.outbox := rfl
@[simp] theorem updTile_cinder (s : State) (p : Nat) (f : Tile → Tile) : (s.updTile p f).cinder = s.cinder := rfl
@[simp] theorem updTile_log (s : State) (p : Nat) (f : Tile → Tile) : (s.updTile p f).log = s.log := rfl
@[simp] theorem updTile_logSeq (s : State) (p : Nat) (f : Tile → Tile) : (s.updTile p f).logSeq = s.logSeq := rfl
@[simp] theorem updTile_coalesce (s : State) (p : Nat) (f : Tile → Tile) : (s.updTile p f).coalesce = s.coalesce := rfl
@[simp] theorem updTile_reported (s : State) (p : Nat) (f : Tile → Tile) : (s.updTile p f).reported = s.reported := rfl
@[simp] theorem updTile_merge (s : State) (p : Nat) (f : Tile → Tile) : (s.updTile p f).merge = s.merge := rfl
@[simp] theorem updTile_rootTab (s : State) (p : Nat) (f : Tile → Tile) : (s.updTile p f).rootTab = s.rootTab := rfl
@[simp] theorem updTile_rootDrop (s : State) (p : Nat) (f : Tile → Tile) : (s.updTile p f).rootDrop = s.rootDrop := rfl
@[simp] theorem updTile_reportQ (s : State) (p : Nat) (f : Tile → Tile) : (s.updTile p f).reportQ = s.reportQ := rfl
@[simp] theorem updTile_ports (s : State) (p : Nat) (f : Tile → Tile) : (s.updTile p f).ports = s.ports := rfl
@[simp] theorem updTile_fn0 (s : State) (p : Nat) (f : Tile → Tile) : (s.updTile p f).fn0 = s.fn0 := rfl
@[simp] theorem updTile_stoke (s : State) (p : Nat) (f : Tile → Tile) : (s.updTile p f).stoke = s.stoke := rfl
@[simp] theorem updTile_images (s : State) (p : Nat) (f : Tile → Tile) : (s.updTile p f).images = s.images := rfl
@[simp] theorem updTile_flash (s : State) (p : Nat) (f : Tile → Tile) : (s.updTile p f).flash = s.flash := rfl
@[simp] theorem updTile_ident (s : State) (p : Nat) (f : Tile → Tile) : (s.updTile p f).ident = s.ident := rfl
@[simp] theorem updTile_layout (s : State) (p : Nat) (f : Tile → Tile) : (s.updTile p f).layout = s.layout := rfl
@[simp] theorem updTile_standing (s : State) (p : Nat) (f : Tile → Tile) : (s.updTile p f).standing = s.standing := rfl
@[simp] theorem updTile_stood (s : State) (p : Nat) (f : Tile → Tile) : (s.updTile p f).stood = s.stood := rfl
@[simp] theorem updTile_unsaved (s : State) (p : Nat) (f : Tile → Tile) : (s.updTile p f).unsaved = s.unsaved := rfl
@[simp] theorem updTile_kindle (s : State) (p : Nat) (f : Tile → Tile) : (s.updTile p f).kindle = s.kindle := rfl
@[simp] theorem updTile_update (s : State) (p : Nat) (f : Tile → Tile) : (s.updTile p f).update = s.update := rfl
@[simp] theorem updTile_holdup (s : State) (p : Nat) (f : Tile → Tile) : (s.updTile p f).holdup = s.holdup := rfl
@[simp] theorem updTile_power (s : State) (p : Nat) (f : Tile → Tile) : (s.updTile p f).power = s.power := rfl
@[simp] theorem updTile_sensors (s : State) (p : Nat) (f : Tile → Tile) : (s.updTile p f).sensors = s.sensors := rfl
@[simp] theorem updTile_test (s : State) (p : Nat) (f : Tile → Tile) : (s.updTile p f).test = s.test := rfl
@[simp] theorem updTile_tap (s : State) (p : Nat) (f : Tile → Tile) : (s.updTile p f).tap = s.tap := rfl
@[simp] theorem updTile_retortOff (s : State) (p : Nat) (f : Tile → Tile) : (s.updTile p f).retortOff = s.retortOff := rfl
@[simp] theorem updTile_fuses (s : State) (p : Nat) (f : Tile → Tile) : (s.updTile p f).fuses = s.fuses := rfl
@[simp] theorem updTile_spare (s : State) (p : Nat) (f : Tile → Tile) : (s.updTile p f).spare = s.spare := rfl
@[simp] theorem updTile_time (s : State) (p : Nat) (f : Tile → Tile) : (s.updTile p f).time = s.time := rfl
@[simp] theorem updTile_timeRec (s : State) (p : Nat) (f : Tile → Tile) : (s.updTile p f).timeRec = s.timeRec := rfl
@[simp] theorem updTile_joinHeld (s : State) (p : Nat) (f : Tile → Tile) : (s.updTile p f).joinHeld = s.joinHeld := rfl
@[simp] theorem updTile_subCount (s : State) (p : Nat) (f : Tile → Tile) : (s.updTile p f).subCount = s.subCount := rfl
@[simp] theorem updTile_turfKey (s : State) (p : Nat) (f : Tile → Tile) : (s.updTile p f).turfKey = s.turfKey := rfl
@[simp] theorem updTile_latches (s : State) (p : Nat) (f : Tile → Tile) : (s.updTile p f).latches = s.latches := rfl
@[simp] theorem updTile_serial (s : State) (p : Nat) (f : Tile → Tile) : (s.updTile p f).serial = s.serial := rfl
@[simp] theorem part_updTile (s : State) (p : Nat) (f : Tile → Tile) (k : Nat) : (s.updTile p f).part k = s.part k := rfl
@[simp] theorem group_updTile (s : State) (p : Nat) (f : Tile → Tile) (k : Nat) : (s.updTile p f).group k = s.group k := rfl
@[simp] theorem core_updTile (s : State) (p : Nat) (f : Tile → Tile) (k : Nat) : (s.updTile p f).core k = s.core k := rfl
@[simp] theorem cord_updTile (s : State) (p : Nat) (f : Tile → Tile) (k : Nat) : (s.updTile p f).cord k = s.cord k := rfl

@[simp] theorem updCore_pending (s : State) (p : Nat) (f : Core → Core) : (s.updCore p f).pending = s.pending := rfl
@[simp] theorem updCore_hall (s : State) (p : Nat) (f : Core → Core) : (s.updCore p f).hall = s.hall := rfl
@[simp] theorem updCore_moduleId (s : State) (p : Nat) (f : Core → Core) : (s.updCore p f).moduleId = s.moduleId := rfl
@[simp] theorem updCore_parts (s : State) (p : Nat) (f : Core → Core) : (s.updCore p f).parts = s.parts := rfl
@[simp] theorem updCore_groups (s : State) (p : Nat) (f : Core → Core) : (s.updCore p f).groups = s.groups := rfl
@[simp] theorem updCore_tiles (s : State) (p : Nat) (f : Core → Core) : (s.updCore p f).tiles = s.tiles := rfl
@[simp] theorem updCore_cords (s : State) (p : Nat) (f : Core → Core) : (s.updCore p f).cords = s.cords := rfl
@[simp] theorem updCore_lanes (s : State) (p : Nat) (f : Core → Core) : (s.updCore p f).lanes = s.lanes := rfl
@[simp] theorem updCore_laneLeases (s : State) (p : Nat) (f : Core → Core) : (s.updCore p f).laneLeases = s.laneLeases := rfl
@[simp] theorem updCore_budgets (s : State) (p : Nat) (f : Core → Core) : (s.updCore p f).budgets = s.budgets := rfl
@[simp] theorem updCore_mem (s : State) (p : Nat) (f : Core → Core) : (s.updCore p f).mem = s.mem := rfl
@[simp] theorem updCore_turf (s : State) (p : Nat) (f : Core → Core) : (s.updCore p f).turf = s.turf := rfl
@[simp] theorem updCore_badWords (s : State) (p : Nat) (f : Core → Core) : (s.updCore p f).badWords = s.badWords := rfl
@[simp] theorem updCore_beats (s : State) (p : Nat) (f : Core → Core) : (s.updCore p f).beats = s.beats := rfl
@[simp] theorem updCore_egBeats (s : State) (p : Nat) (f : Core → Core) : (s.updCore p f).egBeats = s.egBeats := rfl
@[simp] theorem updCore_mail (s : State) (p : Nat) (f : Core → Core) : (s.updCore p f).mail = s.mail := rfl
@[simp] theorem updCore_outbox (s : State) (p : Nat) (f : Core → Core) : (s.updCore p f).outbox = s.outbox := rfl
@[simp] theorem updCore_cinder (s : State) (p : Nat) (f : Core → Core) : (s.updCore p f).cinder = s.cinder := rfl
@[simp] theorem updCore_log (s : State) (p : Nat) (f : Core → Core) : (s.updCore p f).log = s.log := rfl
@[simp] theorem updCore_logSeq (s : State) (p : Nat) (f : Core → Core) : (s.updCore p f).logSeq = s.logSeq := rfl
@[simp] theorem updCore_coalesce (s : State) (p : Nat) (f : Core → Core) : (s.updCore p f).coalesce = s.coalesce := rfl
@[simp] theorem updCore_reported (s : State) (p : Nat) (f : Core → Core) : (s.updCore p f).reported = s.reported := rfl
@[simp] theorem updCore_merge (s : State) (p : Nat) (f : Core → Core) : (s.updCore p f).merge = s.merge := rfl
@[simp] theorem updCore_rootTab (s : State) (p : Nat) (f : Core → Core) : (s.updCore p f).rootTab = s.rootTab := rfl
@[simp] theorem updCore_rootDrop (s : State) (p : Nat) (f : Core → Core) : (s.updCore p f).rootDrop = s.rootDrop := rfl
@[simp] theorem updCore_reportQ (s : State) (p : Nat) (f : Core → Core) : (s.updCore p f).reportQ = s.reportQ := rfl
@[simp] theorem updCore_ports (s : State) (p : Nat) (f : Core → Core) : (s.updCore p f).ports = s.ports := rfl
@[simp] theorem updCore_fn0 (s : State) (p : Nat) (f : Core → Core) : (s.updCore p f).fn0 = s.fn0 := rfl
@[simp] theorem updCore_stoke (s : State) (p : Nat) (f : Core → Core) : (s.updCore p f).stoke = s.stoke := rfl
@[simp] theorem updCore_images (s : State) (p : Nat) (f : Core → Core) : (s.updCore p f).images = s.images := rfl
@[simp] theorem updCore_flash (s : State) (p : Nat) (f : Core → Core) : (s.updCore p f).flash = s.flash := rfl
@[simp] theorem updCore_ident (s : State) (p : Nat) (f : Core → Core) : (s.updCore p f).ident = s.ident := rfl
@[simp] theorem updCore_layout (s : State) (p : Nat) (f : Core → Core) : (s.updCore p f).layout = s.layout := rfl
@[simp] theorem updCore_standing (s : State) (p : Nat) (f : Core → Core) : (s.updCore p f).standing = s.standing := rfl
@[simp] theorem updCore_stood (s : State) (p : Nat) (f : Core → Core) : (s.updCore p f).stood = s.stood := rfl
@[simp] theorem updCore_unsaved (s : State) (p : Nat) (f : Core → Core) : (s.updCore p f).unsaved = s.unsaved := rfl
@[simp] theorem updCore_kindle (s : State) (p : Nat) (f : Core → Core) : (s.updCore p f).kindle = s.kindle := rfl
@[simp] theorem updCore_update (s : State) (p : Nat) (f : Core → Core) : (s.updCore p f).update = s.update := rfl
@[simp] theorem updCore_holdup (s : State) (p : Nat) (f : Core → Core) : (s.updCore p f).holdup = s.holdup := rfl
@[simp] theorem updCore_power (s : State) (p : Nat) (f : Core → Core) : (s.updCore p f).power = s.power := rfl
@[simp] theorem updCore_sensors (s : State) (p : Nat) (f : Core → Core) : (s.updCore p f).sensors = s.sensors := rfl
@[simp] theorem updCore_test (s : State) (p : Nat) (f : Core → Core) : (s.updCore p f).test = s.test := rfl
@[simp] theorem updCore_tap (s : State) (p : Nat) (f : Core → Core) : (s.updCore p f).tap = s.tap := rfl
@[simp] theorem updCore_retortOff (s : State) (p : Nat) (f : Core → Core) : (s.updCore p f).retortOff = s.retortOff := rfl
@[simp] theorem updCore_fuses (s : State) (p : Nat) (f : Core → Core) : (s.updCore p f).fuses = s.fuses := rfl
@[simp] theorem updCore_spare (s : State) (p : Nat) (f : Core → Core) : (s.updCore p f).spare = s.spare := rfl
@[simp] theorem updCore_time (s : State) (p : Nat) (f : Core → Core) : (s.updCore p f).time = s.time := rfl
@[simp] theorem updCore_timeRec (s : State) (p : Nat) (f : Core → Core) : (s.updCore p f).timeRec = s.timeRec := rfl
@[simp] theorem updCore_joinHeld (s : State) (p : Nat) (f : Core → Core) : (s.updCore p f).joinHeld = s.joinHeld := rfl
@[simp] theorem updCore_subCount (s : State) (p : Nat) (f : Core → Core) : (s.updCore p f).subCount = s.subCount := rfl
@[simp] theorem updCore_turfKey (s : State) (p : Nat) (f : Core → Core) : (s.updCore p f).turfKey = s.turfKey := rfl
@[simp] theorem updCore_latches (s : State) (p : Nat) (f : Core → Core) : (s.updCore p f).latches = s.latches := rfl
@[simp] theorem updCore_serial (s : State) (p : Nat) (f : Core → Core) : (s.updCore p f).serial = s.serial := rfl
@[simp] theorem part_updCore (s : State) (p : Nat) (f : Core → Core) (k : Nat) : (s.updCore p f).part k = s.part k := rfl
@[simp] theorem group_updCore (s : State) (p : Nat) (f : Core → Core) (k : Nat) : (s.updCore p f).group k = s.group k := rfl
@[simp] theorem tile_updCore (s : State) (p : Nat) (f : Core → Core) (k : Nat) : (s.updCore p f).tile k = s.tile k := rfl
@[simp] theorem cord_updCore (s : State) (p : Nat) (f : Core → Core) (k : Nat) : (s.updCore p f).cord k = s.cord k := rfl

@[simp] theorem updCord_pending (s : State) (p : Nat) (f : Cord → Cord) : (s.updCord p f).pending = s.pending := rfl
@[simp] theorem updCord_hall (s : State) (p : Nat) (f : Cord → Cord) : (s.updCord p f).hall = s.hall := rfl
@[simp] theorem updCord_moduleId (s : State) (p : Nat) (f : Cord → Cord) : (s.updCord p f).moduleId = s.moduleId := rfl
@[simp] theorem updCord_parts (s : State) (p : Nat) (f : Cord → Cord) : (s.updCord p f).parts = s.parts := rfl
@[simp] theorem updCord_groups (s : State) (p : Nat) (f : Cord → Cord) : (s.updCord p f).groups = s.groups := rfl
@[simp] theorem updCord_tiles (s : State) (p : Nat) (f : Cord → Cord) : (s.updCord p f).tiles = s.tiles := rfl
@[simp] theorem updCord_cores (s : State) (p : Nat) (f : Cord → Cord) : (s.updCord p f).cores = s.cores := rfl
@[simp] theorem updCord_lanes (s : State) (p : Nat) (f : Cord → Cord) : (s.updCord p f).lanes = s.lanes := rfl
@[simp] theorem updCord_laneLeases (s : State) (p : Nat) (f : Cord → Cord) : (s.updCord p f).laneLeases = s.laneLeases := rfl
@[simp] theorem updCord_budgets (s : State) (p : Nat) (f : Cord → Cord) : (s.updCord p f).budgets = s.budgets := rfl
@[simp] theorem updCord_mem (s : State) (p : Nat) (f : Cord → Cord) : (s.updCord p f).mem = s.mem := rfl
@[simp] theorem updCord_turf (s : State) (p : Nat) (f : Cord → Cord) : (s.updCord p f).turf = s.turf := rfl
@[simp] theorem updCord_badWords (s : State) (p : Nat) (f : Cord → Cord) : (s.updCord p f).badWords = s.badWords := rfl
@[simp] theorem updCord_beats (s : State) (p : Nat) (f : Cord → Cord) : (s.updCord p f).beats = s.beats := rfl
@[simp] theorem updCord_egBeats (s : State) (p : Nat) (f : Cord → Cord) : (s.updCord p f).egBeats = s.egBeats := rfl
@[simp] theorem updCord_mail (s : State) (p : Nat) (f : Cord → Cord) : (s.updCord p f).mail = s.mail := rfl
@[simp] theorem updCord_outbox (s : State) (p : Nat) (f : Cord → Cord) : (s.updCord p f).outbox = s.outbox := rfl
@[simp] theorem updCord_cinder (s : State) (p : Nat) (f : Cord → Cord) : (s.updCord p f).cinder = s.cinder := rfl
@[simp] theorem updCord_log (s : State) (p : Nat) (f : Cord → Cord) : (s.updCord p f).log = s.log := rfl
@[simp] theorem updCord_logSeq (s : State) (p : Nat) (f : Cord → Cord) : (s.updCord p f).logSeq = s.logSeq := rfl
@[simp] theorem updCord_coalesce (s : State) (p : Nat) (f : Cord → Cord) : (s.updCord p f).coalesce = s.coalesce := rfl
@[simp] theorem updCord_reported (s : State) (p : Nat) (f : Cord → Cord) : (s.updCord p f).reported = s.reported := rfl
@[simp] theorem updCord_merge (s : State) (p : Nat) (f : Cord → Cord) : (s.updCord p f).merge = s.merge := rfl
@[simp] theorem updCord_rootTab (s : State) (p : Nat) (f : Cord → Cord) : (s.updCord p f).rootTab = s.rootTab := rfl
@[simp] theorem updCord_rootDrop (s : State) (p : Nat) (f : Cord → Cord) : (s.updCord p f).rootDrop = s.rootDrop := rfl
@[simp] theorem updCord_reportQ (s : State) (p : Nat) (f : Cord → Cord) : (s.updCord p f).reportQ = s.reportQ := rfl
@[simp] theorem updCord_ports (s : State) (p : Nat) (f : Cord → Cord) : (s.updCord p f).ports = s.ports := rfl
@[simp] theorem updCord_fn0 (s : State) (p : Nat) (f : Cord → Cord) : (s.updCord p f).fn0 = s.fn0 := rfl
@[simp] theorem updCord_stoke (s : State) (p : Nat) (f : Cord → Cord) : (s.updCord p f).stoke = s.stoke := rfl
@[simp] theorem updCord_images (s : State) (p : Nat) (f : Cord → Cord) : (s.updCord p f).images = s.images := rfl
@[simp] theorem updCord_flash (s : State) (p : Nat) (f : Cord → Cord) : (s.updCord p f).flash = s.flash := rfl
@[simp] theorem updCord_ident (s : State) (p : Nat) (f : Cord → Cord) : (s.updCord p f).ident = s.ident := rfl
@[simp] theorem updCord_layout (s : State) (p : Nat) (f : Cord → Cord) : (s.updCord p f).layout = s.layout := rfl
@[simp] theorem updCord_standing (s : State) (p : Nat) (f : Cord → Cord) : (s.updCord p f).standing = s.standing := rfl
@[simp] theorem updCord_stood (s : State) (p : Nat) (f : Cord → Cord) : (s.updCord p f).stood = s.stood := rfl
@[simp] theorem updCord_unsaved (s : State) (p : Nat) (f : Cord → Cord) : (s.updCord p f).unsaved = s.unsaved := rfl
@[simp] theorem updCord_kindle (s : State) (p : Nat) (f : Cord → Cord) : (s.updCord p f).kindle = s.kindle := rfl
@[simp] theorem updCord_update (s : State) (p : Nat) (f : Cord → Cord) : (s.updCord p f).update = s.update := rfl
@[simp] theorem updCord_holdup (s : State) (p : Nat) (f : Cord → Cord) : (s.updCord p f).holdup = s.holdup := rfl
@[simp] theorem updCord_power (s : State) (p : Nat) (f : Cord → Cord) : (s.updCord p f).power = s.power := rfl
@[simp] theorem updCord_sensors (s : State) (p : Nat) (f : Cord → Cord) : (s.updCord p f).sensors = s.sensors := rfl
@[simp] theorem updCord_test (s : State) (p : Nat) (f : Cord → Cord) : (s.updCord p f).test = s.test := rfl
@[simp] theorem updCord_tap (s : State) (p : Nat) (f : Cord → Cord) : (s.updCord p f).tap = s.tap := rfl
@[simp] theorem updCord_retortOff (s : State) (p : Nat) (f : Cord → Cord) : (s.updCord p f).retortOff = s.retortOff := rfl
@[simp] theorem updCord_fuses (s : State) (p : Nat) (f : Cord → Cord) : (s.updCord p f).fuses = s.fuses := rfl
@[simp] theorem updCord_spare (s : State) (p : Nat) (f : Cord → Cord) : (s.updCord p f).spare = s.spare := rfl
@[simp] theorem updCord_time (s : State) (p : Nat) (f : Cord → Cord) : (s.updCord p f).time = s.time := rfl
@[simp] theorem updCord_timeRec (s : State) (p : Nat) (f : Cord → Cord) : (s.updCord p f).timeRec = s.timeRec := rfl
@[simp] theorem updCord_joinHeld (s : State) (p : Nat) (f : Cord → Cord) : (s.updCord p f).joinHeld = s.joinHeld := rfl
@[simp] theorem updCord_subCount (s : State) (p : Nat) (f : Cord → Cord) : (s.updCord p f).subCount = s.subCount := rfl
@[simp] theorem updCord_turfKey (s : State) (p : Nat) (f : Cord → Cord) : (s.updCord p f).turfKey = s.turfKey := rfl
@[simp] theorem updCord_latches (s : State) (p : Nat) (f : Cord → Cord) : (s.updCord p f).latches = s.latches := rfl
@[simp] theorem updCord_serial (s : State) (p : Nat) (f : Cord → Cord) : (s.updCord p f).serial = s.serial := rfl
@[simp] theorem part_updCord (s : State) (p : Nat) (f : Cord → Cord) (k : Nat) : (s.updCord p f).part k = s.part k := rfl
@[simp] theorem group_updCord (s : State) (p : Nat) (f : Cord → Cord) (k : Nat) : (s.updCord p f).group k = s.group k := rfl
@[simp] theorem tile_updCord (s : State) (p : Nat) (f : Cord → Cord) (k : Nat) : (s.updCord p f).tile k = s.tile k := rfl
@[simp] theorem core_updCord (s : State) (p : Nat) (f : Cord → Cord) (k : Nat) : (s.updCord p f).core k = s.core k := rfl

@[simp] theorem updPlan_pending (s : State) (p : Nat) (f : Plan → Plan) : (s.updPlan p f).pending = s.pending := rfl
@[simp] theorem updPlan_hall (s : State) (p : Nat) (f : Plan → Plan) : (s.updPlan p f).hall = s.hall := rfl
@[simp] theorem updPlan_moduleId (s : State) (p : Nat) (f : Plan → Plan) : (s.updPlan p f).moduleId = s.moduleId := rfl
@[simp] theorem updPlan_groups (s : State) (p : Nat) (f : Plan → Plan) : (s.updPlan p f).groups = s.groups := rfl
@[simp] theorem updPlan_tiles (s : State) (p : Nat) (f : Plan → Plan) : (s.updPlan p f).tiles = s.tiles := rfl
@[simp] theorem updPlan_cores (s : State) (p : Nat) (f : Plan → Plan) : (s.updPlan p f).cores = s.cores := rfl
@[simp] theorem updPlan_cords (s : State) (p : Nat) (f : Plan → Plan) : (s.updPlan p f).cords = s.cords := rfl
@[simp] theorem updPlan_lanes (s : State) (p : Nat) (f : Plan → Plan) : (s.updPlan p f).lanes = s.lanes := rfl
@[simp] theorem updPlan_laneLeases (s : State) (p : Nat) (f : Plan → Plan) : (s.updPlan p f).laneLeases = s.laneLeases := rfl
@[simp] theorem updPlan_budgets (s : State) (p : Nat) (f : Plan → Plan) : (s.updPlan p f).budgets = s.budgets := rfl
@[simp] theorem updPlan_mem (s : State) (p : Nat) (f : Plan → Plan) : (s.updPlan p f).mem = s.mem := rfl
@[simp] theorem updPlan_turf (s : State) (p : Nat) (f : Plan → Plan) : (s.updPlan p f).turf = s.turf := rfl
@[simp] theorem updPlan_badWords (s : State) (p : Nat) (f : Plan → Plan) : (s.updPlan p f).badWords = s.badWords := rfl
@[simp] theorem updPlan_beats (s : State) (p : Nat) (f : Plan → Plan) : (s.updPlan p f).beats = s.beats := rfl
@[simp] theorem updPlan_egBeats (s : State) (p : Nat) (f : Plan → Plan) : (s.updPlan p f).egBeats = s.egBeats := rfl
@[simp] theorem updPlan_mail (s : State) (p : Nat) (f : Plan → Plan) : (s.updPlan p f).mail = s.mail := rfl
@[simp] theorem updPlan_outbox (s : State) (p : Nat) (f : Plan → Plan) : (s.updPlan p f).outbox = s.outbox := rfl
@[simp] theorem updPlan_cinder (s : State) (p : Nat) (f : Plan → Plan) : (s.updPlan p f).cinder = s.cinder := rfl
@[simp] theorem updPlan_log (s : State) (p : Nat) (f : Plan → Plan) : (s.updPlan p f).log = s.log := rfl
@[simp] theorem updPlan_logSeq (s : State) (p : Nat) (f : Plan → Plan) : (s.updPlan p f).logSeq = s.logSeq := rfl
@[simp] theorem updPlan_coalesce (s : State) (p : Nat) (f : Plan → Plan) : (s.updPlan p f).coalesce = s.coalesce := rfl
@[simp] theorem updPlan_reported (s : State) (p : Nat) (f : Plan → Plan) : (s.updPlan p f).reported = s.reported := rfl
@[simp] theorem updPlan_merge (s : State) (p : Nat) (f : Plan → Plan) : (s.updPlan p f).merge = s.merge := rfl
@[simp] theorem updPlan_rootTab (s : State) (p : Nat) (f : Plan → Plan) : (s.updPlan p f).rootTab = s.rootTab := rfl
@[simp] theorem updPlan_rootDrop (s : State) (p : Nat) (f : Plan → Plan) : (s.updPlan p f).rootDrop = s.rootDrop := rfl
@[simp] theorem updPlan_reportQ (s : State) (p : Nat) (f : Plan → Plan) : (s.updPlan p f).reportQ = s.reportQ := rfl
@[simp] theorem updPlan_ports (s : State) (p : Nat) (f : Plan → Plan) : (s.updPlan p f).ports = s.ports := rfl
@[simp] theorem updPlan_fn0 (s : State) (p : Nat) (f : Plan → Plan) : (s.updPlan p f).fn0 = s.fn0 := rfl
@[simp] theorem updPlan_stoke (s : State) (p : Nat) (f : Plan → Plan) : (s.updPlan p f).stoke = s.stoke := rfl
@[simp] theorem updPlan_images (s : State) (p : Nat) (f : Plan → Plan) : (s.updPlan p f).images = s.images := rfl
@[simp] theorem updPlan_flash (s : State) (p : Nat) (f : Plan → Plan) : (s.updPlan p f).flash = s.flash := rfl
@[simp] theorem updPlan_ident (s : State) (p : Nat) (f : Plan → Plan) : (s.updPlan p f).ident = s.ident := rfl
@[simp] theorem updPlan_layout (s : State) (p : Nat) (f : Plan → Plan) : (s.updPlan p f).layout = s.layout := rfl
@[simp] theorem updPlan_standing (s : State) (p : Nat) (f : Plan → Plan) : (s.updPlan p f).standing = s.standing := rfl
@[simp] theorem updPlan_stood (s : State) (p : Nat) (f : Plan → Plan) : (s.updPlan p f).stood = s.stood := rfl
@[simp] theorem updPlan_unsaved (s : State) (p : Nat) (f : Plan → Plan) : (s.updPlan p f).unsaved = s.unsaved := rfl
@[simp] theorem updPlan_kindle (s : State) (p : Nat) (f : Plan → Plan) : (s.updPlan p f).kindle = s.kindle := rfl
@[simp] theorem updPlan_update (s : State) (p : Nat) (f : Plan → Plan) : (s.updPlan p f).update = s.update := rfl
@[simp] theorem updPlan_holdup (s : State) (p : Nat) (f : Plan → Plan) : (s.updPlan p f).holdup = s.holdup := rfl
@[simp] theorem updPlan_power (s : State) (p : Nat) (f : Plan → Plan) : (s.updPlan p f).power = s.power := rfl
@[simp] theorem updPlan_sensors (s : State) (p : Nat) (f : Plan → Plan) : (s.updPlan p f).sensors = s.sensors := rfl
@[simp] theorem updPlan_test (s : State) (p : Nat) (f : Plan → Plan) : (s.updPlan p f).test = s.test := rfl
@[simp] theorem updPlan_tap (s : State) (p : Nat) (f : Plan → Plan) : (s.updPlan p f).tap = s.tap := rfl
@[simp] theorem updPlan_retortOff (s : State) (p : Nat) (f : Plan → Plan) : (s.updPlan p f).retortOff = s.retortOff := rfl
@[simp] theorem updPlan_fuses (s : State) (p : Nat) (f : Plan → Plan) : (s.updPlan p f).fuses = s.fuses := rfl
@[simp] theorem updPlan_spare (s : State) (p : Nat) (f : Plan → Plan) : (s.updPlan p f).spare = s.spare := rfl
@[simp] theorem updPlan_time (s : State) (p : Nat) (f : Plan → Plan) : (s.updPlan p f).time = s.time := rfl
@[simp] theorem updPlan_timeRec (s : State) (p : Nat) (f : Plan → Plan) : (s.updPlan p f).timeRec = s.timeRec := rfl
@[simp] theorem updPlan_joinHeld (s : State) (p : Nat) (f : Plan → Plan) : (s.updPlan p f).joinHeld = s.joinHeld := rfl
@[simp] theorem updPlan_subCount (s : State) (p : Nat) (f : Plan → Plan) : (s.updPlan p f).subCount = s.subCount := rfl
@[simp] theorem updPlan_turfKey (s : State) (p : Nat) (f : Plan → Plan) : (s.updPlan p f).turfKey = s.turfKey := rfl
@[simp] theorem updPlan_latches (s : State) (p : Nat) (f : Plan → Plan) : (s.updPlan p f).latches = s.latches := rfl
@[simp] theorem updPlan_serial (s : State) (p : Nat) (f : Plan → Plan) : (s.updPlan p f).serial = s.serial := rfl
@[simp] theorem group_updPlan (s : State) (p : Nat) (f : Plan → Plan) (k : Nat) : (s.updPlan p f).group k = s.group k := rfl
@[simp] theorem tile_updPlan (s : State) (p : Nat) (f : Plan → Plan) (k : Nat) : (s.updPlan p f).tile k = s.tile k := rfl
@[simp] theorem core_updPlan (s : State) (p : Nat) (f : Plan → Plan) (k : Nat) : (s.updPlan p f).core k = s.core k := rfl
@[simp] theorem cord_updPlan (s : State) (p : Nat) (f : Plan → Plan) (k : Nat) : (s.updPlan p f).cord k = s.cord k := rfl

@[simp] theorem updClock_pending (s : State) (p : Nat) (f : Clock → Clock) : (s.updClock p f).pending = s.pending := rfl
@[simp] theorem updClock_hall (s : State) (p : Nat) (f : Clock → Clock) : (s.updClock p f).hall = s.hall := rfl
@[simp] theorem updClock_moduleId (s : State) (p : Nat) (f : Clock → Clock) : (s.updClock p f).moduleId = s.moduleId := rfl
@[simp] theorem updClock_groups (s : State) (p : Nat) (f : Clock → Clock) : (s.updClock p f).groups = s.groups := rfl
@[simp] theorem updClock_tiles (s : State) (p : Nat) (f : Clock → Clock) : (s.updClock p f).tiles = s.tiles := rfl
@[simp] theorem updClock_cores (s : State) (p : Nat) (f : Clock → Clock) : (s.updClock p f).cores = s.cores := rfl
@[simp] theorem updClock_cords (s : State) (p : Nat) (f : Clock → Clock) : (s.updClock p f).cords = s.cords := rfl
@[simp] theorem updClock_lanes (s : State) (p : Nat) (f : Clock → Clock) : (s.updClock p f).lanes = s.lanes := rfl
@[simp] theorem updClock_laneLeases (s : State) (p : Nat) (f : Clock → Clock) : (s.updClock p f).laneLeases = s.laneLeases := rfl
@[simp] theorem updClock_budgets (s : State) (p : Nat) (f : Clock → Clock) : (s.updClock p f).budgets = s.budgets := rfl
@[simp] theorem updClock_mem (s : State) (p : Nat) (f : Clock → Clock) : (s.updClock p f).mem = s.mem := rfl
@[simp] theorem updClock_turf (s : State) (p : Nat) (f : Clock → Clock) : (s.updClock p f).turf = s.turf := rfl
@[simp] theorem updClock_badWords (s : State) (p : Nat) (f : Clock → Clock) : (s.updClock p f).badWords = s.badWords := rfl
@[simp] theorem updClock_beats (s : State) (p : Nat) (f : Clock → Clock) : (s.updClock p f).beats = s.beats := rfl
@[simp] theorem updClock_egBeats (s : State) (p : Nat) (f : Clock → Clock) : (s.updClock p f).egBeats = s.egBeats := rfl
@[simp] theorem updClock_mail (s : State) (p : Nat) (f : Clock → Clock) : (s.updClock p f).mail = s.mail := rfl
@[simp] theorem updClock_outbox (s : State) (p : Nat) (f : Clock → Clock) : (s.updClock p f).outbox = s.outbox := rfl
@[simp] theorem updClock_cinder (s : State) (p : Nat) (f : Clock → Clock) : (s.updClock p f).cinder = s.cinder := rfl
@[simp] theorem updClock_log (s : State) (p : Nat) (f : Clock → Clock) : (s.updClock p f).log = s.log := rfl
@[simp] theorem updClock_logSeq (s : State) (p : Nat) (f : Clock → Clock) : (s.updClock p f).logSeq = s.logSeq := rfl
@[simp] theorem updClock_coalesce (s : State) (p : Nat) (f : Clock → Clock) : (s.updClock p f).coalesce = s.coalesce := rfl
@[simp] theorem updClock_reported (s : State) (p : Nat) (f : Clock → Clock) : (s.updClock p f).reported = s.reported := rfl
@[simp] theorem updClock_merge (s : State) (p : Nat) (f : Clock → Clock) : (s.updClock p f).merge = s.merge := rfl
@[simp] theorem updClock_rootTab (s : State) (p : Nat) (f : Clock → Clock) : (s.updClock p f).rootTab = s.rootTab := rfl
@[simp] theorem updClock_rootDrop (s : State) (p : Nat) (f : Clock → Clock) : (s.updClock p f).rootDrop = s.rootDrop := rfl
@[simp] theorem updClock_reportQ (s : State) (p : Nat) (f : Clock → Clock) : (s.updClock p f).reportQ = s.reportQ := rfl
@[simp] theorem updClock_ports (s : State) (p : Nat) (f : Clock → Clock) : (s.updClock p f).ports = s.ports := rfl
@[simp] theorem updClock_fn0 (s : State) (p : Nat) (f : Clock → Clock) : (s.updClock p f).fn0 = s.fn0 := rfl
@[simp] theorem updClock_stoke (s : State) (p : Nat) (f : Clock → Clock) : (s.updClock p f).stoke = s.stoke := rfl
@[simp] theorem updClock_images (s : State) (p : Nat) (f : Clock → Clock) : (s.updClock p f).images = s.images := rfl
@[simp] theorem updClock_flash (s : State) (p : Nat) (f : Clock → Clock) : (s.updClock p f).flash = s.flash := rfl
@[simp] theorem updClock_ident (s : State) (p : Nat) (f : Clock → Clock) : (s.updClock p f).ident = s.ident := rfl
@[simp] theorem updClock_layout (s : State) (p : Nat) (f : Clock → Clock) : (s.updClock p f).layout = s.layout := rfl
@[simp] theorem updClock_standing (s : State) (p : Nat) (f : Clock → Clock) : (s.updClock p f).standing = s.standing := rfl
@[simp] theorem updClock_stood (s : State) (p : Nat) (f : Clock → Clock) : (s.updClock p f).stood = s.stood := rfl
@[simp] theorem updClock_unsaved (s : State) (p : Nat) (f : Clock → Clock) : (s.updClock p f).unsaved = s.unsaved := rfl
@[simp] theorem updClock_kindle (s : State) (p : Nat) (f : Clock → Clock) : (s.updClock p f).kindle = s.kindle := rfl
@[simp] theorem updClock_update (s : State) (p : Nat) (f : Clock → Clock) : (s.updClock p f).update = s.update := rfl
@[simp] theorem updClock_holdup (s : State) (p : Nat) (f : Clock → Clock) : (s.updClock p f).holdup = s.holdup := rfl
@[simp] theorem updClock_power (s : State) (p : Nat) (f : Clock → Clock) : (s.updClock p f).power = s.power := rfl
@[simp] theorem updClock_sensors (s : State) (p : Nat) (f : Clock → Clock) : (s.updClock p f).sensors = s.sensors := rfl
@[simp] theorem updClock_test (s : State) (p : Nat) (f : Clock → Clock) : (s.updClock p f).test = s.test := rfl
@[simp] theorem updClock_tap (s : State) (p : Nat) (f : Clock → Clock) : (s.updClock p f).tap = s.tap := rfl
@[simp] theorem updClock_retortOff (s : State) (p : Nat) (f : Clock → Clock) : (s.updClock p f).retortOff = s.retortOff := rfl
@[simp] theorem updClock_fuses (s : State) (p : Nat) (f : Clock → Clock) : (s.updClock p f).fuses = s.fuses := rfl
@[simp] theorem updClock_spare (s : State) (p : Nat) (f : Clock → Clock) : (s.updClock p f).spare = s.spare := rfl
@[simp] theorem updClock_time (s : State) (p : Nat) (f : Clock → Clock) : (s.updClock p f).time = s.time := rfl
@[simp] theorem updClock_timeRec (s : State) (p : Nat) (f : Clock → Clock) : (s.updClock p f).timeRec = s.timeRec := rfl
@[simp] theorem updClock_joinHeld (s : State) (p : Nat) (f : Clock → Clock) : (s.updClock p f).joinHeld = s.joinHeld := rfl
@[simp] theorem updClock_subCount (s : State) (p : Nat) (f : Clock → Clock) : (s.updClock p f).subCount = s.subCount := rfl
@[simp] theorem updClock_turfKey (s : State) (p : Nat) (f : Clock → Clock) : (s.updClock p f).turfKey = s.turfKey := rfl
@[simp] theorem updClock_latches (s : State) (p : Nat) (f : Clock → Clock) : (s.updClock p f).latches = s.latches := rfl
@[simp] theorem updClock_serial (s : State) (p : Nat) (f : Clock → Clock) : (s.updClock p f).serial = s.serial := rfl
@[simp] theorem group_updClock (s : State) (p : Nat) (f : Clock → Clock) (k : Nat) : (s.updClock p f).group k = s.group k := rfl
@[simp] theorem tile_updClock (s : State) (p : Nat) (f : Clock → Clock) (k : Nat) : (s.updClock p f).tile k = s.tile k := rfl
@[simp] theorem core_updClock (s : State) (p : Nat) (f : Clock → Clock) (k : Nat) : (s.updClock p f).core k = s.core k := rfl
@[simp] theorem cord_updClock (s : State) (p : Nat) (f : Clock → Clock) (k : Nat) : (s.updClock p f).cord k = s.cord k := rfl

@[simp] theorem updDom_pending (s : State) (p : Nat) (f : Dom → Dom) : (s.updDom p f).pending = s.pending := rfl
@[simp] theorem updDom_hall (s : State) (p : Nat) (f : Dom → Dom) : (s.updDom p f).hall = s.hall := rfl
@[simp] theorem updDom_moduleId (s : State) (p : Nat) (f : Dom → Dom) : (s.updDom p f).moduleId = s.moduleId := rfl
@[simp] theorem updDom_groups (s : State) (p : Nat) (f : Dom → Dom) : (s.updDom p f).groups = s.groups := rfl
@[simp] theorem updDom_tiles (s : State) (p : Nat) (f : Dom → Dom) : (s.updDom p f).tiles = s.tiles := rfl
@[simp] theorem updDom_cores (s : State) (p : Nat) (f : Dom → Dom) : (s.updDom p f).cores = s.cores := rfl
@[simp] theorem updDom_cords (s : State) (p : Nat) (f : Dom → Dom) : (s.updDom p f).cords = s.cords := rfl
@[simp] theorem updDom_lanes (s : State) (p : Nat) (f : Dom → Dom) : (s.updDom p f).lanes = s.lanes := rfl
@[simp] theorem updDom_laneLeases (s : State) (p : Nat) (f : Dom → Dom) : (s.updDom p f).laneLeases = s.laneLeases := rfl
@[simp] theorem updDom_budgets (s : State) (p : Nat) (f : Dom → Dom) : (s.updDom p f).budgets = s.budgets := rfl
@[simp] theorem updDom_mem (s : State) (p : Nat) (f : Dom → Dom) : (s.updDom p f).mem = s.mem := rfl
@[simp] theorem updDom_turf (s : State) (p : Nat) (f : Dom → Dom) : (s.updDom p f).turf = s.turf := rfl
@[simp] theorem updDom_badWords (s : State) (p : Nat) (f : Dom → Dom) : (s.updDom p f).badWords = s.badWords := rfl
@[simp] theorem updDom_beats (s : State) (p : Nat) (f : Dom → Dom) : (s.updDom p f).beats = s.beats := rfl
@[simp] theorem updDom_egBeats (s : State) (p : Nat) (f : Dom → Dom) : (s.updDom p f).egBeats = s.egBeats := rfl
@[simp] theorem updDom_mail (s : State) (p : Nat) (f : Dom → Dom) : (s.updDom p f).mail = s.mail := rfl
@[simp] theorem updDom_outbox (s : State) (p : Nat) (f : Dom → Dom) : (s.updDom p f).outbox = s.outbox := rfl
@[simp] theorem updDom_cinder (s : State) (p : Nat) (f : Dom → Dom) : (s.updDom p f).cinder = s.cinder := rfl
@[simp] theorem updDom_log (s : State) (p : Nat) (f : Dom → Dom) : (s.updDom p f).log = s.log := rfl
@[simp] theorem updDom_logSeq (s : State) (p : Nat) (f : Dom → Dom) : (s.updDom p f).logSeq = s.logSeq := rfl
@[simp] theorem updDom_coalesce (s : State) (p : Nat) (f : Dom → Dom) : (s.updDom p f).coalesce = s.coalesce := rfl
@[simp] theorem updDom_reported (s : State) (p : Nat) (f : Dom → Dom) : (s.updDom p f).reported = s.reported := rfl
@[simp] theorem updDom_merge (s : State) (p : Nat) (f : Dom → Dom) : (s.updDom p f).merge = s.merge := rfl
@[simp] theorem updDom_rootTab (s : State) (p : Nat) (f : Dom → Dom) : (s.updDom p f).rootTab = s.rootTab := rfl
@[simp] theorem updDom_rootDrop (s : State) (p : Nat) (f : Dom → Dom) : (s.updDom p f).rootDrop = s.rootDrop := rfl
@[simp] theorem updDom_reportQ (s : State) (p : Nat) (f : Dom → Dom) : (s.updDom p f).reportQ = s.reportQ := rfl
@[simp] theorem updDom_ports (s : State) (p : Nat) (f : Dom → Dom) : (s.updDom p f).ports = s.ports := rfl
@[simp] theorem updDom_fn0 (s : State) (p : Nat) (f : Dom → Dom) : (s.updDom p f).fn0 = s.fn0 := rfl
@[simp] theorem updDom_stoke (s : State) (p : Nat) (f : Dom → Dom) : (s.updDom p f).stoke = s.stoke := rfl
@[simp] theorem updDom_images (s : State) (p : Nat) (f : Dom → Dom) : (s.updDom p f).images = s.images := rfl
@[simp] theorem updDom_flash (s : State) (p : Nat) (f : Dom → Dom) : (s.updDom p f).flash = s.flash := rfl
@[simp] theorem updDom_ident (s : State) (p : Nat) (f : Dom → Dom) : (s.updDom p f).ident = s.ident := rfl
@[simp] theorem updDom_layout (s : State) (p : Nat) (f : Dom → Dom) : (s.updDom p f).layout = s.layout := rfl
@[simp] theorem updDom_standing (s : State) (p : Nat) (f : Dom → Dom) : (s.updDom p f).standing = s.standing := rfl
@[simp] theorem updDom_stood (s : State) (p : Nat) (f : Dom → Dom) : (s.updDom p f).stood = s.stood := rfl
@[simp] theorem updDom_unsaved (s : State) (p : Nat) (f : Dom → Dom) : (s.updDom p f).unsaved = s.unsaved := rfl
@[simp] theorem updDom_kindle (s : State) (p : Nat) (f : Dom → Dom) : (s.updDom p f).kindle = s.kindle := rfl
@[simp] theorem updDom_update (s : State) (p : Nat) (f : Dom → Dom) : (s.updDom p f).update = s.update := rfl
@[simp] theorem updDom_holdup (s : State) (p : Nat) (f : Dom → Dom) : (s.updDom p f).holdup = s.holdup := rfl
@[simp] theorem updDom_power (s : State) (p : Nat) (f : Dom → Dom) : (s.updDom p f).power = s.power := rfl
@[simp] theorem updDom_sensors (s : State) (p : Nat) (f : Dom → Dom) : (s.updDom p f).sensors = s.sensors := rfl
@[simp] theorem updDom_test (s : State) (p : Nat) (f : Dom → Dom) : (s.updDom p f).test = s.test := rfl
@[simp] theorem updDom_tap (s : State) (p : Nat) (f : Dom → Dom) : (s.updDom p f).tap = s.tap := rfl
@[simp] theorem updDom_retortOff (s : State) (p : Nat) (f : Dom → Dom) : (s.updDom p f).retortOff = s.retortOff := rfl
@[simp] theorem updDom_fuses (s : State) (p : Nat) (f : Dom → Dom) : (s.updDom p f).fuses = s.fuses := rfl
@[simp] theorem updDom_spare (s : State) (p : Nat) (f : Dom → Dom) : (s.updDom p f).spare = s.spare := rfl
@[simp] theorem updDom_time (s : State) (p : Nat) (f : Dom → Dom) : (s.updDom p f).time = s.time := rfl
@[simp] theorem updDom_timeRec (s : State) (p : Nat) (f : Dom → Dom) : (s.updDom p f).timeRec = s.timeRec := rfl
@[simp] theorem updDom_joinHeld (s : State) (p : Nat) (f : Dom → Dom) : (s.updDom p f).joinHeld = s.joinHeld := rfl
@[simp] theorem updDom_subCount (s : State) (p : Nat) (f : Dom → Dom) : (s.updDom p f).subCount = s.subCount := rfl
@[simp] theorem updDom_turfKey (s : State) (p : Nat) (f : Dom → Dom) : (s.updDom p f).turfKey = s.turfKey := rfl
@[simp] theorem updDom_latches (s : State) (p : Nat) (f : Dom → Dom) : (s.updDom p f).latches = s.latches := rfl
@[simp] theorem updDom_serial (s : State) (p : Nat) (f : Dom → Dom) : (s.updDom p f).serial = s.serial := rfl
@[simp] theorem group_updDom (s : State) (p : Nat) (f : Dom → Dom) (k : Nat) : (s.updDom p f).group k = s.group k := rfl
@[simp] theorem tile_updDom (s : State) (p : Nat) (f : Dom → Dom) (k : Nat) : (s.updDom p f).tile k = s.tile k := rfl
@[simp] theorem core_updDom (s : State) (p : Nat) (f : Dom → Dom) (k : Nat) : (s.updDom p f).core k = s.core k := rfl
@[simp] theorem cord_updDom (s : State) (p : Nat) (f : Dom → Dom) (k : Nat) : (s.updDom p f).cord k = s.cord k := rfl

@[simp] theorem updFn_pending (s : State) (p : Nat) (f : Fn → Fn) : (s.updFn p f).pending = s.pending := rfl
@[simp] theorem updFn_hall (s : State) (p : Nat) (f : Fn → Fn) : (s.updFn p f).hall = s.hall := rfl
@[simp] theorem updFn_moduleId (s : State) (p : Nat) (f : Fn → Fn) : (s.updFn p f).moduleId = s.moduleId := rfl
@[simp] theorem updFn_groups (s : State) (p : Nat) (f : Fn → Fn) : (s.updFn p f).groups = s.groups := rfl
@[simp] theorem updFn_tiles (s : State) (p : Nat) (f : Fn → Fn) : (s.updFn p f).tiles = s.tiles := rfl
@[simp] theorem updFn_cores (s : State) (p : Nat) (f : Fn → Fn) : (s.updFn p f).cores = s.cores := rfl
@[simp] theorem updFn_cords (s : State) (p : Nat) (f : Fn → Fn) : (s.updFn p f).cords = s.cords := rfl
@[simp] theorem updFn_lanes (s : State) (p : Nat) (f : Fn → Fn) : (s.updFn p f).lanes = s.lanes := rfl
@[simp] theorem updFn_laneLeases (s : State) (p : Nat) (f : Fn → Fn) : (s.updFn p f).laneLeases = s.laneLeases := rfl
@[simp] theorem updFn_budgets (s : State) (p : Nat) (f : Fn → Fn) : (s.updFn p f).budgets = s.budgets := rfl
@[simp] theorem updFn_mem (s : State) (p : Nat) (f : Fn → Fn) : (s.updFn p f).mem = s.mem := rfl
@[simp] theorem updFn_turf (s : State) (p : Nat) (f : Fn → Fn) : (s.updFn p f).turf = s.turf := rfl
@[simp] theorem updFn_badWords (s : State) (p : Nat) (f : Fn → Fn) : (s.updFn p f).badWords = s.badWords := rfl
@[simp] theorem updFn_beats (s : State) (p : Nat) (f : Fn → Fn) : (s.updFn p f).beats = s.beats := rfl
@[simp] theorem updFn_egBeats (s : State) (p : Nat) (f : Fn → Fn) : (s.updFn p f).egBeats = s.egBeats := rfl
@[simp] theorem updFn_mail (s : State) (p : Nat) (f : Fn → Fn) : (s.updFn p f).mail = s.mail := rfl
@[simp] theorem updFn_outbox (s : State) (p : Nat) (f : Fn → Fn) : (s.updFn p f).outbox = s.outbox := rfl
@[simp] theorem updFn_cinder (s : State) (p : Nat) (f : Fn → Fn) : (s.updFn p f).cinder = s.cinder := rfl
@[simp] theorem updFn_log (s : State) (p : Nat) (f : Fn → Fn) : (s.updFn p f).log = s.log := rfl
@[simp] theorem updFn_logSeq (s : State) (p : Nat) (f : Fn → Fn) : (s.updFn p f).logSeq = s.logSeq := rfl
@[simp] theorem updFn_coalesce (s : State) (p : Nat) (f : Fn → Fn) : (s.updFn p f).coalesce = s.coalesce := rfl
@[simp] theorem updFn_reported (s : State) (p : Nat) (f : Fn → Fn) : (s.updFn p f).reported = s.reported := rfl
@[simp] theorem updFn_merge (s : State) (p : Nat) (f : Fn → Fn) : (s.updFn p f).merge = s.merge := rfl
@[simp] theorem updFn_rootTab (s : State) (p : Nat) (f : Fn → Fn) : (s.updFn p f).rootTab = s.rootTab := rfl
@[simp] theorem updFn_rootDrop (s : State) (p : Nat) (f : Fn → Fn) : (s.updFn p f).rootDrop = s.rootDrop := rfl
@[simp] theorem updFn_reportQ (s : State) (p : Nat) (f : Fn → Fn) : (s.updFn p f).reportQ = s.reportQ := rfl
@[simp] theorem updFn_ports (s : State) (p : Nat) (f : Fn → Fn) : (s.updFn p f).ports = s.ports := rfl
@[simp] theorem updFn_fn0 (s : State) (p : Nat) (f : Fn → Fn) : (s.updFn p f).fn0 = s.fn0 := rfl
@[simp] theorem updFn_stoke (s : State) (p : Nat) (f : Fn → Fn) : (s.updFn p f).stoke = s.stoke := rfl
@[simp] theorem updFn_images (s : State) (p : Nat) (f : Fn → Fn) : (s.updFn p f).images = s.images := rfl
@[simp] theorem updFn_flash (s : State) (p : Nat) (f : Fn → Fn) : (s.updFn p f).flash = s.flash := rfl
@[simp] theorem updFn_ident (s : State) (p : Nat) (f : Fn → Fn) : (s.updFn p f).ident = s.ident := rfl
@[simp] theorem updFn_layout (s : State) (p : Nat) (f : Fn → Fn) : (s.updFn p f).layout = s.layout := rfl
@[simp] theorem updFn_standing (s : State) (p : Nat) (f : Fn → Fn) : (s.updFn p f).standing = s.standing := rfl
@[simp] theorem updFn_stood (s : State) (p : Nat) (f : Fn → Fn) : (s.updFn p f).stood = s.stood := rfl
@[simp] theorem updFn_unsaved (s : State) (p : Nat) (f : Fn → Fn) : (s.updFn p f).unsaved = s.unsaved := rfl
@[simp] theorem updFn_kindle (s : State) (p : Nat) (f : Fn → Fn) : (s.updFn p f).kindle = s.kindle := rfl
@[simp] theorem updFn_update (s : State) (p : Nat) (f : Fn → Fn) : (s.updFn p f).update = s.update := rfl
@[simp] theorem updFn_holdup (s : State) (p : Nat) (f : Fn → Fn) : (s.updFn p f).holdup = s.holdup := rfl
@[simp] theorem updFn_power (s : State) (p : Nat) (f : Fn → Fn) : (s.updFn p f).power = s.power := rfl
@[simp] theorem updFn_sensors (s : State) (p : Nat) (f : Fn → Fn) : (s.updFn p f).sensors = s.sensors := rfl
@[simp] theorem updFn_test (s : State) (p : Nat) (f : Fn → Fn) : (s.updFn p f).test = s.test := rfl
@[simp] theorem updFn_tap (s : State) (p : Nat) (f : Fn → Fn) : (s.updFn p f).tap = s.tap := rfl
@[simp] theorem updFn_retortOff (s : State) (p : Nat) (f : Fn → Fn) : (s.updFn p f).retortOff = s.retortOff := rfl
@[simp] theorem updFn_fuses (s : State) (p : Nat) (f : Fn → Fn) : (s.updFn p f).fuses = s.fuses := rfl
@[simp] theorem updFn_spare (s : State) (p : Nat) (f : Fn → Fn) : (s.updFn p f).spare = s.spare := rfl
@[simp] theorem updFn_time (s : State) (p : Nat) (f : Fn → Fn) : (s.updFn p f).time = s.time := rfl
@[simp] theorem updFn_timeRec (s : State) (p : Nat) (f : Fn → Fn) : (s.updFn p f).timeRec = s.timeRec := rfl
@[simp] theorem updFn_joinHeld (s : State) (p : Nat) (f : Fn → Fn) : (s.updFn p f).joinHeld = s.joinHeld := rfl
@[simp] theorem updFn_subCount (s : State) (p : Nat) (f : Fn → Fn) : (s.updFn p f).subCount = s.subCount := rfl
@[simp] theorem updFn_turfKey (s : State) (p : Nat) (f : Fn → Fn) : (s.updFn p f).turfKey = s.turfKey := rfl
@[simp] theorem updFn_latches (s : State) (p : Nat) (f : Fn → Fn) : (s.updFn p f).latches = s.latches := rfl
@[simp] theorem updFn_serial (s : State) (p : Nat) (f : Fn → Fn) : (s.updFn p f).serial = s.serial := rfl
@[simp] theorem group_updFn (s : State) (p : Nat) (f : Fn → Fn) (k : Nat) : (s.updFn p f).group k = s.group k := rfl
@[simp] theorem tile_updFn (s : State) (p : Nat) (f : Fn → Fn) (k : Nat) : (s.updFn p f).tile k = s.tile k := rfl
@[simp] theorem core_updFn (s : State) (p : Nat) (f : Fn → Fn) (k : Nat) : (s.updFn p f).core k = s.core k := rfl
@[simp] theorem cord_updFn (s : State) (p : Nat) (f : Fn → Fn) (k : Nat) : (s.updFn p f).cord k = s.cord k := rfl

@[simp] theorem send_pending (s : State) (o : Out) : (s.send o).pending = s.pending := rfl
@[simp] theorem send_hall (s : State) (o : Out) : (s.send o).hall = s.hall := rfl
@[simp] theorem send_moduleId (s : State) (o : Out) : (s.send o).moduleId = s.moduleId := rfl
@[simp] theorem send_parts (s : State) (o : Out) : (s.send o).parts = s.parts := rfl
@[simp] theorem send_groups (s : State) (o : Out) : (s.send o).groups = s.groups := rfl
@[simp] theorem send_tiles (s : State) (o : Out) : (s.send o).tiles = s.tiles := rfl
@[simp] theorem send_cores (s : State) (o : Out) : (s.send o).cores = s.cores := rfl
@[simp] theorem send_cords (s : State) (o : Out) : (s.send o).cords = s.cords := rfl
@[simp] theorem send_lanes (s : State) (o : Out) : (s.send o).lanes = s.lanes := rfl
@[simp] theorem send_laneLeases (s : State) (o : Out) : (s.send o).laneLeases = s.laneLeases := rfl
@[simp] theorem send_budgets (s : State) (o : Out) : (s.send o).budgets = s.budgets := rfl
@[simp] theorem send_mem (s : State) (o : Out) : (s.send o).mem = s.mem := rfl
@[simp] theorem send_turf (s : State) (o : Out) : (s.send o).turf = s.turf := rfl
@[simp] theorem send_badWords (s : State) (o : Out) : (s.send o).badWords = s.badWords := rfl
@[simp] theorem send_beats (s : State) (o : Out) : (s.send o).beats = s.beats := rfl
@[simp] theorem send_egBeats (s : State) (o : Out) : (s.send o).egBeats = s.egBeats := rfl
@[simp] theorem send_mail (s : State) (o : Out) : (s.send o).mail = s.mail := rfl
@[simp] theorem send_cinder (s : State) (o : Out) : (s.send o).cinder = s.cinder := rfl
@[simp] theorem send_log (s : State) (o : Out) : (s.send o).log = s.log := rfl
@[simp] theorem send_logSeq (s : State) (o : Out) : (s.send o).logSeq = s.logSeq := rfl
@[simp] theorem send_coalesce (s : State) (o : Out) : (s.send o).coalesce = s.coalesce := rfl
@[simp] theorem send_reported (s : State) (o : Out) : (s.send o).reported = s.reported := rfl
@[simp] theorem send_merge (s : State) (o : Out) : (s.send o).merge = s.merge := rfl
@[simp] theorem send_rootTab (s : State) (o : Out) : (s.send o).rootTab = s.rootTab := rfl
@[simp] theorem send_rootDrop (s : State) (o : Out) : (s.send o).rootDrop = s.rootDrop := rfl
@[simp] theorem send_reportQ (s : State) (o : Out) : (s.send o).reportQ = s.reportQ := rfl
@[simp] theorem send_ports (s : State) (o : Out) : (s.send o).ports = s.ports := rfl
@[simp] theorem send_fn0 (s : State) (o : Out) : (s.send o).fn0 = s.fn0 := rfl
@[simp] theorem send_stoke (s : State) (o : Out) : (s.send o).stoke = s.stoke := rfl
@[simp] theorem send_images (s : State) (o : Out) : (s.send o).images = s.images := rfl
@[simp] theorem send_flash (s : State) (o : Out) : (s.send o).flash = s.flash := rfl
@[simp] theorem send_ident (s : State) (o : Out) : (s.send o).ident = s.ident := rfl
@[simp] theorem send_layout (s : State) (o : Out) : (s.send o).layout = s.layout := rfl
@[simp] theorem send_standing (s : State) (o : Out) : (s.send o).standing = s.standing := rfl
@[simp] theorem send_stood (s : State) (o : Out) : (s.send o).stood = s.stood := rfl
@[simp] theorem send_unsaved (s : State) (o : Out) : (s.send o).unsaved = s.unsaved := rfl
@[simp] theorem send_kindle (s : State) (o : Out) : (s.send o).kindle = s.kindle := rfl
@[simp] theorem send_update (s : State) (o : Out) : (s.send o).update = s.update := rfl
@[simp] theorem send_holdup (s : State) (o : Out) : (s.send o).holdup = s.holdup := rfl
@[simp] theorem send_power (s : State) (o : Out) : (s.send o).power = s.power := rfl
@[simp] theorem send_sensors (s : State) (o : Out) : (s.send o).sensors = s.sensors := rfl
@[simp] theorem send_test (s : State) (o : Out) : (s.send o).test = s.test := rfl
@[simp] theorem send_tap (s : State) (o : Out) : (s.send o).tap = s.tap := rfl
@[simp] theorem send_retortOff (s : State) (o : Out) : (s.send o).retortOff = s.retortOff := rfl
@[simp] theorem send_fuses (s : State) (o : Out) : (s.send o).fuses = s.fuses := rfl
@[simp] theorem send_spare (s : State) (o : Out) : (s.send o).spare = s.spare := rfl
@[simp] theorem send_time (s : State) (o : Out) : (s.send o).time = s.time := rfl
@[simp] theorem send_timeRec (s : State) (o : Out) : (s.send o).timeRec = s.timeRec := rfl
@[simp] theorem send_joinHeld (s : State) (o : Out) : (s.send o).joinHeld = s.joinHeld := rfl
@[simp] theorem send_subCount (s : State) (o : Out) : (s.send o).subCount = s.subCount := rfl
@[simp] theorem send_turfKey (s : State) (o : Out) : (s.send o).turfKey = s.turfKey := rfl
@[simp] theorem send_latches (s : State) (o : Out) : (s.send o).latches = s.latches := rfl
@[simp] theorem send_serial (s : State) (o : Out) : (s.send o).serial = s.serial := rfl
@[simp] theorem part_send (s : State) (o : Out) (k : Nat) : (s.send o).part k = s.part k := rfl
@[simp] theorem group_send (s : State) (o : Out) (k : Nat) : (s.send o).group k = s.group k := rfl
@[simp] theorem tile_send (s : State) (o : Out) (k : Nat) : (s.send o).tile k = s.tile k := rfl
@[simp] theorem core_send (s : State) (o : Out) (k : Nat) : (s.send o).core k = s.core k := rfl
@[simp] theorem cord_send (s : State) (o : Out) (k : Nat) : (s.send o).cord k = s.cord k := rfl

@[simp] theorem sendCtl_pending (s : State) (c : Nat) (b : List Byte) : (s.sendCtl c b).pending = s.pending := rfl
@[simp] theorem sendCtl_hall (s : State) (c : Nat) (b : List Byte) : (s.sendCtl c b).hall = s.hall := rfl
@[simp] theorem sendCtl_moduleId (s : State) (c : Nat) (b : List Byte) : (s.sendCtl c b).moduleId = s.moduleId := rfl
@[simp] theorem sendCtl_parts (s : State) (c : Nat) (b : List Byte) : (s.sendCtl c b).parts = s.parts := rfl
@[simp] theorem sendCtl_groups (s : State) (c : Nat) (b : List Byte) : (s.sendCtl c b).groups = s.groups := rfl
@[simp] theorem sendCtl_tiles (s : State) (c : Nat) (b : List Byte) : (s.sendCtl c b).tiles = s.tiles := rfl
@[simp] theorem sendCtl_cores (s : State) (c : Nat) (b : List Byte) : (s.sendCtl c b).cores = s.cores := rfl
@[simp] theorem sendCtl_lanes (s : State) (c : Nat) (b : List Byte) : (s.sendCtl c b).lanes = s.lanes := rfl
@[simp] theorem sendCtl_laneLeases (s : State) (c : Nat) (b : List Byte) : (s.sendCtl c b).laneLeases = s.laneLeases := rfl
@[simp] theorem sendCtl_budgets (s : State) (c : Nat) (b : List Byte) : (s.sendCtl c b).budgets = s.budgets := rfl
@[simp] theorem sendCtl_mem (s : State) (c : Nat) (b : List Byte) : (s.sendCtl c b).mem = s.mem := rfl
@[simp] theorem sendCtl_turf (s : State) (c : Nat) (b : List Byte) : (s.sendCtl c b).turf = s.turf := rfl
@[simp] theorem sendCtl_badWords (s : State) (c : Nat) (b : List Byte) : (s.sendCtl c b).badWords = s.badWords := rfl
@[simp] theorem sendCtl_beats (s : State) (c : Nat) (b : List Byte) : (s.sendCtl c b).beats = s.beats := rfl
@[simp] theorem sendCtl_egBeats (s : State) (c : Nat) (b : List Byte) : (s.sendCtl c b).egBeats = s.egBeats := rfl
@[simp] theorem sendCtl_mail (s : State) (c : Nat) (b : List Byte) : (s.sendCtl c b).mail = s.mail := rfl
@[simp] theorem sendCtl_outbox (s : State) (c : Nat) (b : List Byte) : (s.sendCtl c b).outbox = s.outbox := rfl
@[simp] theorem sendCtl_cinder (s : State) (c : Nat) (b : List Byte) : (s.sendCtl c b).cinder = s.cinder := rfl
@[simp] theorem sendCtl_log (s : State) (c : Nat) (b : List Byte) : (s.sendCtl c b).log = s.log := rfl
@[simp] theorem sendCtl_logSeq (s : State) (c : Nat) (b : List Byte) : (s.sendCtl c b).logSeq = s.logSeq := rfl
@[simp] theorem sendCtl_coalesce (s : State) (c : Nat) (b : List Byte) : (s.sendCtl c b).coalesce = s.coalesce := rfl
@[simp] theorem sendCtl_reported (s : State) (c : Nat) (b : List Byte) : (s.sendCtl c b).reported = s.reported := rfl
@[simp] theorem sendCtl_merge (s : State) (c : Nat) (b : List Byte) : (s.sendCtl c b).merge = s.merge := rfl
@[simp] theorem sendCtl_rootTab (s : State) (c : Nat) (b : List Byte) : (s.sendCtl c b).rootTab = s.rootTab := rfl
@[simp] theorem sendCtl_rootDrop (s : State) (c : Nat) (b : List Byte) : (s.sendCtl c b).rootDrop = s.rootDrop := rfl
@[simp] theorem sendCtl_reportQ (s : State) (c : Nat) (b : List Byte) : (s.sendCtl c b).reportQ = s.reportQ := rfl
@[simp] theorem sendCtl_ports (s : State) (c : Nat) (b : List Byte) : (s.sendCtl c b).ports = s.ports := rfl
@[simp] theorem sendCtl_fn0 (s : State) (c : Nat) (b : List Byte) : (s.sendCtl c b).fn0 = s.fn0 := rfl
@[simp] theorem sendCtl_stoke (s : State) (c : Nat) (b : List Byte) : (s.sendCtl c b).stoke = s.stoke := rfl
@[simp] theorem sendCtl_images (s : State) (c : Nat) (b : List Byte) : (s.sendCtl c b).images = s.images := rfl
@[simp] theorem sendCtl_flash (s : State) (c : Nat) (b : List Byte) : (s.sendCtl c b).flash = s.flash := rfl
@[simp] theorem sendCtl_ident (s : State) (c : Nat) (b : List Byte) : (s.sendCtl c b).ident = s.ident := rfl
@[simp] theorem sendCtl_layout (s : State) (c : Nat) (b : List Byte) : (s.sendCtl c b).layout = s.layout := rfl
@[simp] theorem sendCtl_standing (s : State) (c : Nat) (b : List Byte) : (s.sendCtl c b).standing = s.standing := rfl
@[simp] theorem sendCtl_stood (s : State) (c : Nat) (b : List Byte) : (s.sendCtl c b).stood = s.stood := rfl
@[simp] theorem sendCtl_unsaved (s : State) (c : Nat) (b : List Byte) : (s.sendCtl c b).unsaved = s.unsaved := rfl
@[simp] theorem sendCtl_kindle (s : State) (c : Nat) (b : List Byte) : (s.sendCtl c b).kindle = s.kindle := rfl
@[simp] theorem sendCtl_update (s : State) (c : Nat) (b : List Byte) : (s.sendCtl c b).update = s.update := rfl
@[simp] theorem sendCtl_holdup (s : State) (c : Nat) (b : List Byte) : (s.sendCtl c b).holdup = s.holdup := rfl
@[simp] theorem sendCtl_power (s : State) (c : Nat) (b : List Byte) : (s.sendCtl c b).power = s.power := rfl
@[simp] theorem sendCtl_sensors (s : State) (c : Nat) (b : List Byte) : (s.sendCtl c b).sensors = s.sensors := rfl
@[simp] theorem sendCtl_test (s : State) (c : Nat) (b : List Byte) : (s.sendCtl c b).test = s.test := rfl
@[simp] theorem sendCtl_tap (s : State) (c : Nat) (b : List Byte) : (s.sendCtl c b).tap = s.tap := rfl
@[simp] theorem sendCtl_retortOff (s : State) (c : Nat) (b : List Byte) : (s.sendCtl c b).retortOff = s.retortOff := rfl
@[simp] theorem sendCtl_fuses (s : State) (c : Nat) (b : List Byte) : (s.sendCtl c b).fuses = s.fuses := rfl
@[simp] theorem sendCtl_spare (s : State) (c : Nat) (b : List Byte) : (s.sendCtl c b).spare = s.spare := rfl
@[simp] theorem sendCtl_time (s : State) (c : Nat) (b : List Byte) : (s.sendCtl c b).time = s.time := rfl
@[simp] theorem sendCtl_timeRec (s : State) (c : Nat) (b : List Byte) : (s.sendCtl c b).timeRec = s.timeRec := rfl
@[simp] theorem sendCtl_joinHeld (s : State) (c : Nat) (b : List Byte) : (s.sendCtl c b).joinHeld = s.joinHeld := rfl
@[simp] theorem sendCtl_subCount (s : State) (c : Nat) (b : List Byte) : (s.sendCtl c b).subCount = s.subCount := rfl
@[simp] theorem sendCtl_turfKey (s : State) (c : Nat) (b : List Byte) : (s.sendCtl c b).turfKey = s.turfKey := rfl
@[simp] theorem sendCtl_latches (s : State) (c : Nat) (b : List Byte) : (s.sendCtl c b).latches = s.latches := rfl
@[simp] theorem sendCtl_serial (s : State) (c : Nat) (b : List Byte) : (s.sendCtl c b).serial = s.serial := rfl
@[simp] theorem part_sendCtl (s : State) (c : Nat) (b : List Byte) (k : Nat) : (s.sendCtl c b).part k = s.part k := rfl
@[simp] theorem group_sendCtl (s : State) (c : Nat) (b : List Byte) (k : Nat) : (s.sendCtl c b).group k = s.group k := rfl
@[simp] theorem tile_sendCtl (s : State) (c : Nat) (b : List Byte) (k : Nat) : (s.sendCtl c b).tile k = s.tile k := rfl
@[simp] theorem core_sendCtl (s : State) (c : Nat) (b : List Byte) (k : Nat) : (s.sendCtl c b).core k = s.core k := rfl

@[simp] theorem cinderInc_pending (s : State) (a b c : Nat) : (s.cinderInc a b c).pending = s.pending := rfl
@[simp] theorem cinderInc_hall (s : State) (a b c : Nat) : (s.cinderInc a b c).hall = s.hall := rfl
@[simp] theorem cinderInc_moduleId (s : State) (a b c : Nat) : (s.cinderInc a b c).moduleId = s.moduleId := rfl
@[simp] theorem cinderInc_parts (s : State) (a b c : Nat) : (s.cinderInc a b c).parts = s.parts := rfl
@[simp] theorem cinderInc_groups (s : State) (a b c : Nat) : (s.cinderInc a b c).groups = s.groups := rfl
@[simp] theorem cinderInc_tiles (s : State) (a b c : Nat) : (s.cinderInc a b c).tiles = s.tiles := rfl
@[simp] theorem cinderInc_cores (s : State) (a b c : Nat) : (s.cinderInc a b c).cores = s.cores := rfl
@[simp] theorem cinderInc_cords (s : State) (a b c : Nat) : (s.cinderInc a b c).cords = s.cords := rfl
@[simp] theorem cinderInc_lanes (s : State) (a b c : Nat) : (s.cinderInc a b c).lanes = s.lanes := rfl
@[simp] theorem cinderInc_laneLeases (s : State) (a b c : Nat) : (s.cinderInc a b c).laneLeases = s.laneLeases := rfl
@[simp] theorem cinderInc_budgets (s : State) (a b c : Nat) : (s.cinderInc a b c).budgets = s.budgets := rfl
@[simp] theorem cinderInc_mem (s : State) (a b c : Nat) : (s.cinderInc a b c).mem = s.mem := rfl
@[simp] theorem cinderInc_turf (s : State) (a b c : Nat) : (s.cinderInc a b c).turf = s.turf := rfl
@[simp] theorem cinderInc_badWords (s : State) (a b c : Nat) : (s.cinderInc a b c).badWords = s.badWords := rfl
@[simp] theorem cinderInc_beats (s : State) (a b c : Nat) : (s.cinderInc a b c).beats = s.beats := rfl
@[simp] theorem cinderInc_egBeats (s : State) (a b c : Nat) : (s.cinderInc a b c).egBeats = s.egBeats := rfl
@[simp] theorem cinderInc_mail (s : State) (a b c : Nat) : (s.cinderInc a b c).mail = s.mail := rfl
@[simp] theorem cinderInc_outbox (s : State) (a b c : Nat) : (s.cinderInc a b c).outbox = s.outbox := rfl
@[simp] theorem cinderInc_log (s : State) (a b c : Nat) : (s.cinderInc a b c).log = s.log := rfl
@[simp] theorem cinderInc_logSeq (s : State) (a b c : Nat) : (s.cinderInc a b c).logSeq = s.logSeq := rfl
@[simp] theorem cinderInc_coalesce (s : State) (a b c : Nat) : (s.cinderInc a b c).coalesce = s.coalesce := rfl
@[simp] theorem cinderInc_reported (s : State) (a b c : Nat) : (s.cinderInc a b c).reported = s.reported := rfl
@[simp] theorem cinderInc_merge (s : State) (a b c : Nat) : (s.cinderInc a b c).merge = s.merge := rfl
@[simp] theorem cinderInc_rootTab (s : State) (a b c : Nat) : (s.cinderInc a b c).rootTab = s.rootTab := rfl
@[simp] theorem cinderInc_rootDrop (s : State) (a b c : Nat) : (s.cinderInc a b c).rootDrop = s.rootDrop := rfl
@[simp] theorem cinderInc_reportQ (s : State) (a b c : Nat) : (s.cinderInc a b c).reportQ = s.reportQ := rfl
@[simp] theorem cinderInc_ports (s : State) (a b c : Nat) : (s.cinderInc a b c).ports = s.ports := rfl
@[simp] theorem cinderInc_fn0 (s : State) (a b c : Nat) : (s.cinderInc a b c).fn0 = s.fn0 := rfl
@[simp] theorem cinderInc_stoke (s : State) (a b c : Nat) : (s.cinderInc a b c).stoke = s.stoke := rfl
@[simp] theorem cinderInc_images (s : State) (a b c : Nat) : (s.cinderInc a b c).images = s.images := rfl
@[simp] theorem cinderInc_flash (s : State) (a b c : Nat) : (s.cinderInc a b c).flash = s.flash := rfl
@[simp] theorem cinderInc_ident (s : State) (a b c : Nat) : (s.cinderInc a b c).ident = s.ident := rfl
@[simp] theorem cinderInc_layout (s : State) (a b c : Nat) : (s.cinderInc a b c).layout = s.layout := rfl
@[simp] theorem cinderInc_standing (s : State) (a b c : Nat) : (s.cinderInc a b c).standing = s.standing := rfl
@[simp] theorem cinderInc_stood (s : State) (a b c : Nat) : (s.cinderInc a b c).stood = s.stood := rfl
@[simp] theorem cinderInc_unsaved (s : State) (a b c : Nat) : (s.cinderInc a b c).unsaved = s.unsaved := rfl
@[simp] theorem cinderInc_kindle (s : State) (a b c : Nat) : (s.cinderInc a b c).kindle = s.kindle := rfl
@[simp] theorem cinderInc_update (s : State) (a b c : Nat) : (s.cinderInc a b c).update = s.update := rfl
@[simp] theorem cinderInc_holdup (s : State) (a b c : Nat) : (s.cinderInc a b c).holdup = s.holdup := rfl
@[simp] theorem cinderInc_power (s : State) (a b c : Nat) : (s.cinderInc a b c).power = s.power := rfl
@[simp] theorem cinderInc_sensors (s : State) (a b c : Nat) : (s.cinderInc a b c).sensors = s.sensors := rfl
@[simp] theorem cinderInc_test (s : State) (a b c : Nat) : (s.cinderInc a b c).test = s.test := rfl
@[simp] theorem cinderInc_tap (s : State) (a b c : Nat) : (s.cinderInc a b c).tap = s.tap := rfl
@[simp] theorem cinderInc_retortOff (s : State) (a b c : Nat) : (s.cinderInc a b c).retortOff = s.retortOff := rfl
@[simp] theorem cinderInc_fuses (s : State) (a b c : Nat) : (s.cinderInc a b c).fuses = s.fuses := rfl
@[simp] theorem cinderInc_spare (s : State) (a b c : Nat) : (s.cinderInc a b c).spare = s.spare := rfl
@[simp] theorem cinderInc_time (s : State) (a b c : Nat) : (s.cinderInc a b c).time = s.time := rfl
@[simp] theorem cinderInc_timeRec (s : State) (a b c : Nat) : (s.cinderInc a b c).timeRec = s.timeRec := rfl
@[simp] theorem cinderInc_joinHeld (s : State) (a b c : Nat) : (s.cinderInc a b c).joinHeld = s.joinHeld := rfl
@[simp] theorem cinderInc_subCount (s : State) (a b c : Nat) : (s.cinderInc a b c).subCount = s.subCount := rfl
@[simp] theorem cinderInc_turfKey (s : State) (a b c : Nat) : (s.cinderInc a b c).turfKey = s.turfKey := rfl
@[simp] theorem cinderInc_latches (s : State) (a b c : Nat) : (s.cinderInc a b c).latches = s.latches := rfl
@[simp] theorem cinderInc_serial (s : State) (a b c : Nat) : (s.cinderInc a b c).serial = s.serial := rfl
@[simp] theorem part_cinderInc (s : State) (a b c : Nat) (k : Nat) : (s.cinderInc a b c).part k = s.part k := rfl
@[simp] theorem group_cinderInc (s : State) (a b c : Nat) (k : Nat) : (s.cinderInc a b c).group k = s.group k := rfl
@[simp] theorem tile_cinderInc (s : State) (a b c : Nat) (k : Nat) : (s.cinderInc a b c).tile k = s.tile k := rfl
@[simp] theorem core_cinderInc (s : State) (a b c : Nat) (k : Nat) : (s.cinderInc a b c).core k = s.core k := rfl
@[simp] theorem cord_cinderInc (s : State) (a b c : Nat) (k : Nat) : (s.cinderInc a b c).cord k = s.cord k := rfl

theorem part_updPart (s : State) (p : Nat) (f : Part → Part) (q : Nat) :
    (s.updPart p f).part q = if q = p then f (s.part p) else s.part q := tabGet_tabUpd _ _ _ _ _
@[simp] theorem part_updPart_self (s : State) (p : Nat) (f : Part → Part) : (s.updPart p f).part p = f (s.part p) := by
  simp [part_updPart]
theorem part_updPart_ne (s : State) {p q : Nat} (f : Part → Part) (h : q ≠ p) : (s.updPart p f).part q = s.part q := by
  simp [part_updPart, h]

theorem group_updGroup (s : State) (p : Nat) (f : Group → Group) (q : Nat) :
    (s.updGroup p f).group q = if q = p then f (s.group p) else s.group q := tabGet_tabUpd _ _ _ _ _
@[simp] theorem group_updGroup_self (s : State) (p : Nat) (f : Group → Group) : (s.updGroup p f).group p = f (s.group p) := by
  simp [group_updGroup]
theorem group_updGroup_ne (s : State) {p q : Nat} (f : Group → Group) (h : q ≠ p) : (s.updGroup p f).group q = s.group q := by
  simp [group_updGroup, h]

theorem tile_updTile (s : State) (p : Nat) (f : Tile → Tile) (q : Nat) :
    (s.updTile p f).tile q = if q = p then f (s.tile p) else s.tile q := tabGet_tabUpd _ _ _ _ _
@[simp] theorem tile_updTile_self (s : State) (p : Nat) (f : Tile → Tile) : (s.updTile p f).tile p = f (s.tile p) := by
  simp [tile_updTile]
theorem tile_updTile_ne (s : State) {p q : Nat} (f : Tile → Tile) (h : q ≠ p) : (s.updTile p f).tile q = s.tile q := by
  simp [tile_updTile, h]

theorem core_updCore (s : State) (p : Nat) (f : Core → Core) (q : Nat) :
    (s.updCore p f).core q = if q = p then f (s.core p) else s.core q := tabGet_tabUpd _ _ _ _ _
@[simp] theorem core_updCore_self (s : State) (p : Nat) (f : Core → Core) : (s.updCore p f).core p = f (s.core p) := by
  simp [core_updCore]
theorem core_updCore_ne (s : State) {p q : Nat} (f : Core → Core) (h : q ≠ p) : (s.updCore p f).core q = s.core q := by
  simp [core_updCore, h]

theorem cord_updCord (s : State) (p : Nat) (f : Cord → Cord) (q : Nat) :
    (s.updCord p f).cord q = if q = p then f (s.cord p) else s.cord q := tabGet_tabUpd _ _ _ _ _
@[simp] theorem cord_updCord_self (s : State) (p : Nat) (f : Cord → Cord) : (s.updCord p f).cord p = f (s.cord p) := by
  simp [cord_updCord]
theorem cord_updCord_ne (s : State) {p q : Nat} (f : Cord → Cord) (h : q ≠ p) : (s.updCord p f).cord q = s.cord q := by
  simp [cord_updCord, h]

@[simp] theorem part_updPlan_self (s : State) (p : Nat) (f : Plan → Plan) :
    (s.updPlan p f).part p = { s.part p with plan := f (s.part p).plan } := part_updPart_self _ _ _
theorem part_updPlan_ne (s : State) {p q : Nat} (f : Plan → Plan) (h : q ≠ p) : (s.updPlan p f).part q = s.part q :=
  part_updPart_ne _ _ h

@[simp] theorem part_updClock_self (s : State) (p : Nat) (f : Clock → Clock) :
    (s.updClock p f).part p = { s.part p with clock := f (s.part p).clock } := part_updPart_self _ _ _
theorem part_updClock_ne (s : State) {p q : Nat} (f : Clock → Clock) (h : q ≠ p) : (s.updClock p f).part q = s.part q :=
  part_updPart_ne _ _ h

@[simp] theorem part_updDom_self (s : State) (p : Nat) (f : Dom → Dom) :
    (s.updDom p f).part p = { s.part p with dom := f (s.part p).dom } := part_updPart_self _ _ _
theorem part_updDom_ne (s : State) {p q : Nat} (f : Dom → Dom) (h : q ≠ p) : (s.updDom p f).part q = s.part q :=
  part_updPart_ne _ _ h

@[simp] theorem part_updFn_self (s : State) (p : Nat) (f : Fn → Fn) :
    (s.updFn p f).part p = { s.part p with fn := f (s.part p).fn } := part_updPart_self _ _ _
theorem part_updFn_ne (s : State) {p q : Nat} (f : Fn → Fn) (h : q ≠ p) : (s.updFn p f).part q = s.part q :=
  part_updPart_ne _ _ h

end State

theorem onlyPart_updPart (s : State) (p : Nat) (f : Part → Part) : OnlyPart p s (s.updPart p f) :=
  ⟨rfl, fun _ h => State.part_updPart_ne s f h⟩
theorem OnlyPart.trans {p : Nat} {s t u : State} (a : OnlyPart p s t) (b : OnlyPart p t u) : OnlyPart p s u := by
  refine ⟨?_, fun q h => (b.2 q h).trans (a.2 q h)⟩
  have h1 := a.1; have h2 := b.1
  rw [h1] at h2; exact h2
theorem OnlyPart.refl (p : Nat) (s : State) : OnlyPart p s s := ⟨rfl, fun _ _ => rfl⟩

theorem onlyGroup_updGroup (s : State) (p : Nat) (f : Group → Group) : OnlyGroup p s (s.updGroup p f) :=
  ⟨rfl, fun _ h => State.group_updGroup_ne s f h⟩
theorem OnlyGroup.trans {p : Nat} {s t u : State} (a : OnlyGroup p s t) (b : OnlyGroup p t u) : OnlyGroup p s u := by
  refine ⟨?_, fun q h => (b.2 q h).trans (a.2 q h)⟩
  have h1 := a.1; have h2 := b.1
  rw [h1] at h2; exact h2
theorem OnlyGroup.refl (p : Nat) (s : State) : OnlyGroup p s s := ⟨rfl, fun _ _ => rfl⟩

theorem onlyTile_updTile (s : State) (p : Nat) (f : Tile → Tile) : OnlyTile p s (s.updTile p f) :=
  ⟨rfl, fun _ h => State.tile_updTile_ne s f h⟩
theorem OnlyTile.trans {p : Nat} {s t u : State} (a : OnlyTile p s t) (b : OnlyTile p t u) : OnlyTile p s u := by
  refine ⟨?_, fun q h => (b.2 q h).trans (a.2 q h)⟩
  have h1 := a.1; have h2 := b.1
  rw [h1] at h2; exact h2
theorem OnlyTile.refl (p : Nat) (s : State) : OnlyTile p s s := ⟨rfl, fun _ _ => rfl⟩

theorem onlyCore_updCore (s : State) (p : Nat) (f : Core → Core) : OnlyCore p s (s.updCore p f) :=
  ⟨rfl, fun _ h => State.core_updCore_ne s f h⟩
theorem OnlyCore.trans {p : Nat} {s t u : State} (a : OnlyCore p s t) (b : OnlyCore p t u) : OnlyCore p s u := by
  refine ⟨?_, fun q h => (b.2 q h).trans (a.2 q h)⟩
  have h1 := a.1; have h2 := b.1
  rw [h1] at h2; exact h2
theorem OnlyCore.refl (p : Nat) (s : State) : OnlyCore p s s := ⟨rfl, fun _ _ => rfl⟩

theorem onlyCord_updCord (s : State) (p : Nat) (f : Cord → Cord) : OnlyCord p s (s.updCord p f) :=
  ⟨rfl, fun _ h => State.cord_updCord_ne s f h⟩
theorem OnlyCord.trans {p : Nat} {s t u : State} (a : OnlyCord p s t) (b : OnlyCord p t u) : OnlyCord p s u := by
  refine ⟨?_, fun q h => (b.2 q h).trans (a.2 q h)⟩
  have h1 := a.1; have h2 := b.1
  rw [h1] at h2; exact h2
theorem OnlyCord.refl (p : Nat) (s : State) : OnlyCord p s s := ⟨rfl, fun _ _ => rfl⟩

theorem onlyPart_updPlan (s : State) (p : Nat) (f : Plan → Plan) : OnlyPart p s (s.updPlan p f) := onlyPart_updPart _ _ _
theorem onlyPart_updClock (s : State) (p : Nat) (f : Clock → Clock) : OnlyPart p s (s.updClock p f) := onlyPart_updPart _ _ _
theorem onlyPart_updDom (s : State) (p : Nat) (f : Dom → Dom) : OnlyPart p s (s.updDom p f) := onlyPart_updPart _ _ _
theorem onlyPart_updFn (s : State) (p : Nat) (f : Fn → Fn) : OnlyPart p s (s.updFn p f) := onlyPart_updPart _ _ _

end Sys2Proof.Machine
end

