-- ==== Sys2Proof/Laws/Issue.lean ====
section
/-! SUPPORT. What issuing an operation does: under `CanIssue` it is settled, and one that passes its checks and waits for nothing
leaves what its meaning did, its slot used in the tick. -/

namespace Sys2Proof.Machine

/-- With no loop to enter, entering the loops that are due does nothing. -/
theorem State.enterDue_none (s : State) (p n k : Nat)
    (h : (s.tile n).dueLoop (s.part p).plan.pc (s.part p).plan.workEnd = none) : s.enterDue p n k = s := by
  cases k with
  | zero => rfl
  | succ k => simp [State.enterDue, h]

/-- An operation that can issue is settled by what its meaning answers. -/
theorem State.issue_settles (s : State) (i : Issue) (p slot : Nat) (c : Instr) (f : State → Nat → Nat → OpRes)
    (h : CanIssue s i p slot) : s.issue slot i c f = s.settleOp p slot i c (f s p (s.part p).plan.pc) := by
  obtain ⟨hp, hr, hw, hm, hd⟩ := h
  unfold State.issue
  simp [hp, State.enterDue_none s p _ 7 hd, hm, hr, hw]

/-- An answer without failures and waits leaves what the meaning did, with the slot used. -/
theorem State.settleOp_passes (s : State) (p slot : Nat) (i : Issue) (c : Instr) (r : OpRes) (h : ReadPasses r) :
    s.settleOp p slot i c r = r.st.slotUsed i slot := by
  obtain ⟨hf, hw⟩ := h
  simp [State.settleOp, hf, hw, State.slotUsed, Tile.used]

/-- An operation that can issue, and whose answer passes. -/
theorem State.issue_passes (s : State) (i : Issue) (p slot : Nat) (c : Instr) (f : State → Nat → Nat → OpRes)
    (h : CanIssue s i p slot) (hr : ReadPasses (f s p (s.part p).plan.pc)) :
    s.issue slot i c f = (f s p (s.part p).plan.pc).st.slotUsed i slot := by
  rw [s.issue_settles i p slot c f h, s.settleOp_passes p slot i c _ hr]

@[simp] theorem State.slotUsed_tile (s : State) (i : Issue) (slot : Nat) :
    (s.slotUsed i slot).tile i.tile = (s.tile i.tile).used slot := by
  simp [State.slotUsed]

end Sys2Proof.Machine
end

