-- ==== Sys2Proof/Laws/Ops.lean ====
section
/-! SUPPORT. What the shared operations do: tiles and cores of a partition, bytes of module memory, the fault log, messages. -/

namespace Sys2Proof.Machine

/-! ### Groups, tiles and cores of a partition -/

theorem State.mem_groupsOf (s : State) (p g : Nat) : g ∈ s.groupsOf p ↔ g < 16 ∧ s.owns p g = true := by
  simp [State.groupsOf]

theorem State.nodup_groupsOf (s : State) (p : Nat) : (s.groupsOf p).Nodup := List.nodup_range.filter _

theorem State.owns_iff (s : State) (p g : Nat) : s.owns p g = true ↔ s.ownerOf g = some p := by
  unfold State.owns State.ownerOf
  by_cases h : (s.group g).st = .assigned <;> simp [h]

theorem mem_blocks (l : List Nat) (w k : Nat) (hw : 0 < w) :
    (k ∈ l.flatMap fun g => (List.range w).map fun i => w * g + i) ↔ k / w ∈ l := by
  simp only [List.mem_flatMap, List.mem_map, List.mem_range]
  constructor
  · rintro ⟨g, hg, i, hi, rfl⟩
    rwa [Nat.mul_add_div hw, Nat.div_eq_of_lt hi, Nat.add_zero]
  · intro h
    exact ⟨k / w, h, k % w, Nat.mod_lt _ hw, Nat.div_add_mod k w⟩

theorem nodup_blocks (w : Nat) (hw : 0 < w) (l : List Nat) (h : l.Nodup) :
    (l.flatMap fun g => (List.range w).map fun i => w * g + i).Nodup := by
  rw [List.nodup_flatMap]
  refine ⟨fun g _ => List.Nodup.map (fun a b h => by omega) List.nodup_range, h.imp ?_⟩
  intro a b hab k ha hb
  simp only [List.mem_map, List.mem_range] at ha hb
  obtain ⟨i, hi, rfl⟩ := ha
  obtain ⟨j, hj, e⟩ := hb
  have := congrArg (· / w) e
  simp only [Nat.mul_add_div hw, Nat.div_eq_of_lt hi, Nat.div_eq_of_lt hj, Nat.add_zero] at this
  exact hab this.symm

/-- A tile is of a partition exactly when it is one of its list. -/
theorem State.mem_tilesOf (s : State) (p k : Nat) : k ∈ s.tilesOf p ↔ k < 192 ∧ s.tilePart k = some p := by
  unfold State.tilesOf State.tilePart
  rw [mem_blocks _ _ _ (by decide), s.mem_groupsOf, s.owns_iff]
  constructor <;> rintro ⟨h, e⟩ <;> exact ⟨by omega, e⟩

theorem State.nodup_tilesOf (s : State) (p : Nat) : (s.tilesOf p).Nodup :=
  nodup_blocks 12 (by decide) _ (s.nodup_groupsOf p)

theorem State.mem_coresOf (s : State) (p c : Nat) : c ∈ s.coresOf p ↔ c < 64 ∧ s.ownerOf (c / 4) = some p := by
  unfold State.coresOf
  rw [mem_blocks _ _ _ (by decide), s.mem_groupsOf, s.owns_iff]
  constructor <;> rintro ⟨h, e⟩ <;> exact ⟨by omega, e⟩

theorem State.nodup_coresOf (s : State) (p : Nat) : (s.coresOf p).Nodup :=
  nodup_blocks 4 (by decide) _ (s.nodup_groupsOf p)

/-- An operation on a list of tiles changes nothing but tiles. -/
theorem State.onTiles_eq (s : State) (ts : List Nat) (f : Tile → Tile) :
    s.onTiles ts f = { s with tiles := (s.onTiles ts f).tiles } := by
  unfold State.onTiles
  induction ts generalizing s with
  | nil => rfl
  | cons t r ih => exact ih (s.updTile t f)

/-- Each tile of the list is changed once, every other tile is left. -/
theorem State.tile_onTiles (s : State) (ts : List Nat) (f : Tile → Tile) (h : ts.Nodup) (k : Nat) :
    (s.onTiles ts f).tile k = if k ∈ ts then f (s.tile k) else s.tile k := by
  unfold State.onTiles
  induction ts generalizing s with
  | nil => simp
  | cons t r ih =>
    have hn := List.nodup_cons.mp h
    simp only [List.foldl_cons]
    rw [ih (s.updTile t f) hn.2, tile_updTile]
    by_cases e : k = t
    · subst e; simp [hn.1]
    · simp [e]

/-- An EVENT bit raised at a list of cores changes nothing but cores. -/
theorem State.raiseCore_eq (s : State) (c b : Nat) : s.raiseCore c b = { s with cores := (s.raiseCore c b).cores } := rfl

theorem State.raiseCores_eq (s : State) (p b : Nat) : s.raiseCores p b = { s with cores := (s.raiseCores p b).cores } := by
  unfold State.raiseCores
  generalize s.coresOf p = l
  induction l generalizing s with
  | nil => rfl
  | cons c r ih => exact ih (s.raiseCore c b)

end Sys2Proof.Machine
end

