-- ==== Sys2Proof/Laws/Touch.lean ====
section
/-! SUPPORT. What an operation leaves as it was: Same l s t says that t differs from s at most in the parts of State that l
names. Each shared operation has one lemma of it (Laws/Touch*.lean), which simp applies through a composed operation. -/

namespace Sys2Proof.Machine
/-- The parts of State that frames speak of. -/
inductive Fld where
  | pending | hall | parts | groups | tiles | cores | cords | budgets | mem | turf | badWords | flight | outbox | cinder
  | log | reports | hosts | stoke | time | domains | serial | collier
deriving DecidableEq, Repr

/-- Two states agree in one part. -/
def Fld.same (s t : State) : Fld → Prop
  | .pending => t.pending = s.pending
  | .hall => t.hall = s.hall
  | .parts => t.parts = s.parts
  | .groups => t.groups = s.groups
  | .tiles => t.tiles = s.tiles
  | .cores => t.cores = s.cores
  | .cords => t.cords = s.cords
  | .budgets => t.budgets = s.budgets
  | .mem => t.mem = s.mem
  | .turf => t.turf = s.turf ∧ t.turfKey = s.turfKey
  | .badWords => t.badWords = s.badWords
  | .flight => t.beats = s.beats ∧ t.egBeats = s.egBeats ∧ t.mail = s.mail
  | .outbox => t.outbox = s.outbox
  | .cinder => t.cinder = s.cinder
  | .log => t.log = s.log ∧ t.logSeq = s.logSeq ∧ t.coalesce = s.coalesce
  | .reports => t.reported = s.reported ∧ t.merge = s.merge ∧ t.rootTab = s.rootTab ∧ t.rootDrop = s.rootDrop ∧ t.reportQ = s.reportQ
  | .hosts => t.ports = s.ports ∧ t.fn0 = s.fn0 ∧ t.latches = s.latches
  | .stoke => t.stoke = s.stoke
  | .time => t.time = s.time ∧ t.timeRec = s.timeRec
  | .domains => t.joinHeld = s.joinHeld ∧ t.subCount = s.subCount
  | .serial => t.serial = s.serial
  | .collier => t.moduleId = s.moduleId ∧ t.lanes = s.lanes ∧ t.laneLeases = s.laneLeases ∧ t.images = s.images ∧ t.flash = s.flash ∧
      t.ident = s.ident ∧ t.layout = s.layout ∧ t.standing = s.standing ∧ t.stood = s.stood ∧ t.unsaved = s.unsaved ∧
      t.kindle = s.kindle ∧ t.update = s.update ∧ t.holdup = s.holdup ∧ t.power = s.power ∧ t.sensors = s.sensors ∧
      t.test = s.test ∧ t.tap = s.tap ∧ t.retortOff = s.retortOff ∧ t.fuses = s.fuses ∧ t.spare = s.spare

/-- Two states agree in every part but those of a list. -/
def Same (l : List Fld) (s t : State) : Prop := ∀ f, f ∉ l → f.same s t

theorem Fld.same_refl (s : State) (f : Fld) : f.same s s := by cases f <;> simp [Fld.same]
theorem Fld.same_trans {s t u : State} {f : Fld} (a : f.same s t) (b : f.same t u) : f.same s u := by
  cases f <;> simp_all [Fld.same]
theorem Fld.same_symm {s t : State} {f : Fld} (a : f.same s t) : f.same t s := by
  cases f <;> simp_all [Fld.same]

@[simp] theorem Same.refl (l : List Fld) (s : State) : Same l s s := fun f _ => f.same_refl s
theorem Same.trans {l : List Fld} {s t u : State} (a : Same l s t) (b : Same l t u) : Same l s u := fun f h => Fld.same_trans (a f h) (b f h)
theorem Same.symm {l : List Fld} {s t : State} (a : Same l s t) : Same l t s := fun f h => Fld.same_symm (a f h)
theorem Same.mono {l m : List Fld} {s t : State} (a : Same l s t) (h : l ⊆ m) : Same m s t := fun f hf => a f fun x => hf (h x)
theorem Same.iff {l m : List Fld} {t u : State} (a : Same l t u) (h : l ⊆ m) (s : State) : Same m s u ↔ Same m s t :=
  ⟨fun x => x.trans (a.mono h).symm, fun x => x.trans (a.mono h)⟩
theorem Same.foldl {α : Type} {l : List Fld} (f : State → α → State) (h : ∀ s a, Same l s (f s a)) (xs : List α) (s : State) :
    Same l s (xs.foldl f s) := by
  induction xs generalizing s with
  | nil => exact Same.refl _ _
  | cons a r ih => exact (h s a).trans (ih _)
@[simp ↓] theorem same_foldl {α : Type} {l : List Fld} (f : State → α → State) (h : ∀ s a, Same l s (f s a)) (xs : List α) (s t : State) :
    Same l s (xs.foldl f t) ↔ Same l s t := (Same.foldl f h xs t).iff (List.Subset.refl _) s

theorem same_base {l : List Fld} {s t : State} (h : ∀ f, f ∈ l ∨ f.same s t) : Same l s t := fun f hf => (h f).resolve_left hf


@[simp ↓] theorem same_ite {l : List Fld} (c : Prop) [Decidable c] (s a b : State) :
    Same l s (if c then a else b) ↔ (c → Same l s a) ∧ (¬ c → Same l s b) := by split <;> simp_all


theorem Same.fold' {α : Type} {l : List Fld} {f : State → α → State} {xs : List α} {s t : State} (a : Same l s t)
    (h : ∀ s a, Same l s (f s a)) : Same l s (xs.foldl f t) := a.trans (Same.foldl f h xs t)

/-! ### Updates of State's own fields -/

@[simp ↓] theorem same_set_parts {l : List Fld} (h : [Fld.parts] ⊆ l) (s t : State) (x0 : Tab Part) :
    Same l s { t with parts := x0 } ↔ Same l s t :=
  Same.iff (l := [Fld.parts]) (by intro f hf; cases f <;> first | exact absurd (by decide) hf | (and_intros <;> rfl)) h s
@[simp ↓] theorem same_set_groups {l : List Fld} (h : [Fld.groups] ⊆ l) (s t : State) (x0 : Tab Group) :
    Same l s { t with groups := x0 } ↔ Same l s t :=
  Same.iff (l := [Fld.groups]) (by intro f hf; cases f <;> first | exact absurd (by decide) hf | (and_intros <;> rfl)) h s
@[simp ↓] theorem same_set_tiles {l : List Fld} (h : [Fld.tiles] ⊆ l) (s t : State) (x0 : Tab Tile) :
    Same l s { t with tiles := x0 } ↔ Same l s t :=
  Same.iff (l := [Fld.tiles]) (by intro f hf; cases f <;> first | exact absurd (by decide) hf | (and_intros <;> rfl)) h s
@[simp ↓] theorem same_set_cores {l : List Fld} (h : [Fld.cores] ⊆ l) (s t : State) (x0 : Tab Core) :
    Same l s { t with cores := x0 } ↔ Same l s t :=
  Same.iff (l := [Fld.cores]) (by intro f hf; cases f <;> first | exact absurd (by decide) hf | (and_intros <;> rfl)) h s
@[simp ↓] theorem same_set_cords {l : List Fld} (h : [Fld.cords] ⊆ l) (s t : State) (x0 : Tab Cord) :
    Same l s { t with cords := x0 } ↔ Same l s t :=
  Same.iff (l := [Fld.cords]) (by intro f hf; cases f <;> first | exact absurd (by decide) hf | (and_intros <;> rfl)) h s
@[simp ↓] theorem same_set_outbox {l : List Fld} (h : [Fld.outbox] ⊆ l) (s t : State) (x0 : List Out) :
    Same l s { t with outbox := x0 } ↔ Same l s t :=
  Same.iff (l := [Fld.outbox]) (by intro f hf; cases f <;> first | exact absurd (by decide) hf | (and_intros <;> rfl)) h s
@[simp ↓] theorem same_set_serial {l : List Fld} (h : [Fld.serial] ⊆ l) (s t : State) (x0 : Nat) :
    Same l s { t with serial := x0 } ↔ Same l s t :=
  Same.iff (l := [Fld.serial]) (by intro f hf; cases f <;> first | exact absurd (by decide) hf | (and_intros <;> rfl)) h s
@[simp ↓] theorem same_set_badWords {l : List Fld} (h : [Fld.badWords] ⊆ l) (s t : State) (x0 : List Nat) :
    Same l s { t with badWords := x0 } ↔ Same l s t :=
  Same.iff (l := [Fld.badWords]) (by intro f hf; cases f <;> first | exact absurd (by decide) hf | (and_intros <;> rfl)) h s
@[simp ↓] theorem same_set_turf {l : List Fld} (h : [Fld.turf] ⊆ l) (s t : State) (x0 : Cells) :
    Same l s { t with turf := x0 } ↔ Same l s t :=
  Same.iff (l := [Fld.turf]) (by intro f hf; cases f <;> first | exact absurd (by decide) hf | (and_intros <;> rfl)) h s
@[simp ↓] theorem same_set_mem {l : List Fld} (h : [Fld.mem] ⊆ l) (s t : State) (x0 : Cells) :
    Same l s { t with mem := x0 } ↔ Same l s t :=
  Same.iff (l := [Fld.mem]) (by intro f hf; cases f <;> first | exact absurd (by decide) hf | (and_intros <;> rfl)) h s
@[simp ↓] theorem same_set_cinder {l : List Fld} (h : [Fld.cinder] ⊆ l) (s t : State) (x0 : Tab Nat) :
    Same l s { t with cinder := x0 } ↔ Same l s t :=
  Same.iff (l := [Fld.cinder]) (by intro f hf; cases f <;> first | exact absurd (by decide) hf | (and_intros <;> rfl)) h s
@[simp ↓] theorem same_set_log_logSeq {l : List Fld} (h : [Fld.log] ⊆ l) (s t : State) (x0 : List LogEntry) (x1 : Nat) :
    Same l s { t with log := x0, logSeq := x1 } ↔ Same l s t :=
  Same.iff (l := [Fld.log]) (by intro f hf; cases f <;> first | exact absurd (by decide) hf | (and_intros <;> rfl)) h s
@[simp ↓] theorem same_set_coalesce {l : List Fld} (h : [Fld.log] ⊆ l) (s t : State) (x0 : List Coalesce) :
    Same l s { t with coalesce := x0 } ↔ Same l s t :=
  Same.iff (l := [Fld.log]) (by intro f hf; cases f <;> first | exact absurd (by decide) hf | (and_intros <;> rfl)) h s
@[simp ↓] theorem same_set_hall {l : List Fld} (h : [Fld.hall] ⊆ l) (s t : State) (x0 : Nat) :
    Same l s { t with hall := x0 } ↔ Same l s t :=
  Same.iff (l := [Fld.hall]) (by intro f hf; cases f <;> first | exact absurd (by decide) hf | (and_intros <;> rfl)) h s
@[simp ↓] theorem same_set_reportQ {l : List Fld} (h : [Fld.reports] ⊆ l) (s t : State) (x0 : List (Nat × List Byte)) :
    Same l s { t with reportQ := x0 } ↔ Same l s t :=
  Same.iff (l := [Fld.reports]) (by intro f hf; cases f <;> first | exact absurd (by decide) hf | (and_intros <;> rfl)) h s
@[simp ↓] theorem same_set_rootTab {l : List Fld} (h : [Fld.reports] ⊆ l) (s t : State) (x0 : List RootEntry) :
    Same l s { t with rootTab := x0 } ↔ Same l s t :=
  Same.iff (l := [Fld.reports]) (by intro f hf; cases f <;> first | exact absurd (by decide) hf | (and_intros <;> rfl)) h s
@[simp ↓] theorem same_set_rootDrop {l : List Fld} (h : [Fld.reports] ⊆ l) (s t : State) (x0 : Nat) :
    Same l s { t with rootDrop := x0 } ↔ Same l s t :=
  Same.iff (l := [Fld.reports]) (by intro f hf; cases f <;> first | exact absurd (by decide) hf | (and_intros <;> rfl)) h s
@[simp ↓] theorem same_set_merge {l : List Fld} (h : [Fld.reports] ⊆ l) (s t : State) (x0 : List MergeEntry) :
    Same l s { t with merge := x0 } ↔ Same l s t :=
  Same.iff (l := [Fld.reports]) (by intro f hf; cases f <;> first | exact absurd (by decide) hf | (and_intros <;> rfl)) h s
@[simp ↓] theorem same_set_pending {l : List Fld} (h : [Fld.pending] ⊆ l) (s t : State) (x0 : List Instr) :
    Same l s { t with pending := x0 } ↔ Same l s t :=
  Same.iff (l := [Fld.pending]) (by intro f hf; cases f <;> first | exact absurd (by decide) hf | (and_intros <;> rfl)) h s
@[simp ↓] theorem same_set_reported {l : List Fld} (h : [Fld.reports] ⊆ l) (s t : State) (x0 : List Report) :
    Same l s { t with reported := x0 } ↔ Same l s t :=
  Same.iff (l := [Fld.reports]) (by intro f hf; cases f <;> first | exact absurd (by decide) hf | (and_intros <;> rfl)) h s
@[simp ↓] theorem same_set_budgets {l : List Fld} (h : [Fld.budgets] ⊆ l) (s t : State) (x0 : Tab Budget) :
    Same l s { t with budgets := x0 } ↔ Same l s t :=
  Same.iff (l := [Fld.budgets]) (by intro f hf; cases f <;> first | exact absurd (by decide) hf | (and_intros <;> rfl)) h s
@[simp ↓] theorem same_set_stoke {l : List Fld} (h : [Fld.stoke] ⊆ l) (s t : State) (x0 : Tab StkChan) :
    Same l s { t with stoke := x0 } ↔ Same l s t :=
  Same.iff (l := [Fld.stoke]) (by intro f hf; cases f <;> first | exact absurd (by decide) hf | (and_intros <;> rfl)) h s
@[simp ↓] theorem same_set_beats {l : List Fld} (h : [Fld.flight] ⊆ l) (s t : State) (x0 : List Beat) :
    Same l s { t with beats := x0 } ↔ Same l s t :=
  Same.iff (l := [Fld.flight]) (by intro f hf; cases f <;> first | exact absurd (by decide) hf | (and_intros <;> rfl)) h s
@[simp ↓] theorem same_set_egBeats {l : List Fld} (h : [Fld.flight] ⊆ l) (s t : State) (x0 : List EgBeat) :
    Same l s { t with egBeats := x0 } ↔ Same l s t :=
  Same.iff (l := [Fld.flight]) (by intro f hf; cases f <;> first | exact absurd (by decide) hf | (and_intros <;> rfl)) h s
@[simp ↓] theorem same_set_mail {l : List Fld} (h : [Fld.flight] ⊆ l) (s t : State) (x0 : List MbEntry) :
    Same l s { t with mail := x0 } ↔ Same l s t :=
  Same.iff (l := [Fld.flight]) (by intro f hf; cases f <;> first | exact absurd (by decide) hf | (and_intros <;> rfl)) h s
@[simp ↓] theorem same_set_beats_egBeats {l : List Fld} (h : [Fld.flight] ⊆ l) (s t : State) (x0 : List Beat) (x1 : List EgBeat) :
    Same l s { t with beats := x0, egBeats := x1 } ↔ Same l s t :=
  Same.iff (l := [Fld.flight]) (by intro f hf; cases f <;> first | exact absurd (by decide) hf | (and_intros <;> rfl)) h s
@[simp ↓] theorem same_set_cords_beats_egBeats {l : List Fld} (h : [Fld.cords, .flight] ⊆ l) (s t : State) (x0 : Tab Cord) (x1 : List Beat) (x2 : List EgBeat) :
    Same l s { t with cords := x0, beats := x1, egBeats := x2 } ↔ Same l s t :=
  Same.iff (l := [Fld.cords, .flight]) (by intro f hf; cases f <;> first | exact absurd (by decide) hf | (and_intros <;> rfl)) h s
@[simp ↓] theorem same_set_time {l : List Fld} (h : [Fld.time] ⊆ l) (s t : State) (x0 : TimeUnit) :
    Same l s { t with time := x0 } ↔ Same l s t :=
  Same.iff (l := [Fld.time]) (by intro f hf; cases f <;> first | exact absurd (by decide) hf | (and_intros <;> rfl)) h s
@[simp ↓] theorem same_set_turf_turfKey {l : List Fld} (h : [Fld.turf] ⊆ l) (s t : State) (x0 : Cells) (x1 : Tab Nat) :
    Same l s { t with turf := x0, turfKey := x1 } ↔ Same l s t :=
  Same.iff (l := [Fld.turf]) (by intro f hf; cases f <;> first | exact absurd (by decide) hf | (and_intros <;> rfl)) h s
@[simp ↓] theorem same_set_lanes_laneLeases {l : List Fld} (h : [Fld.collier] ⊆ l) (s t : State) (x0 : Tab (Tab Nat)) (x1 : List LaneLease) :
    Same l s { t with lanes := x0, laneLeases := x1 } ↔ Same l s t :=
  Same.iff (l := [Fld.collier]) (by intro f hf; cases f <;> first | exact absurd (by decide) hf | (and_intros <;> rfl)) h s
@[simp ↓] theorem same_set_stood {l : List Fld} (h : [Fld.collier] ⊆ l) (s t : State) (x0 : List (List Byte)) :
    Same l s { t with stood := x0 } ↔ Same l s t :=
  Same.iff (l := [Fld.collier]) (by intro f hf; cases f <;> first | exact absurd (by decide) hf | (and_intros <;> rfl)) h s
@[simp ↓] theorem same_set_power {l : List Fld} (h : [Fld.collier] ⊆ l) (s t : State) (x0 : Power) :
    Same l s { t with power := x0 } ↔ Same l s t :=
  Same.iff (l := [Fld.collier]) (by intro f hf; cases f <;> first | exact absurd (by decide) hf | (and_intros <;> rfl)) h s
@[simp ↓] theorem same_set_holdup {l : List Fld} (h : [Fld.collier] ⊆ l) (s t : State) (x0 : HoldUp) :
    Same l s { t with holdup := x0 } ↔ Same l s t :=
  Same.iff (l := [Fld.collier]) (by intro f hf; cases f <;> first | exact absurd (by decide) hf | (and_intros <;> rfl)) h s
@[simp ↓] theorem same_set_ident {l : List Fld} (h : [Fld.collier] ⊆ l) (s t : State) (x0 : Cells) :
    Same l s { t with ident := x0 } ↔ Same l s t :=
  Same.iff (l := [Fld.collier]) (by intro f hf; cases f <;> first | exact absurd (by decide) hf | (and_intros <;> rfl)) h s
@[simp ↓] theorem same_set_layout {l : List Fld} (h : [Fld.collier] ⊆ l) (s t : State) (x0 : Tab Layout) :
    Same l s { t with layout := x0 } ↔ Same l s t :=
  Same.iff (l := [Fld.collier]) (by intro f hf; cases f <;> first | exact absurd (by decide) hf | (and_intros <;> rfl)) h s
@[simp ↓] theorem same_set_timeRec {l : List Fld} (h : [Fld.time] ⊆ l) (s t : State) (x0 : TimeRec) :
    Same l s { t with timeRec := x0 } ↔ Same l s t :=
  Same.iff (l := [Fld.time]) (by intro f hf; cases f <;> first | exact absurd (by decide) hf | (and_intros <;> rfl)) h s
@[simp ↓] theorem same_set_standing {l : List Fld} (h : [Fld.collier] ⊆ l) (s t : State) (x0 : List (List Byte)) :
    Same l s { t with standing := x0 } ↔ Same l s t :=
  Same.iff (l := [Fld.collier]) (by intro f hf; cases f <;> first | exact absurd (by decide) hf | (and_intros <;> rfl)) h s
@[simp ↓] theorem same_set_flash_unsaved {l : List Fld} (h : [Fld.collier] ⊆ l) (s t : State) (x0 : Persist) (x1 : List Nat) :
    Same l s { t with flash := x0, unsaved := x1 } ↔ Same l s t :=
  Same.iff (l := [Fld.collier]) (by intro f hf; cases f <;> first | exact absurd (by decide) hf | (and_intros <;> rfl)) h s
@[simp ↓] theorem same_set_unsaved {l : List Fld} (h : [Fld.collier] ⊆ l) (s t : State) (x0 : List Nat) :
    Same l s { t with unsaved := x0 } ↔ Same l s t :=
  Same.iff (l := [Fld.collier]) (by intro f hf; cases f <;> first | exact absurd (by decide) hf | (and_intros <;> rfl)) h s
@[simp ↓] theorem same_set_flash {l : List Fld} (h : [Fld.collier] ⊆ l) (s t : State) (x0 : Persist) :
    Same l s { t with flash := x0 } ↔ Same l s t :=
  Same.iff (l := [Fld.collier]) (by intro f hf; cases f <;> first | exact absurd (by decide) hf | (and_intros <;> rfl)) h s
@[simp ↓] theorem same_set_tiles_cores_mem_badWords {l : List Fld} (h : [Fld.tiles, .cores, .mem, .badWords] ⊆ l) (s t : State) (x0 : Tab Tile) (x1 : Tab Core) (x2 : Cells) (x3 : List Nat) :
    Same l s { t with tiles := x0, cores := x1, mem := x2, badWords := x3 } ↔ Same l s t :=
  Same.iff (l := [Fld.tiles, .cores, .mem, .badWords]) (by intro f hf; cases f <;> first | exact absurd (by decide) hf | (and_intros <;> rfl)) h s
@[simp ↓] theorem same_set_budgets_cinder {l : List Fld} (h : [Fld.budgets, .cinder] ⊆ l) (s t : State) (x0 : Tab Budget) (x1 : Tab Nat) :
    Same l s { t with budgets := x0, cinder := x1 } ↔ Same l s t :=
  Same.iff (l := [Fld.budgets, .cinder]) (by intro f hf; cases f <;> first | exact absurd (by decide) hf | (and_intros <;> rfl)) h s
@[simp ↓] theorem same_set_cords_lanes_laneLeases_mail {l : List Fld} (h : [Fld.cords, .flight, .collier] ⊆ l) (s t : State) (x0 : Tab Cord) (x1 : Tab (Tab Nat)) (x2 : List LaneLease) (x3 : List MbEntry) :
    Same l s { t with cords := x0, lanes := x1, laneLeases := x2, mail := x3 } ↔ Same l s t :=
  Same.iff (l := [Fld.cords, .flight, .collier]) (by intro f hf; cases f <;> first | exact absurd (by decide) hf | (and_intros <;> rfl)) h s
@[simp ↓] theorem same_set_budgets_layout {l : List Fld} (h : [Fld.budgets, .collier] ⊆ l) (s t : State) (x0 : Tab Budget) (x1 : Tab Layout) :
    Same l s { t with budgets := x0, layout := x1 } ↔ Same l s t :=
  Same.iff (l := [Fld.budgets, .collier]) (by intro f hf; cases f <;> first | exact absurd (by decide) hf | (and_intros <;> rfl)) h s
@[simp ↓] theorem same_set_joinHeld {l : List Fld} (h : [Fld.domains] ⊆ l) (s t : State) (x0 : List (Nat × List Byte)) :
    Same l s { t with joinHeld := x0 } ↔ Same l s t :=
  Same.iff (l := [Fld.domains]) (by intro f hf; cases f <;> first | exact absurd (by decide) hf | (and_intros <;> rfl)) h s
@[simp ↓] theorem same_set_subCount {l : List Fld} (h : [Fld.domains] ⊆ l) (s t : State) (x0 : List (Nat × Nat × Nat)) :
    Same l s { t with subCount := x0 } ↔ Same l s t :=
  Same.iff (l := [Fld.domains]) (by intro f hf; cases f <;> first | exact absurd (by decide) hf | (and_intros <;> rfl)) h s
@[simp ↓] theorem same_set_ports {l : List Fld} (h : [Fld.hosts] ⊆ l) (s t : State) (x0 : Tab HostPort) :
    Same l s { t with ports := x0 } ↔ Same l s t :=
  Same.iff (l := [Fld.hosts]) (by intro f hf; cases f <;> first | exact absurd (by decide) hf | (and_intros <;> rfl)) h s
@[simp ↓] theorem same_set_update_power {l : List Fld} (h : [Fld.collier] ⊆ l) (s t : State) (x0 : Update) (x1 : Power) :
    Same l s { t with update := x0, power := x1 } ↔ Same l s t :=
  Same.iff (l := [Fld.collier]) (by intro f hf; cases f <;> first | exact absurd (by decide) hf | (and_intros <;> rfl)) h s
@[simp ↓] theorem same_set_kindle {l : List Fld} (h : [Fld.collier] ⊆ l) (s t : State) (x0 : Kindle) :
    Same l s { t with kindle := x0 } ↔ Same l s t :=
  Same.iff (l := [Fld.collier]) (by intro f hf; cases f <;> first | exact absurd (by decide) hf | (and_intros <;> rfl)) h s
@[simp ↓] theorem same_set_retortOff_spare {l : List Fld} (h : [Fld.collier] ⊆ l) (s t : State) (x0 : List Nat) (x1 : Tab Nat) :
    Same l s { t with retortOff := x0, spare := x1 } ↔ Same l s t :=
  Same.iff (l := [Fld.collier]) (by intro f hf; cases f <;> first | exact absurd (by decide) hf | (and_intros <;> rfl)) h s
@[simp ↓] theorem same_set_standing_stood {l : List Fld} (h : [Fld.collier] ⊆ l) (s t : State) (x0 : List (List Byte)) (x1 : List (List Byte)) :
    Same l s { t with standing := x0, stood := x1 } ↔ Same l s t :=
  Same.iff (l := [Fld.collier]) (by intro f hf; cases f <;> first | exact absurd (by decide) hf | (and_intros <;> rfl)) h s
@[simp ↓] theorem same_set_laneLeases {l : List Fld} (h : [Fld.collier] ⊆ l) (s t : State) (x0 : List LaneLease) :
    Same l s { t with laneLeases := x0 } ↔ Same l s t :=
  Same.iff (l := [Fld.collier]) (by intro f hf; cases f <;> first | exact absurd (by decide) hf | (and_intros <;> rfl)) h s
@[simp ↓] theorem same_set_tiles_mem_badWords_tap {l : List Fld} (h : [Fld.tiles, .mem, .badWords, .collier] ⊆ l) (s t : State) (x0 : Tab Tile) (x1 : Cells) (x2 : List Nat) (x3 : TestPort) :
    Same l s { t with tiles := x0, mem := x1, badWords := x2, tap := x3 } ↔ Same l s t :=
  Same.iff (l := [Fld.tiles, .mem, .badWords, .collier]) (by intro f hf; cases f <;> first | exact absurd (by decide) hf | (and_intros <;> rfl)) h s
@[simp ↓] theorem same_set_tap {l : List Fld} (h : [Fld.collier] ⊆ l) (s t : State) (x0 : TestPort) :
    Same l s { t with tap := x0 } ↔ Same l s t :=
  Same.iff (l := [Fld.collier]) (by intro f hf; cases f <;> first | exact absurd (by decide) hf | (and_intros <;> rfl)) h s
@[simp ↓] theorem same_set_update {l : List Fld} (h : [Fld.collier] ⊆ l) (s t : State) (x0 : Update) :
    Same l s { t with update := x0 } ↔ Same l s t :=
  Same.iff (l := [Fld.collier]) (by intro f hf; cases f <;> first | exact absurd (by decide) hf | (and_intros <;> rfl)) h s
@[simp ↓] theorem same_set_images {l : List Fld} (h : [Fld.collier] ⊆ l) (s t : State) (x0 : Tab ImgSlot) :
    Same l s { t with images := x0 } ↔ Same l s t :=
  Same.iff (l := [Fld.collier]) (by intro f hf; cases f <;> first | exact absurd (by decide) hf | (and_intros <;> rfl)) h s
@[simp ↓] theorem same_set_test {l : List Fld} (h : [Fld.collier] ⊆ l) (s t : State) (x0 : RunTest) :
    Same l s { t with test := x0 } ↔ Same l s t :=
  Same.iff (l := [Fld.collier]) (by intro f hf; cases f <;> first | exact absurd (by decide) hf | (and_intros <;> rfl)) h s
@[simp ↓] theorem same_set_fuses {l : List Fld} (h : [Fld.collier] ⊆ l) (s t : State) (x0 : Tab Nat) :
    Same l s { t with fuses := x0 } ↔ Same l s t :=
  Same.iff (l := [Fld.collier]) (by intro f hf; cases f <;> first | exact absurd (by decide) hf | (and_intros <;> rfl)) h s
@[simp ↓] theorem same_set_sensors {l : List Fld} (h : [Fld.collier] ⊆ l) (s t : State) (x0 : Tab Int) :
    Same l s { t with sensors := x0 } ↔ Same l s t :=
  Same.iff (l := [Fld.collier]) (by intro f hf; cases f <;> first | exact absurd (by decide) hf | (and_intros <;> rfl)) h s
@[simp ↓] theorem same_set_fn0 {l : List Fld} (h : [Fld.hosts] ⊆ l) (s t : State) (x0 : Tab Bool) :
    Same l s { t with fn0 := x0 } ↔ Same l s t :=
  Same.iff (l := [Fld.hosts]) (by intro f hf; cases f <;> first | exact absurd (by decide) hf | (and_intros <;> rfl)) h s

end Sys2Proof.Machine
end

