-- ==== Sys2Proof/Machine/Flags.lean ====
section
/-! DEFINITION. The block's flags: what its output pins and its status fields show of the state. It has no processor's
condition flags. -/

namespace Sys2Proof.Machine

/-- ALERT# is low: a freeze, a trip or an INPUT_POWER condition holds (R499). -/
def State.alert (s : State) : Bool :=
  s.time.frozen ≠ [] || s.power.dieOff ≠ [] || s.power.lasers ≠ [] || s.power.fault

/-- PWRGD of the host connectors, and PWRGD_MGMT (R489, R490, R499). -/
def State.pwrgd (s : State) : Bool := s.power.rails = 8

/-- An Ember core's machine external interrupt (R192). -/
def Core.interrupt (x : Core) : Bool := x.event &&& x.eventEn ≠ 0

end Sys2Proof.Machine
end

