-- ==== Sys2Proof/WellFormed.lean ====
section
/-! DEFINITION. Which operand values a command may carry: the values for which the manual gives the command a meaning.
Whether a command is accepted in a state is its meaning's to say. -/

namespace Sys2Proof

open Sys2Proof.Machine

/-- An error word of the matrix engine lies in an array that the operation uses (R125). -/
def eccIn (units : List MxeUnit) (ecc : Option MxeEcc) : Bool :=
  match ecc with
  | some e => units.contains e.unit
  | none => true

/-- The operands of a command are well formed. -/
def Instr.wf : Instr → Bool
  | .wldWithOverlay a _ form _ d chunks _ => decide (chunks.val + 1 ≤ ovlOcc form.form d) && eccIn [.merge] a.ecc
  | .mmaAcc a _ _ _ _ => eccIn [.stat, .accRow] a.ecc
  | .mmaStart a _ _ _ _ => eccIn [.stat, .accRow] a.ecc
  | .drn a _ _ _ => eccIn [.accRow] a.ecc
  | .drw a _ _ => eccIn [.accRow] a.ecc
  | .snd _ _ _ n _ _ _ => decide (n < 262144)
  | .segmentReceive _ bytes waves _ _ => bytes.length == 800 && waves.all (· < 9)
  | .ntpRequest req => decide (48 ≤ req.length)
  | .sensorRead readings => readings.all fun r => sensorCode r.1.toNat
  | .spdmRequest _ _ req => decide (4 ≤ req.length)
  | .romPldmUpdate hdr _ => hdr.length == 256
  | .planLoad _ => true
  | .loadDone _ _ _ => true
  | .planArm _ => true
  | .planStop _ => true
  | .planUnload _ => true
  | .unloadComplete _ => true
  | .rebind _ _ => true
  | .launch _ => true
  | .sfClear _ => true
  | .beat _ => true
  | .stepBoundary _ => true
  | .loopEntry _ _ _ => true
  | .loopSpanEnd _ _ _ => true
  | .flueBudgetWindow _ => true
  | .wld _ _ _ _ => true
  | .wsw _ => true
  | .acz _ _ _ => true
  | .vop _ _ _ _ _ _ => true
  | .vsf _ _ _ _ => true
  | .vrd _ _ _ _ _ => true
  | .vrg _ _ _ _ => true
  | .vtk _ _ _ _ _ _ => true
  | .vld _ _ _ _ => true
  | .vst _ _ _ => true
  | .draw _ _ _ _ => true
  | .lay _ _ _ _ _ => true
  | .awt _ _ => true
  | .sclAlu _ _ _ _ _ => true
  | .sclMul _ _ _ _ => true
  | .sclDiv _ _ _ _ _ => true
  | .sclLd _ _ _ _ => true
  | .sclSt _ _ _ => true
  | .cnt _ _ _ _ => true
  | .pcr _ _ => true
  | .mbx _ _ _ _ => true
  | .landingBeat _ _ _ => true
  | .flueEntryComplete _ _ _ _ => true
  | .mailboxEntryArrival _ => true
  | .tmbxWrite _ _ _ _ _ => true
  | .mbTailWrite _ _ => true
  | .emberHalt _ _ _ _ => true
  | .halt _ => true
  | .start _ => true
  | .startImage _ => true
  | .steCount _ => true
  | .sqPush _ _ => true
  | .sqPop _ => true
  | .sqSteal _ => true
  | .alloc _ _ => true
  | .free _ _ => true
  | .refInc _ _ => true
  | .refDec _ _ => true
  | .share _ _ => true
  | .query _ _ => true
  | .pagePoolEnable _ => true
  | .seal _ => true
  | .sealComplete _ => true
  | .unseal _ => true
  | .release _ _ => true
  | .cancel _ _ => true
  | .trim _ _ => true
  | .releaseWalkEnd _ => true
  | .btBalanceRead _ => true
  | .btAdd _ _ => true
  | .lookup _ => true
  | .lookupHandle _ => true
  | .insert _ => true
  | .remove _ => true
  | .register _ => true
  | .prefixEnable _ => true
  | .phSgInval _ _ => true
  | .bank _ => true
  | .bankMoveStart _ => true
  | .bankDone _ => true
  | .migrate _ => true
  | .rekindle _ => true
  | .rekindleDone _ _ => true
  | .bankEnable _ => true
  | .bankCqSpace _ _ => true
  | .contextArm _ _ => true
  | .contextDisarm _ _ => true
  | .shardWindowWrite _ _ _ _ _ => true
  | .shardWindowRead _ _ _ _ => true
  | .resealVerifyDone _ _ => true
  | .layerOpen _ _ _ => true
  | .epochSet _ _ _ => true
  | .epochArm _ _ _ => true
  | .epochDisarm _ => true
  | .install _ _ _ _ => true
  | .pin _ _ => true
  | .unpin _ _ _ => true
  | .withdraw _ _ => true
  | .segmentSend _ _ => true
  | .replayTimeout _ => true
  | .nackRepeat _ => true
  | .laneFailing _ _ _ _ => true
  | .wavelengthRestore _ _ => true
  | .laneReq _ => true
  | .laneCmd _ => true
  | .laneDone _ => true
  | .laneCmdRetry _ => true
  | .sync _ => true
  | .ident _ _ _ _ => true
  | .trainingDone _ => true
  | .measuringDone _ => true
  | .cordDown _ => true
  | .leasePropose _ => true
  | .leaseAck _ => true
  | .leaseCommit _ => true
  | .leaseAbort _ => true
  | .leaseDone _ => true
  | .leaseEffective _ => true
  | .packetComplete _ => true
  | .rdReq _ _ _ => true
  | .wrReq _ => true
  | .rdRsp _ => true
  | .wrRsp _ _ => true
  | .nack _ => true
  | .attemptTimeout _ => true
  | .reqTimeout _ => true
  | .completionEntryExpiry _ => true
  | .routeInval _ => true
  | .timeExchangeStart _ => true
  | .timeReq _ _ => true
  | .timeRsp _ _ => true
  | .timeLabel _ => true
  | .holdoverLimit => true
  | .damperUp _ => true
  | .damperSet _ => true
  | .damperChange _ => true
  | .desiredDamperUpdate _ => true
  | .freeze _ _ => true
  | .freezeLift _ _ => true
  | .slipReq _ => true
  | .domainBeacon _ => true
  | .domainBeaconSend _ => true
  | .beaconTimeout _ => true
  | .cntClear _ => true
  | .join _ => true
  | .joinRetry _ => true
  | .joinTimeout _ => true
  | .domainJoin _ => true
  | .domainAck _ => true
  | .domainCount _ => true
  | .leave _ => true
  | .leaveTakeEffect _ => true
  | .partitionTeardown _ _ => true
  | .shadowStart _ => true
  | .shadowSync _ => true
  | .shadowDigest _ => true
  | .swap _ => true
  | .swapTakeEffect _ => true
  | .epochAdvance _ => true
  | .faultEpoch _ => true
  | .faultReport _ => true
  | .mergeClose => true
  | .twinModeWrite _ _ _ _ _ => true
  | .cmsRead _ _ _ _ _ => true
  | .cmsWrite _ _ _ _ _ => true
  | .create _ _ => true
  | .dissolve _ _ => true
  | .move _ _ => true
  | .lease _ _ => true
  | .enableTest _ _ => true
  | .stageBegin _ _ => true
  | .stageWrite _ _ => true
  | .stageCopy _ _ => true
  | .stageEnd _ _ => true
  | .activate _ _ => true
  | .cancelActivate _ _ => true
  | .activationRetest _ => true
  | .activation => true
  | .confirm _ _ => true
  | .healthConfirm _ => true
  | .trialTimeout => true
  | .restart _ _ => true
  | .persistNow _ _ => true
  | .holdupTest _ _ => true
  | .holdupRetest _ => true
  | .cinderPersist _ => true
  | .fuseRepair _ _ _ => true
  | .selftest _ _ => true
  | .selftestDone _ _ _ _ _ => true
  | .cinderClear _ _ => true
  | .scrubDone _ => true
  | .coalesceClose => true
  | .keyInstall _ _ _ => true
  | .erase _ _ => true
  | .hostWindowEnable _ _ _ => true
  | .go _ _ _ => true
  | .stokeCancel _ _ => true
  | .promotion _ _ _ => true
  | .abort _ _ => true
  | .resume _ _ _ => true
  | .skip _ _ _ => true
  | .stokeUnitDone _ _ _ _ => true
  | .stokeUnitFail _ _ _ _ _ _ => true
  | .settleReadDone _ _ _ => true
  | .stokeCqSpace _ _ _ => true
  | .doorbell _ _ _ => true
  | .hqDevIdxWrite _ _ => true
  | .hqRaise _ _ => true
  | .eventClear _ _ _ _ => true
  | .eventEnable _ _ _ => true
  | .functionLevelReset _ _ => true
  | .perst _ _ => true
  | .hostLinkUp _ _ _ _ => true
  | .hostLinkDown _ => true
  | .genericRegisterWrite _ _ => true
  | .powerUp => true
  | .kindleRomDone => true
  | .kindleRails _ => true
  | .kindleSelftest _ _ => true
  | .kindleLoad _ _ => true
  | .kindleSync => true
  | .kindlePartitions => true
  | .moduleReset _ => true
  | .inputPower _ => true
  | .inrushRamp => true
  | .regulatorLimit _ _ => true
  | .thermalTrip _ => true
  | .lossOfSymbolLock _ _ _ => true
  | .symbolLockRegained _ => true
  | .sharedClockLoss _ => true
  | .inputPowerRecovery => true
  | .timeLabelSend _ _ => true
  | .leaseAcceptEnd _ => true
  | .leaveReleaseTimeout _ => true
  | .kindleSyncTimeout => true

end Sys2Proof
end

