-- ==== Sys2Proof/Tests/Slice0.lean ====
section
/-! SUPPORT. Tests: ill-formed operands refused, and for each statement states and operands that meet its hypotheses, clause by
clause. -/

open Sys2Proof Sys2Proof.Machine

section

set_option Elab.async false

/-! ### Ill-formed operands, one for each check of WellFormed -/

def tsI : Issue := ⟨0, 0⟩
def tsF : ImgOpnd := .whole .bf16
def tsEcc (u : MxeUnit) : Option MxeEcc := some ⟨u, 0, false⟩

theorem test_illformed_tile_operands :
    (Instr.wldWithOverlay ⟨tsI, none⟩ (.imm 0) tsF (.imm 0) .d1 511 false).wf = false ∧
    (Instr.wldWithOverlay ⟨tsI, tsEcc .stat⟩ (.imm 0) tsF (.imm 0) .d1 0 false).wf = false ∧
    (Instr.mmaAcc ⟨tsI, tsEcc .merge⟩ 0 (.imm 0) .bf16 false).wf = false ∧
    (Instr.mmaStart ⟨tsI, tsEcc .merge⟩ 0 (.imm 0) .bf16 false).wf = false ∧
    (Instr.drn ⟨tsI, tsEcc .stat⟩ 0 (.imm 0) .fp32).wf = false ∧ (Instr.drw ⟨tsI, tsEcc .stat⟩ 0 (.imm 0)).wf = false ∧
    (Instr.snd tsI 0 (.imm 0) 262144 (.mailbox 0 0) 0 false).wf = false := by decide

theorem test_illformed_other_operands :
    (Instr.segmentReceive 0 [] [] [] ⟨[], []⟩).wf = false ∧ (Instr.segmentReceive 0 (List.replicate 800 0) [9] [] ⟨[], []⟩).wf = false ∧
    (Instr.ntpRequest []).wf = false ∧ (Instr.sensorRead [(0xFF, 0)]).wf = false ∧ (Instr.spdmRequest 0 0 []).wf = false ∧
    (Instr.romPldmUpdate [] []).wf = false := by decide +kernel

/-! ### States the tests start from -/

/-- The module open: rails up, partition 0 has groups 0 and 1, partition 1 group 2, port 0 up. -/
def tsUp : State :=
  { hall := 1000
    groups := [(0, { st := .assigned, owner := 0 }), (1, { st := .assigned, owner := 0 }), (2, { st := .assigned, owner := 1 }),
               (3, { st := .free })]
    parts := [(0, { live := true, keysReady := true, fn := { fnState := 1 } }),
              (1, { live := true, keysReady := true, port := 1, fn := { fnState := 1 } })]
    ports := [(0, { up := true, speed := 5, width := 16, perst := false, bme := [0] })]
    kindle := { phase := 6 }, power := { aux := true, ramp := some 0, rails := 8 }, holdup := { full := some 0 } }

/-- The same, partition 0 changed. -/
def tsPart (f : Part → Part) : State := tsUp.updPart 0 f
/-- The same, with a plan. -/
def tsPlan (x : Plan) : State := tsPart fun P => { P with plan := x }
/-- Memory of byte runs. -/
def tsMem (l : List (Nat × List Byte)) : Cells := l.flatMap fun e => e.2.zipIdx.map fun b => (e.1 + b.2, b.1)
/-- The state a command answers. -/
def tsNext : Out3 → State
  | .next t => t
  | _ => {}

/-! ### The queue and the plan -/

def tsQueue : State := { tsUp with pending := [.inrushRamp, .powerUp] }
def tsBusyTile : Tile := { flue := [(5, { used := true, draw := true, n := 8 })] }
/-- An UNLOAD must wait: a flue entry is in flight. -/
def tsUnloadBusy : State := { tsPlan { st := .loaded } with tiles := [(3, tsBusyTile)] }
/-- LAUNCH_AT exactly 65,536 hall ticks away, and one less. -/
def tsArmOk : State := tsPlan { st := .loaded, launchAt := 66536 }
def tsArmLate : State := tsPlan { st := .stopped, launchAt := 66535 }
def tsUnloading : State := { tsPlan { st := .faulted, unloadWait := true, sf := { valid := true } } with
  tiles := [(3, { store := [(7, 1)], vregs := [(1, [(2, 3)])] }), (30, { store := [(9, 1)] })] }
def tsJoining : State := tsPart fun P => { P with plan := { st := .loaded }, dom := { st := .joining } }
def tsArmed : State := tsPart fun P => { P with plan := { st := .armed, launchAt := 1000 }, frame := { missHold := false } }
def tsArmedHold : State := tsPart fun P => { P with
  plan := { st := .armed, launchAt := 1000 }, frame := { missHold := true, launched := true, target := 3, shadowBuf := 1 } }

theorem test_hyp_StepRunsTheFrontCommand : tsQueue.pending = .inrushRamp :: [.powerUp] := rfl
theorem test_hyp_IdleStepIsOneHallTick : tsUp.pending = [] := rfl

theorem test_hyp_PlanActionsFollowTheState_accepted :
    (tsUp.fnPlan 0 = true ∧ (tsUp.part 0).plan.unloadWait = false ∧ (tsUp.part 0).plan.st = .empty) ∧
    (tsArmOk.fnPlan 0 = true ∧ (tsArmOk.part 0).plan.unloadWait = false ∧ (tsArmOk.part 0).plan.st = .loaded ∧
      (tsArmOk.part 0).dom.st ≠ .joining ∧ (tsArmOk.part 0).dom.st ≠ .leaving ∧
      tsArmOk.hall + 65536 = (tsArmOk.part 0).plan.launchAt) ∧
    (tsArmLate.fnPlan 0 = true ∧ (tsArmLate.part 0).plan.unloadWait = false ∧ (tsArmLate.part 0).plan.st = .stopped ∧
      (tsArmLate.part 0).dom.st ≠ .joining ∧ (tsArmLate.part 0).dom.st ≠ .leaving ∧
      (tsArmLate.part 0).plan.launchAt + 1 = tsArmLate.hall + 65536) ∧
    (let s := tsPlan { st := .running }; s.fnPlan 0 = true ∧ (s.part 0).plan.unloadWait = false ∧ (s.part 0).plan.st = .running) ∧
    (tsUnloadBusy.fnPlan 0 = true ∧ (tsUnloadBusy.part 0).plan.unloadWait = false ∧
      (tsUnloadBusy.part 0).plan.st = .loaded ∧ tsUnloadBusy.flueBusy 0 = true) := by decide +kernel

theorem test_hyp_PlanActionsFollowTheState_refused :
    (tsUnloading.fnPlan 0 = true ∧ (tsUnloading.part 0).plan.unloadWait = true) ∧
    (tsJoining.fnPlan 0 = true ∧ (tsJoining.part 0).dom.st = .joining) ∧
    (tsUp.fnPlan 0 = true ∧ (tsUp.part 0).plan.st = .empty) := by decide +kernel

theorem test_hyp_UnloadEmptiesThePlan :
    (tsUnloading.flueBusy 0 = false ∧ (tsUnloading.part 0).plan.unloadWait = true ∧ (tsUnloading.part 0).wts.armed = false ∧
      tsUnloading.tilePart 3 = some 0 ∧ tsUnloading.tilePart 30 = some 1) ∧
    (tsArmed.flueBusy 0 = false ∧ tsArmed.fnPlan 0 = true ∧ (tsArmed.part 0).plan.unloadWait = false ∧
      (tsArmed.part 0).plan.st = .armed ∧ (tsArmed.part 0).dom.st ≠ .leaving) := by decide +kernel

/-! A package of one ceiling class and no hops for two groups, its digest as the loader computes it. -/

def tsPkg0 (d : List Byte) : List Byte :=
  leBytes 4 0x4E435352 ++ leBytes 2 1 ++ leBytes 2 1 ++ d ++ leBytes 2 2 ++ leBytes 2 1 ++ leBytes 2 1 ++ leBytes 2 0 ++
  leBytes 4 16384 ++ leBytes 4 0 ++ leBytes 8 128 ++ leBytes 8 128 ++ leBytes 8 144 ++ leBytes 8 160 ++ leBytes 4 0 ++
  leBytes 4 1 ++ leBytes 8 0x4000 ++ leBytes 8 0 ++ leBytes 8 0x8000 ++ leBytes 8 0 ++
  leBytes 2 0 ++ leBytes 2 1 ++ leBytes 4 64 ++ leBytes 4 1 ++ leBytes 4 0 ++ leBytes 16 0
def tsPkg : List Byte := tsPkg0 (leBytes 32 (Config.blake3 (tsPkg0 (List.replicate 32 0#8))).toNat)
def tsImg : PlanImage := ⟨[], [], []⟩
def tsHost : HostData := ⟨tsPkg, []⟩
/-- Plan package and delay table in a host window. -/
def tsLoading : State := tsPart fun P => { P with
  plan := { st := .loading, base := 0x50000000000, len := 160 }
  sec := { wins := [(0, { base := 0x50000000000, size := 4096, target := 0, enable := true })] } }
def tsLoadingBad : State := tsPlan { st := .loading, base := 0x50000000000, len := 160 }
def tsLoadingNoTable : State := tsPart fun P => { P with
  plan := { st := .loading, delayBase := 0x50000000000, delayLen := 16 } }

theorem test_hyp_LoadDoneBindsOrRefuses_refused :
    ((tsLoadingBad.part 0).plan.st = .loading ∧ tsLoadingBad.rdRange 0 0x50000000000 160 tsPkg = none) ∧
    ((tsLoadingNoTable.part 0).plan.st = .loading ∧ tsLoadingNoTable.rdRange 0 0 0 [] = some [] ∧
      tsLoadingNoTable.rdRange 0 0x50000000000 16 [] = none) ∧
    ((tsPlan { st := .loading }).part 0).plan.st = .loading ∧
    (tsPlan { st := .loading }).checkPackage 0 [] tsImg [] = .fail 1 0 := by
  refine ⟨by decide +kernel, by decide +kernel, by decide +kernel, rfl⟩

theorem test_hyp_LoadDoneBindsOrRefuses_bound : (tsLoading.part 0).plan.st = .loading ∧
    tsLoading.rdRange 0 0x50000000000 160 tsHost.pkg = some tsPkg ∧ tsLoading.rdRange 0 0 0 tsHost.tbl = some [] ∧
    ∃ l, tsLoading.checkPackage 0 tsPkg tsImg [] = .ok l [] := by
  refine ⟨by decide +kernel, ?_, by decide +kernel, ?_⟩
  · have hl : tsHost.pkg.length = 160 := rfl
    have hm : ∀ i < 160, tsLoading.mapped 0 (0x50000000000 + i) = false := by decide +kernel
    unfold State.rdRange
    rw [if_pos (by decide +kernel)]
    refine congrArg some (List.ext_getElem (by simp [← hl]; rfl) fun i h1 h2 => ?_)
    have hi : i < 160 := by simpa using h1
    simp [hm i hi, List.getElem?_eq_getElem (hl ▸ hi : i < tsHost.pkg.length)]
    rfl
  have hd : packageDigest tsPkg = (tsPkg.drop 8).take 32 := rfl
  unfold State.checkPackage
  rw [if_neg (by decide +kernel), if_neg (by decide +kernel), if_neg (by decide +kernel), if_neg (by decide +kernel),
    if_neg (by decide +kernel), if_neg (by decide +kernel), if_neg (by decide +kernel), if_neg (not_not.mpr hd)]
  exact ⟨_, rfl⟩

/-- A delay table of one entry, (module 1, cord 2): 3 ticks. -/
def tsTable : List Byte := leBytes 4 1 ++ leBytes 4 0 ++ leBytes 8 0 ++ leBytes 8 (1 + 2 * 2 ^ 15 + 3 * 2 ^ 32)
def tsHop (interval : Nat) : Hop := ⟨0, 0, 1, 2, interval, 10, 5⟩
/-- A running plan of one hop, its delay table in a host window of partition 0. -/
def tsRebind (interval : Nat) : State := tsPart fun P => { P with
  plan := { st := .running, delayBase := 0x50000000000, delayLen := 24, loaded := some { hops := [tsHop interval] } }
  sec := { wins := [(0, { base := 0x50000000000, size := 4096, target := 0, enable := true })] } }
def tsRebindNone : State := tsPlan { st := .running, delayBase := 0x50000000000, delayLen := 24 }

theorem test_hyp_RebindWaitsForTheBoundary :
    (tsRebindNone.fnPlan 0 = true ∧ (tsRebindNone.part 0).plan.st = .running ∧
      tsRebindNone.rdRange 0 0x50000000000 24 [] = none) ∧
    ((tsRebind 18).fnPlan 0 = true ∧ ((tsRebind 18).part 0).plan.unloadWait = false ∧
      (tsRebind 18).rdRange 0 0x50000000000 24 tsTable = some tsTable ∧
      (tsRebind 18).bindTable 0 [tsHop 18] tsTable = .ok [0]) ∧
    (tsRebind 17).bindTable 0 [tsHop 17] tsTable = .error (0x0A, 0) := by
  exact ⟨by decide +kernel, by decide +kernel, rfl⟩

theorem test_hyp_HopsBindWithinTheirSlackCeilings :
    (∀ e ∈ ([] : List (Nat × Nat × Nat)), ¬ (e.1 = 1 ∧ e.2.1 = 2)) ∧
    ([(1, 2, 3)].find? fun e : Nat × Nat × Nat => e.1 = 1 ∧ e.2.1 = 2) = some (1, 2, 3) ∧ 17 < 3 + 10 + 5 ∧ 3 + 10 + 5 ≤ 18 ∧
    (∃ l, bindAll [(1, 2, 3)] [tsHop 18] = .ok l) := by
  exact ⟨by decide, by decide, by decide, by decide, [0], rfl⟩

theorem test_hyp_LaunchStartsStepZero :
    ((tsArmed.part 0).plan.st = .armed ∧ (tsArmed.part 0).plan.launchAt = tsArmed.hall ∧ (tsArmed.part 0).frame.missHold = false) ∧
    ((tsArmedHold.part 0).plan.st = .armed ∧ (tsArmedHold.part 0).plan.launchAt ≤ tsArmedHold.hall ∧
      (tsArmedHold.part 0).frame.missHold = true ∧ (tsArmedHold.part 0).frame.shadow ≠ .sealed) := by decide +kernel

/-! ### Tiles -/

/-- A running plan at tick 100, its first step begun; budgets of 128 and 64 bytes a window for group 0; tile 0 at bundle 0. -/
def tsRunPlan : Plan := { st := .running, pc := 100, loaded := some { len := 16384, margin := 1024, budgets := [(0, (128, 64))] } }
def tsRun (x : Tile) : State := { tsPart fun P => { P with plan := tsRunPlan, clock := { P.clock with started := true } } with
  tiles := [(0, { x with bundles := [0, 0, 0] })] }
def tsLoop : LoopDecl := ⟨0, 1, 4, 3, 0, 2⟩
/-- A count at the declared maximum, one above it, and a loop whose span ends in this tick. -/
def tsLoopOk : State := tsRun { loops := [tsLoop], levels := [(1, { count := 4 })] }
def tsLoopBad : State := tsRun { loops := [tsLoop], levels := [(1, { count := 5 })] }
def tsLoopEnd : State := tsRun { levels := [(1, { count := 4, max := 4, body := 3, entry := 89, running := true, waiting := true, shadow := 2 })] }
/-- Landing buffers 0 VALID (its tag that of tick 100), 1 FILLING, 2 EMPTY, of 512 bytes from 0x1000. -/
def tsLandTile : Tile := { lands := [(0, { base := 0x1000, size := 512, st := .valid, landed := 1, tag := 4, retx := 2 }),
  (1, { base := 0x1200, size := 512, st := .filling, landed := 1, xfer := 9, tag := 5 }), (2, { base := 0x1400, size := 512 })]
                           scalars := [(3, 77#64)], store := [(0x400000 - 4, 9), (0x10, 3)], dmem := [(1, 5#64)], mbox := [(0, 6#64)] }
def tsLand : State := tsRun tsLandTile
def tsLandTag : State := tsRun { tsLandTile with lands := [(0, { base := 0x1000, size := 512, st := .valid, landed := 1, tag := 5 })],
                                                 work := [⟨100, 15, 100, 5, 0, .consumed 0⟩] }

theorem test_hyp_LoopsLatchRunAndEnd :
    (tsLoopOk.tilePart 0 = some 0 ∧ (tsLoopOk.part 0).plan.st = .running ∧ (tsLoopOk.part 0).clock.started = true ∧
      (tsLoopOk.tile 0).dueLoop 100 (tsLoopOk.part 0).plan.workEnd = some tsLoop ∧ ((tsLoopOk.tile 0).level 0 1).count = 4) ∧
    (tsLoopBad.tilePart 0 = some 0 ∧ (tsLoopBad.part 0).plan.st = .running ∧ (tsLoopBad.part 0).plan.sf.valid = false ∧
      (tsLoopBad.part 0).clock.started = true ∧ (tsLoopBad.tile 0).dueLoop 100 (tsLoopBad.part 0).plan.workEnd = some tsLoop ∧
      ((tsLoopBad.tile 0).level 0 1).count = tsLoop.max + 1) ∧
    (tsLoopEnd.tilePart 0 = some 0 ∧ ((tsLoopEnd.tile 0).level 0 1).running = true ∧ (tsLoopEnd.tile 0).ended = false ∧
      89 + 4 * 3 = (tsLoopEnd.part 0).plan.pc + 1) := by
  decide +kernel

theorem test_hyp_CanIssue : ∀ slot ∈ [0, 1, 2, 3, 4, 5], CanIssue tsLand tsI 0 slot := by
  unfold CanIssue; decide +kernel

theorem test_hyp_ScalarArithmetic : (tsLandTile.opnd (.imm 0) = 0 ∧ tsLandTile.opnd (.imm 5) ≠ 0) ∧
    (tsLandTile.opnd (.imm (BitVec.intMin 64))).toInt = -2 ^ 63 ∧ (tsLandTile.opnd (.imm (BitVec.allOnes 64))).toInt = -1 := by
  decide +kernel

theorem test_hyp_ScalarMemoryAndCounter :
    (sclAddr 0x3FFF = .dmem 2047 ∧ sclAddr 0x10078 = .mbox 15 ∧ sclAddr 0x7FFFFF = .store (0x400000 - 8) ∧
      sclAddr (BitVec.ofNat 64 (0x20000 + 0x100 + 0x40 * 7)) = .ag 0 (0x100 + 0x40 * 7) ∧ sclAddr 0x4000 = .none) ∧
    ((tsLand.readLs tsI 5 100 (0x400000 - 8) 8 false false).fails = [] ∧
      (tsLand.readLs tsI 5 100 (0x400000 - 8) 8 false false).wait = none) ∧
    (tsI.tile.val / 96 = 0 / 32 ∧ tsLand.owns 0 0 = true ∧ tsLand.owns 0 2 = false ∧ tsI.tile.val / 96 ≠ 63 / 32) := by decide +kernel

theorem test_hyp_ActsLandAtTheEndOfTheirTick :
    ((tsLoopEnd.tile 0).level 0 1).running = true ∧ ((tsLoopOk.tile 0).level 0 1).running = false ∧
    0x3FFFFF < 2 ^ 22 ∧ [1#8, 2#8].length ≤ 2 ^ 22 := by decide +kernel

theorem test_hyp_MatrixEngineIssues :
    ((tsLand.readLs tsI 0 100 0x2000 1024 false false).fails = [] ∧ (tsLand.readLs tsI 0 100 0x2000 1024 false false).wait = none ∧
      (tsLand.readLs tsI 0 100 0x2000 4096 false true).fails = [] ∧ (tsLand.readLs tsI 0 100 0x2000 4096 false true).wait = none ∧
      (tabGet {} tsLandTile.units 0).ends ≤ 100 ∧ (∀ w ∈ tsLandTile.work, w.unit = 0 → w.issue ≠ 100) ∧
      tsLandTile.overruns 0x4000 4096 none = []) := by decide +kernel

theorem test_hyp_VectorUnitIssues :
    (tsLand.readLs tsI 1 100 0x2000 4096 false false).fails = [] ∧ (tsLand.readLs tsI 1 100 0x2000 4096 false false).wait = none := by
  decide +kernel

theorem test_hyp_ReadsConsumeLandingBuffers :
    tsLandTile.overruns 0x1600 512 none = [] ∧ tsLandTile.overruns 0x11FF 1 none = [0] ∧ tsLandTile.landAt 0x1000 = some 0 ∧
    tsLandTile.overruns 0x1000 512 (some 0) = [] ∧ (tsLandTile.land 0).st = .valid ∧
    tsLandTile.landAt 0x1400 = some 2 ∧ (tsLandTile.land 2).st ≠ .valid ∧
    ((tsLandTag.part 0).plan.pc = 100 ∧ ((tsLandTag.tile 0).land 0).tag.toNat ≠ 100 % 16 ∧
      (tsLandTag.tile 0).work = [⟨100, 15, 100, 5, 0, .consumed 0⟩]) := by decide +kernel

/-! ### Sends, flues, beats and boundaries -/

/-- Slots 5: a completed draw, 6: in flight, 7: taken and not complete, 100: issued before and awaited, 101: a lay. -/
def tsFlueTile : Tile := { flue := [(5, { used := true, draw := true, ls := 0x2000, n := 2, addr := 0x100, inRange := true
                                          complete := true, taken := true, data := [1, 2] }),
  (6, { used := true, draw := true, n := 8, inRange := true }), (7, { used := true, n := 8, taken := true, inRange := true }),
  (8, { used := true, n := 8, taken := true, inRange := true, complete := true }),
  (100, { used := true, draw := true, ls := 0x3000, n := 3, addr := 0x200, inRange := true, awaited := true }),
  (101, { used := true, ls := 0x3000, n := 2, addr := 0x300, inRange := true, data := [4, 5] }),
  (102, { used := true, draw := true, ls := 0x3000, n := 2, addr := 0x2000000000, data := [0, 0] })] }
def tsFlue : State := { tsRun tsFlueTile with mem := [(0x100, 1), (0x101, 2), (0x201, 7)] }
def tsBeat (l off xfer : Nat) : Beat := ⟨0, false, 100, 0, l, 1, 5, { tile := 3 }, off, [1, 2, 3], xfer, 0, []⟩
/-- Beats for the EMPTY buffer 2, the FILLING buffer 1 (its own transfer, and another), the VALID buffer 0. -/
def tsBeats (b : Beat) : State := { tsLand with
  beats := [b] }

/-- A path from tile 0 to tile 1, one link east, and the same with a link too many. -/
def tsPath : Path := ⟨0, [⟨.east, 2⟩], 1⟩
def tsPathLong : Path := ⟨0, [⟨.east, 2⟩, ⟨.east, 0⟩], 1⟩

theorem test_hyp_SendInjectsBeats :
    ((tsLand.readLs tsI 2 100 0x2000 512 false false).fails = [] ∧ (tsLand.readLs tsI 2 100 0x2000 512 false false).wait = none) ∧
    (tileClaims 0 1 100 tsPathLong = none ∧ (tileClaims 0 1 100 tsPath).isSome = true) ∧
    (cordClaims 0 0 100 tsPathLong = none ∧ (cordClaims 0 0 100 tsPath).isSome = true) ∧
    (tsI.tile.val / 96 = 9 / 32 ∧ tsLand.owns 0 (9 / 4) = false ∧ tsLand.owns 0 (0 / 4) = true ∧ tsI.tile.val / 96 ≠ 63 / 32) := by
  decide +kernel

/-- Two beats that share a track in plan tick 100, one that does not. -/
def tsClaim (k : Nat) : Claim := ⟨100, .port k true 0⟩
def tsEgBeat : EgBeat := ⟨0, 0, 105, 1, 3, 0, 100, 1, 0, true, [], [1], [tsClaim 2]⟩
def tsTracks : State := { tsLand with
  beats := [{ tsBeat 2 0 4 with claims := [tsClaim 0] }, { tsBeat 2 0 5 with claims := [tsClaim 0] },
  { tsBeat 2 0 6 with claims := [tsClaim 1] }, { tsBeat 2 0 7 with claims := [tsClaim 2] }]
  egBeats := [tsEgBeat] }

theorem test_hyp_SharedTracksLoseTheirBeats : tsTracks.beats.length = 4 ∧ (tsTracks.trackTick 0 100).beats.length = 1 ∧ (tsTracks.trackTick 0 100).egBeats = [] ∧
    tsTracks.beats.all (fun b => b.part = 0 && !b.circuit) = true := by decide +kernel

theorem test_hyp_FlueEntriesIssueInTheirBudget :
    ((tsLandTile.slotEntry 100).used = false ∧ tsLand.flueTarget 0 0 0 128 = some (0, false) ∧
      winCount [] 0 0 + flueCount 0 128 = 128 ∧ tsLand.flueTarget 0 0 0x1000000000 64 = some (1, false) ∧
      tsLand.flueTarget 0 0 0x2000000000 64 = none ∧
      tsLand.flueTarget 0 0 0x10000000000 64 = some (0, true) ∧ winCount [] 0 0 + flueCount 0x10000000000 64 = 64) ∧
    ((tsLand.readLs tsI 4 100 0x2000 128 false false).fails = [] ∧ (tsLand.readLs tsI 4 100 0x2000 128 false false).wait = none) ∧
    ((tsFlueTile.slotEntry 101).used = true ∧ (tsFlueTile.slotEntry 101).taken = false ∧ (tsFlueTile.slotEntry 101).inRange = true ∧
      (tsFlueTile.slotEntry 101).draw = false ∧ (tsFlueTile.slotEntry 100).draw = true ∧ 0x200 + 3 ≤ 2 ^ 52) ∧
    (tabGet (0, 0) ([(0, (1, 64))] : Tab (Nat × Nat)) 0).1 ≠ 100 / 256 ∧ tabWf (0, 0) ([(0, (1, 64))] : Tab (Nat × Nat)) = true := by
  decide +kernel

theorem test_hyp_FlueEntriesCompleteAndAreAwaited :
    (tsFlue.tilePart 0 = some 0 ∧ (tsFlue.part 0).plan.st = .running ∧ (tsFlue.tile 0).wait = none) ∧
    ((tsFlueTile.slotEntry 5).complete = true ∧ (tsFlueTile.slotEntry 5).awaited = false ∧ (tsFlueTile.slotEntry 5).failed = false) ∧
    ((tsFlueTile.slotEntry 6).used = true ∧ (tsFlueTile.slotEntry 6).complete = false) ∧
    ((tsFlueTile.slotEntry 9).used = false ∧ (tsFlueTile.slotEntry 100).awaited = true) ∧
    ((tsFlueTile.slotEntry 7).used = true ∧ (tsFlueTile.slotEntry 7).taken = true ∧ (tsFlueTile.slotEntry 7).complete = false ∧
      tsFlue.badWords = []) := by decide +kernel

theorem test_hyp_BeatsFillLandingBuffers :
    (∀ b : Beat, b ∈ [tsBeat 2 0 4, tsBeat 1 511 9, tsBeat 1 0 8, tsBeat 0 512 1] →
      takeBeat (fun c => c.tile = 0 ∧ c.landing = b.landing ∧ (tsBeats b).beatDue c) (tsBeats b).beats = some (b, [])) ∧
    ((tsLandTile.land 2).st = .empty ∧ (tsLandTile.land 1).st = .filling ∧ (tsLandTile.land 1).xfer = 9 ∧
      (tsLandTile.land 0).st = .valid ∧ 0 < (tsLandTile.land 2).size ∧ tsLandTile.wait = none) ∧
    ((tsLand.part 0).plan.st = .running ∧ (tsLand.part 0).plan.sf.valid = false) := by decide +kernel

/-- Step 0 of a plan of steps of 16,384 ticks: a free beat, a beat at which tile 3 waits, a launch that waits for its seal, a first
beat. -/
def tsStep (pc : Nat) (c : Clock) (f : Frame) (ts : Tab Tile) : State := { tsPart fun P => { P with
  plan := { st := .running, pc := pc, loaded := some { len := 16384, margin := 1024 } }, clock := c, frame := f } with tiles := ts }
def tsTickFree : State := tsStep 100 { beat := 100, lastBeat := some 999, started := true } {} []
def tsTickHeld : State :=
  tsStep 100 { beat := 100, lastBeat := some 999, started := true, inHold := true } {} [(3, { wait := some (.await 4) })]
def tsTickSeal : State := tsStep 0 { beat := 100, lastBeat := some 999 } { missHold := true, launchWait := true } []
def tsTickFirst : State := tsStep 0 {} {} []
/-- The boundary into step 1: the counter in the margin, G(1) = 16,384 reached; and the same under a STOP. -/
def tsBoundary : State := tsStep 15360 { beat := 16384, lastBeat := some 999, sched := 1, started := true } {}
  [(3, { mboxIn := [⟨2, none, 5, 900⟩, ⟨3, some 1, 6, 1000⟩] })]
def tsBoundaryStop : State := tsBoundary.updPlan 0 fun x => { x with stopReq := true }

theorem test_hyp_BeatsAdvanceOrHoldThePlan :
    ((tsTickFree.part 0).clock.pend = false ∧
      (let d := tsTickFree.damperNow 0
       let e := d.endPrev 0
       (d.part 0).plan.st = .running ∧ d.beatNow 0 = true ∧ (e.part 0).plan.st = .running ∧ (e.part 0).clock.beat = 100 ∧
       100 < (e.part 0).clock.g 16384 1 ∧ e.frozen 0 = false ∧ (e.part 0).clock.started = true ∧ e.boundaryDue 0 100 = false ∧
       e.waiting 0 = none ∧ (e.part 0).plan.pc + 1 ≠ ((e.part 0).plan.step + 1) * 16384)) ∧
    (let e := (tsTickHeld.damperNow 0).endPrev 0
     (tsTickHeld.damperNow 0).beatNow 0 = true ∧ (e.part 0).plan.st = .running ∧ e.waiting 0 = some (3, 2) ∧
     e.boundaryDue 0 100 = false) ∧
    (let e := (tsTickSeal.damperNow 0).endPrev 0
     (tsTickSeal.damperNow 0).beatNow 0 = true ∧ (e.part 0).plan.st = .running ∧ (e.part 0).frame.launchWait = true ∧
     e.isSealed 0 = false ∧ (e.part 0).clock.started = false) ∧
    (let e := (tsTickFirst.damperNow 0).endPrev 0
     (tsTickFirst.damperNow 0).beatNow 0 = true ∧ (e.part 0).clock.started = false ∧ (e.part 0).frame.launchWait = false ∧
     0 < (e.part 0).clock.g 16384 1 ∧ e.boundaryDue 0 0 = false) ∧
    ((({ tsTickFree with hall := 999 } : State).damperNow 0).beatNow 0 = false) := by decide +kernel

theorem test_hyp_BoundaryBeginsTheNextStep : ∀ s ∈ [tsBoundary, tsBoundaryStop],
    let d := s.damperNow 0
    (d.part 0).plan.st = .running ∧ d.quiet 0 = true ∧ (∀ k ∈ d.tilesOf 0, (d.tile k).ended = true ∨ (d.tile k).loops = []) ∧
    d.beatNow 0 = true ∧ 16384 < (d.part 0).clock.g 16384 ((d.part 0).clock.sched + 1) ∧ d.boundaryDue 0 16384 = true ∧
    d.boundaryWait 0 = none ∧ d.boundaryFails 0 16384 = [] ∧
    ((d.tilesOf 0).any fun k => (d.tile k).flue.any fun e => e.2.used && e.2.failed && !e.2.awaited) = false := by decide +kernel

/-! ### Ember cores, pages, frames, budgets -/

def tsMail (c : Core) : State := { tsUp with mail := [⟨0, 0, 0, leBytes 16 7⟩], cores := [(0, c)] }
/-- 63 entries and then 64 in the ring; a disabled core; nothing on its way. -/
def tsMailRoom : State := tsMail { mbHead := 3, mbTail := 68 }
def tsMailFull : State := tsMail { mbHead := 4, mbTail := 68 }
def tsMailOff : State := { tsMail {} with groups := [(0, { st := .assigned, owner := 0, coresOff := 1 })] }
/-- Steal queues: core 0 empty, core 1 one entry, core 4 two. -/
def tsSteal : State := { tsUp with cores := [(0, { sqWord0 := 9 }), (1, { sq := [(5, 6)] }), (4, { sq := [(7, 8), (9, 10)] })] }
def tsStealFull : State := { tsUp with cores := [(0, { sqWord0 := 9, sq := List.replicate 256 (1, 2) })] }
def tsServe (n : Nat) : State := tsPart fun P => { P with serving := { imgBase := 0x30000000000, imgLen := n } }

theorem test_hyp_MailboxRingFillsAndDrops :
    (∀ s ∈ [tsMailRoom, tsMailFull, tsMailOff], takeMail (fun e => e.core = 0 ∧ e.due ≤ (s.part e.part).plan.pc) s.mail =
      some (⟨0, 0, 0, leBytes 16 7⟩, [])) ∧
    (((tsMailRoom.core 0).mbHead + 128 - (tsMailRoom.core 0).mbTail) % 128 = 63 ∧ tsMailRoom.coreOff 0 = false) ∧
    ((tsMailFull.core 0).mbHead + 128 - (tsMailFull.core 0).mbTail) % 128 = 64 ∧ tsMailOff.coreOff 0 = true ∧
    takeMail (fun e => e.core = 0 ∧ e.due ≤ (tsUp.part e.part).plan.pc) tsUp.mail = none ∧
    (tsMailFull.ownerOf 0 = some 0 ∧ (tsMailFull.core 0).run = .running ∧ (4 + 128 - 68) % 128 ≤ 64 ∧ 64 < (4 + 128 - 67) % 128) := by
  decide +kernel

theorem test_hyp_TmbxWritesEnterThePendingCopy : CoreActs tsUp 0 0 ∧ (tsUp.tilePart 3 = some 0 ∧ 3 / 96 = 0 / 32) ∧
    tsUp.tilePart 30 ≠ some 0 := by
  unfold CoreActs; decide +kernel

theorem test_hyp_StealQueuesGiveEachEntryOnce : (CoreActs tsSteal 0 0 ∧ CoreActs tsStealFull 0 0 ∧ CoreActs tsSteal 1 0) ∧
    ((tsStealFull.core 0).sq.length = 256 ∧ (tsSteal.core 1).sqWord0 = 0) ∧
    ((tsSteal.core 0).sq.length ≠ 256 ∧ (tsSteal.core 0).sqWord0 ≠ 0 ∧ (tsSteal.core 0).sq = []) ∧
    (tsSteal.core 1).sq = [(5, 6)] ∧ tsSteal.victim 0 0 = some 4 ∧ tsUp.victim 0 0 = none := by
  unfold CoreActs; decide +kernel

theorem test_hyp_ServingBlockAndTrapsStopCores :
    (tsUp.fnReady 0 = true ∧ (tsUp.part 0).plan.st = .empty ∧ (tsUp.part 0).serving.imgLen = 0) ∧
    ((tsServe 0x2000000).fnReady 0 = true ∧ (tsServe 0x2000000).storeRange 0 0x30000000000 0x2000000 = false ∧
      (tsServe 0x800000).storeRange 0 0x30000000000 0x800000 = true) ∧
    (tsLand.fnReady 0 = true ∧ (tsLand.part 0).plan.st = .running) ∧ CoreActs tsUp 0 0 := by
  unfold CoreActs; decide +kernel

/-- A pool of four pages of group 0: OWNED with REFS 1, SHARED at the limit, RELEASING, and one FREE. -/
def tsPages : State := tsPart fun P => { P with alloc := { enable := true, pools := [(0, { pages := 6, hdr := 0x100000 })]
                                                           pages := [(0, { st := .owned, refs := 1 }), (1, { st := .shared, refs := 65535 }),
                                                             (2, { st := .releasing }), (4, { st := .shared, refs := 2 }), (5, { st := .shared, refs := 1 })] } }
def tsOnePage : State := tsPart fun P => { P with alloc := { enable := true, pools := [(0, { pages := 1 })] } }
def tsPoolBad : State := tsPart fun P => { P with alloc := { pools := [(1, { pages := 1, base := 0 })] } }

theorem test_hyp_PagesAreAllocatedAndCounted : CoreActs tsPages 0 0 ∧
    (∀ h, h < 6 → tsPages.handleOk 0 h = true) ∧
    (((tsPages.part 0).alloc.page 0).st = .owned ∧ ((tsPages.part 0).alloc.page 0).refs = 1 ∧
      ((tsPages.part 0).alloc.page 1).st = .shared ∧ ((tsPages.part 0).alloc.page 1).refs = 65535 ∧
      ((tsPages.part 0).alloc.page 2).st = .releasing ∧ ((tsPages.part 0).alloc.page 3).st = .free ∧
      ((tsPages.part 0).alloc.page 4).st = .shared ∧ 1 < ((tsPages.part 0).alloc.page 4).refs) ∧
    (tsUp.pickPage 0 0 = none ∧ (tsUp.part 0).alloc.enable = false ∧ (∀ b ∈ tsUp.groupsOf 0, tsUp.poolOk 0 b = true)) ∧
    ((tsPoolBad.part 0).alloc.enable = false ∧ (tsPoolBad.groupsOf 0).find? (fun k => ¬ tsPoolBad.poolOk 0 k) = some 1) ∧
    tsOnePage.pickPage 0 0 = some 0 := by
  refine ⟨by unfold CoreActs; decide +kernel, by decide +kernel, by decide +kernel, by decide +kernel, by decide +kernel, ?_⟩
  unfold State.pickPage
  dsimp only
  rw [if_pos (by decide +kernel)]
  generalize Config.pageChoice tsOnePage.serial = n
  show Alloc.findFree (tsOnePage.part 0).alloc 0 (n % 1) 1 = some 0
  rw [Nat.mod_one]
  decide +kernel

/-- A shadow SEALING at buffer 0 of the area at 0x10000; STE 5 ACTIVE in the table at 0x20000, STE 6 FREE; a walk of STE 5. -/
def tsFrames (sh : Shadow) : State := { tsPart fun P => { P with
  plan := { st := .loaded }, frame := { area := 0x10000, slotCeil := 1, target := 3, shadow := sh, ste := 0x20000, walks := [5] } } with
  mem := [(0x20000 + 640, 2), (0x20000 + 642, 7)] }

theorem test_hyp_SealsMoveTheShadow : CoreActs (tsFrames .open_) 0 0 ∧ CoreActs tsUp 0 0 ∧
    (((tsFrames .open_).part 0).plan.st ≠ .empty ∧ ((tsFrames .open_).part 0).frame.shadow = .open_) ∧
    (tsUp.part 0).plan.st = .empty ∧ (((tsFrames .sealing).part 0).frame.shadow = .sealing ∧ ((tsFrames .sealing).part 0).frame.mirror = 0) ∧
    ((tsFrames .sealed).part 0).frame.shadow = .sealed ∧ CoreActs (tsFrames .sealed) 0 0 := by
  unfold CoreActs; decide +kernel

theorem test_hyp_SequencesAreReleasedAtTheBoundary : CoreActs (tsFrames .open_) 0 0 ∧ (tsFrames .open_).steMapped 0 5 = true ∧
    (tsFrames .open_).steState 0 5 = 2 ∧ ((tsFrames .open_).steMapped 0 6 = true ∧ (tsFrames .open_).steState 0 6 = 0) ∧ ((tsFrames .open_).part 0).frame.shadow = .open_ ∧
    (∀ e ∈ ((tsFrames .open_).part 0).frame.queue, e.ste ≠ 5) ∧ ((tsFrames .open_).part 0).frame.walks = 5 :: [] := by
  unfold CoreActs; decide +kernel

/-- Budget entry 0 of the range, two refills due; and an entry outside it. -/
def tsBudget : State := { tsPart fun P => { P with btFirst := 0, btCount := 4 } with
  budgets := [(0, { balance := 5, refill := 10, cap := 22, period := 300, next := 500 })], cores := [(4, { btSel := 4 })] }

theorem test_hyp_BudgetsRefillBeforeUse : tsBudget.agentOk (.core 0) = true ∧ tsBudget.btEntry (.core 0) = some 0 ∧
    tsBudget.agentOk (.host 0) = true ∧ tsBudget.btEntry (.host 0) = some 0 ∧
    tsBudget.agentOk (.core 4) = true ∧ tsBudget.btEntry (.core 4) = none := by decide +kernel

/-! ### The prefix hash unit, the banking engine, weights -/

def tsKey : BitVec 256 := 5
/-- The chain value of block 0 with tokens all 0, and the handle key of handle 7. -/
def tsChain : Nat := chainOf tsKey 0 (List.replicate 256 0#8)
def tsHandleKey : Nat := handleKey tsKey 7
/-- A directory entry: key, block 0, kind, PREV, CHILDREN, layers 1, LIST, PINS. -/
def tsEntry (key kind prev children list pins : Nat) : List Byte :=
  leBytes 16 key ++ leBytes 4 0 ++ leBytes 4 (kind * 2 ^ 24 + 2 ^ 25) ++ leBytes 4 prev ++ leBytes 2 children ++ leBytes 1 1 ++
  leBytes 1 0 ++ leBytes 8 list ++ leBytes 8 0 ++ leBytes 4 0 ++ leBytes 4 pins ++ leBytes 8 0
/-- STE 5: STATE, COMMITTED, layers 1, `roots` root blocks, page directory at 0x80000. -/
def tsSteOf (roots st committed : Nat) : List Byte :=
  leBytes 4 st ++ leBytes 4 committed ++ leBytes 21 0 ++ leBytes 1 1 ++ leBytes 2 roots ++ leBytes 8 0x80000
def tsSte : Nat → Nat → List Byte := tsSteOf 1
/-- A prefix unit of one bucket at 0x40000, its share-group table at 0x50000, and one page of group 0. -/
def tsPrefix (ph : PhRegs) (m : List (Nat × List Byte)) : State := { tsPart fun P => { P with
  frame := { ste := 0x20000 }
  phu := { enable := true, base := 0x40000, sgBase := 0x50000, sgCount := 1, keys := [(0, tsKey)] }
  alloc := { enable := true, pools := [(0, { pages := 1, hdr := 0x100000 })], pages := [(0, { st := .owned, refs := 1 })] } } with
  cores := [(0, { ph := ph })]
  mem := tsMem (m ++ [(0x50000, [1]), (0x80000, leBytes 8 0x90000)]) }
def tsPhRegs : PhRegs := { ste := 5, tokens := 0x60000, handle := 7, blocks := 1, plist := 0x70000 }
def tsLookMiss : State := tsPrefix tsPhRegs [(0x20280, tsSte 1 0)]
def tsLookHit : State := tsPrefix tsPhRegs [(0x20280, tsSte 1 0), (0x40000, tsEntry tsChain 0 0xFFFFFFFF 0 0x70000 0)]
def tsLookHandle : State := tsPrefix tsPhRegs [(0x20280, tsSte 1 0), (0x40000, tsEntry 0 0 0xFFFFFFFF 0 0x70000 1),
  (0x40040, tsEntry tsHandleKey 1 0 0 7 0)]
/-- An ACTIVE sequence of 64 tokens whose one page is private, and an empty directory. -/
def tsInsert : State := tsPrefix tsPhRegs [(0x20280, tsSte 2 64), (0x90000, [1])]
/-- REMOVE of a handle entry, of a block entry in use, of one that is not; REGISTER of that one. -/
def tsRemove (d : Nat) : State := tsPrefix { entry := d, handle := 7 } [(0x40000, tsEntry 0 0 0xFFFFFFFF 0 0x70000 1), (0x40040, tsEntry 1 1 0 0 7 0),
  (0x40080, tsEntry 2 0 0xFFFFFFFF 0 0x70000 0)]
def tsPhuOff (bits : Nat) : State := tsPart fun P => { P with phu := { bits := bits } }

/-- Banking: STE 5 in a state, one turf page and one near page, a ring of 4. -/
def tsBankSte (roots st l0 l1 : Nat) (b : Banking) : State := { tsPart fun P => { P with
  frame := { ste := 0x20000 }, bank := b
  alloc := { enable := true, pools := [(0, { pages := 2, hdr := 0x100000 })], pages := [(0, { st := .owned, refs := 1 })] } } with
  cores := [(0, { reg := { bkSte := 5, bkTtl := 9 } }), (1, { reg := { bkSte := 5, bkGroup := 2 } })]
  mem := tsMem [(0x20280, tsSteOf roots st 64), (0x80000, leBytes 8 0x90000), (0x90000, leBytes 4 l0 ++ leBytes 12 0 ++ leBytes 4 l1)] }
def tsBank0 : Banking := { enable := true, turfBase := 0x10000000000, turfSlots := 1, tagBase := 0x30000, cqLog2 := 2 }
def tsBankPaused : State := tsBankSte 0 3 1 0 tsBank0
def tsBankedSte : State := tsBankSte 0 5 0 0 { tsBank0 with turfUsed := [0], order := [5] }
def tsBankJob (j : BankJob) : State := tsBankSte 1 4 0 0 { tsBank0 with jobs := [j], cqBase := 0x50000000000 }
def tsBankFull : State := tsBankSte 1 4 0 0 { tsBank0 with jobs := [{ ste := 5, bank := true, moving := true }], cqHead := 4 }
def tsMigrate (high : Nat) : State := (tsBankSte 1 5 2 0 { tsBank0 with
  turfUsed := [0], order := [5], high := high, low := 0, farBase := 0x50000000000, farSlots := 131072 }).updPart 0 fun P => { P with
  sec := { wins := [(0, { base := 0x50000000000, size := 0x10000, target := 0, enable := true })] } }

/-- With one bucket, every key's bucket is the whole directory. -/
theorem test_bucket (s : State) (p k : Nat) (h : (s.part p).phu.bits = 0) : s.bucket p k = [0, 1, 2, 3] := by
  unfold State.bucket
  rw [h, pow_zero, Nat.mod_one]
  rfl

theorem test_hyp_PrefixLookupsMapConfirmedBlocks_refused : CoreActs (tsPrefix { tsPhRegs with sg := 4 } []) 0 0 ∧
    (tsPrefix { tsPhRegs with sg := 4 } []).steMapped 0 5 = true ∧
    (tsPrefix { tsPhRegs with sg := 4 } []).lookRefuse 0 4 5 1 ≠ 0 ∧
    (CoreActs (tsPrefix { taken := some 1000 } []) 0 0 ∧ ((tsPrefix { taken := some 1000 } []).core 0).ph.taken = some 1000) ∧
    (CoreActs tsUp 0 0 ∧ (tsUp.part 0).phu.enable = false ∧ (tsUp.core 0).ph.taken = none) := by
  unfold CoreActs; decide +kernel

theorem test_firstGood_none (s : State) (key : Nat) (tok : List Byte) (h : (s.part 0).phu.bits = 0)
    (hv : ∀ d ∈ [0, 1, 2, 3], s.deValid 0 (s.dirAt 0 d) = false) : s.firstGood 0 0 key 0 tok 0xFFFFFFFF = (none, 0) := by
  unfold State.firstGood State.candidates
  rw [test_bucket _ _ _ h, List.filter_eq_nil_iff.2 (by intro d hd; simp [hv d hd])]
  rfl

theorem test_hyp_PrefixLookupsMapConfirmedBlocks_missed : CoreActs tsLookMiss 0 0 ∧ (tsLookMiss.part 0).phu.enable = true ∧
    (tsLookMiss.core 0).ph.taken = none ∧ tsLookMiss.steMapped 0 5 = true ∧ tsLookMiss.lookRefuse 0 0 5 1 = 0 ∧
    tsLookMiss.anyRange 0 0x60000 256 = true ∧ tsLookMiss.tableGaps 0 (tsLookMiss.stePdir 0 5) 1 = [] ∧
    tsLookMiss.phKey 0 0 = (tsLookMiss, tsKey) ∧ tsLookMiss.firstGood 0 0 tsChain 0 (List.replicate 256 0#8) 0xFFFFFFFF = (none, 0) ∧
    tsLookMiss.findHandle 0 0 tsHandleKey 7 = none := by
  refine ⟨by unfold CoreActs; decide +kernel, by decide +kernel, by decide +kernel, by decide +kernel, by decide +kernel, by decide +kernel,
    by decide +kernel, rfl, test_firstGood_none _ _ _ rfl (by decide +kernel), ?_⟩
  unfold State.findHandle
  rw [test_bucket _ _ _ rfl]
  decide +kernel

theorem test_hyp_PrefixLookupsMapConfirmedBlocks_hit : CoreActs tsLookHit 0 0 ∧ tsLookHit.lookRefuse 0 0 5 1 = 0 ∧
    tsLookHit.phKey 0 0 = (tsLookHit, tsKey) ∧ (0 : Nat) ∈ tsLookHit.candidates 0 0 tsChain 0 ∧
    tsLookHit.pBytes 0 0x60000 256 = List.replicate 256 0#8 ∧
    tsLookHit.confirm 0 0 0 0 (List.replicate 256 0#8) 0xFFFFFFFF = true ∧ tsLookHit.blockFull 0 (tsLookHit.dirAt 0 0) 1 = false := by
  refine ⟨by unfold CoreActs; decide +kernel, by decide +kernel, rfl, ?_, by decide +kernel, by decide +kernel, by decide +kernel⟩
  have hk : tsLookHit.deKey 0 (tsLookHit.dirAt 0 0) = tsChain := by
    show leNat (leBytes 16 tsChain) = tsChain
    exact leNat_leBytes 16 _ (Nat.mod_lt _ (by decide))
  unfold State.candidates
  rw [test_bucket _ _ _ rfl, List.mem_filter]
  simp only [hk]
  decide +kernel

theorem test_hyp_PrefixLookupsMapConfirmedBlocks_handle : CoreActs tsLookHandle 0 0 ∧ tsLookHandle.lookRefuse 0 0 5 1 = 0 ∧
    tsLookHandle.phKey 0 0 = (tsLookHandle, tsKey) ∧ tsLookHandle.findHandle 0 0 tsHandleKey 7 = some 1 ∧
    tsLookHandle.walkChain 0 0 1 0 0 = some [0] ∧ tsLookHandle.blockFull 0 (tsLookHandle.dirAt 0 0) 1 = false := by
  refine ⟨by unfold CoreActs; decide +kernel, by decide +kernel, rfl, ?_, by decide +kernel, by decide +kernel⟩
  unfold State.findHandle
  rw [test_bucket _ _ _ rfl]
  decide +kernel

theorem test_hyp_PrefixLookupsMapConfirmedBlocks_insert : CoreActs tsInsert 0 0 ∧ tsInsert.steState 0 5 = 2 ∧
    tsInsert.steCommitted 0 5 = 64 ∧ (tsInsert.blockPtes 0 5 0).headD none = some 0x90000 ∧ tsInsert.pteLoc 0 0x90000 = 1 ∧
    tsInsert.handleOk 0 (tsInsert.pteHandle 0 0x90000) = true ∧ tsInsert.blockPrivate 0 5 0 = true ∧
    tsInsert.anyRange 0 0x70000 4 = true ∧ tsInsert.nearRange 0 0x40000 256 = true ∧
    tsInsert.memBytes (tsInsert.hdrAddr 0 0 + 0x40) 256 = List.replicate 256 0#8 ∧
    tsInsert.firstGood 0 0 tsChain 0 (List.replicate 256 0#8) 0xFFFFFFFF = (none, 0) ∧ tsInsert.freeWay 0 tsChain = some 0 := by
  refine ⟨by unfold CoreActs; decide +kernel, by decide +kernel, by decide +kernel, by decide +kernel, by decide +kernel,
    by decide +kernel, by decide +kernel, by decide +kernel, by decide +kernel, by decide +kernel,
    test_firstGood_none _ _ _ rfl (by decide +kernel), ?_⟩
  unfold State.freeWay
  rw [test_bucket _ _ _ rfl]
  decide +kernel

theorem test_hyp_PrefixDirectoryComesAndGoes_remove :
    (∀ d, d < 3 → ((tsRemove d).part 0).phu.enable = true ∧ ((tsRemove d).part 0).phu.bits ≤ 22 ∧ ((tsRemove d).core 0).ph.entry = d ∧
      ((tsRemove d).core 0).ph.taken = none ∧ (tsRemove d).nearRange 0 0x40000 256 = true ∧
      d < 4 * 2 ^ ((tsRemove d).part 0).phu.bits ∧ (tsRemove d).deValid 0 ((tsRemove d).dirAt 0 d) = true) ∧
    (tsRemove 1).deKind 0 ((tsRemove 1).dirAt 0 1) = 1 ∧ (tsRemove 1).dePrev 0 ((tsRemove 1).dirAt 0 1) = 0 ∧
    ((tsRemove 0).deKind 0 ((tsRemove 0).dirAt 0 0) = 0 ∧ (tsRemove 0).dePins 0 ((tsRemove 0).dirAt 0 0) ≠ 0) ∧
    (tsRemove 2).deKind 0 ((tsRemove 2).dirAt 0 2) = 0 ∧ (tsRemove 2).deChildren 0 ((tsRemove 2).dirAt 0 2) = 0 ∧
    (tsRemove 2).dePins 0 ((tsRemove 2).dirAt 0 2) = 0 ∧ (tsRemove 2).anyRange 0 0x70000 4 = true := by decide +kernel

theorem test_hyp_PrefixDirectoryComesAndGoes_register : CoreActs tsLookHit 0 0 ∧ tsLookHit.deKind 0 (tsLookHit.dirAt 0 0) = 0 ∧
    tsLookHit.deSg 0 (tsLookHit.dirAt 0 0) = 0 ∧ tsLookHit.dePins 0 (tsLookHit.dirAt 0 0) < 65535 ∧
    (tsLookHit.findHandle 0 0 tsHandleKey 7).isSome = false ∧ tsLookHit.freeWay 0 tsHandleKey = some 1 ∧
    ((tsPhuOff 8).part 0).phu.enable = false ∧ (tsPhuOff 22).nearRange 0 0 (2 ^ 22 * 256) = true := by
  refine ⟨by unfold CoreActs; decide +kernel, by decide +kernel, by decide +kernel, by decide +kernel, ?_, ?_, by decide +kernel, by decide +kernel⟩
  · unfold State.findHandle
    rw [test_bucket _ _ _ rfl]
    decide +kernel
  · unfold State.freeWay
    rw [test_bucket _ _ _ rfl]
    decide +kernel

theorem test_hyp_BankingMovesSequences_commands :
    (∀ s ∈ [tsBankPaused, tsBankedSte], s.ownerOf 0 = some 0 ∧ (s.core 0).run = .running ∧ (s.part 0).bank.enable = true ∧
      s.steMapped 0 5 = true ∧ (s.part 0).bank.canRun = true ∧ s.tableGaps 0 (s.stePdir 0 5) (s.tableSize 0 5) = []) ∧
    (tsBankPaused.steState 0 5 = 3 ∧ (tsBankPaused.part 0).bank.turfUsed.length + (tsBankPaused.toMove 0 5).length ≤ (tsBankPaused.part 0).bank.turfSlots) ∧
    (tsBankFull.part 0).bank.canRun = false ∧ tsBankFull.steMapped 0 5 = true ∧ tsBankFull.ownerOf 0 = some 0 ∧
    (tsBankedSte.steState 0 5 = 5 ∧ tsBankedSte.owns 0 0 = true ∧ tsBankedSte.owns 0 2 = false ∧
      (tsBankedSte.banked 0 5).length ≤ (tsBankedSte.part 0).alloc.freeCount 0) := by decide +kernel

/-- No turf slot is free: a BANK is DEFERRED. -/
theorem test_hyp_BankingMovesSequences_deferred :
    let s := tsBankSte 0 3 1 0 { tsBank0 with turfUsed := [0, 1] }
    s.steState 0 5 = 3 ∧ (s.part 0).bank.turfSlots < (s.part 0).bank.turfUsed.length + (s.toMove 0 5).length ∧
      s.tableGaps 0 (s.stePdir 0 5) (s.tableSize 0 5) = [] := by decide +kernel

theorem test_ptes_length (s : State) (p ste : Nat) : (s.ptes p ste).length ≤ s.steRootBlocks p ste * 131072 := by
  unfold State.ptes
  rw [List.length_flatMap]
  refine le_trans (List.sum_le_card_nsmul _ 256 ?_) ?_
  · intro x hx
    obtain ⟨k, -, rfl⟩ := List.mem_map.1 hx
    dsimp only
    split <;> simp
  · simp only [List.length_map, List.length_range, smul_eq_mul]
    omega

/-- A sequence in turf above BK_HIGH, with room in the far pool. -/
def tsMigrating : State := (tsMigrate 0).updBank 0 fun b => b.watch

theorem test_hyp_BankingMovesSequences_farRoom : (tsMigrating.part 0).bank.farUsed.length +
    ((tsMigrating.banked 0 5).filter fun e => tsMigrating.pteLoc 0 e.2 = 2).length ≤ (tsMigrating.part 0).bank.farTotal := by
  have h := test_ptes_length tsMigrating 0 5
  have h2 : tsMigrating.steRootBlocks 0 5 = 1 := by decide +kernel
  have h3 : (tsMigrating.part 0).bank.farTotal = 131072 := by decide +kernel
  have h4 : (tsMigrating.part 0).bank.farUsed.length = 0 := by decide +kernel
  rw [h3, h4, Nat.zero_add]
  refine le_trans (List.length_filter_le _ _) (le_trans (List.length_filter_le _ _) (le_trans h ?_))
  rw [h2]

theorem test_hyp_BankingMovesSequences_events :
    ((tsBankJob { ste := 5, bank := true, ready := true }).part 0).bank.jobs = [{ ste := 5, bank := true, ready := true }] ∧
    ((tsBankJob { ste := 5, bank := true, moving := true }).steMapped 0 5 = true ∧
      ((tsBankJob { ste := 5, bank := true, moving := true }).part 0).bank.canRun = true) ∧
    (tsBankFull.part 0).bank.canRun = false ∧
    ((tsBankSte 1 6 0 0 { tsBank0 with jobs := [{ ste := 5, bank := false }], cqHead := 4 }).part 0).bank.canRun = false ∧
    ((tsBankJob { ste := 5, bank := false }).part 0).bank.jobs = [{ ste := 5, bank := false }] ∧
    ((tsMigrate 1).part 0).bank.migrating = false ∧
    (tsMigrating.farUp 0 = true ∧ (tsMigrating.part 0).bank.migrating = true ∧
      (tsMigrating.part 0).bank.order.find? (fun i => decide (tsMigrating.steState 0 i = 5 ∧ (tsMigrating.banked 0 i).filter
        (fun e => tsMigrating.pteLoc 0 e.2 = 2) ≠ [])) = some 5) ∧
    ((tsUp.part 0).bank.enable = false ∧ (tsUp.part 0).bank.recs = [] ∧ (tsUp.part 0).bank.waiting = []) ∧
    (let s := tsPart fun P => { P with bank := { recs := [[1]], cqHead := 3, cqTail := 1 } }
     s.ownerOf 0 = some 0 ∧ ({ (s.part 0).bank with cqTail := (2#32).toNat } : Banking).room = 0) ∧
    (let b : Banking := { turfSlots := 3, turfBase := 0x10000000000 }
     tsUp.turfRange 0 b.turfBase (b.turfSlots * slotSize {}) = true ∧ tsUp.nearRange 0 b.tagBase (32 * (b.turfSlots + b.farTotal)) = true ∧
     tsUp.turfRange 0 0 (b.turfSlots * slotSize {}) = false) := by decide +kernel

/-! ### Shard contexts, layers, the weight epoch, overlays -/

/-- The record of context 0 at 0xA0000: OP, KEY_SLOT 1, default engine, layer 0, index 3, LENGTH 64, ADDR 0xB0000. -/
def tsCtxRec (op key : Nat) : List Byte :=
  leBytes 1 0 ++ leBytes 1 op ++ leBytes 1 key ++ leBytes 1 0xFF ++ leBytes 2 0 ++ leBytes 2 3 ++ leBytes 4 64 ++ leBytes 4 0 ++
  leBytes 8 0xB0000
def tsWts (w : Weights) (m : List (Nat × List Byte)) : State := { tsPart fun P => { P with
  wts := { w with ctxBase := 0xA0000 }, sec := { slots := [(1, { valid := true, use := 1, key := 9 })] } } with mem := tsMem m }
def tsLayer1 : Weights := { layers := [(0, { pending := 1 })] }
def tsArm (op key : Nat) (w : Weights) : State := tsWts w [(0xA0000, tsCtxRec op key)]
/-- A context of 64 bytes at 0xB0000. -/
def tsCtx (st : Nat) (opened : Bool) : ShardCtx :=
  { st := st, opened := opened, keySlot := 1, len := 64, index := 3, addr := 0xB0000 }
def tsCtxS (x : ShardCtx) : State := tsWts { tsLayer1 with ctxs := [(0, x)] } []
/-- The context that `bytes` at 0 fill, its tag the one they carry. -/
def tsCtxFull (w : Weights) : State := tsWts { w with ctxs := [(0, { tsCtx 1 true with
  tag := (Config.gcmSeal 9 [] [] (Config.gcmStream 9 [] 0 (rdBytes (wrBytes [] 0 (List.replicate 64 7#8)) 0 64))).2 })] } []
/-- A RESEAL context whose tag is that of its range, all zeros, plus `d`. -/
def tsReseal (d : BitVec 128) : State :=
  tsCtxS { tsCtx 1 false with tag := (Config.gcmSeal 9 [] [] (List.replicate 64 0#8)).2 + d }
def tsEpoch (st : PlanState) (w : Weights) : State := (tsWts w []).updPart 0 fun P => { P with plan := { st := st } }
/-- Handle 1 LIVE at 0xC0040, record A at GEN 1, GST 2, PINS `n`. -/
def tsOverlay (n : Nat) : State :=
  tsWts { ovBase := 0xC0000, ovCount := 4, handles := [1], armed := true } [(0xC0048, leBytes 1 1 ++ leBytes 1 2 ++ leBytes 2 n)]

theorem test_hyp_ShardsArmOpenAndReseal_arm :
    (CoreActs (tsArm 1 1 tsLayer1) 0 0 ∧ ((tsArm 1 1 tsLayer1).part 0).wts.ctx 0 = {} ∧
      (tsArm 1 1 tsLayer1).mappedRange 0 0xA0000 128 = true ∧ ((tsArm 1 1 tsLayer1).armCheck 0 0).st = 1) ∧
    (((tsArm 1 2 tsLayer1).armCheck 0 0).st = 7 ∧ (tsArm 1 2 tsLayer1).mappedRange 0 0xB0000 64 = true ∧
      ((tsArm 1 2 tsLayer1).armCheck 0 0).addr = 0xB0000 ∧ ((tsArm 1 2 tsLayer1).armCheck 0 0).len = 64) ∧
    (CoreActs (tsCtxS (tsCtx 1 true)) 0 0 ∧ (((tsCtxS (tsCtx 1 true)).part 0).wts.ctx 0).st = 1 ∧
      (((tsCtxS (tsCtx 2 false)).part 0).wts.ctx 0).opened = false) ∧
    ((tsArm 1 1 tsLayer1).updWts 0 fun w => { w with ctxBase := 0xF00000000000 }).mappedRange 0 0xF00000000000 128 = false := by
  unfold CoreActs; decide +kernel

theorem test_hyp_ShardsArmOpenAndReseal_verified (d : BitVec 128) : (((tsReseal d).part 0).wts.ctx 0).st = 1 ∧
    (((tsReseal d).part 0).wts.ctx 0).opened = false ∧
    (((tsReseal d).shardSeal 0 (((tsReseal d).part 0).wts.ctx 0) ((tsReseal d).memBytes 0xB0000 64)).2 = (((tsReseal d).part 0).wts.ctx 0).tag ↔
      d = 0) := by
  have hm : (tsReseal d).memBytes 0xB0000 64 = List.replicate 64 0#8 := by
    show (tsCtxS {}).memBytes 0xB0000 64 = _
    decide +kernel
  have hk : ((tsReseal d).modelKey 0 1).getD 0 = 9 := rfl
  have ht : (((tsReseal d).part 0).wts.ctx 0).tag = (Config.gcmSeal 9 [] [] (List.replicate 64 0#8)).2 + d := rfl
  refine ⟨rfl, rfl, ?_⟩
  rw [hm, ht, State.shardSeal]
  generalize hg : (Config.gcmSeal 9 [] [] (List.replicate 64 0#8)).2 = g
  have e : (Config.gcmSeal (((tsReseal d).modelKey 0 (((tsReseal d).part 0).wts.ctx 0).keySlot).getD 0)
    (((tsReseal d).part 0).wts.ctx 0).nonce (((tsReseal d).part 0).wts.ctx 0).aad (List.replicate 64 0#8)).2 = g := hg
  rw [e]
  constructor
  · intro h
    have := congrArg (fun x => x - g) h
    simpa using this.symm
  · rintro rfl
    simp

theorem test_hyp_ShardsArmOpenAndReseal_write : ((tsCtxS (tsCtx 1 true)).part 0).wts.ctx 0 = tsCtx 1 true ∧
    (0 + [5#8].length ≤ (tsCtx 1 true).len ∧ (tsCtx 1 true).count + [5#8].length < (tsCtx 1 true).len) ∧
    (tsCtx 1 true).len < 0 + (List.replicate 65 5#8).length ∧ ((tsCtxS (tsCtx 2 false)).part 0).wts.ctx 0 = tsCtx 2 false := by
  decide +kernel

/-- Context 0 that all its bytes have reached, and its tag. -/
def tsCtxDone (t : BitVec 128) : ShardCtx := { tsCtx 1 true with
  cipher := wrBytes [] 0 (List.replicate 64 7#8), got := [(0, 64)], count := 64, storage := true, tag := t }

theorem test_openTagOk (s : State) (hk : (s.modelKey 0 1).getD 0 = 9) (d : BitVec 128) :
    s.openTagOk 0 (tsCtxDone ((s.shardSeal 0 (tsCtx 1 true) (Config.gcmStream 9 [] 0 (rdBytes (tsCtxDone 0).cipher 0 64))).2 + d)) =
      decide (d = 0) := by
  have hc (t : BitVec 128) : coversOnce (tsCtxDone t).got (tsCtxDone t).len = true := by
    show coversOnce [(0, 64)] 64 = true
    decide
  unfold State.openTagOk
  rw [hc, Bool.true_and]
  generalize hx : tsCtxDone 0 = x
  have hcph (t) : (tsCtxDone t).cipher = x.cipher := by rw [← hx]; rfl
  simp only [State.shardSeal, hcph]
  simp only [tsCtxDone, tsCtx, hk]
  generalize (Config.gcmSeal 9 [] [] _).2 = g
  refine decide_eq_decide.2 ⟨fun h => ?_, fun h => by simp [h]⟩
  have := congrArg (fun x => x - g) h
  simpa using this.symm

theorem test_hyp_ShardsArmOpenAndReseal_tag : ((tsCtxS (tsCtx 1 true)).modelKey 0 1).getD 0 = 9 := by decide +kernel

theorem test_hyp_EpochsAndOverlaysFollowTheirCommands :
    (∀ s ∈ [tsEpoch .empty {}, tsEpoch .stopped { active := 3 }], CoreActs s 0 0 ∧ (s.part 0).wts.armed = false ∧
      (∀ e ∈ (s.part 0).wts.ctxs, e.2.st ≠ 1 ∧ e.2.st ≠ 2) ∧ (s.part 0).wts.openPending = none ∧
      (9#8).toNat ≠ (s.part 0).wts.prev ∧ (9#8).toNat ≠ (s.part 0).wts.active ∧ (s.part 0).frame.target ≤ (s.part 0).wts.stepReg) ∧
    ((tsEpoch .stopped tsLayer1).part 0).wts.openPending = some 0 ∧ (tsEpoch .stopped tsLayer1).srvAccepts 0 = true ∧
    ((tsEpoch .stopped { prev := 4, active := 3 }).part 0).wts.openPending = none ∧
    (let s := (tsEpoch .stopped {}).updFrame 0 fun f => { f with target := 5 }
     (s.part 0).wts.openPending = none ∧ (s.part 0).wts.stepReg < (s.part 0).frame.target) ∧
    ((tsEpoch .running {}).part 0).plan.st = .running ∧ ((tsEpoch .armed { armed := true }).part 0).wts.armed = true := by
  unfold CoreActs; decide +kernel

/-- Handle 1 LIVE, record A FREE, record B CURRENT with 9 pins. -/
def tsOverlayB : State := tsWts { ovBase := 0xC0000, ovCount := 4, handles := [1] }
  [(0xC0048, leBytes 1 7 ++ leBytes 1 0 ++ leBytes 2 5), (0xC0058, leBytes 1 5 ++ leBytes 1 2 ++ leBytes 2 9)]

theorem test_hyp_EpochsAndOverlaysFollowTheirCommands_overlays :
    (CoreActs (tsOverlay 0) 0 0 ∧ ((tsOverlay 0).part 0).wts.ovCount ≤ (4#24).toNat ∧ (2#24).toNat ∉ ((tsOverlay 0).part 0).wts.handles ∧
      ((tsOverlay 0).part 0).wts.armed = true ∧ (tsOverlay 0).mappedRange 0 0xC0040 64 = true) ∧
    ((tsOverlay 65534).ovCur 0 1 0xC0040 = some false ∧ (tsOverlay 65534).ovPins 0 0xC0040 false = 65534 ∧
      (tsOverlay 65535).ovPins 0 0xC0040 false = 65535) ∧
    (tsOverlayB.ovFind (fun b => tsOverlayB.ovGst 0 0xC0040 b = 0) = some false ∧ tsOverlayB.ovCur 0 1 0xC0040 = some true ∧
      (tsOverlayB.part 0).wts.armed = false ∧ tsOverlayB.ovCur 0 2 0xC0080 = none) ∧
    tsOverlayB.ovFind (fun b => tsOverlayB.ovGst 0 0xC0040 b ≠ 0 && tsOverlayB.ovGen 0 0xC0040 b = (5#8).toNat &&
      0 < tsOverlayB.ovPins 0 0xC0040 b) = some true ∧
    tsOverlayB.ovFind (fun b => tsOverlayB.ovGst 0 0xC0040 b ≠ 0 && tsOverlayB.ovGen 0 0xC0040 b = (6#8).toNat &&
      0 < tsOverlayB.ovPins 0 0xC0040 b) = none := by
  unfold CoreActs; decide +kernel

/-! ### Cords -/

def tsCord (x : Cord) : State := { tsUp with cords := [(0, x)] }
def tsLinked : Cord := { st := .up, proto := 1, peerProto := 1, peerModule := 7, delayTx := 100, delayRx := 100, slots := [] }
def tsSegHdr (cls seq owner : Nat) : SegHdr :=
  { cls := BitVec.ofNat 3 cls, seq := BitVec.ofNat 12 seq, ack := 0, owner := BitVec.ofNat 5 owner, width := 8, gen := false
    fit := true, alarm := false, freed := 3, info := BitVec.ofNat 32 (msgInfo 8 true true) }
/-- A segment as bytes, and the same with its payload or its header spoilt. -/
def tsSeg (cls seq owner : Nat) : List Byte := segment (tsSegHdr cls seq owner) [5, 6, 7] 8
def tsSegBadCrc (cls seq owner : Nat) : List Byte := (tsSegHdr cls seq owner).bytes ++ List.replicate 784 1#8
def tsSegBadHdr : List Byte := List.replicate 800 1#8
def tsKept (n cls owner : Nat) : Kept := ⟨n, owner, cls, 0, [1, 2], 900⟩
def tsCtl (l : List Nat) : CtlMsg := ⟨l.map (BitVec.ofNat 8), 990⟩
def tsChange : LaneChange := ⟨1, true, 8, 20, [0, 1, 2, 3, 4, 5, 6, 8], some 500, true, 0⟩
/-- Slot 232, which runs at hall count 1000, is partition 0's. -/
def tsOwn : Cord := { tsLinked with slots := [(232, 0xC0)] }
def tsPkt (cls : Nat) : OutPkt := ⟨0, cls, false, false, [(5, [1, 2])], none, false, []⟩
def tsPlanSeg (planned : Nat) : Staged := ⟨0, 1, 2, 3, [7], planned, 0, 0, false⟩

theorem test_hyp_SegmentsDepartInOrder_module :
    (tsLinked.active = true ∧ tsLinked.sentHall ≠ some 1000 ∧ tsLinked.slotRuns 1000 = true ∧ tsLinked.slotOwner 232 = ownModule ∧
      tsLinked.change = none ∧ tsLinked.retxQ = [] ∧ tsLinked.kept.length < 2048 ∧ tsLinked.ctlOut = [] ∧ tsUp.reportQ = []) ∧
    (let x := { tsLinked with kept := [tsKept 3 2 16], retxQ := [3] }
     x.nextRetx (fun k => k.owner = ownModule) = some (tsKept 3 2 16)) ∧
    (let x := { tsLinked with ctlOut := [[4]] }
     0 < x.credits ∧ x.retxQ = []) ∧ ({ tsLinked with ctlSent := 8 } : Cord).credits = 0 := by decide +kernel

theorem test_hyp_SegmentsDepartInOrder_full : ({ tsLinked with kept := List.replicate 2048 (tsKept 1 1 1) } : Cord).kept.length = 2048 :=
  List.length_replicate

theorem test_hyp_SegmentsDepartInOrder_partition :
    (tsOwn.slotOwner 232 = 0 ∧ tsOwn.slotSends 232 = true ∧ tsOwn.slotRuns 1000 = true ∧ tsOwn.kept = [] ∧
      (tsUp.part 0).dom.fenced = false ∧ (tsUp.part 0).plan.pc = 0) ∧
    tsUp.stagedReady (tsPlanSeg 0) = true ∧ (tsUp.updPlan 0 fun x => { x with pc := 5 }).stagedReady (tsPlanSeg 0) = true ∧
    ({ tsOwn with kept := [tsKept 3 2 0], retxQ := [3] } : Cord).nextRetx (fun k => k.owner = 0) = some (tsKept 3 2 0) ∧
    ({ tsOwn with ctlPart := [(0, [4])] } : Cord).nextCtl 0 = some (0, [4]) ∧ tsOwn.nextCtl 0 = none ∧
    ({ tsOwn with outPkts := [tsPkt 3] } : Cord).nextPkt 0 clRsp false = some (tsPkt 3) ∧
    ({ tsOwn with outPkts := [tsPkt 2] } : Cord).nextPkt 0 clRsp false = none ∧
    ({ tsOwn with outPkts := [tsPkt 2] } : Cord).nextPkt 0 clReq false = some (tsPkt 2) ∧
    ({ tsOwn with slots := [(232, 0x40)] } : Cord).slotSends 232 = false := by decide +kernel

/-- A segment whose check code is that of its bytes plus `d`. -/
def tsChecked (d : BitVec 64) : List Byte :=
  (tsSegHdr 4 0 16).bytes ++ List.replicate 768 0#8 ++
    leBytes 8 (crc64 ((tsSegHdr 4 0 16).bytes ++ List.replicate 768 0#8) + d).toNat ++ markers 8 false

theorem test_hyp_SegmentsAreCheckedOnArrival_check (d : BitVec 64) : (tsChecked d).length = 800 ∧
    hdrOfBytes ((tsChecked d).take 16) = some (tsSegHdr 4 0 16) ∧
    (leNat ((tsChecked d).drop 784 |>.take 8) = (crc64 ((tsChecked d).take 784)).toNat ↔ d = 0) := by
  have hb (n v : Nat) : (leBytes n v).length = n := by
    induction n generalizing v with
    | zero => rfl
    | succ n ih => simp [leBytes, ih]
  have h16 : (tsSegHdr 4 0 16).bytes.length = 16 := by decide +kernel
  have hh : hdrOfBytes ((tsSegHdr 4 0 16).bytes) = some (tsSegHdr 4 0 16) := by decide +kernel
  have hm : (markers 8 false).length = 8 := by decide +kernel
  generalize hk : (tsSegHdr 4 0 16).bytes ++ List.replicate 768 0#8 = k
  have h784 : k.length = 784 := by rw [← hk, List.length_append, h16, List.length_replicate]
  have e : tsChecked d = k ++ leBytes 8 (crc64 k + d).toNat ++ markers 8 false := by unfold tsChecked; rw [hk]
  refine ⟨by rw [e, List.length_append, List.length_append, h784, hb, hm], ?_, ?_⟩
  · have : (tsChecked d).take 16 = (tsSegHdr 4 0 16).bytes := by
      rw [e, ← hk, List.append_assoc, List.append_assoc, List.take_left' h16]
    rw [this, hh]
  · have h1 : (tsChecked d).take 784 = k := by rw [e, List.append_assoc, List.take_left' h784]
    have h2 : ((tsChecked d).drop 784).take 8 = leBytes 8 (crc64 k + d).toNat := by
      rw [e, List.append_assoc, List.drop_left' h784, List.take_append_of_le_length (by rw [hb]), List.take_of_length_le (by rw [hb])]
    rw [h1, h2, leNat_leBytes 8 _ (crc64 k + d).isLt]
    generalize crc64 k = x
    constructor
    · intro h
      have := congrArg (fun y => y - x) (BitVec.eq_of_toNat_eq h)
      simpa [BitVec.add_comm] using this
    · rintro rfl
      simp

theorem test_hyp_SegmentsAreCheckedOnArrival : tsLinked.active = true ∧ hdrOfBytes (tsSegBadHdr.take 16) = none ∧
    tsLinked.denies (tsSegHdr 4 0 16) = false ∧
    ({ tsLinked with elsewhere := [(0, 16, 4)] } : Cord).denies (tsSegHdr 4 0 16) = true ∧
    (tsSegHdr 4 0 16).gen = tsLinked.inGen ∧ (tsSegHdr 4 0 16).cls.toNat = clCtl ∧ (tsSegHdr 4 0 16).owner.toNat = ownModule ∧
    (tsSegHdr 4 0 16).seq.toNat = tsLinked.cum ∧ seqDist tsLinked.cum (tsSegHdr 4 2 16).seq.toNat = 2 ∧
    2048 ≤ seqDist 1 (tsSegHdr 4 0 16).seq.toNat := by decide +kernel

theorem test_hyp_CordsTrainMeasureAndGoDown :
    (let x := { tsLinked with kept := [tsKept 3 1 1], ackHall := 300 }
     x.active = true ∧ x.ackHall + 2 * x.rtt + 256 ≤ 1000 ∧ 3 ∉ x.retxQ) ∧ (600 + tsLinked.rtt + 32 ≤ 1000 ∧ 1000 < 990 + tsLinked.rtt + 32) ∧
    ((true, (2 : Fin 8).val) ∉ tsLinked.unlocked ∧ (2 : Fin 8).val < tsLinked.inWidth) ∧
    (((List.range 9).filter fun w => !({} : Cord).retEg.contains w).length = 9 ∧
      ((List.range 9).filter fun w => !({ retEg := [0, 1, 2] } : Cord).retEg.contains w).length < 7) ∧
    (meanDelay (List.replicate 64 (64 * 100 + 1)) = 101 ∧ 420 < meanDelay (List.replicate 64 (64 * 420 + 1)) ∧
      (List.replicate 64 (64 * 100 + 1)).length = 64) ∧
    (let x := { tsLinked with downTime := 1, lostAt := some 400 }
     x.active = true ∧ x.narrow = false ∧ 400 + x.downTime * 500 ≤ 1000) := by decide +kernel

/-- A direction below width 7 takes the cord DOWN with reason 4. -/
theorem test_cord_goes_down : ((tsNext (exec (.cordDown 0) (tsCord { tsLinked with narrow := true }))).cord 0).reason = 4 := by
  decide +kernel

theorem test_hyp_LaneChangesAreConfirmed :
    (({ tsLinked with lostSince := [(1, 400)] } : Cord).laneFails 1000 1 0 = true ∧ tsLinked.laneFails 1000 1 0 = false ∧
      ({ tsLinked with laneErrs := [(2, 5, 84701)] } : Cord).laneFails 1000 2 1 = true ∧
      ({ tsLinked with laneFec := List.replicate 5 (3, 1) } : Cord).laneFails 1000 3 2 = true ∧ tsLinked.inMap[(1 : Fin 8).val]? = some 1) ∧
    (({ tsLinked with testIn := [(8, 0)] } : Cord).testIn.any fun e => e.1 = (8 : Fin 9).val && e.2 + 5000000000 ≤ 5000000000) = true ∧
    (CtlFront (tsCord { tsLinked with ctlIn := [tsCtl [1, 1, 3, 3, 1]] }) 0 1 (tsCtl [1, 1, 3, 3, 1]) ∧
      CtlFront (tsCord { tsLinked with ctlIn := [tsCtl [9], tsCtl [1, 2, 3, 3, 1]] }) 0 1 (tsCtl [1, 2, 3, 3, 1]) ∧
      CtlFront (tsCord { tsLinked with ctlIn := [tsCtl [1, 3, 8, 8, 0]] }) 0 1 (tsCtl [1, 3, 8, 8, 0]) ∧
      CtlFront (tsCord { tsLinked with ctlIn := [tsCtl [2, 1, 1]] }) 0 2 (tsCtl [2, 1, 1]) ∧
      CtlFront (tsCord { tsLinked with ctlIn := [tsCtl [3, 1, 0]] }) 0 3 (tsCtl [3, 1, 0]) ∧
      CtlFront (tsCord { tsLinked with ctlIn := [tsCtl [4]] }) 0 4 (tsCtl [4])) ∧
    (tsLinked.txMap[3]? = some 3 ∧ tsLinked.spare = some 8 ∧ tsChange.begun = true ∧ tsChange.gen = true) ∧
    (300 + 2 * tsLinked.rtt + 256 ≤ 1000 ∧ 1000 < 900 + 2 * tsLinked.rtt + 256) := by
  unfold CtlFront; decide +kernel

/-! ### Slot leases -/

/-- Lease 5 of slots 1 and 9, effective at 2000. -/
def tsLease (proposer grant commit begun : Bool) : Lease :=
  { id := 5, proposer := proposer, grant := grant, mine := 0, theirs := 3, domain := 4, h := 2000, slots := [1, 9], commit := commit
    begun := begun, endAt := 900 }
def tsLe (l : Lease) (hall : Nat) (ms : List CtlMsg) : State :=
  { tsCord { tsLinked with leases := [l], ctlIn := ms, slots := [(1, 0x30), (9, 0x30)] } with hall := hall }
def tsProp (action h : Nat) : CtlMsg :=
  ⟨leBytes 1 0x20 ++ leBytes 4 5 ++ leBytes 1 action ++ leBytes 1 3 ++ leBytes 2 4 ++ leBytes 8 h ++ slotBitmap [1, 9] ++ List.replicate 7 0#8, 990⟩
/-- Partition 0 is a member of domain 4. -/
def tsLePart (x : Cord) : State := (tsCord x).updDom 0 fun d => { d with st := .member, domainId := 4 }

theorem test_hyp_LeasesReserveCommitAndAct_proposal :
    (∀ m ∈ [tsProp 1 9000, tsProp 1 4000, tsProp 2 9000], CtlFront (tsLePart { tsLinked with ctlIn := [m] }) 0 0x20 m) ∧
    bitmapSlots ((tsProp 1 9000).bytes.drop 17 |>.take 32) = [1, 9] ∧ (tsLePart tsLinked).leaseMember 0 4 true = true ∧
    990 + 4096 ≤ fld (tsProp 1 9000).bytes 9 8 ∧ fld (tsProp 1 4000).bytes 9 8 < 990 + 4096 ∧
    (∀ i ∈ [1, 9], tsLinked.slotOwner i = 16 ∧ tsLinked.slotState i = 0) ∧
    (let x := { tsLinked with slots := [(1, 0x40), (9, 0xC0)], partner := [(0, 128 + 3)] }
     ∀ i ∈ [1, 9], x.slotOwner i = 0 ∧ x.slotState i = 2 ∧ x.farOf 0 = some 3) := by
  unfold CtlFront; decide +kernel

theorem test_hyp_LeasesReserveCommitAndAct_messages :
    (CtlFront (tsLe (tsLease true true false false) 1000 [tsCtl [0x21, 5, 0, 0, 0, 0]]) 0 0x21 (tsCtl [0x21, 5, 0, 0, 0, 0]) ∧
      ({ tsLinked with leases := [tsLease true true false false] } : Cord).lease 5 true = some (tsLease true true false false)) ∧
    (CtlFront (tsLe (tsLease true true false false) 1000 [tsCtl [0x21, 5, 0, 0, 0, 1]]) 0 0x21 (tsCtl [0x21, 5, 0, 0, 0, 1])) ∧
    (CtlFront (tsLe (tsLease false true false false) 3000 [tsCtl [0x22, 5, 0, 0, 0]]) 0 0x22 (tsCtl [0x22, 5, 0, 0, 0]) ∧
      ({ tsLinked with leases := [tsLease false true false false] } : Cord).lease 5 false = some (tsLease false true false false)) ∧
    (CtlFront (tsLe (tsLease false true false false) 1000 [tsCtl [0x23, 5, 0, 0, 0]]) 0 0x23 (tsCtl [0x23, 5, 0, 0, 0])) ∧
    (CtlFront (tsLe (tsLease true false true true) 1000 [tsCtl [0x24, 5, 0, 0, 0]]) 0 0x24 (tsCtl [0x24, 5, 0, 0, 0]) ∧
      (tsLease true false true true).begun = true ∧ (tsLease true true true true).grant = true ∧
      (tsLease true true true false).begun = false) := by
  unfold CtlFront; decide +kernel

theorem test_hyp_LeasesReserveCommitAndAct_effective :
    (∀ l ∈ [tsLease false false true false, tsLease true true true false], ((tsLe l 2000 []).cord 0).leases = [l] ∧ l.commit = true ∧
      l.begun = false ∧ l.done = false ∧ l.h ≤ 2000 ∧ 1999 < l.h) ∧
    (let l : LaneLease := { lane := 2, grant := true, part := 3, h := 900, slots := [7, 8] }
     ({ tsUp with laneLeases := [l] } : State).laneLeases = [l] ∧ l.h ≤ tsUp.hall) ∧
    ((tsLease false false true true).proposer = false ∧ (tsLease false false true true).endAt ≤ 900) := by decide +kernel

/-- An ACCEPT before H commits the lease. -/
theorem test_lease_committed : ((tsNext (exec (.leaseAck 0) (tsLe (tsLease true true false false) 1000
    [tsCtl [0x21, 5, 0, 0, 0, 0]]))).cord 0).leases.map (·.commit) = [true] := by decide +kernel

/-! ### Packets -/

/-- Slot 233, which runs at hall count 1001, is partition 0's on cord 3. -/
def tsOut : Cord := { tsLinked with slots := [(233, 0xC0)] }
/-- A request from partition 2 of module 7 to module 9 that leaves here by cord 3. -/
def tsHdr : PktHdr :=
  { type := 1, srcModule := 7, srcPart := 2, dstModule := 9, dstPart := 0, reqId := 5, addr := 0x1000, msgLen := 16
    stamp := stampOf 1000, rlen := 2, rptr := 1, route := 1 + 32 * 3 }
/-- A route table entry: route A is one hop, route B two, both by cord 3. -/
def tsRoute : List Byte := leBytes 16 97 ++ leBytes 16 98
def tsNet (f : Part → Part) : State := { tsUp with
  parts := tabUpd {} (tabUpd {} tsUp.parts 0 fun P => f { P with
    dom := { st := .member, domainId := 4 }, routing := { routes := [(7, tsRoute), (9, tsRoute)], timeout := 40 } })
    1 fun P => { P with dom := { st := .member, domainId := 4 } }
  cords := [(0, tsLinked), (3, tsOut)] }
def tsPacket (b : List Byte) : State := (tsNet id).updCord 0 fun x => { x with inPkts := [⟨0, 2, b, true⟩] }
def tsInbox (b : List Byte) : State := tsNet fun P => { P with routing := { P.routing with inbox := [⟨0, 1, b⟩] } }
def tsReq (write : Bool) : Req :=
  { id := 5, write := write, module := 7, part := 2, addr := 0x1000, len := 16, data := List.replicate 16 3#8, unit := (0, 4), first := 900, sent := 950 }
def tsAsk (write : Bool) (l : List (List Byte)) : State := tsNet fun P => { P with routing := { P.routing with
  reqs := [tsReq write], inbox := l.map fun b => ⟨0, 1, b⟩ } }
def tsRsp (type : BitVec 4) (reason attempt : Nat) : PktHdr :=
  { type := type, srcModule := 7, srcPart := 2, dstModule := 0, dstPart := 0, reqId := 5, addr := 0x1000, msgLen := 16
    stamp := stampOf 1000, reason := BitVec.ofNat 4 reason, attempt := BitVec.ofNat 2 attempt }

theorem test_hyp_PacketsFollowTheirRoutes :
    (((tsPacket tsHdr.bytes).cord 0).inPkts.find? (·.whole) = some ⟨0, 2, tsHdr.bytes, true⟩ ∧ pktHdr tsHdr.bytes = tsHdr ∧
      malformed tsHdr.bytes = false ∧ malformed (tsHdr.bytes ++ [5#8]) = true ∧ tsHdr.dstModule.toNat ≠ tsUp.moduleId ∧
      ({ tsHdr with dstModule := 0 } : PktHdr).dstModule.toNat = tsUp.moduleId) ∧
    ((tsPacket tsHdr.bytes).transit 0 = 0 ∧ tsHdr.age 1000 = 0 ∧ tsHdr.hops.toNat < 48 ∧ tsHdr.detour = false ∧
      tsHdr.rptr.toNat < tsHdr.rlen.toNat ∧ tsHdr.hop tsHdr.rptr.toNat = 3 ∧ (tsPacket tsHdr.bytes).soon 3 0 tsHdr.cls = true) ∧
    (({ tsHdr with type := 4, hops := 48 } : PktHdr).cls = clRsp ∧ malformed ({ tsHdr with type := 4, hops := 48 } : PktHdr).bytes = false ∧
      tsHdr.cls = clReq ∧ ({ tsHdr with hops := 48 } : PktHdr).hops.toNat = 48) ∧
    (((tsPacket tsHdr.bytes).part 0).routing.routes.find? (fun x => x.1 = 7) = some (7, tsRoute) ∧
      (tsPacket tsHdr.bytes).usable tsRoute false = some (1, 3)) ∧ ((tsUp.part 0).live = true) := by decide +kernel

theorem test_hyp_RequestsAreServedOnce_read :
    ((tsInbox tsHdr.bytes).part 0).routing.inbox.find? (fun m => (pktHdr m.bytes).type = 1) = some ⟨0, 1, tsHdr.bytes⟩ ∧
    (tsInbox tsHdr.bytes).sameDomain 0 1 = true ∧ (tsInbox tsHdr.bytes).pieceList 0 0x1000 16 = some [(0x1000, 16)] ∧
    (tsInbox tsHdr.bytes).reach 0 0x1000 = .near 0 0x1000 ∧ (tsInbox tsHdr.bytes).badWords = [] := by decide +kernel

/-- A write packet of 16 bytes. -/
def tsWrite : List Byte := ({ tsHdr with type := 2 } : PktHdr).bytes ++ List.replicate 16 9#8

theorem test_hyp_RequestsAreServedOnce_write :
    ((tsInbox tsWrite).part 0).routing.inbox.find? (fun m => (pktHdr m.bytes).type = 2) = some ⟨0, 1, tsWrite⟩ ∧
    (pktHdr tsWrite).index = 0 ∧ (tsWrite.drop 32).length = (pktHdr tsWrite).msgLen.toNat ∧
    ((tsInbox tsWrite).part 0).routing.table = [] ∧
    (([⟨7, 2, 5, 900, [0], 16, 32, false⟩] : List WrEntry).find? fun e => e.module = 7 && e.part = 2 && e.id = 5) =
      some ⟨7, 2, 5, 900, [0], 16, 32, false⟩ := by decide +kernel

theorem test_hyp_RequestsCompleteOrRetry_answers :
    (let b := (tsRsp 3 0 0).bytes ++ List.replicate 16 9#8
     let s := tsAsk false [b]
     s.noneEnding = true ∧ (s.part 0).routing.inbox.find? (fun m => (pktHdr m.bytes).type = 3) = some ⟨0, 1, b⟩ ∧
     (s.part 0).routing.reqs.find? (fun r => r.id = (pktHdr b).reqId.toNat ∧ ¬ r.write) = some (tsReq false) ∧
     (pktHdr b).attempt.toNat = (tsReq false).attempt ∧ (b.drop 32).length = (tsReq false).len ∧ (s.part 0).routing.waiting = []) ∧
    (pktHdr ((tsRsp 3 0 1).bytes)).attempt.toNat ≠ (tsReq false).attempt ∧
    (let s := tsAsk true [(tsRsp 4 0 0).bytes]
     (s.part 0).routing.reqs.find? (fun r => r.id = (pktHdr (tsRsp 4 0 0).bytes).reqId.toNat ∧ r.write) = some (tsReq true)) ∧
    (let s := tsAsk false [(tsRsp 5 6 0).bytes]
     (s.part 0).routing.inbox.find? (fun m => (pktHdr m.bytes).type = 5) = some ⟨0, 1, (tsRsp 5 6 0).bytes⟩ ∧
     (pktHdr (tsRsp 5 6 0).bytes).reason.toNat = nrPart ∧ s.reqUnit (tsReq false) = none) ∧
    (pktHdr (tsRsp 5 2 1).bytes).attempt.toNat ≠ (tsReq false).attempt := by decide +kernel

theorem test_hyp_RequestsCompleteOrRetry_timeouts :
    (let s := { tsAsk false [] with hall := 6000 }
     (s.part 0).routing.reqs.find? (fun r => decide (r.sent + (s.part 0).routing.ticks / 4 ≤ s.hall) && decide (r.attempt < 3) && s.mayAttempt 0 r) =
       some (tsReq false) ∧ s.usable tsRoute true = some (2, 3)) ∧
    (let s := { tsAsk true [] with hall := 26000 }
     (s.part 0).routing.reqs.find? (fun r => decide (r.first + (s.part 0).routing.ticks ≤ s.hall)) = some (tsReq true) ∧
     s.reqUnit (tsReq true) = none) := by decide +kernel

/-! ### Hall time, damper, slips -/

def tsTime (t : TimeUnit) (x : Cord) : State := { tsUp with cords := [(0, x), (4, tsLinked)], time := t }
def tsTimeCtl (t : TimeUnit) (k : Nat) (l : List Nat) (x : Cord) : State := tsTime t { x with ctlIn := [tsCtl [9], tsCtl (k :: l)] }
/-- A member of domain 4 that is not its root, its plan running in step 2. -/
def tsMember (f : Part → Part) (l : List CtlMsg) : State := { tsCord { tsLinked with ctlIn := l } with
  parts := tabUpd {} tsUp.parts 0 fun P => f { P with
    dom := { st := .member, domainId := 4, parent := 1 }, plan := { st := .running }
    clock := { sched := 2, fixed := 3, xs := [(2, 64)], seen := [(2, 64)] } } }
def tsAcq (n : Nat) (stepped : Bool) : TimeUnit := { st := .acquiring, parent := 0x80, acq := List.replicate n 128, stepped := stepped }
def tsPayload (k : Nat) (l : List Byte) : CtlMsg := ⟨leBytes 1 k ++ l, 990⟩
def tsTimeRsp (n sync : Nat) : CtlMsg :=
  tsPayload 0x11 (leBytes 2 n ++ leBytes 8 900 ++ leBytes 1 5 ++ leBytes 8 910 ++ leBytes 1 sync ++ leBytes 1 3 ++ leBytes 2 0)
def tsSet (seq m h : Nat) : CtlMsg := tsPayload 0x14 (leBytes 2 4 ++ leBytes 2 seq ++ leBytes 1 m ++ leBytes 8 h)
def tsSlip (step amount : Nat) : CtlMsg := tsPayload 0x15 (leBytes 2 4 ++ leBytes 8 step ++ leBytes 4 amount ++ leBytes 2 7)
def tsBeacon : CtlMsg := tsPayload 0x16 (leBytes 2 4 ++ leBytes 2 0 ++ leBytes 1 16 ++ leBytes 8 2 ++ leBytes 8 64 ++ leBytes 2 0)
def tsPending (q : List (Nat × Nat × Nat)) : State :=
  tsMember (fun P => { P with clock := { P.clock with pend := true, seqNext := 1, mNext := 9, damperAt := 500, queued := q } }) []
def tsHeat (l : Tab Int) (t : TimeUnit) : State := { tsTime t tsLinked with sensors := l }

theorem test_hyp_TimeExchangesSetTheOffset_exchanges :
    (tsLinked.active = true ∧ (tsLinked.exHall.any fun h => 1000 < h + 16384) = false) ∧
    (CtlFront (tsTimeCtl {} 0x10 [7] tsLinked) 0 0x10 (tsCtl [0x10, 7])) ∧
    (let x := { tsLinked with exchange := 7, exWait := true, exT1 := 890, ctlIn := [tsTimeRsp 7 2] }
     let s := tsTime (tsAcq 15 false) x
     CtlFront s 0 0x11 (tsTimeRsp 7 2) ∧ fld (tsTimeRsp 7 2).bytes 1 2 = x.exchange ∧ fld (tsTimeRsp 8 2).bytes 1 2 ≠ x.exchange ∧
     fld (tsTimeRsp 7 2).bytes 20 1 = 2 ∧ s.time.cord = some 0 ∧ s.time.st = .acquiring ∧ s.time.acq.length = 15) := by
  unfold CtlFront; decide +kernel

theorem test_hyp_TimeExchangesSetTheOffset_labels :
    (let s := { tsTime { st := .holdover, holdFrom := 5 } tsLinked with hall := 30000000 }
     s.time.holdFrom + s.timeRec.holdLimit * 500000 < s.hall) ∧
    (({ st := .root, labelSent := some 3 } : TimeUnit).labelSent.any fun h => 600000000 < h + 500000000) = false ∧
    CtlFront (tsTimeCtl { st := .locked, parent := 0x80 } 0x12 [5] tsLinked) 0 0x12 (tsCtl [0x12, 5]) ∧
    (tsTime { st := .locked, parent := 0x80 } tsLinked).time.cord = some 0 := by
  unfold CtlFront; decide +kernel

/-- The hall count is set from 16 offsets of two ticks each. -/
theorem test_hall_count_set :
    (tsNext (exec (.timeRsp 0 0) (tsTime (tsAcq 15 false)
      { tsLinked with exchange := 7, exWait := true, exT1 := 890, ctlIn := [tsTimeRsp 7 2], peerSync := 2 }))).time.stepped = true := by
  decide +kernel

theorem test_hyp_DamperFollowsHeatAndTheTree_messages :
    (CtlFront (tsTimeCtl {} 0x13 [4, 0, 10] tsLinked) 0 0x13 (tsCtl [0x13, 4, 0, 10]) ∧ (tsTimeCtl {} 0x13 [4, 0, 10] tsLinked).membersOf 4 = []) ∧
    (∀ e ∈ [(0, 9000), (1, 9000)], CtlFront (tsMember id [tsSet e.1 12 e.2]) 0 0x14 (tsSet e.1 12 e.2) ∧
      (tsMember id [tsSet e.1 12 e.2]).membersOf 4 = [0]) ∧
    (((tsMember id []).part 0).clock.lastSeq = 0 ∧ fld (tsSet 1 12 9000).bytes 6 8 = 9000 ∧
      (((tsMember id []).part 0).clock.damperDue 1000 1).pend = false ∧ (((tsPending []).part 0).clock.pend = true) ∧
      (((tsPending [(2, 11, 1800)]).part 0).clock.damperAt ≤ 1000)) ∧
    (∀ m ∈ [tsSlip 2 1, tsSlip 5 5], CtlFront (tsMember id [m]) 0 0x15 m) ∧
    (tabGet 0 ((tsMember id []).part 0).clock.seen 2 = 64 ∧ tabGet 0 ((tsMember id []).part 0).clock.seen 5 = 0 ∧
      ((tsMember id []).part 0).clock.fixed < 5 + 2) ∧
    (CtlFront (tsMember id [tsBeacon]) 0 0x16 tsBeacon ∧ ((tsMember id []).part 0).dom.startStep = none ∧
      (tsMember id []).beaconFails 0 0 2 64 = none) := by
  unfold CtlFront; decide +kernel

theorem test_hyp_DamperFollowsHeatAndTheTree_beacons :
    (let s := tsMember (fun P => { P with dom := { P.dom with root := true, beaconSent := some 500 } }) []
     s.rootPart (s.part 0).dom.domainId = some 0 ∧ (s.part 0).dom.beaconSent.any (fun h => 1000 < h + 500000) = true) ∧
    ((none : Option Nat).any (fun h => 1000 < h + 500000) = false) ∧
    (let s := { tsMember id [] with hall := 3000000 }
     (s.part 0).live = true ∧ (s.part 0).dom.st = .member ∧ (s.part 0).dom.root = false ∧ (s.part 0).plan.st = .running ∧
     max (s.part 0).dom.beaconHall (s.part 0).dom.joinFrom + 2000000 ≤ s.hall) ∧
    (1000 < max ((tsMember id []).part 0).dom.beaconHall ((tsMember id []).part 0).dom.joinFrom + 2000000) ∧ tsUp.fnReady 0 = true := by
  decide +kernel

theorem test_hyp_DamperFollowsHeatAndTheTree_heat :
    (10 < (16 : Nat)) ∧ (tsHeat [(0x10, 9500)] {}).hot = some 0x10 ∧ (tsHeat [(0x10, 9499)] {}).hot = none ∧
    (tsHeat [(0x10, 9199)] {}).cool = true ∧ (tsHeat [(0x10, 9200)] {}).cool = false ∧
    (some 999).any (fun h => decide (1000 < h + 500000)) = true ∧ 10500 ≤ (tsHeat [(0x10, 10500)] {}).sensor 0x10 ∧
    (tsHeat [(0x10, 10299)] {}).sensor 0x10 < 10300 := by decide +kernel

/-- A junction at 95 °C lowers m by one. -/
theorem test_damper_falls : (tsNext (exec (.desiredDamperUpdate false) (tsHeat [(0x10, 9500)] {}))).time.mLocal = 15 := by decide +kernel

/-! ### Sync domains -/

/-- Partition 0's domain record set, the time unit locked, and messages on cord 0. -/
def tsDom (d : Dom) (l : List CtlMsg) : State := { tsUp with
  parts := tabUpd {} tsUp.parts 0 fun P => { P with dom := d }, cords := [(0, { tsLinked with ctlIn := l }), (3, tsLinked)]
  time := { st := .locked } }
def tsDom4 : Dom := { st := .member, domainId := 4, pcl := 1, proto := 1, depth := 2, rootModule := 3, rootPart := 1, parent := 3, children := 1 }
def tsJoin : Dom := { domainId := 4, pcl := 1, proto := 1, parent := 3, parentValid := true }
def tsWait : Dom := { tsJoin with st := .joining, joinFrom := 5, joinSent := 500, parent := 0 }
def tsJoinMsg (pcl : Nat) : CtlMsg :=
  tsPayload 0x32 (leBytes 2 4 ++ leBytes 2 9 ++ leBytes 1 pcl ++ leBytes 1 1 ++ leBytes 2 0 ++ leBytes 2 1 ++ leBytes 5 0)
def tsAck (e : Nat) : CtlMsg := tsPayload 0x33 (leBytes 2 4 ++ leBytes 1 e ++ leBytes 1 3 ++ leBytes 2 7 ++ leBytes 1 2)
def tsReport (k : Nat) : CtlMsg := tsPayload 0x30 (leBytes 2 4 ++ leBytes 2 0 ++ leBytes 1 5 ++ leBytes 1 1 ++ leBytes 2 7 ++ leBytes 1 k ++
  leBytes 2 3 ++ leBytes 8 900 ++ leBytes 2 7 ++ List.replicate 8 1#8)
def tsRep (k : Nat) : Report :=
  { domain := 4, epoch := 0, cls := 5, okind := 1, omodule := 7, oindex := k, count := 3, first := 900, reporter := 7, detail := List.replicate 8 1#8 }
def tsShadow : Dom := { tsDom4 with
  st := .shadow, pair := 0, pairValid := true, primary := 7, planAs := some 7, primaryPart := 2, matchTarget := 3, beaconStep := 5
  beaconX := 640, startStep := some 7 }
def tsLoadedAt (d : Dom) (l : List CtlMsg) : State :=
  (tsDom d l).updPlan 0 fun x => { x with st := .loaded, loaded := some { len := 16384, margin := 1024 } }
def tsSync (n h : Nat) : CtlMsg := tsPayload 0x35 (leBytes 2 4 ++ leBytes 8 n ++ leBytes 8 h ++ leBytes 1 2)
def tsDigest (n v : Nat) : CtlMsg := tsPayload 0x36 (leBytes 2 4 ++ leBytes 8 n ++ leBytes 8 v ++ leBytes 1 2)

theorem test_hyp_DomainsAreJoinedAndLeft_join :
    ((tsUp.part 0).live = true ∧ ({ tsDom tsJoin [] with time := {} } : State).joinCheck 0 = 1 ∧ (tsDom { tsJoin with pcl := 0 } []).joinCheck 0 = 2) ∧
    ((tsDom tsJoin []).joinCheck 0 = 0 ∧ (tsDom tsJoin []).membersOf 4 = [] ∧
      (tsDom { tsJoin with parentValid := false } []).joinCheck 0 = 0) ∧
    (tsWait.joinSent + 500000 ≤ 600000 ∧ 1000 < tsWait.joinSent + 500000) ∧
    (CtlFront (tsDom tsWait [tsJoinMsg 1]) 0 0x32 (tsJoinMsg 1) ∧ (tsDom tsWait [tsJoinMsg 1]).domReady 4 = false) ∧
    (∀ m ∈ [tsJoinMsg 1, tsJoinMsg 2], CtlFront (tsDom tsDom4 [m]) 0 0x32 m ∧ (tsDom tsDom4 [m]).domReady 4 = true ∧
      (tsDom tsDom4 [m]).membersOf 4 = [0]) ∧
    (∀ m ∈ [tsAck 0, tsAck 5], CtlFront (tsDom tsWait [m]) 0 0x33 m ∧ fld m.bytes 1 2 = tsWait.domainId) ∧
    CtlFront (tsDom tsDom4 [tsPayload 0x34 [4, 0, 6, 0]]) 0 0x34 (tsPayload 0x34 [4, 0, 6, 0]) := by
  unfold CtlFront; decide +kernel

theorem test_hyp_DomainsAreJoinedAndLeft_leave :
    (∀ d ∈ [tsDom4, tsShadow, tsWait], d.st = .joining ∨ d.st = .member ∨ d.st = .shadow) ∧
    ({ tsDom4 with leaving := some 900 } : Dom).leaving = some 900 ∧ (tsUp.leaseFree 0 = true ∧
      ∀ k ∈ List.range 16, (tsUp.chan k).st = .idle ∧ (tsUp.chan k).flight = []) ∧
    (tsUp.updCord 3 fun x => { x with slots := [(5, 0xC0)] }).leaseFree 0 = false := by decide +kernel

theorem test_hyp_FaultReportsMergeTowardTheRoot :
    (tsDom { tsDom4 with root := true } []).membersOf 4 = [0] ∧
    CtlFront (tsDom tsDom4 [tsPayload 0x31 [4, 0, 6, 0]]) 0 0x31 (tsPayload 0x31 [4, 0, 6, 0]) ∧
    CtlFront (tsDom tsDom4 [tsReport 1]) 0 0x30 (tsReport 1) ∧
    (let b := (tsReport 1).bytes
     { domain := fld b 1 2, epoch := fld b 3 2, cls := fld b 5 1, okind := fld b 6 1 % 4, omodule := fld b 7 2 % 32768, oindex := fld b 9 1
       count := fld b 10 2, first := fld b 12 8, reporter := fld b 20 2, detail := (b.drop 22).take 8 } = tsRep 1) ∧
    ([⟨tsRep 1, 3, 5⟩].any (fun e : MergeEntry => sameKey e.rep (tsRep 1)) = true ∧
      [⟨tsRep 2, 3, 5⟩].any (fun e : RootEntry => sameKey e.rep (tsRep 1)) = false) := by
  unfold CtlFront; decide +kernel

theorem test_hyp_FaultReportsMergeTowardTheRoot_full : 1024 ≤ (List.replicate 1024 (⟨tsRep 2, 3, 5⟩ : RootEntry)).length ∧
    (List.replicate 1024 (⟨tsRep 2, 3, 5⟩ : RootEntry)).any (fun e => sameKey e.rep (tsRep 1)) = false := by
  refine ⟨by rw [List.length_replicate], ?_⟩
  rw [List.any_eq_false]
  intro e h
  rw [List.eq_of_mem_replicate h]
  decide

theorem test_hyp_ShadowsFollowAndSwap_commands :
    (let s := tsLoadedAt { tsShadow with at_ := 7 } []
     (s.part 0).dom.st = .shadow ∧ (s.part 0).plan.st = .loaded ∧ (s.cord 0).st = .up ∧ (s.part 0).dom.planAs.getD s.moduleId = 7 ∧
     (s.part 0).domStep + 2 ≤ 7) ∧ (tsDom tsShadow []).moduleId ≠ 7 ∧ (tsShadow.matched < tsShadow.matchTarget) ∧
    (let s := (tsDom { tsShadow with matched := 3, swapAt := some 8 } []).updClock 0 fun c => { c with sched := 8 }
     (s.part 0).dom.swapAt = some (s.part 0).clock.sched) := by decide +kernel

theorem test_hyp_ShadowsFollowAndSwap_messages :
    (∀ m ∈ [tsSync 6 990, tsSync 7 990, tsSync 5 990], CtlFront (tsLoadedAt tsShadow [m]) 0 0x35 m ∧
      (tsLoadedAt tsShadow [m]).shadowsOf 0 (fld m.bytes 1 2) (fld m.bytes 19 1) = [0]) ∧
    (let P := (tsLoadedAt tsShadow []).part 0
     let g := 6 * P.plan.stepLen + (P.dom.beaconX + P.clock.slip 6)
     g + (beatsBelow P.clock.m 1000 - beatsBelow P.clock.m 990) ≤ g + P.plan.stepLen + P.clock.slip 7 ∧
     g + P.plan.stepLen + P.clock.slip 7 < g + (beatsBelow P.clock.m 30000 - beatsBelow P.clock.m 990)) ∧
    (CtlFront (tsDom tsShadow [tsDigest 6 5]) 0 0x36 (tsDigest 6 5) ∧
      (tsDom tsShadow [tsDigest 6 5]).shadowsOf 0 (fld (tsDigest 6 5).bytes 1 2) (fld (tsDigest 6 5).bytes 19 1) = [0]) ∧
    ((tsUp.updPart 0 fun P => { P with dom := { tsShadow with digestKey := 2 }, sec := { P.sec with slots := [(2, { valid := true, use := 2 })] } }).digKey 0).isSome = true := by
  unfold CtlFront; decide +kernel

theorem test_hyp_ShadowsFollowAndSwap_twins :
    let s := (tsDom tsDom4 []).updPlan 0 fun x => { x with loaded := some { hops := [⟨0, 0, 0, 0, 200, 10, 5⟩] } }
    let t := s.updCord 3 fun x => { x with delayTx := 300 }
    (∀ p, p < 16 → (s.part p).live = true → s.twinBinds p 0 3 = true) ∧
    ∃ p, p < 16 ∧ (t.part p).live = true ∧ t.twinBinds p 0 3 = false := by decide +kernel

/-- A join that no parent has to answer makes the partition MEMBER at once. -/
theorem test_join_root : ((tsNext (exec (.join 0) (tsDom { tsJoin with parentValid := false } []))).part 0).dom.st = .member := by
  decide +kernel

/-! ### The management service -/

/-- A request on SMBus at a bank of 12 V that drops by 0.1 V. -/
def tsCms : CmsReq := { smbus := true, ca := none, num := 7, bank := ⟨12000, 1000⟩ }
def tsHeld (last : Option Nat) (pass : Bool) : State := { tsUp with holdup := { hall := last, pass := pass, full := some 0 } }
def tsTest (target i : Nat) : State := { tsUp with test := { target := target, index := i, st := 1 } }
def tsLate : State := { tsUp with hall := 10000000000000, unsaved := [rTime] }
def tsUnit : StkUnit := ⟨4, 0, 16, 0, 0, 0, 0, ⟨0, 16, true, 7, 2⟩, ⟨0, 16, true, 7, 2⟩, none⟩
def tsGroup (x : Group) : State := { tsHeld (some 900) true with groups := [(0, x)] }
def tsKeyed (f : Security → Security) : State := tsUp.updPart 0 fun P => { P with sec := f { P.sec with blobBase := 0x1000 } }
def tsBlob (use gen : Nat) : List Byte := leBytes 4 0x50574B45 ++ leBytes 1 1 ++ leBytes 1 use ++ leBytes 2 0 ++ leBytes 4 gen ++ List.replicate 164 0#8

theorem test_hyp_ManagementRequestsAreServed :
    (tsUp.cmsServes tsCms = true ∧ tsUp.cmsServes { tsCms with smbus := false } = false ∧ tsCms.bad = false ∧
      tsUp.cmsServes { tsCms with bad := true } = true) ∧
    (tsUp.recSize 4 31 = some 128 ∧ tsUp.recSize 4 32 = none) ∧ (5 ∉ [1, 3, 4, 6, 7, 8]) ∧
    ((tsHeld (some 900) true).passValid = true ∧ (tsHeld (some 900) false).passValid = false ∧ (tsHeld (some 900) false).mayTest = false ∧
      tsUp.mayTest = true ∧ tsUp.opened = true ∧ tsUp.collierUp = true) ∧
    (1000 < tsUp.holdup.retest + 60 * second ∧ tsLate.holdup.retest + 60 * second ≤ tsLate.hall ∧
      tsLate.holdup.hourly + 3600 * second ≤ tsLate.hall ∧ tsLate.mayTest = true ∧ (tsLate.holdTest tsCms.bank).passValid = true ∧
      (tsLate.holdTest ⟨12000, 100000⟩).passValid = false) := by decide +kernel

/-- LINK_DOWN_TIME of 10,001 µs is out of range. -/
theorem test_link_down_time : (tsNext (exec (.cmsWrite tsCms 4 2 0x10 (leBytes 4 10001)) tsUp)).outbox = [.cms 7 2 0 []] := by decide +kernel

theorem test_hyp_TestsTakeAndGiveBackUnits :
    (badTarget 0 0 = true ∧ badTarget 1 15 = false ∧ tsUp.testBusy 1 0 = true ∧ tsUp.testBusy 1 3 = false) ∧
    (let x : Group := { st := .free, repSram := 3 }
     (tsGroup x).testHolds 0 = false ∧ (tsGroup x).poolFull 0 = false ∧ ({ tsGroup x with fuses := [(0, 254)] } : State).poolFull 0 = true ∧
     (tsGroup x).passValid = true) ∧
    (∀ k ∈ [1, 2, 3, 4], (tsTest k 0).test.st = 1 ∧ (tsTest k 0).test.target = k) ∧
    ((leBytes 256 0).length = 256 ∧ tsUp.tap.production = false ∧
      ({ tsUp with tap := { tsUp.tap with production := true } } : State).authOk (leBytes 256 0) = false) ∧
    (5 + 500000000 ≤ tsLate.hall ∧ 1000 < 5 + 500000000) := by decide +kernel

theorem test_hyp_PartitionsAreCreatedAndScrubbed :
    (let s : State := { tsUp with groups := [] }
     (s.group 0).st = .scrubbing ∧ s.testHolds 0 = false ∧ ({ tsTest 1 0 with groups := [] } : State).testHolds 0 = true) ∧
    (tsUp.opened = true ∧ tsUp.createBusy 5 8 0 4 8 = false ∧ tsUp.createBusy 5 1 0 4 8 = true) ∧
    ((tsUp.part 0).plan.st = .empty ∧ (tsUp.part 0).dom.st = .none ∧ tsUp.mayMove 0 = true ∧ (0 : Nat) ∈ tsUp.chansOf 0 ∧
      ((tsUp.updChan 0 fun x => { x with flight := [tsUnit] }).chan 0).flight ≠ [] ∧
      (tsUp.updChan 0 fun x => { x with armed := true }).mayMove 0 = false) ∧
    (let s := { tsLePart tsLinked with kindle := { phase := 6 } }
     (s.cord 0).st = .up ∧ (s.leaseCheck 0 1000 true 0 3 4 (1000 + 32768) 16384 [1, 9] = 0) ∧
     s.leaseCheck 0 1000 true 0 3 5 (1000 + 32768) 16384 [1, 9] ≠ 0) := by decide +kernel

theorem test_hyp_KeysAndWindowsAreChecked :
    (let s := tsKeyed fun x => { x with blobBase := 0x50000000000 }
     s.fnReady 0 = true ∧ s.allMapped 0 (s.part 0).sec.blobBase 176 = false) ∧
    ((tsKeyed id).allMapped 0 0x1000 176 = true ∧ (blobOk (tsBlob 1 0) = true ∧ blobOk (tsBlob 4 0) = false) ∧
      (tsBlob 1 0).length = 176 ∧ fld (tsBlob 3 0) 5 1 = 3 ∧ fld (tsBlob 1 9) 8 4 ≠ (tsUp.part 0).sec.wrapGen) ∧
    (let s := tsKeyed fun x => { x with wins := [(0, { base := 0x800000000000, size := 4096 }), (1, { base := 5, size := 4096 })] }
     s.winRefused 0 0 = false ∧ s.winRefused 0 1 = true) := by decide +kernel

/-- A blob that fails its checks leaves FORMAT. -/
theorem test_key_format :
    ((tsNext (exec (.keyInstall 0 5 []) { tsKeyed id with mem := tsMem [(0x1000, tsBlob 4 0)] })).part 0).sec.code = krFormat := by decide +kernel

/-! ### Stoke channels -/

/-- Channel 0 of group 0, as partition 0's core 0 drives it. -/
def tsChan (x : StkChan) : State := { tsUp with stoke := [(0, x)], mem := [(0x1003, 5), (0x2004, 6)] }
def tsIdle : StkChan := { cqBase := 0x8000 }
def tsMove (uid : Nat) : StkUnit := ⟨uid, 0, 16, 0, 0, 0, 0, ⟨0x1000, 16, false, 0, 0⟩, ⟨0x2000, 16, false, 0, 0⟩, none⟩
/-- A transfer of 16 bytes that has issued its last unit, or two. -/
def tsRunning (us : List StkUnit) : StkChan := { tsIdle with
  st := .running, srcL := [⟨0x1000, 16, false, 0, 0⟩], dstL := [⟨0x2000, 16, false, 0, 0⟩], next := 16, flight := us, cqHead := 1 }
def tsFail : StkFail := ⟨tsMove 9, 0, false, 1⟩
def tsHalted : StkChan := { tsRunning ((List.range 16).map tsMove) with st := .halted, fail := some tsFail }

theorem test_hyp_StokeCommandsArmAndEndTransfers :
    (tsUp.ownerOf 0 = some 0 ∧ (tsUp.core 0).run = .running) ∧
    (tsUp.memMapped 0 0x50000000000 32 = false ∧ tsUp.memMapped 0 (tsIdle.cqBase) (32 * 2 ^ tsIdle.cqLog2) = true) ∧
    (tsIdle.st = .idle ∧ tsIdle.recs = [] ∧ tsIdle.sh.srcN = 0 ∧ tsIdle.fenceSh = none ∧ tsIdle.full = false ∧
      (tsUp.part 0).dom.fenced = false ∧ tsUp.reach 0 0x8000 = .near 0 0x8000 ∧ tsUp.canPut 0 0x8000 = true) ∧
    ((tsRunning [tsMove 1]).ending = none ∧ (tsRunning [tsMove 1]).flight ≠ []) ∧
    (tsHalted.st = .halted ∧ tsHalted.fail = some tsFail ∧ tsHalted.flight.length = 16 ∧ tsFail.off = 0 ∧ tsFail.dst = false ∧
      tsHalted.srcL[tsFail.unit.si]? = some ⟨0x1000, 16, false, 0, 0⟩) := by decide +kernel

theorem test_hyp_StokeUnitsMoveAndFail :
    ((tsChan {}).ownerOf (0 : GroupId) = some 0 ∧ tsUp.noneEnding = true ∧ ({ tsIdle with st := .ended, armed := true } : StkChan).recs = []) ∧
    (let s := tsChan (tsRunning [tsMove 1])
     let u := tsMove 1
     s.pieceList 0 u.src.addr u.len = some [(u.src.addr, u.len)] ∧ s.reach 0 u.src.addr = .near 0 0x1000 ∧ s.badWords = [] ∧
     s.pieceList 0 u.dst.addr u.len = some [(u.dst.addr, u.len)] ∧ s.reach 0 u.dst.addr = .near 0 0x2000) ∧
    ({ tsRunning [tsMove 1, tsMove 2] with fail := some tsFail } : StkChan).fail ≠ none ∧
    (let x := tsRunning [tsMove 1]
     x.next = x.total ∧ x.full = true ∧ x.armed = false ∧ x.orphans = []) ∧
    ({ tsIdle with st := .settling, cqHead := 1 } : StkChan).full = true ∧ ({ tsIdle with st := .settling } : StkChan).full = false := by
  decide +kernel

/-- The bytes of a unit land at its destination. -/
theorem test_unit_lands : rdByte (tsNext (exec (.stokeUnitDone 0 0 0 []) (tsChan (tsRunning [tsMove 1])))).mem 0x2003 = 5 := by decide +kernel

/-! ### Host functions and ports -/

def tsFn (f : Fn) : State := tsUp.updFn 0 fun _ => { f with fnState := 1 }
def tsQ : Queue := { enable := true, log2 := 3, devIdx := 0xFFFFFFFE, hostIdx := 1 }

theorem test_hyp_HostFunctionsTakeDoorbellsAndResets :
    ((tsUp.part 0).live = true ∧ tsUp.fnReady 0 = true ∧ tsUp.fnPlan 0 = true ∧ tsQ.enable = true ∧
      (6 - tsQ.devIdx).toNat ≤ 2 ^ tsQ.log2 ∧ ¬ (7 - tsQ.devIdx).toNat ≤ 2 ^ tsQ.log2) ∧
    (CoreActs (tsFn { queues := [(0, tsQ)] }) 0 0 ∧ (1 - tsQ.devIdx).toNat ≤ (tsQ.hostIdx - tsQ.devIdx).toNat ∧
      ¬ (2 - tsQ.devIdx).toNat ≤ (tsQ.hostIdx - tsQ.devIdx).toNat) ∧
    ((tsFn { qEvent := 9 }).part 0).fn.qEvent.getLsbD 3 = true ∧ ((tsFn { msgEn := true, qEvEnable := 9 }).part 0).fn.qEvEnable.getLsbD 3 = true ∧
    ({ masked := false } : Msix).masked = false ∧ ((tsUp.part 0).port = (0 : PortId).val) ∧
    (({ perst := false } : HostPort).perst = false ∧ tsUp.railsUp 0 = true ∧
      ({ tsUp with power := { tsUp.power with dieOff := [0] } } : State).railsUp 0 = false) ∧
    (tsUp.portX 0).up = true ∧ (tsUp.portX 1).up = false := by unfold CoreActs; decide +kernel

/-- A doorbell past the ring is counted. -/
theorem test_doorbell_bad : (tabGet {} ((tsNext (exec (.doorbell 0 0 7) (tsFn { queues := [(0, tsQ)] }))).part 0).fn.queues 0).dbBad = 1 := by
  decide +kernel

/-! ### Kindling, supplies, heat -/

def tsPhase (n : Nat) (f : State → State) : State := f { tsUp with
  parts := [], groups := [], kindle := { phase := n }, cords := [(0, tsLinked)], hall := 10000000 }
def tsFree (s : State) : State := { s with groups := (List.range 16).map fun g => (g, { st := .free }) }
def tsHot (l : Tab Int) : State := { tsUp with sensors := l }

/-- The phases; `test_hyp_image` shows an image that passes its checks. -/
theorem test_hyp_KindlingFollowsItsPhases :
    (State.reset.power.aux = false ∧ tsUp.power.aux = true ∧ tsUp.power.fault = false) ∧
    (∀ n ∈ List.range 8, (tsPhase n id).inPhase n = true) ∧ (tsPhase 0 id).flash.pointer.trial = false ∧
    ((tsPhase 0 id).imgOk 1 ((tsPhase 0 id).slotOf false 1) = false) ∧ ((tsPhase 1 id).v54 = true ∧ tsUp.v54 = false) ∧
    ([2, 3, 4].all fun t => (tsPhase 3 id).imgOk t ((tsPhase 3 id).runImage t)) = false ∧
    (cordOf 0x80 = some 0 ∧ cordOf 0 = none ∧ 0 + 5000000000 ≤ 6000000000) ∧
    ((tsPhase 5 id).group 0).st = .scrubbing ∧ (∀ g ∈ List.range 16, ((tsPhase 5 tsFree).group g).st = .free) ∧
    (tsPhase 5 tsFree).createBusy 3 6 1 0 0 = false := by decide +kernel

theorem test_hyp_SupplyAndHeatFaultsStopTheDie :
    (State.reset.power.ramp = none ∧ tsUp.power.ramp ≠ none) ∧ (tsUp.inputFaults 1 = true ∧ State.reset.inputFaults 1 = false ∧
      tsUp.inputFaults 3 = false ∧ tsUp.power.aux = true) ∧
    (tsUp.railsUp 0 = true ∧ ({ tsUp with power := { tsUp.power with dieOff := [0] } } : State).railsUp 0 = false ∧
      tsUp.dieParts 0 = [0, 1] ∧ tsUp.dieParts 1 = []) ∧
    (11000 ≤ (tsHot [(0x10, 11000)]).sensor 0x10 ∧ (tsHot [(0x10, 10999)]).sensor 0x10 < 11000 ∧ tsUp.power.rails = 8 ∧
      9500 ≤ (tsHot [(0x20, 9500)]).sensor 0x20 ∧ 9500 ≤ (tsHot [(0x30, 9500)]).sensor 0x30 ∧ 9000 ≤ (tsHot [(0x38, 9000)]).sensor 0x38 ∧
      0 ∉ tsUp.power.dieOff ∧ 0 ∉ tsUp.power.lasers) ∧
    (tsUp.collierUp = true ∧ State.reset.collierUp = false ∧ sensorCode 0x10 = true ∧ sensorCode 0xFF = false) := by decide +kernel

/-- A junction at 110 °C turns its die off. -/
theorem test_thermal_trip : (tsNext (exec (.thermalTrip (.junction 0)) (tsHot [(0x10, 11000)]))).power.dieOff = [0] := by decide +kernel

/-- The fields of an image header of type `t` before its digest: an empty body, nothing that a check refuses. -/
def tsImgHead (t : Nat) : List Byte :=
  leBytes 4 0x474D4945 ++ leBytes 2 1 ++ leBytes 1 t ++ leBytes 1 1 ++ leBytes 4 0 ++ leBytes 1 0xA1 ++ leBytes 19 0
def tsImage (t : Nat) : ImgSlot := { hdr := tsImgHead t ++ (leBytes 48 (Config.sha384 []).toNat ++ leBytes 176 0) }

/-- Where its signature verifies, such an image passes: the clauses that suppose an image that passes are not empty. -/
theorem test_hyp_image (t : Nat) (ht : t ∈ [1, 2, 3, 4, 5]) (hv : ∀ k b c, Config.verify k b c = true) :
    (tsPhase 0 id).imgOk t (tsImage t) = true := by
  have hd : (leBytes 48 (Config.sha384 []).toNat).length = 48 := by rw [leBytes_length]
  have hA : (tsImgHead t).length = 32 := by simp [tsImgHead, leBytes_length]
  have lo (i n : Nat) (h : i + n ≤ 32) : fld (tsImage t).hdr i n = fld (tsImgHead t) i n := by
    unfold fld tsImage
    rw [List.drop_append_of_le_length (by omega), List.take_append_of_le_length (by rw [List.length_drop]; omega)]
  have hi : fld (tsImage t).hdr 0x50 80 = 0 := by
    unfold fld tsImage
    rw [← List.append_assoc, List.drop_left' (by rw [List.length_append, hA, hd])]
    decide +kernel
  have e : (tsImage t).digestOk = true := by
    unfold ImgSlot.digestOk
    rw [decide_eq_true_eq, lo 8 4 (by omega)]
    have : fld (tsImgHead t) 8 4 = 0 := by
      clear lo hi hA
      revert t
      decide +kernel
    rw [this]
    unfold tsImage
    rw [List.drop_left' hA, List.take_left' hd]
    rfl
  have d : (tsPhase 0 id).hdrDetail t (tsImage t).hdr = 0 := by
    unfold State.hdrDetail
    simp only [lo 0 4 (by omega), lo 4 2 (by omega), lo 6 1 (by omega), lo 7 1 (by omega), lo 12 1 (by omega), lo 8 4 (by omega),
      lo 13 1 (by omega), lo 0x16 10 (by omega), hi, hv]
    clear lo hi e hd hA
    revert t
    decide +kernel
  have w : (tsImage t).whole = true := by
    unfold ImgSlot.whole
    rw [lo 8 4 (by omega)]
    have h0 : (tsImage t).hdr ≠ [] := by
      intro h
      have := congrArg List.length h
      unfold tsImage at this
      rw [List.length_append, hA, List.length_nil] at this
      omega
    rw [decide_eq_true h0]
    clear lo hi e hd hA h0 d
    revert t
    decide +kernel
  unfold State.imgOk
  rw [w, d, e]
  rfl

/-! ### Firmware update -/

def tsUpd (u : Update) (p : Pointer) : State := { tsHeld (some 900) true with update := u, flash := { tsUp.flash with pointer := p } }
/-- The inactive bank holds five images with empty bodies, of DATA_VERSION `v`. -/
def tsBank (v : Nat) : State := { tsUpd { stage := 1 } {} with images := [1, 2, 3, 4, 5].map fun t =>
  (8 + t, { tsImage t with hdr := (tsImage t).hdr.set 0x14 (BitVec.ofNat 8 v) }) }

theorem test_hyp_UpdatesStageActivateAndConfirm_staging :
    ((tsUpd {} {}).cmsServes tsCms = true ∧ (tsUpd {} {}).passValid = true ∧ ({ trial := true } : Pointer).trial = true) ∧
    ((tsUpd { stage := 1 } {}).hdrDetail 1 (List.replicate 256 0#8) = 1 ∧ (tsImgHead 1).length = 32) ∧
    (let s := { tsUpd { stage := 1 } {} with images := [(9, { hdr := tsImgHead 1 })] }
     (s.slotOf s.idleBank 1).hdr ≠ [] ∧ 256 - 256 + 0 ≤ fld (s.slotOf s.idleBank 1).hdr 8 4) := by decide +kernel

theorem test_hyp_UpdatesStageActivateAndConfirm_activation :
    (let s := tsUpd { stage := 2 } {}
     (s.part 0).dom.st = .none ∧ s.hall + 500000000 ≤ 600000000 ∧ 600000000 ≤ s.hall + 500000000000 ∧ 5 < s.hall + 500000000) ∧
    (let s := { tsUpd { activation := 1, at_ := 10000000 } {} with hall := 10000000 }
     s.update.at_ ≤ s.hall + 250000000 ∧ (s.holdTest tsCms.bank).passValid = true ∧ (s.holdTest ⟨12000, 100000⟩).passValid = false ∧
     s.passValid = true ∧ ({ s with holdup := {} } : State).passValid = false) ∧
    (1000 + 250000000 ≤ 600000000 ∧ 900 < 1000 + 250000000) ∧
    (let s := { tsUpd { window := 5 } { trial := true } with images := [] }
     s.inPhase 6 = true ∧ s.power.aux = true ∧ s.update.window ≤ s.hall ∧ rdLe s.ident 4 1 = 1) := by decide +kernel

/-- Staged images of a DATA_VERSION two above the stored one are refused. -/
theorem test_hyp_stage_version : fld ((tsBank 2).slotOf true 1).hdr 8 4 = 0 ∧ ((tsBank 2).flash.pointer.dataVer = 0) ∧
    (∀ t ∈ [1, 2, 3, 4, 5], (tsImage t).hdr ≠ []) := by
  refine ⟨?_, rfl, ?_⟩
  · decide +kernel
  · decide +kernel

/-! ### Register reads -/

theorem test_hyp_RegistersReadAsTheMapSays :
    (((2 : Nat) ≠ 4 ∧ (2 : Nat) ≠ 8) ∧ (2 : Nat) % 4 ≠ 0 ∧ CoreActs tsUp 0 0 ∧ (0x20000000 ≤ 0x20000002 ∧ 0x20000002 < 0x20007000) ∧
      (0x30000000 ≤ 0x30007FFF ∧ 0x30007FFF < 0x30008000)) ∧
    (0x8000 % 4 = 0 ∧ 0x20 % 8 = 0) ∧ (tsUp.boundTo 0 0 = true ∧ tsUp.fnReady 0 = true) := by unfold CoreActs; decide +kernel

/-- The low half of HALL_TIME latches the high half for its reader alone. -/
theorem test_latch :
    let r := ({ tsUp with hall := 0x123456789 } : State).readReg (.bar0 0 0) 0x10 4
    (({ r.1 with hall := 7 } : State).readReg (.bar0 0 0) 0x14 4).2 = .value 1 ∧
    (({ r.1 with hall := 7 } : State).readReg (.bar0 1 1) 0x14 4).2 = .value 0 := by decide +kernel

end
end

section
/-! PROOFS. The scope of the model (O2, O3, O60): the idle step, the state after reset, and what a read of a register answers. -/

namespace Sys2Proof.Machine

/-! ### The idle step and reset -/

theorem step_of_pending_nil (s : State) (h : s.pending = []) : step s = .next s.idle := by
  simp [step, h]

/-- Settles O2: the step of an empty queue is `State.idle`, which writes the hall count and no other field. -/
theorem idleStepIsOneHallTick : Obligations.IdleStepIsOneHallTick := by
  intro s h
  exact ⟨s.idle, step_of_pending_nil s h, rfl, rfl⟩

/-- Settles O3: every table of the reset state is empty, so each entry holds the value an unlisted key reads as. -/
theorem resetLeavesTheStatedValues : Obligations.ResetLeavesTheStatedValues :=
  ⟨rfl, fun _ => rfl, fun _ => rfl, rfl, rfl, fun _ => ⟨rfl, rfl, rfl, rfl, rfl⟩, fun _ => ⟨rfl, rfl⟩,
    fun _ => rfl, rfl, fun _ => rfl⟩

/-! ### Bytes of a block of registers -/

/-- The `n` low bytes of a number, put together again. -/
theorem sum_bytes (v n : Nat) : ((List.range n).map fun i => v / 256 ^ i % 256 * 256 ^ i).sum = v % 256 ^ n := by
  induction n with
  | zero => simp [Nat.mod_one]
  | succ n ih => rw [List.range_succ, List.map_append, List.sum_append, ih, Nat.mod_pow_succ]; simp [Nat.mul_comm]

@[simp] theorem regBytes_nil (o n : Nat) : regBytes [] o n = 0 := by
  simp [regBytes, regByte]

/-- A read within the first register of a block takes its bytes. -/
@[simp] theorem regBytes_cons_within (a k v : Nat) (l : List RegVal) (o n : Nat) (ha : a ≤ o) (hk : o + n ≤ a + k) :
    regBytes ((a, k, v) :: l) o n = v / 256 ^ (o - a) % 256 ^ n := by
  have byteOf : ∀ i ∈ List.range n,
      regByte ((a, k, v) :: l) (o + i) * 256 ^ i = v / 256 ^ (o - a) / 256 ^ i % 256 * 256 ^ i := by
    intro i hi
    have hi := List.mem_range.mp hi
    have covers : a ≤ o + i ∧ o + i < a + k := by omega
    rw [Nat.div_div_eq_div_mul, ← pow_add, show o - a + i = o + i - a by omega]
    simp [regByte, covers]
  rw [regBytes, List.map_congr_left byteOf, sum_bytes]

/-- A read apart from the first register of a block is one of the others. -/
@[simp] theorem regBytes_cons_apart (r : RegVal) (l : List RegVal) (o n : Nat) (h : o + n ≤ r.1 ∨ r.1 + r.2.1 ≤ o) :
    regBytes (r :: l) o n = regBytes l o n := by
  have byteOf : ∀ i ∈ List.range n, regByte (r :: l) (o + i) * 256 ^ i = regByte l (o + i) * 256 ^ i := by
    intro i hi
    have hi := List.mem_range.mp hi
    have misses : ¬ (r.1 ≤ o + i ∧ o + i < r.1 + r.2.1) := by omega
    simp [regByte, misses]
  rw [regBytes, List.map_congr_left byteOf, ← regBytes]

/-- Offsets that no register of the block covers read 0 (R17, R18). -/
theorem regBytes_eq_zero (l : List RegVal) (o n : Nat) (h : ∀ r ∈ l, o + n ≤ r.1 ∨ r.1 + r.2.1 ≤ o) : regBytes l o n = 0 := by
  induction l with
  | nil => exact regBytes_nil o n
  | cons r l ih =>
    rw [regBytes_cons_apart r l o n (h r List.mem_cons_self)]
    exact ih fun x hx => h x (List.mem_cons_of_mem r hx)

/-! ### A read of a block -/

theorem alignedAt_iff (o w : Nat) : alignedAt o w = true ↔ (w = 4 ∨ w = 8) ∧ o % w = 0 := by
  simp [alignedAt]

/-- A read of neither half of a 64-bit counter takes the bytes of the block and latches nothing. -/
theorem readBlock_whole (s : State) (v : RegView) (l : List RegVal) (o w : Nat)
    (h : w = 4 → v.counterAt o = false ∧ (4 ≤ o → v.counterAt (o - 4) = false)) :
    s.readBlock v l o w = (s, .value (regBytes l o w)) := by
  unfold State.readBlock
  rw [if_neg (fun e => by simp [(h e.1).1] at e), if_neg (fun e => by simp [(h e.1).2 e.2.1] at e)]

theorem readBlock_low (s : State) (v : RegView) (l : List RegVal) (o : Nat) (h : v.counterAt o = true) :
    s.readBlock v l o 4 =
      ({ s with latches := tabSet 0 s.latches (v.latchKey o) (regBytes l (o + 4) 4) }, .value (regBytes l o 4)) := by
  simp [State.readBlock, h]

theorem readBlock_high (s : State) (v : RegView) (l : List RegVal) (o : Nat) (h : v.counterAt o = true)
    (h' : v.counterAt (o + 4) = false) :
    s.readBlock v l (o + 4) 4 = (s, .value (tabGet 0 s.latches (v.latchKey o))) := by
  simp [State.readBlock, h, h']

theorem hostRead_aligned (s : State) (v : RegView) (l : List RegVal) (o w : Nat) (h : alignedAt o w = true) :
    s.hostRead v l o w = s.readBlock v l o w := by
  simp [State.hostRead, h]

theorem hostRead_not_aligned (s : State) (v : RegView) (l : List RegVal) (o w : Nat) (h : alignedAt o w = false) :
    s.hostRead v l o w = (s, .value (256 ^ w - 1)) := by
  simp [State.hostRead, h]

/-- BT_BALANCE of the host's budget window is the one offset of BAR0 whose read acts (R219). -/
theorem readReg_bar0 (s : State) (h : PortId) (p : PartId) (o w : Nat) (ho : alignedAt o w = true → o ≠ 0x3110) :
    s.readReg (.bar0 h p) o w = s.hostRead (.bar0 h p) (s.bar0Vals h p o) o w := by
  unfold State.readReg
  exact if_neg fun e => ho e.1 e.2.1

/-- A read of BAR0 that acts on nothing and reads no half of a counter. -/
theorem readReg_bar0_whole (s : State) (h : PortId) (p : PartId) (o w : Nat) (ha : alignedAt o w = true) (ho : o ≠ 0x3110)
    (hc : w = 4 → (RegView.bar0 h p).counterAt o = false ∧ (4 ≤ o → (RegView.bar0 h p).counterAt (o - 4) = false)) :
    s.readReg (.bar0 h p) o w = (s, .value (regBytes (s.bar0Vals h p o) o w)) := by
  rw [readReg_bar0 s h p o w fun _ => ho, hostRead_aligned _ _ _ _ _ ha, readBlock_whole _ _ _ _ _ hc]

/-! ### Identity, and the latched hall count -/

theorem bar0Vals_ident (s : State) (h p o : Nat) (ho : o < 0x100) : s.bar0Vals h p o = s.identRegs h (p + 1) := by
  simp [State.bar0Vals, ho]

theorem regBytes_fnId (s : State) (h fn : Nat) : regBytes (s.identRegs h fn) 0 4 = fnId h fn % 2 ^ 32 := by
  simp [State.identRegs]

theorem regBytes_hall_low (s : State) (h fn : Nat) : regBytes (s.identRegs h fn) 0x10 4 = s.hall % 2 ^ 32 := by
  simp [State.identRegs]

theorem regBytes_hall_high (s : State) (h fn : Nat) : regBytes (s.identRegs h fn) 0x14 4 = s.hall / 2 ^ 32 % 2 ^ 32 := by
  simp [State.identRegs]

theorem fnId_partition (h : PortId) (p : PartId) :
    fnId h (p + 1) = p.val + h.val * 2 ^ 4 + 0xA1 * 2 ^ 8 + Config.maxPcl * 2 ^ 16 := by
  unfold fnId bitAt
  rw [if_neg (by simp)]
  omega

theorem fnId_func0 (h : PortId) :
    fnId h 0 = 2 ^ 6 + h.val * 2 ^ 4 + 0xA1 * 2 ^ 8 + Config.maxPcl * 2 ^ 16 := by
  unfold fnId bitAt
  rw [if_pos (by simp)]
  omega

/-- FN_ID fits its 32 bits. -/
theorem fnId_lt (h : PortId) (fn : Nat) (hf : fn ≤ 16) : fnId h fn < 2 ^ 32 := by
  have hb : bitAt (fn = 0) 6 ≤ 64 := by unfold bitAt; split <;> simp
  have hp : Config.maxPcl = 1 := rfl
  unfold fnId
  omega

theorem readReg_bar0_fnId (s : State) (h : PortId) (p : PartId) :
    s.readReg (.bar0 h p) 0 4 = (s, .value (p.val + h.val * 2 ^ 4 + 0xA1 * 2 ^ 8 + Config.maxPcl * 2 ^ 16)) := by
  rw [readReg_bar0_whole s h p 0 4 rfl (by decide) (by simp [RegView.counterAt]), bar0Vals_ident s h p 0 (by decide),
    regBytes_fnId, Nat.mod_eq_of_lt (fnId_lt h _ p.isLt), fnId_partition]

theorem readReg_func0_fnId (s : State) (h : PortId) :
    s.readReg (.func0 h) 0 4 = (s, .value (2 ^ 6 + h.val * 2 ^ 4 + 0xA1 * 2 ^ 8 + Config.maxPcl * 2 ^ 16)) := by
  change s.hostRead _ _ 0 4 = _
  rw [hostRead_aligned _ _ _ _ _ rfl, readBlock_whole _ _ _ _ _ (by simp [RegView.counterAt]), regBytes_fnId,
    Nat.mod_eq_of_lt (fnId_lt h 0 (by decide)), fnId_func0]

/-- A 32-bit read of HALL_TIME's low half keeps the high half for the same reader (R21). -/
theorem readReg_hallTime_low (s : State) (h : PortId) (p : PartId) :
    s.readReg (.bar0 h p) 0x10 4 =
      ({ s with latches := tabSet 0 s.latches ((RegView.bar0 h p).latchKey 0x10) (s.hall / 2 ^ 32 % 2 ^ 32) },
        .value (s.hall % 2 ^ 32)) := by
  rw [readReg_bar0 s h p 0x10 4 fun _ => by decide, hostRead_aligned _ _ _ _ _ rfl, bar0Vals_ident s h p 0x10 (by decide),
    readBlock_low _ _ _ _ rfl, regBytes_hall_low, regBytes_hall_high]

theorem readReg_hallTime_high (s : State) (h : PortId) (p : PartId) :
    s.readReg (.bar0 h p) 0x14 4 = (s, .value (tabGet 0 s.latches ((RegView.bar0 h p).latchKey 0x10))) := by
  rw [readReg_bar0 s h p 0x14 4 fun _ => by decide, hostRead_aligned _ _ _ _ _ rfl]
  exact readBlock_high s _ _ 0x10 rfl rfl

/-! ### Reads that are refused: width and alignment (R20) -/

theorem readReg_host_not_aligned (s : State) (h : PortId) (p : PartId) (o w : Nat) (ha : alignedAt o w = false) :
    ∀ v ∈ [RegView.bar0 h p, .bar2 h p, .bar4 h p, .func0 h], s.readReg v o w = (s, .value (256 ^ w - 1)) := by
  simp only [List.forall_mem_cons]
  refine ⟨?_, hostRead_not_aligned _ _ _ _ _ ha, hostRead_not_aligned _ _ _ _ _ ha, hostRead_not_aligned _ _ _ _ _ ha, by simp⟩
  rw [readReg_bar0 s h p o w (by simp [ha]), hostRead_not_aligned _ _ _ _ _ ha]

/-- A load of an acting core from its device space. -/
theorem readReg_core_device (s : State) (c : CoreId) (p o w : Nat) (hc : CoreActs s c p)
    (ho : (0x20000000 ≤ o ∧ o < 0x20007000) ∨ (0x30000000 ≤ o ∧ o < 0x30008000)) :
    s.readReg (.core c) o w = s.loadReg c p o w := by
  obtain ⟨howner, hrun⟩ := hc
  simp only [State.readReg, howner, hrun, if_true, State.loadCore, if_pos ho]

theorem loadReg_not_aligned (s : State) (c : CoreId) (p o w : Nat) (ha : alignedAt o w = false) :
    s.loadReg c p o w = (s.accessFault c false o, .fault) := by
  simp [State.loadReg, ha]

theorem accessFault_core_fault (s : State) (c : Nat) (store : Bool) (o : Nat) :
    ((s.accessFault c store o).core c).fault = some ⟨store, o⟩ := by
  simp [State.accessFault]

/-! ### Reserved and write-only offsets (R17, R18) -/

theorem readReg_bar2_aligned (s : State) (h : PortId) (p : PartId) (o w : Nat) (ha : alignedAt o w = true) :
    s.readReg (.bar2 h p) o w = (s, .value 0) := by
  change s.hostRead _ [] o w = _
  rw [hostRead_aligned _ _ _ _ _ ha, readBlock_whole _ _ _ _ _ fun _ => ⟨rfl, fun _ => rfl⟩, regBytes_nil]

theorem bar0Vals_reserved (s : State) (h p o : Nat) (ho : 0x8000 ≤ o) : s.bar0Vals h p o = [] := by
  simp (disch := omega) only [State.bar0Vals, if_neg, ite_self]

/-- The counters of BAR0 lie below 0x5150. -/
theorem counterAt_bar0_high (h : PortId) (p : PartId) (o : Nat) (ho : 0x5150 ≤ o) :
    (RegView.bar0 h p).counterAt o = false := by
  simp only [RegView.counterAt, Bool.or_eq_false_iff, Bool.and_eq_false_iff, decide_eq_false_iff_not]
  omega

theorem readReg_bar0_reserved (s : State) (h : PortId) (p : PartId) (o w : Nat) (ha : alignedAt o w = true)
    (ho : 0x8000 ≤ o) : s.readReg (.bar0 h p) o w = (s, .value 0) := by
  rw [readReg_bar0_whole s h p o w ha (by omega)
      fun _ => ⟨counterAt_bar0_high h p o (by omega), fun _ => counterAt_bar0_high h p (o - 4) (by omega)⟩,
    bar0Vals_reserved s h p o ho, regBytes_nil]

theorem regBytes_ident_reserved (s : State) (h fn o w : Nat) (ho : 0x20 ≤ o) : regBytes (s.identRegs h fn) o w = 0 := by
  refine regBytes_eq_zero _ _ _ ?_
  simp only [State.identRegs, List.forall_mem_cons, List.not_mem_nil, false_implies, implies_true, and_true]
  omega

theorem readReg_func0_reserved (s : State) (h : PortId) (o w : Nat) (ha : alignedAt o w = true) (ho : 0x20 ≤ o) :
    s.readReg (.func0 h) o w = (s, .value 0) := by
  have notCounter : w = 4 → (RegView.func0 h).counterAt o = false ∧ (4 ≤ o → (RegView.func0 h).counterAt (o - 4) = false) := by
    simp only [RegView.counterAt, decide_eq_false_iff_not]
    omega
  change s.hostRead _ _ o w = _
  rw [hostRead_aligned _ _ _ _ _ ha, readBlock_whole _ _ _ _ _ notCounter, regBytes_ident_reserved s h 0 o w ho]

/-- Beyond the identity block BAR0 holds no register while the function is NOT_READY or UNBOUND (R431). -/
theorem bar0Vals_not_ready (s : State) (h p o : Nat) (ho : 0x100 ≤ o)
    (hs : s.fnStateAt h (p + 1) = 0 ∨ s.fnStateAt h (p + 1) = 2) : s.bar0Vals h p o = [] := by
  simp [State.bar0Vals, show ¬ o < 0x100 by omega, hs]

theorem bar0Vals_plan (s : State) (h p o : Nat) (ho : 0x4000 ≤ o ∧ o < 0x5000)
    (hs : ¬ (s.fnStateAt h (p + 1) = 0 ∨ s.fnStateAt h (p + 1) = 2)) : s.bar0Vals h p o = s.planVals p := by
  simp (disch := omega) only [State.bar0Vals, if_neg, if_pos, hs, if_false]

theorem bar0Vals_security (s : State) (h p o : Nat) (ho : 0x7000 ≤ o ∧ o < 0x8000)
    (hs : ¬ (s.fnStateAt h (p + 1) = 0 ∨ s.fnStateAt h (p + 1) = 2)) : s.bar0Vals h p o = s.securityVals p := by
  simp (disch := omega) only [State.bar0Vals, if_neg, if_pos, hs, if_false]

/-- PLAN_CTRL, at 0x4000, is write-only (R75). -/
theorem regBytes_planCtrl (s : State) (p : Nat) : regBytes (s.planVals p) 0x4000 4 = 0 := by
  simp [State.planVals]

/-- KEY_INSTALL, at 0x7010, is write-only (R408). -/
theorem regBytes_keyInstall (s : State) (p : Nat) : regBytes (s.securityVals p) 0x7010 4 = 0 := by
  refine regBytes_eq_zero _ _ _ fun r hr => ?_
  simp only [State.securityVals, List.mem_append, List.mem_cons, List.mem_flatMap, List.mem_range, List.not_mem_nil, or_false] at hr
  obtain ((rfl | rfl | rfl | rfl) | ⟨i, -, rfl | rfl⟩) | ⟨i, -, rfl | rfl | rfl | rfl⟩ := hr <;> simp <;> omega

/-- What reads 0 in a block of BAR0 reads 0 in every state of the function. -/
theorem readReg_bar0_zero (s : State) (h : PortId) (p : PartId) (o : Nat) (l : List RegVal) (ha : alignedAt o 4 = true)
    (ho : 0x100 ≤ o ∧ o ≠ 0x3110)
    (hc : (RegView.bar0 h p).counterAt o = false ∧ (4 ≤ o → (RegView.bar0 h p).counterAt (o - 4) = false))
    (hl : ¬ (s.fnStateAt h (p + 1) = 0 ∨ s.fnStateAt h (p + 1) = 2) → s.bar0Vals h p o = l) (hz : regBytes l o 4 = 0) :
    s.readReg (.bar0 h p) o 4 = (s, .value 0) := by
  rw [readReg_bar0_whole s h p o 4 ha ho.2 fun _ => hc]
  by_cases hs : s.fnStateAt h (p + 1) = 0 ∨ s.fnStateAt h (p + 1) = 2
  · rw [bar0Vals_not_ready s h p o ho.1 hs, regBytes_nil]
  · rw [hl hs, hz]

theorem readReg_bar0_writeOnly (s : State) (h : PortId) (p : PartId) :
    ∀ wo ∈ [0x4000, 0x7010], s.readReg (.bar0 h p) wo 4 = (s, .value 0) := by
  simp only [List.forall_mem_cons]
  refine ⟨?_, ?_, by simp⟩
  · exact readReg_bar0_zero s h p 0x4000 (s.planVals p) rfl (by decide) (by simp [RegView.counterAt])
      (bar0Vals_plan s h p _ (by decide)) (regBytes_planCtrl s p)
  · exact readReg_bar0_zero s h p 0x7010 (s.securityVals p) rfl (by decide) (by simp [RegView.counterAt])
      (bar0Vals_security s h p _ (by decide)) (regBytes_keyInstall s p)

/-! ### The plan counter, and the pop of a steal queue -/

theorem fnStateAt_ready (s : State) (h p : Nat) (hb : s.boundTo h p = true) (hr : s.fnReady p = true) :
    s.fnStateAt h (p + 1) = 1 := by
  simpa [State.fnStateAt, hb, State.fnReady] using hr

theorem regBytes_pc (s : State) (p : Nat) : regBytes (s.planVals p) 0x4020 8 = (s.part p).plan.pc % 2 ^ 64 := by
  simp [State.planVals]

/-- A 64-bit read of PC is whole: it latches nothing (R21, R75). -/
theorem readReg_bar0_pc (s : State) (h : PortId) (p : PartId) (hb : s.boundTo h p = true) (hr : s.fnReady p = true) :
    s.readReg (.bar0 h p) 0x4020 8 = (s, .value ((s.part p).plan.pc % 2 ^ 64)) := by
  rw [readReg_bar0_whole s h p 0x4020 8 rfl (by decide) (by simp),
    bar0Vals_plan s h p _ (by decide) (by simp [fnStateAt_ready s h p hb hr]), regBytes_pc]

@[simp] theorem lastRead_send_coreRead (s : State) (c v : Nat) : (s.send (.coreRead c v)).lastRead = v := by
  simp [State.lastRead, State.send]

theorem byCore_of_acts (s : State) (c : CoreId) (p : Nat) (f : Nat → State) (hc : CoreActs s c p) : s.byCore c f = f p := by
  obtain ⟨howner, hrun⟩ := hc
  simp [State.byCore, howner, hrun]

theorem loadReg_sqPop (s : State) (c : CoreId) (p : Nat) :
    s.loadReg c p 0x20005010 8 = s.readRow (execSqPop c) 8 := by
  simp [State.loadReg, alignedAt]

/-- SQ_POP answers word 0 of the oldest entry, or 0 of an empty queue (R198). -/
theorem lastRead_sqPop (s : State) (c : CoreId) (p : Nat) (hc : CoreActs s c p) :
    (s.does (execSqPop c)).lastRead = ((s.core c).sq.head?.map (·.1.toNat)).getD 0 := by
  simp only [State.does, execSqPop, afterOf, byCore_of_acts s c p _ hc]
  cases hq : (s.core c).sq with
  | nil => simp
  | cons e r => simp

theorem sqHead_lt (l : List (BitVec 64 × BitVec 64)) : (l.head?.map (·.1.toNat)).getD 0 < 256 ^ 8 := by
  cases l with
  | nil => simp
  | cons e r => exact e.1.isLt

theorem exec_sqPop_does (s : State) (c : CoreId) : exec (.sqPop c) s = .next (s.does (execSqPop c)) := rfl

theorem readReg_core_sqPop (s : State) (c : CoreId) (p : Nat) (hc : CoreActs s c p) :
    s.readReg (.core c) 0x20005010 8 =
      (s.does (execSqPop c), .value (((s.core c).sq.head?.map (·.1.toNat)).getD 0)) := by
  rw [readReg_core_device s c p _ _ hc (by decide), loadReg_sqPop, State.readRow, lastRead_sqPop s c p hc,
    Nat.mod_eq_of_lt (sqHead_lt _)]

/-! ### The obligation -/

/-- Settles O60: one lemma for each kind of read, a read of a block being the bytes of the registers that cover it. -/
theorem registersReadAsTheMapSays : Obligations.RegistersReadAsTheMapSays := by
  intro s h p o w
  refine ⟨readReg_bar0_fnId s h p, readReg_func0_fnId s h, fun hn => ?_, fun hw => ?_, readReg_bar0_writeOnly s h p, ?_,
    readReg_bar0_pc s h p, fun c hc => ?_⟩
  · have ha : alignedAt o w = false := by
      rw [Bool.eq_false_iff, ne_eq, alignedAt_iff]
      omega
    refine ⟨readReg_host_not_aligned s h p o w ha, fun c hc ho => ?_⟩
    rw [readReg_core_device s c p o w hc ho, loadReg_not_aligned s c p o w ha]
    exact ⟨rfl, accessFault_core_fault s c false o, rfl⟩
  · have ha : alignedAt o w = true := (alignedAt_iff o w).mpr hw
    exact ⟨readReg_bar2_aligned s h p o w ha, readReg_bar0_reserved s h p o w ha, readReg_func0_reserved s h o w ha⟩
  · rw [readReg_hallTime_low]
    refine ⟨rfl, rfl, fun u hu => ?_⟩
    rw [readReg_hallTime_high, hu, tabGet_tabSet_self]
  · rw [readReg_core_sqPop s c p hc]
    exact ⟨exec_sqPop_does s c, rfl⟩

end Sys2Proof.Machine
end

section
/-! PROOFS. Every step keeps the rest of the queue and the form of memory (O59). The lemma about a function of the model
takes what it is applied to from `Keeps s t` to `Keeps s` of its value, and its proof follows the function's body. -/

namespace Sys2Proof.Machine

/-- `t` has the queue of `s`, and memory in canonical form if `s` has. -/
structure Keeps (s t : State) : Prop where
  pending : t.pending = s.pending
  mem : Memory.wf s.mem = true → Memory.wf t.mem = true

/-- The next state a meaning answers keeps the queue and the form of memory. -/
def NextKeeps (s : State) (o : Out3) : Prop := ∀ u, o = .next u → Keeps s u

section
variable {s t : State}

theorem Keeps.refl (s : State) : Keeps s s := ⟨rfl, id⟩

/-- A write of any fields but the queue and memory. -/
theorem Keeps.set
    {hall moduleId parts groups tiles cores cords lanes laneLeases budgets turf badWords beats egBeats mail outbox
     cinder log logSeq coalesce reported merge rootTab rootDrop reportQ ports fn0 stoke images flash ident layout
     standing stood unsaved kindle update holdup power sensors test tap retortOff fuses spare time timeRec joinHeld
     subCount turfKey latches serial}
    (h : Keeps s t) : Keeps s { t with
      hall := hall, moduleId := moduleId, parts := parts, groups := groups, tiles := tiles, cores := cores,
      cords := cords, lanes := lanes, laneLeases := laneLeases, budgets := budgets, turf := turf,
      badWords := badWords, beats := beats, egBeats := egBeats, mail := mail, outbox := outbox, cinder := cinder,
      log := log, logSeq := logSeq, coalesce := coalesce, reported := reported, merge := merge, rootTab := rootTab,
      rootDrop := rootDrop, reportQ := reportQ, ports := ports, fn0 := fn0, stoke := stoke, images := images,
      flash := flash, ident := ident, layout := layout, standing := standing, stood := stood, unsaved := unsaved,
      kindle := kindle, update := update, holdup := holdup, power := power, sensors := sensors, test := test,
      tap := tap, retortOff := retortOff, fuses := fuses, spare := spare, time := time, timeRec := timeRec,
      joinHeld := joinHeld, subCount := subCount, turfKey := turfKey, latches := latches, serial := serial } :=
  ⟨h.pending, h.mem⟩

/-- A function of the state applied to what the model names with `let`. -/
theorem Keeps.via {u v : State} (k : Keeps s u → Keeps s v) (h : Keeps s u) : Keeps s v := k h

theorem NextKeeps.ite {c : Prop} {_ : Decidable c} {a b : Out3} (ha : NextKeeps s a) (hb : NextKeeps s b) :
    NextKeeps s (if c then a else b) := by
  split
  · exact ha
  · exact hb

theorem NextKeeps.next (h : Keeps s t) : NextKeeps s (.next t) := fun _ e => by cases e; exact h

theorem Keeps.foldl {α : Type} {f : State → α → State} {l : List α} (h : Keeps s t)
    (hf : ∀ {u x}, Keeps s u → Keeps s (f u x)) : Keeps s (l.foldl f t) := by
  induction l generalizing t with
  | nil => exact h
  | cons x l ih => exact ih (hf h)

theorem Keeps.foldl_fst {α β : Type} {f : State × β → α → State × β} {l : List α} {z : State × β}
    (h : Keeps s z.1) (hf : ∀ {y x}, Keeps s y.1 → Keeps s (f y x).1) : Keeps s (l.foldl f z).1 := by
  induction l generalizing z with
  | nil => exact h
  | cons x l ih => exact ih (hf h)

section
variable {c : Prop} {_ : Decidable c} {β : Type}

theorem Keeps.ite {a b : State} (ha : Keeps s a) (hb : Keeps s b) : Keeps s (if c then a else b) := by
  split
  · exact ha
  · exact hb

theorem Keeps.ite_st {a b : OpRes} (ha : Keeps s a.st) (hb : Keeps s b.st) : Keeps s (if c then a else b).st := by
  split
  · exact ha
  · exact hb

theorem Keeps.ite_fst {a b : State × β} (ha : Keeps s a.1) (hb : Keeps s b.1) : Keeps s (if c then a else b).1 := by
  split
  · exact ha
  · exact hb

end

/-! ### Memory writes, interrupts, the log and fault reports -/

theorem Keeps.onTiles {ts f} (h : Keeps s t) : Keeps s (t.onTiles ts f) := h.foldl (·.set)

theorem Keeps.wrMem {a b} (h : Keeps s t) : Keeps s (t.wrMem a b) :=
  .ite h.set ⟨h.pending, fun hw => wrByte_wf _ _ _ (h.mem hw)⟩

theorem Keeps.wrMems {a bytes} (h : Keeps s t) : Keeps s (t.wrMems a bytes) := by
  induction bytes generalizing t a with
  | nil => exact h
  | cons b r ih => exact ih h.wrMem

theorem Keeps.wrLe {a n v} (h : Keeps s t) : Keeps s (t.wrLe a n v) := h.wrMems

theorem Keeps.putBlock {p a bytes rec} (h : Keeps s t) : Keeps s (t.putBlock p a bytes rec) := by
  unfold State.putBlock
  split
  · exact h.wrMems
  · exact h.wrMems
  · exact h.wrMems
  · exact .ite h (.ite h.set h.set)
  · exact h

theorem Keeps.putMem {p a bytes rec} (h : Keeps s t) : Keeps s (t.putMem p a bytes rec) := h.foldl (·.putBlock)

theorem Keeps.pWrLe {p a n v} (h : Keeps s t) : Keeps s (t.pWrLe p a n v) := h.putMem

theorem Keeps.sendMsix {p v} (h : Keeps s t) : Keeps s (t.sendMsix p v) := .ite h.set h.set

theorem Keeps.raiseEv {p b} (h : Keeps s t) : Keeps s (t.raiseEv p b) := .ite h (.ite h.set.sendMsix h.set)

theorem Keeps.raiseQ {p q} (h : Keeps s t) : Keeps s (t.raiseQ p q) := .ite h (.ite h.set.sendMsix h.set)

theorem Keeps.refreshFn {p} (h : Keeps s t) : Keeps s (t.refreshFn p) := .ite h h.set.raiseEv

theorem Keeps.raiseCores {p b} (h : Keeps s t) : Keeps s (t.raiseCores p b) := h.foldl (·.set)

theorem Keeps.ringPut {e p} (h : Keeps s t) : Keeps s (t.ringPut e p) := h.set.raiseEv

theorem Keeps.logPut {e affects} (h : Keeps s t) : Keeps s (t.logPut e affects) := h.set.foldl (·.ringPut)

theorem Keeps.joinWindow {e} (h : Keeps s t) : Keeps s (t.joinWindow e) := .set <| h.foldl (·.logPut)

theorem Keeps.logEv {e affects} (h : Keeps s t) : Keeps s (t.logEv e affects) := .ite h.set.joinWindow h.set.logPut

theorem Keeps.logOpen (h : Keeps s t) : Keeps s t.logOpen := by
  unfold State.logOpen
  exact h.set.set.logEv

theorem Keeps.logTile {t' e} (h : Keeps s t) : Keeps s (t.logTile t' e) := h.logEv

theorem Keeps.unmapped {kind index p a} (h : Keeps s t) : Keeps s (t.unmapped kind index p a) := h.logEv

theorem Keeps.reportUp {p r} (h : Keeps s t) : Keeps s (t.reportUp p r) := .ite h.set.set h.set

theorem Keeps.raiseMembers {dom b} (h : Keeps s t) : Keeps s (t.raiseMembers dom b) := h.foldl (·.raiseEv)

theorem Keeps.rootAdd {r} (h : Keeps s t) : Keeps s (t.rootAdd r) :=
  .ite h.set.raiseMembers (.ite h.set.raiseMembers h.set)

theorem Keeps.onReport {p r} (h : Keeps s t) : Keeps s (t.onReport p r) :=
  .ite h.rootAdd (.ite h.set.set (.ite h.set.reportUp (.set h.reportUp)))

theorem Keeps.reportLocal {p cls omodule okind oindex detail} (h : Keeps s t) :
    Keeps s (t.reportLocal p cls omodule okind oindex detail) :=
  .ite (.ite h (.onReport <| .ite h.set h)) h

/-! ### Pages and frames -/

theorem Keeps.setPage {p h' x} (h : Keeps s t) : Keeps s (t.setPage p h' x) := .ite h.set.raiseCores h.set

theorem Keeps.refDec {p h' atOnce} (h : Keeps s t) : Keeps s (t.refDec p h' atOnce) :=
  .ite (.ite h.setPage h.setPage) h

theorem Keeps.setSteState {p i v} (h : Keeps s t) : Keeps s (t.setSteState p i v) := by
  unfold State.setSteState
  exact h.pWrLe

theorem Keeps.steToFree {p i} (h : Keeps s t) : Keeps s (t.steToFree p i) := h.pWrLe

theorem Keeps.wrPte {p a loc ro handle target} (h : Keeps s t) : Keeps s (t.wrPte p a loc ro handle target) :=
  h.putMem

theorem Keeps.unmappedAll {kind index p l} (h : Keeps s t) : Keeps s (t.unmappedAll kind index p l) :=
  h.foldl (·.unmapped)

theorem Keeps.voidSlot {a} (h : Keeps s t) : Keeps s (t.voidSlot a) := by
  unfold State.voidSlot
  exact .wrLe <| .wrLe h.wrLe

theorem Keeps.mirrorFrame {p b} (h : Keeps s t) : Keeps s (t.mirrorFrame p b) := .ite h h.wrMems

theorem Keeps.chargeFrame {p base} (h : Keeps s t) : Keeps s (t.chargeFrame p base) := h.foldl fun h => .ite h h.set

/-! ### Contexts and overlays at a boundary -/

theorem Keeps.setCtx {p c x} (h : Keeps s t) : Keeps s (t.setCtx p c x) := by
  unfold State.setCtx
  exact .putMem h.set.putMem

theorem Keeps.abortCtxs {p f} (h : Keeps s t) : Keeps s (t.abortCtxs p f) := h.foldl (·.setCtx)

theorem Keeps.abortOpens {p} (h : Keeps s t) : Keeps s (t.abortOpens p) := h.abortCtxs

theorem Keeps.setGst {p a b v} (h : Keeps s t) : Keeps s (t.setGst p a b v) := h.pWrLe

theorem Keeps.ovAdopt {p a b flipped} (h : Keeps s t) : Keeps s (t.ovAdopt p a b flipped) :=
  .ite (.pWrLe <| .setGst <| .ite h.setGst h) h

theorem Keeps.ovWithdraw {p a b} (h : Keeps s t) : Keeps s (t.ovWithdraw p a b) := .ite (.pWrLe h.setGst) h

theorem Keeps.ovDrain {p a b} (h : Keeps s t) : Keeps s (t.ovDrain p a b) := .ite h.setGst h

theorem Keeps.ovBoundary {p h' flipped} (h : Keeps s t) : Keeps s (t.ovBoundary p h' flipped) := by
  unfold State.ovBoundary
  exact .via (fun k => .ite (.set <| .pWrLe k) k)
      (.ovDrain <| .ovDrain <| .ite (.ovWithdraw <| .ovWithdraw <| .ovAdopt h.ovAdopt) (.ovAdopt h.ovAdopt))

theorem Keeps.weightBoundary {p n} (h : Keeps s t) : Keeps s (t.weightBoundary p n) :=
  .set <| .foldl (.ite h.set h) (·.ovBoundary)

theorem Keeps.cancelFlip {p} (h : Keeps s t) : Keeps s (t.cancelFlip p) :=
  .ite (h.set.foldl fun h => .ite (.setGst <| .ite h.setGst h) (.ite h.setGst h)) h

/-! ### Keys -/

theorem Keeps.eraseSlot {p k} (h : Keeps s t) : Keeps s (t.eraseSlot p k) := by
  unfold State.eraseSlot
  exact h.set.abortCtxs

theorem Keeps.redrawPairs {p} (h : Keeps s t) : Keeps s (t.redrawPairs p) := h.set.set.set

theorem Keeps.restartKeys {p} (h : Keeps s t) : Keeps s (t.restartKeys p) := .redrawPairs <| h.foldl (·.eraseSlot)

theorem Keeps.newTurfKey {g} (h : Keeps s t) : Keeps s (t.newTurfKey g) := h.set.set

theorem Keeps.drawKeys {p} (h : Keeps s t) : Keeps s (t.drawKeys p) := .foldl h.set.set.set.redrawPairs (·.newTurfKey)

theorem Keeps.setSrv {p v} (h : Keeps s t) : Keeps s (t.setSrv p v) := .ite h h.set.raiseEv

/-! ### Banking -/

theorem Keeps.bankPut {p r} (h : Keeps s t) : Keeps s (t.bankPut p r) := .set h.putMem

theorem Keeps.bankRecord {p r} (h : Keeps s t) : Keeps s (t.bankRecord p r) := .ite h.bankPut h.set.set

theorem Keeps.bankDrain {p} (h : Keeps s t) : Keeps s (t.bankDrain p) := h.foldl fun h => .ite h.set.bankPut h

theorem Keeps.sealPage {p ste i e k} (h : Keeps s t) : Keeps s (t.sealPage p ste i e k) :=
  .setPage <| .wrPte <| .wrMems h.set.wrMems

theorem Keeps.sealAll {p ste es ks m sk} (h : Keeps s t) : Keeps s (t.sealAll p ste es ks m sk).1 := by
  induction es generalizing t ks m sk with
  | nil => exact h
  | cons e r ih =>
    cases ks with
    | nil => exact h
    | cons k ks => exact .ite_fst (ih h.sealPage) (ih h)

theorem Keeps.openPage {p e h' far} (h : Keeps s t) : Keeps s (t.openPage p e h' far).1 := by
  unfold State.openPage
  dsimp only
  split
  · exact .set <| .wrPte <| .setPage <| .ite h.set h.set
  · exact .ite_fst (.wrPte <| .wrMems <| .wrMems <| .ite h.set h.set) (.set <| .wrPte <| .setPage <| .ite h.set h.set)

theorem Keeps.openAll {p nl es hs far m bad} (h : Keeps s t) : Keeps s (t.openAll p nl es hs far m bad).1 := by
  induction es generalizing t hs far m bad with
  | nil => exact h
  | cons e r ih =>
    cases hs with
    | nil => exact h
    | cons k hs => exact .ite_fst (ih h.openPage) (ih h.openPage)

theorem Keeps.bankRelease {p ste} (h : Keeps s t) : Keeps s (t.bankRelease p ste) := by
  unfold State.bankRelease
  split
  · exact h
  · exact .bankRecord <| .set <| .ite_fst (.set h.set.set.sealAll) (.foldl h.set.set.openAll (·.setPage))

/-! ### Frames and releases at a step boundary -/

theorem Keeps.abandonSeal {p} (h : Keeps s t) : Keeps s (t.abandonSeal p) := .ite h.set.set h.set

theorem Keeps.emptyFrame {p b n} (h : Keeps s t) : Keeps s (t.emptyFrame p b n) := by
  unfold State.emptyFrame
  exact .via (fun k => .ite (.wrLe <| .wrLe k) (.wrMems <| .wrLe <| .wrLe k)) (.foldl (.wrLe h.wrLe) (·.wrLe))

theorem Keeps.flip {p n} (h : Keeps s t) : Keeps s (t.flip p n) :=
  .ite h.set (.set <| .emptyFrame <| .set h.abandonSeal)

theorem Keeps.trim {p ste} (h : Keeps s t) : Keeps s (t.trim p ste) := by
  unfold State.trim
  exact .pWrLe <| .foldl h.unmappedAll fun h => .ite (by split; exacts [h, .ite (.wrPte h.refDec) h]) h

theorem Keeps.startReleases {p} (h : Keeps s t) : Keeps s (t.startReleases p) :=
  h.set.foldl fun h => .ite h.trim (.set <| .setSteState h.bankRelease)

theorem Keeps.afterFlip {p n} (h : Keeps s t) : Keeps s (t.afterFlip p n) := by
  unfold State.afterFlip
  exact .raiseCores <| .set <| .set <| .startReleases <| .set h.chargeFrame

theorem Keeps.boundaryRest {p n} (h : Keeps s t) : Keeps s (t.boundaryRest p n) := by
  unfold State.boundaryRest
  exact .afterFlip <| .set <| .ite (.set h.weightBoundary) h.weightBoundary

theorem Keeps.stopFrames {p} (h : Keeps s t) : Keeps s (t.stopFrames p) := by
  unfold State.stopFrames
  exact .raiseCores <| .set <| .cancelFlip <| .abandonSeal h.set.startReleases

theorem Keeps.loadFrames {p l} (h : Keeps s t) : Keeps s (t.loadFrames p l) := .set h.abandonSeal

theorem Keeps.launchFlip {p n} (h : Keeps s t) : Keeps s (t.launchFlip p n) := .ite h.set (.set <| .afterFlip h.flip)

theorem Keeps.launchFrames {p} (h : Keeps s t) : Keeps s (t.launchFrames p) := by
  unfold State.launchFrames
  exact .launchFlip <| .set <| .ite (.set <| .ite h.abandonSeal h) h

theorem Keeps.unloadFrames {p} (h : Keeps s t) : Keeps s (t.unloadFrames p) := .set <| .cancelFlip h.abandonSeal

/-! ### Records of Stoke -/

theorem Keeps.stokeBus {k cause addr} (h : Keeps s t) : Keeps s (t.stokeBus k cause addr) := h.logEv

theorem Keeps.putRec {k r} (h : Keeps s t) : Keeps s (t.putRec k r) := by
  unfold State.putRec
  split
  · exact h
  · exact .via (fun k => .ite (.raiseEv <| .set k) (.set k)) (.ite h.putMem h.stokeBus)

theorem Keeps.record {k irq r} (h : Keeps s t) : Keeps s (t.record k irq r) := .ite h.putRec h.set

theorem Keeps.drainRecs {k n} (h : Keeps s t) : Keeps s (t.drainRecs k n) := by
  induction n generalizing t with
  | zero => exact h
  | succ n ih =>
    unfold State.drainRecs
    dsimp only
    split
    · exact h
    · exact .ite h (ih <| .ite (.set h.set.putRec) h.set.putRec)

theorem Keeps.finalRec {k status bytes} (h : Keeps s t) : Keeps s (t.finalRec k status bytes) := by
  unfold State.finalRec
  exact h.record

theorem Keeps.endTransfer {k} (h : Keeps s t) : Keeps s (t.endTransfer k) :=
  .set (by split; exacts [.set h.set.record, h])

theorem Keeps.stkDrained {k} (h : Keeps s t) : Keeps s (t.stkDrained k) := by
  refine .ite h ?_
  split
  · exact .endTransfer h.finalRec
  · refine .ite h ?_
    split
    · exact .stokeBus h.set.record
    · exact .ite h (.ite (.endTransfer h.finalRec) (.ite (.set h.finalRec) (.endTransfer <| .finalRec h.finalRec)))

theorem Keeps.endWith {k status} (h : Keeps s t) : Keeps s (t.endWith k status) := h.set.stkDrained

theorem Keeps.stkFenceChan {k} (h : Keeps s t) : Keeps s (t.stkFenceChan k) := by
  unfold State.stkFenceChan
  dsimp only
  split
  · exact h.set.set.endWith
  · exact h.set.set.endWith
  · exact h.set.endTransfer
  · exact h.set.endTransfer
  · exact h.set

theorem Keeps.stkFence {p} (h : Keeps s t) : Keeps s (t.stkFence p) := h.foldl (·.stkFenceChan)

/-! ### Stops and fences -/

theorem Keeps.freezeUnits {p} (h : Keeps s t) : Keeps s (t.freezeUnits p) := .set <| .set h.onTiles

theorem Keeps.fence {p} (h : Keeps s t) : Keeps s (t.fence p) := .refreshFn h.set.stkFence

theorem Keeps.flushSlips {p} (h : Keeps s t) : Keeps s (t.flushSlips p) := .set <| h.foldl (·.logEv)

theorem Keeps.faultStop {p} (h : Keeps s t) : Keeps s (t.faultStop p) := by
  unfold State.faultStop
  exact .stopFrames <| .freezeUnits <| .fence <| .set h.flushSlips

theorem Keeps.schedFail {p fs} (h : Keeps s t) : Keeps s (t.schedFail p fs) := by
  unfold State.schedFail
  dsimp only
  split
  · exact h
  · exact .via (fun k => .via (fun k => .ite (.reportLocal <| .faultStop k) k) (.ite k (.raiseEv k)))
        (h.set.foldl (·.logTile))

/-! ### Issue of a tile's operations -/

theorem Keeps.digItem {p n desc data} (h : Keeps s t) : Keeps s (t.digItem p n desc data) := by
  unfold State.digItem
  split
  · exact h
  · exact h.set

theorem Keeps.enterLoop {p n d} (h : Keeps s t) : Keeps s (t.enterLoop p n d) := .ite h.set.schedFail h.set

theorem Keeps.enterDue {p n fuel} (h : Keeps s t) : Keeps s (t.enterDue p n fuel) := by
  induction fuel generalizing t with
  | zero => exact h
  | succ fuel ih => exact .ite (by split; exacts [h, ih h.enterLoop]) h

theorem Keeps.settleOp {p slot i c r} (h : Keeps s t) (hr : Keeps s r.st) : Keeps s (t.settleOp p slot i c r) :=
  .ite h.set.schedFail (by split; exacts [.set (by split; exacts [h, h.set]), hr.set])

theorem Keeps.issue {slot i c f} (h : Keeps s t) (hf : ∀ {u y z}, Keeps s u → Keeps s (f u y z).st) :
    Keeps s (t.issue slot i c f) := by
  unfold State.issue
  split
  · exact h
  · exact .ite (.ite h.enterDue h)
        (.ite (.ite (.set <| .ite h.enterDue h) (.settleOp (.ite h.enterDue h) (hf <| .ite h.enterDue h)))
          (.ite (.schedFail <| .set <| .ite h.enterDue h) (.ite h.enterDue h)))

theorem Keeps.readLs {i slot pc a n consume keep} (h : Keeps s t) :
    Keeps s (t.readLs i slot pc a n consume keep).st := by
  unfold State.readLs
  dsimp only
  split
  · exact h.set
  · exact .ite_st h (.ite_st h.set h.set)

/-! ### A tick of the tiles -/

theorem Keeps.takeEntry {p n slot} (h : Keeps s t) : Keeps s (t.takeEntry p n slot) :=
  .ite h (.ite h.set.set.logTile (.ite h.set.set (.digItem h.set.set.wrMems)))

theorem Keeps.takeEntries {p} (h : Keeps s t) : Keeps s (t.takeEntries p) := h.foldl fun h => h.foldl (·.takeEntry)

theorem Keeps.applyAct {p n w} (h : Keeps s t) : Keeps s (t.applyAct p n w) := by
  unfold State.applyAct
  dsimp only
  split
  · exact h
  · exact h
  · exact h
  · exact h
  · exact h.set
  · exact h.set.foldl (·.set)
  · exact h.set.set.set
  · exact h.set
  · exact h.set
  · exact h.set
  · exact h.set
  · exact h.set
  · exact .ite h.set.set h.set
  · exact h.set
  · exact .ite h.set.set h.set
  · exact h.set
  · exact h.takeEntry
  · exact h.set
  · exact h

theorem Keeps.endTick {p pc n} (h : Keeps s t) : Keeps s (t.endTick p pc n) := .ite h (.set <| h.foldl (·.applyAct))

theorem Keeps.eccLog {p pc n e} (h : Keeps s t) : Keeps s (t.eccLog p pc n e) := .ite h.set h.logTile

theorem Keeps.sendBeat {p n pc i len issue eng addr dst tag} (h : Keeps s t) :
    Keeps s (t.sendBeat p n pc i len issue eng addr dst tag) := by
  unfold State.sendBeat
  dsimp only
  split
  · split
    · exact h
    · exact h.set
  · split
    · exact h
    · exact h.set
  · exact .ite h (.ite h.set h.set)

theorem Keeps.startAct {p n pc w} (h : Keeps s t) : Keeps s (t.startAct p n pc w) := by
  unfold State.startAct
  dsimp only
  split
  · exact h.set
  · exact h.set
  · exact h.set
  · exact h.set.sendBeat
  · exact h

theorem Keeps.startTick {p pc n} (h : Keeps s t) : Keeps s (t.startTick p pc n) := .set <| h.set.foldl (·.startAct)

/-! ### Commands of the MXE -/

theorem Keeps.loadWeights {at_ pc a form consume occ} (h : Keeps s t) :
    Keeps s (t.loadWeights at_ pc a form consume occ).st := by
  unfold State.loadWeights
  dsimp only
  split
  · exact h
  · exact .set h.set.readLs

theorem Keeps.execWld {at_ src form consume} (h : Keeps s t) : NextKeeps s (execWld at_ src form consume t) :=
  .next <| h.issue (·.loadWeights)

theorem Keeps.execWldWithOverlay {at_ src form ovl d chunks consume} (h : Keeps s t) :
    NextKeeps s (execWldWithOverlay at_ src form ovl d chunks consume t) :=
  .next <| h.issue fun h => (by dsimp only; split; exacts [h, .set h.loadWeights])

theorem Keeps.execWsw {at_} (h : Keeps s t) : NextKeeps s (execWsw at_ t) := .next <| h.issue (·.set)

theorem Keeps.mma {at_ row src fmt consume start pc} (h : Keeps s t) :
    Keeps s (t.mma at_ row src fmt consume start pc).st := by
  unfold State.mma
  dsimp only
  split
  · exact h
  · exact .set h.readLs

theorem Keeps.execMmaAcc {at_ row src fmt consume} (h : Keeps s t) :
    NextKeeps s (execMmaAcc at_ row src fmt consume t) :=
  .next <| h.issue (·.mma)

theorem Keeps.execMmaStart {at_ row src fmt consume} (h : Keeps s t) :
    NextKeeps s (execMmaStart at_ row src fmt consume t) :=
  .next <| h.issue (·.mma)

theorem Keeps.execAcz {at_ row exact} (h : Keeps s t) : NextKeeps s (execAcz at_ row exact t) :=
  .next <| h.issue (·.set)

theorem Keeps.execDrn {at_ row dst fmt} (h : Keeps s t) : NextKeeps s (execDrn at_ row dst fmt t) :=
  .next <| h.issue (·.set)

theorem Keeps.execDrw {at_ row dst} (h : Keeps s t) : NextKeeps s (execDrw at_ row dst t) := .next <| h.issue (·.set)

/-! ### Commands of the vector unit -/

theorem Keeps.vecOp {at_ pc occ lat vd f} (h : Keeps s t) : Keeps s (t.vecOp at_ pc occ lat vd f).st := h.set

theorem Keeps.execVop {at_ op vd va vb vc} (h : Keeps s t) : NextKeeps s (execVop at_ op vd va vb vc t) :=
  .next <| h.issue (·.set.vecOp)

theorem Keeps.execVsf {at_ fn vd va} (h : Keeps s t) : NextKeeps s (execVsf at_ fn vd va t) :=
  .next <| h.issue (·.vecOp)

theorem Keeps.execVrd {at_ op seg vd va} (h : Keeps s t) : NextKeeps s (execVrd at_ op seg vd va t) :=
  .next <| h.issue (·.vecOp)

theorem Keeps.execVrg {at_ vd vc key} (h : Keeps s t) : NextKeeps s (execVrg at_ vd vc key t) :=
  .next <| h.issue (·.vecOp)

theorem Keeps.execVtk {at_ k vd vcand vlist base} (h : Keeps s t) :
    NextKeeps s (execVtk at_ k vd vcand vlist base t) :=
  .next <| h.issue (·.vecOp)

theorem Keeps.execVld {at_ vd src consume} (h : Keeps s t) : NextKeeps s (execVld at_ vd src consume t) :=
  .next <| h.issue fun h => (by dsimp only; split; exacts [h, .set h.readLs])

theorem Keeps.execVst {at_ va dst} (h : Keeps s t) : NextKeeps s (execVst at_ va dst t) := .next <| h.issue (·.set)

/-! ### Commands of the scalar slot -/

theorem Keeps.cutSend {n pc eng} (h : Keeps s t) : Keeps s (t.cutSend n pc eng) := .ite h.set h

theorem Keeps.execSnd {at_ eng src n dst tag consume} (h : Keeps s t) :
    NextKeeps s (execSnd at_ eng src n dst tag consume t) :=
  .next <| h.issue fun h => (by dsimp only; split; exacts [h, .sendBeat <| .set <| .cutSend h.readLs])

theorem Keeps.execSclAlu {at_ op rd a b} (h : Keeps s t) : NextKeeps s (execSclAlu at_ op rd a b t) :=
  .next <| h.issue (·.set)

theorem Keeps.execSclMul {at_ rd a b} (h : Keeps s t) : NextKeeps s (execSclMul at_ rd a b t) :=
  .next <| h.issue (·.set)

theorem Keeps.execSclDiv {at_ op rd a b} (h : Keeps s t) : NextKeeps s (execSclDiv at_ op rd a b t) :=
  .next <| h.issue (·.set)

theorem Keeps.execSclLd {at_ rd src consume} (h : Keeps s t) : NextKeeps s (execSclLd at_ rd src consume t) := by
  refine .next <| h.issue fun h => ?_
  dsimp only
  split
  · exact h.set
  · exact h.set
  · exact h.set
  · exact h.set
  · split
    · exact h
    · exact .set h.readLs

theorem Keeps.execSclSt {at_ rs dst} (h : Keeps s t) : NextKeeps s (execSclSt at_ rs dst t) :=
  .next <| h.issue (·.set)

theorem Keeps.execCnt {at_ ag level v} (h : Keeps s t) : NextKeeps s (execCnt at_ ag level v t) :=
  .next <| h.issue (·.set)

theorem Keeps.execPcr {at_ rd} (h : Keeps s t) : NextKeeps s (execPcr at_ rd t) := .next <| h.issue (·.set)

theorem Keeps.execMbx {at_ rs core mtag} (h : Keeps s t) : NextKeeps s (execMbx at_ rs core mtag t) :=
  .next <| h.issue fun h => .ite_st h.set.set h.set.set

/-! ### Flue entries and landing beats -/

theorem Keeps.ueStop {p cls detail} (h : Keeps s t) : Keeps s (t.ueStop p cls detail) :=
  .ite (.reportLocal h.faultStop) h

theorem Keeps.awaitEntry {p n slot} (h : Keeps s t) : Keeps s (t.awaitEntry p n slot) := .ite h.set.ueStop h.set

theorem Keeps.flueEntry {at_ p pc mem ls n draw} (h : Keeps s t) : Keeps s (t.flueEntry at_ p pc mem ls n draw).st := by
  unfold State.flueEntry
  dsimp only
  refine .ite_st h (.ite_st (.ite h.awaitEntry h) ?_)
  split
  · exact .set <| .set <| .ite h.awaitEntry h
  · exact .ite_st (.set <| .ite h.awaitEntry h) (.set <| .set <| .set <| .ite h.awaitEntry h)

theorem Keeps.execDraw {at_ mem dst n} (h : Keeps s t) : NextKeeps s (execDraw at_ mem dst n t) :=
  .next <| h.issue (·.flueEntry)

theorem Keeps.execLay {at_ src mem n consume} (h : Keeps s t) : NextKeeps s (execLay at_ src mem n consume t) :=
  .next <| h.issue fun h => .ite_st h (by dsimp only; split; exacts [h, .flueEntry h.readLs])

theorem Keeps.execAwt {at_ slot} (h : Keeps s t) : NextKeeps s (execAwt at_ slot t) :=
  .next <| h.issue fun h => .ite_st (.ite_st h.set.awaitEntry h) h.set

theorem Keeps.tileExec {c} (h : Keeps s t) : Keeps s (tileExec c t) := by
  unfold Machine.tileExec
  dsimp only
  split
  · split; exacts [h.execWld _ ‹_›, h]
  · split; exacts [h.execWldWithOverlay _ ‹_›, h]
  · split; exacts [h.execWsw _ ‹_›, h]
  · split; exacts [h.execMmaAcc _ ‹_›, h]
  · split; exacts [h.execMmaStart _ ‹_›, h]
  · split; exacts [h.execAcz _ ‹_›, h]
  · split; exacts [h.execDrn _ ‹_›, h]
  · split; exacts [h.execDrw _ ‹_›, h]
  · split; exacts [h.execVop _ ‹_›, h]
  · split; exacts [h.execVsf _ ‹_›, h]
  · split; exacts [h.execVrd _ ‹_›, h]
  · split; exacts [h.execVrg _ ‹_›, h]
  · split; exacts [h.execVtk _ ‹_›, h]
  · split; exacts [h.execVld _ ‹_›, h]
  · split; exacts [h.execVst _ ‹_›, h]
  · split; exacts [h.execSnd _ ‹_›, h]
  · split; exacts [h.execDraw _ ‹_›, h]
  · split; exacts [h.execLay _ ‹_›, h]
  · split; exacts [h.execAwt _ ‹_›, h]
  · split; exacts [h.execSclAlu _ ‹_›, h]
  · split; exacts [h.execSclMul _ ‹_›, h]
  · split; exacts [h.execSclDiv _ ‹_›, h]
  · split; exacts [h.execSclLd _ ‹_›, h]
  · split; exacts [h.execSclSt _ ‹_›, h]
  · split; exacts [h.execCnt _ ‹_›, h]
  · split; exacts [h.execPcr _ ‹_›, h]
  · split; exacts [h.execMbx _ ‹_›, h]
  · exact h

theorem Keeps.resume {n} (h : Keeps s t) : Keeps s (t.resume n) := .ite (h.set.foldl (·.tileExec)) h

theorem Keeps.landBeat {b} (h : Keeps s t) : Keeps s (t.landBeat b) :=
  .ite h (by split; exacts [h.schedFail, .ite h h.set])

theorem Keeps.beatUe {b} (h : Keeps s t) : Keeps s (t.beatUe b) := .ite (.ueStop h.logTile) h

theorem Keeps.execLandingBeat {t' landing ecc} (h : Keeps s t) : NextKeeps s (execLandingBeat t' landing ecc t) := by
  refine .next ?_
  split
  · exact h
  · dsimp only
    split
    · exact h.set.beatUe
    · exact .resume h.set.set.landBeat
    · exact .resume h.set.landBeat

theorem Keeps.flueComplete {p n slot ecc word} (h : Keeps s t) : Keeps s (t.flueComplete p n slot ecc word) := by
  refine .ite h ?_
  dsimp only
  split
  · exact .set <| .set <| .logEv <| .ite h h.takeEntries
  · exact .ite (.set <| .ite h h.takeEntries) (.set <| .ite (.logEv <| .ite h h.takeEntries) (.ite h h.takeEntries))

theorem Keeps.execFlueEntryComplete {t' slot ecc word} (h : Keeps s t) :
    NextKeeps s (execFlueEntryComplete t' slot ecc word t) := by
  refine .next ?_
  dsimp only
  split
  · exact h
  · exact .ite h.flueComplete (.ite (.resume h.flueComplete) (.set h.flueComplete))

theorem Keeps.flueBounds {p q} (h : Keeps s t) : Keeps s (t.flueBounds p q) :=
  h.foldl fun h => h.foldl fun h => .ite h.flueComplete h

/-! ### Load, arm, launch and unload of a plan -/

theorem Keeps.initTiles {p img f} (h : Keeps s t) : Keeps s (t.initTiles p img f) := h.foldl (·.set)

theorem Keeps.execPlanLoad {p} (h : Keeps s t) : NextKeeps s (execPlanLoad p t) :=
  .next <| .ite h (.ite h.set.set h.set)

theorem Keeps.execLoadDone {p img host} (h : Keeps s t) : NextKeeps s (execLoadDone p img host t) := by
  refine .next <| .ite h ?_
  dsimp only
  split
  · exact h.set.set
  · split
    · exact h.set.set
    · split
      · exact h.set.set
      · exact .loadFrames <| .set <| .set h.set.initTiles

theorem Keeps.execPlanArm {p} (h : Keeps s t) : NextKeeps s (execPlanArm p t) :=
  .next <| .ite h (.ite (.ite h.set h.set.set) h.set)

theorem Keeps.execPlanStop {p} (h : Keeps s t) : NextKeeps s (execPlanStop p t) := .next <| .ite h (.ite h.set h.set)

theorem Keeps.unloadNow {p} (h : Keeps s t) : Keeps s (t.unloadNow p) := by
  unfold State.unloadNow
  exact .refreshFn <| .unloadFrames <| .set <| .set <| .set h.onTiles

theorem Keeps.execPlanUnload {p} (h : Keeps s t) : NextKeeps s (execPlanUnload p t) :=
  .next <| .ite h (.ite (.ite h.set h.unloadNow) h.set)

theorem Keeps.execUnloadComplete {p} (h : Keeps s t) : NextKeeps s (execUnloadComplete p t) :=
  .next <| .ite h.unloadNow h

theorem Keeps.execRebind {p host} (h : Keeps s t) : NextKeeps s (execRebind p host t) :=
  .next <| .ite h (.ite (by dsimp only; split; exacts [h.set, (by split; exacts [h.set, h.set.set])]) h.set)

theorem Keeps.execLaunch {p} (h : Keeps s t) : NextKeeps s (execLaunch p t) :=
  .next <| .ite (.launchFrames <| .set <| .set <| .set <| .set h.initTiles) h

theorem Keeps.execSfClear {p} (h : Keeps s t) : NextKeeps s (execSfClear p t) := .next <| .ite h h.set

theorem Keeps.execLoopEntry {at_ ag level} (h : Keeps s t) : NextKeeps s (execLoopEntry at_ ag level t) :=
  .next (by split; exacts [h, (by dsimp only; split; exacts [h, .ite h.enterLoop h])])

theorem Keeps.execLoopSpanEnd {t' ag level} (h : Keeps s t) : NextKeeps s (execLoopSpanEnd t' ag level t) :=
  .next (by split; exacts [h, .ite h.set h])

theorem Keeps.execFlueBudgetWindow {p} (h : Keeps s t) : NextKeeps s (execFlueBudgetWindow p t) := .next h.set

/-! ### The beat schedule and slips -/

theorem Keeps.sendAllOf {p cs m} (h : Keeps s t) : Keeps s (t.sendAllOf p cs m) := h.foldl (·.set)

theorem Keeps.sendAll {cs m} (h : Keeps s t) : Keeps s (t.sendAll cs m) := h.foldl (·.set)

theorem Keeps.timeLoss {cause theta} (h : Keeps s t) : Keeps s (t.timeLoss cause theta) := by
  unfold State.timeLoss
  exact .via (fun k => .ite (.set k) k) (.foldl h.logEv fun h => .reportLocal h.faultStop)

theorem Keeps.slipAt {dom tag amount module but} (h : Keeps s t) : Keeps s (t.slipAt dom tag amount module but) := by
  unfold State.slipAt
  exact .via (fun k => .ite (.timeLoss k) k) (h.foldl fun h => .ite h.set h)

theorem Keeps.slipAsk {p tag need} (h : Keeps s t) : Keeps s (t.slipAsk p tag need) := by
  unfold State.slipAsk
  exact .via (fun k => .ite (.slipAt <| .sendAllOf k) k) (.ite h.set.set.set h.set.set)

theorem Keeps.slipProject {p b} (h : Keeps s t) : Keeps s (t.slipProject p b) := .ite h.slipAsk h

theorem Keeps.schedule {p b} (h : Keeps s t) : Keeps s (t.schedule p b) :=
  .ite h
    (.via
      (fun k => .via
        (fun k => .ite k
          (.via (fun k => .ite (.reportLocal <| .faultStop <| .logEv k) k) (.ite (.set k) (.logEv <| .set k))))
        (.ite (.timeLoss k) k)) (.set <| .ite h.set.set h.set))

theorem Keeps.heldBeat {p cause tile} (h : Keeps s t) : Keeps s (t.heldBeat p cause tile) := .ite h.set.set h.set

/-! ### BEAT and STEP_BOUNDARY -/

theorem Keeps.stage {c x via} (h : Keeps s t) : Keeps s (t.stage c x via) := .ite h (h.foldl (·.set))

theorem Keeps.egressBeat {pc e} (h : Keeps s t) : Keeps s (t.egressBeat pc e) :=
  .ite h.set (h.set.foldl fun h => .stage h.digItem)

theorem Keeps.egressDue {p pc} (h : Keeps s t) : Keeps s (t.egressDue p pc) := h.set.foldl (·.egressBeat)

theorem Keeps.sealWaits {p} (h : Keeps s t) : Keeps s (t.sealWaits p) := .ite h h.set

theorem Keeps.boundaryLate {p} (h : Keeps s t) : Keeps s (t.boundaryLate p) := .ite h h.set.set

theorem Keeps.endWork {p} (h : Keeps s t) : Keeps s (t.endWork p) := .ite h.set.set h.set

theorem Keeps.atBeat {p f} (h : Keeps s t) (hf : ∀ {u}, Keeps s u → Keeps s (f u)) : Keeps s (t.atBeat p f) :=
  .set <| hf h.set

theorem Keeps.enterAll {p} (h : Keeps s t) : Keeps s (t.enterAll p) := h.foldl (·.enterDue)

theorem Keeps.closeTick {p} (h : Keeps s t) : Keeps s (t.closeTick p) := by
  unfold State.closeTick
  refine .via (fun k => .ite (.set <| .schedFail k) (.ite (.set <| .schedFail k) ?_))
      (.foldl (.set h.enterAll) (·.eccLog))
  split
  · exact .ueStop k
  · exact .foldl k (·.endTick)

theorem Keeps.openTick {p q} (h : Keeps s t) : Keeps s (t.openTick p q) := by
  unfold State.openTick
  exact .via (fun k => .ite (.schedFail k) k) (.foldl (.egressDue h.set.flueBounds) (·.startTick))

theorem Keeps.tick {p} (h : Keeps s t) : Keeps s (t.tick p) := by
  unfold State.tick
  exact .via (fun k => .ite k (.ite (.endWork <| .openTick <| .set k) (.openTick <| .set k)))
      (h.atBeat (·.closeTick))

theorem Keeps.launchBeat {p b} (h : Keeps s t) : Keeps s (t.launchBeat p b) :=
  .ite h.heldBeat (.ite (.heldBeat h.sealWaits) (.openTick <| .set <| .set <| .ite h.launchFlip h))

theorem Keeps.runBeat {p} (h : Keeps s t) : Keeps s (t.runBeat p) := by
  refine .ite (.set h.schedule)
      (.via (fun k => .set <| .ite (.slipProject k) k)
        (.ite (.launchBeat <| .set h.schedule)
          (.ite ?_ (.ite (.ite (.set <| .set h.schedule) (.heldBeat <| .set h.schedule)) ?_))))
  · split
    · exact .via (fun k => .ite k (.heldBeat <| .ite (.sealWaits k) (.ite (.boundaryLate k) k)))
          (.ite (.tick <| .set h.schedule) (.set h.schedule))
    · exact .set h.schedule
  · split
    · exact .heldBeat <| .set h.schedule
    · exact .via (fun k => .ite k (.tick k)) (.set <| .set h.schedule)

theorem Keeps.closeFail {p} (h : Keeps s t) : Keeps s (t.closeFail p) := .set <| h.atBeat (·.closeTick)

theorem Keeps.shadowBeat {p k} (h : Keeps s t) : Keeps s (t.shadowBeat p k) :=
  .ite (.set <| .set h.schedule)
    (.set <| .launchBeat <| .launchFlip <| .set <| .set <| .set <| .set <| .set <| .initTiles <| .set h.schedule)

theorem Keeps.endPrev {p} (h : Keeps s t) : Keeps s (t.endPrev p) := .ite h (h.atBeat (·.closeTick))

theorem Keeps.execBeat {p} (h : Keeps s t) : NextKeeps s (execBeat p t) := by
  refine .next <| .ite h.set.closeFail
      (.ite ?_ (.ite h.set (.ite h.set.endPrev (.ite h.set.endPrev (.runBeat h.set.endPrev)))))
  split
  · exact h.set.shadowBeat
  · exact h.set

theorem Keeps.stepDigest {p n} (h : Keeps s t) : Keeps s (t.stepDigest p n) := .ite h.set.set (.ite h.set.set h.set)

theorem Keeps.compareDigs {p ended} (h : Keeps s t) : Keeps s (t.compareDigs p ended) :=
  h.foldl fun h => (by dsimp only; split; exacts [.ite h.set h.set, .ite h.set h])

theorem Keeps.stopPlan {p} (h : Keeps s t) : Keeps s (t.stopPlan p) :=
  .set <| .stopFrames <| .freezeUnits <| .set h.flushSlips

theorem Keeps.runOut {p last fuel} (h : Keeps s t) : Keeps s (t.runOut p last fuel) := by
  induction fuel generalizing t with
  | zero => exact h
  | succ fuel ih => exact .ite h (ih h.tick)

theorem Keeps.passBoundary {p b} (h : Keeps s t) : Keeps s (t.passBoundary p b) := by
  unfold State.passBoundary
  extract_lets n len u fails v bad w x y flipped tiled rest moved z
  have hu : Keeps s u := .atBeat h.runOut (·.closeTick)
  have hv : Keeps s v := .ite hu hu.endWork
  have hx : Keeps s x := .onTiles <| .compareDigs hv.stepDigest
  have hy : Keeps s y := by
    unfold y
    split
    · exact hx.set.set
    · exact hx
  have hz : Keeps s z := .openTick <| .set <| .set <| .boundaryRest <| .onTiles hy.flip
  clear_value u v y z bad
  cases bad with
  | some e => exact .ite hu hv.ueStop
  | none => exact .ite hu (.ite hv.schedFail (.ite hy.stopPlan (.set <| .ite hz.slipProject hz)))

theorem Keeps.execStepBoundary {p} (h : Keeps s t) : NextKeeps s (execStepBoundary p t) :=
  .next <| .ite h.set (.ite h.set.endPrev (.ite (.passBoundary <| .set <| .schedule h.set.endPrev) h.set.endPrev))

/-! ### Ember cores, mailboxes and budgets -/

theorem Keeps.byCore {c f} (h : Keeps s t) (hf : ∀ {x}, Keeps s (f x)) : Keeps s (t.byCore c f) := by
  unfold State.byCore
  split
  · exact .ite hf h
  · exact h

theorem Keeps.mbPut {c bytes} (h : Keeps s t) : Keeps s (t.mbPut c bytes) := .ite h.set.set h.set.set

theorem Keeps.execMailboxEntryArrival {core} (h : Keeps s t) : NextKeeps s (execMailboxEntryArrival core t) :=
  .next (by split; exacts [h, h.set.mbPut])

theorem Keeps.execTmbxWrite {core tile word half v} (h : Keeps s t) :
    NextKeeps s (execTmbxWrite core tile word half v t) :=
  .next <| h.byCore <| .ite h.set h.set

theorem Keeps.execMbTailWrite {core tail} (h : Keeps s t) : NextKeeps s (execMbTailWrite core tail t) :=
  .next <| h.byCore <| .ite h.set h

theorem Keeps.execEmberHalt {core mcause mepc mtval} (h : Keeps s t) :
    NextKeeps s (execEmberHalt core mcause mepc mtval t) :=
  .next <| h.byCore <| .setSrv h.set.logEv

theorem Keeps.resetServing {p} (h : Keeps s t) : Keeps s (t.resetServing p) := by
  unfold State.resetServing
  exact .via (fun k => .ite (.abandonSeal k) k) (h.foldl (·.set))

theorem Keeps.execHalt {p} (h : Keeps s t) : NextKeeps s (execHalt p t) :=
  .next <| .ite h (.ite (.setSrv <| .set <| .foldl h.set.resetServing (·.set)) h.set)

theorem Keeps.startCores {p elvune} (h : Keeps s t) : Keeps s (t.startCores p elvune) :=
  .setSrv <| .set <| .foldl (.restartKeys h.set.resetServing) (·.set)

theorem Keeps.execStart {p} (h : Keeps s t) : NextKeeps s (execStart p t) := .next <| .ite h (.ite h.startCores h.set)

theorem Keeps.execStartImage {p} (h : Keeps s t) : NextKeeps s (execStartImage p t) :=
  .next <| .ite h (.ite h.set (.ite h.set (.ite h.set h.set.startCores)))

theorem Keeps.execSteCount {p} (h : Keeps s t) : NextKeeps s (execSteCount p t) := .next h.set

theorem Keeps.execSqPush {core word1} (h : Keeps s t) : NextKeeps s (execSqPush core word1 t) :=
  .next <| h.byCore h.set

theorem Keeps.execSqPop {core} (h : Keeps s t) : NextKeeps s (execSqPop core t) :=
  .next <| h.byCore (by split; exacts [h.set.set, h.set.set])

theorem Keeps.execSqSteal {core} (h : Keeps s t) : NextKeeps s (execSqSteal core t) :=
  .next <| h.byCore (by intro _; split; exacts [h.set.set, h.set.set.set.set])

theorem Keeps.reply {a v} (h : Keeps s t) : Keeps s (t.reply a v) := by
  unfold State.reply
  split
  · exact h.set
  · exact h.set

theorem Keeps.execBtBalanceRead {a} (h : Keeps s t) : NextKeeps s (execBtBalanceRead a t) :=
  .next <| .ite h (by split; exacts [h.reply, h.set.reply])

theorem Keeps.execBtAdd {a delta} (h : Keeps s t) : NextKeeps s (execBtAdd a delta t) :=
  .next <| .ite h (by split; exacts [h, h.set])

/-! ### The page pool -/

theorem Keeps.paNone {c status} (h : Keeps s t) : Keeps s (t.paNone c status) := h.set.set.set

theorem Keeps.execAlloc {core g} (h : Keeps s t) : NextKeeps s (execAlloc core g t) :=
  .next <| h.byCore (by intro _; split; exacts [.set h.paNone, .set <| .set h.set.setPage])

theorem Keeps.pageOp {core h' f} (h : Keeps s t) : Keeps s (t.pageOp core h' f) :=
  h.byCore <| .ite h.paNone (.ite (.set h.paNone) (.set <| .ite h.setPage h))

theorem Keeps.execFree {core h'} (h : Keeps s t) : NextKeeps s (execFree core h' t) := .next h.pageOp

theorem Keeps.execRefInc {core h'} (h : Keeps s t) : NextKeeps s (execRefInc core h' t) := .next h.pageOp

theorem Keeps.execRefDec {core h'} (h : Keeps s t) : NextKeeps s (execRefDec core h' t) := .next h.pageOp

theorem Keeps.execShare {core h'} (h : Keeps s t) : NextKeeps s (execShare core h' t) := .next h.pageOp

theorem Keeps.execQuery {core h'} (h : Keeps s t) : NextKeeps s (execQuery core h' t) := .next h.pageOp

theorem Keeps.execPagePoolEnable {p} (h : Keeps s t) : NextKeeps s (execPagePoolEnable p t) :=
  .next <| .ite h (by split; exacts [.set h.unmappedAll, h.set])

/-! ### BANK, REKINDLE and MIGRATE -/

theorem Keeps.bankGaps {c p ste t2} (h : Keeps s t) (h2 : Keeps s t2) : Keeps s (t.bankGaps c p ste t2) := by
  have e := State.bankGaps.eq_1 t c p ste t2
  generalize t.tableGaps p (t.stePdir p ste) (t.tableSize p ste) = l at e
  cases l with
  | nil => exact e ▸ h2
  | cons a l => exact e ▸ .set h.unmappedAll

theorem Keeps.bankStart {c p ste ttl} (h : Keeps s t) : Keeps s (t.bankStart c p ste ttl) :=
  .ite h.set (h.bankGaps <| .ite h.set.set.bankRecord (.set h.set.set.setSteState))

theorem Keeps.takePages {p g n} (h : Keeps s t) : Keeps s (t.takePages p g n).1 := by
  induction n generalizing t with
  | zero => exact h
  | succ n ih =>
    unfold State.takePages
    split
    · exact h
    · exact ih h.set.setPage

theorem Keeps.rekindleStart {c p ste g} (h : Keeps s t) : Keeps s (t.rekindleStart c p ste g) :=
  .ite h.set (.ite h.set (h.bankGaps <| .ite h.set.set.bankRecord (.set <| .setSteState h.set.takePages)))

theorem Keeps.bankCommand {c bank} (h : Keeps s t) : Keeps s (t.bankCommand c bank) :=
  h.byCore <| .ite h.set (.ite (.set h.unmapped) (.ite h.set.set (.ite h.bankStart h.rekindleStart)))

theorem Keeps.execBank {core} (h : Keeps s t) : NextKeeps s (execBank core t) := .next h.bankCommand

theorem Keeps.execRekindle {core} (h : Keeps s t) : NextKeeps s (execRekindle core t) := .next h.bankCommand

theorem Keeps.execBankMoveStart {p} (h : Keeps s t) : NextKeeps s (execBankMoveStart p t) :=
  .next (by split; exacts [h, h.set])

theorem Keeps.execBankDone {p} (h : Keeps s t) : NextKeeps s (execBankDone p t) :=
  .next (by split; exacts [h, .ite h.set (.bankRecord <| .set <| .setSteState <| .pWrLe <| .set h.sealAll)])

theorem Keeps.migratePage {p e k} (h : Keeps s t) : Keeps s (t.migratePage p e k) :=
  .set <| .wrPte <| .wrMems h.putMem

theorem Keeps.execMigrate {p} (h : Keeps s t) : NextKeeps s (execMigrate p t) :=
  .next <| .ite h (by dsimp only; split; exacts [h, .ite h (h.set.set.foldl (·.migratePage))])

theorem Keeps.execRekindleDone {p far} (h : Keeps s t) : NextKeeps s (execRekindleDone p far t) := by
  unfold Machine.execRekindleDone
  split
  · exact .next h
  · exact .ite (.next h.set) (.next <| .bankRecord <| .set <| .set <| .setSteState h.openAll)

theorem Keeps.execBankEnable {p} (h : Keeps s t) : NextKeeps s (execBankEnable p t) :=
  .next <| .ite h (.ite h.set (.set h.unmappedAll))

theorem Keeps.bankResume {p l} (h : Keeps s t) : Keeps s (t.bankResume p l) := by
  induction l generalizing t with
  | nil => exact h.set
  | cons x r ih => exact .ite (ih <| .ite h.bankStart h.rekindleStart) h.set.set

theorem Keeps.execBankCqSpace {core tail} (h : Keeps s t) : NextKeeps s (execBankCqSpace core tail t) :=
  .next <| h.byCore <| .ite (.bankResume h.set.set.bankDrain) (.set h.set.set.bankDrain)

/-! ### Segments of a cord -/

theorem Keeps.depart {c cls retx seq owner info stall payload} (h : Keeps s t) :
    Keeps s (t.depart c cls retx seq owner info stall payload) :=
  h.set.set

theorem Keeps.cordReport {c cls omodule okind oindex detail} (h : Keeps s t) :
    Keeps s (t.cordReport c cls omodule okind oindex detail) :=
  h.foldl (·.reportLocal)

theorem Keeps.laneAct {c ch} (h : Keeps s t) : Keeps s (t.laneAct c ch) := .ite (.cordReport h.set.logEv) h.set.logEv

theorem Keeps.sendNew {c owner cls info payload} (h : Keeps s t) : Keeps s (t.sendNew c owner cls info payload) :=
  .set <| .depart (by split; exacts [.ite h.laneAct h, h])

theorem Keeps.sendRetx {c k} (h : Keeps s t) : Keeps s (t.sendRetx c k) := by
  unfold State.sendRetx
  exact .logEv <| .set h.depart

theorem Keeps.sendFill {c} (h : Keeps s t) : Keeps s (t.sendFill c) := .ite (.set h.depart) h.depart

theorem Keeps.sendCtlNow {c m owner} (h : Keeps s t) : Keeps s (t.sendCtlNow c m owner) := by
  unfold State.sendCtlNow
  exact .sendNew <| .set (by split; exacts [.ite_fst h.set h, h])

theorem Keeps.sendStaged {c x} (h : Keeps s t) : Keeps s (t.sendStaged c x) := by
  unfold State.sendStaged
  exact .sendNew <| .ite h.set.set h.set

theorem Keeps.sendPkt {c k} (h : Keeps s t) : Keeps s (t.sendPkt c k) := by
  unfold State.sendPkt
  split
  · exact h.set
  · exact .sendNew <| .set <| .ite h.set h

theorem Keeps.sendPartCtl {c m owner} (h : Keeps s t) : Keeps s (t.sendPartCtl c m owner) := h.set.sendCtlNow

theorem Keeps.sendPart {c p may} (h : Keeps s t) : Keeps s (t.sendPart c p may) := by
  unfold State.sendPart
  dsimp only
  split
  · exact h.sendStaged
  · split
    · exact h.sendRetx
    · split
      · exact h.sendStaged
      · refine .ite h.sendFill ?_
        split
        · exact h.sendPartCtl
        · split
          · exact h.sendPkt
          · split
            · exact h.sendPkt
            · exact h.sendFill

theorem Keeps.sendModule {c} (h : Keeps s t) : Keeps s (t.sendModule c) := by
  unfold State.sendModule
  dsimp only
  split
  · exact h.sendRetx
  · split
    · exact h.sendRetx
    · refine .ite ?_ h.sendFill
      split
      · exact h.set.sendCtlNow
      · split
        · exact h.sendPartCtl
        · split
          · exact h.set.sendCtlNow
          · exact .ite h.sendCtlNow h.sendFill

theorem Keeps.execSegmentSend {c fit} (h : Keeps s t) : NextKeeps s (execSegmentSend c fit t) :=
  .next <| .ite h (.ite h.set.sendPart h.set.sendModule)

theorem Keeps.enterCircuit {n bs} (h : Keeps s t) : Keeps s (t.enterCircuit n bs) := h.foldl (·.set)

theorem Keeps.planPass {c q retx r out route index tag payload} (h : Keeps s t) :
    Keeps s (t.planPass c q retx r out route index tag payload) := by
  unfold State.planPass
  exact .stage h.set.digItem

theorem Keeps.planLand {c q retx r route index tag payload} (h : Keeps s t) :
    Keeps s (t.planLand c q retx r route index tag payload) := by
  unfold State.planLand
  exact h.set.set.enterCircuit

theorem Keeps.planArrive {c q retx info payload} (h : Keeps s t) : Keeps s (t.planArrive c q retx info payload) :=
  .ite h.set (by split; exacts [h, (by split; exacts [h.planPass, h.planLand])])

theorem Keeps.followLanes {c seq width gen waves mk} (h : Keeps s t) :
    Keeps s (t.followLanes c seq width gen waves mk) :=
  .ite (.set <| .ite h.set.cordReport h.set) h

theorem Keeps.passSeg {c g} (h : Keeps s t) : Keeps s (t.passSeg c g) := .ite (.ite h.set h) h.set

theorem Keeps.drainHeld {c n} (h : Keeps s t) : Keeps s (t.drainHeld c n) := by
  induction n generalizing t with
  | zero => exact h
  | succ n ih =>
    unfold State.drainHeld
    split
    · exact h
    · exact ih h.set.passSeg

theorem Keeps.accept {c h' payload waits} (h : Keeps s t) : Keeps s (t.accept c h' payload waits) := by
  unfold State.accept
  dsimp only
  split
  · exact h.logEv
  · exact .ite (.ite h.passSeg h.planArrive) (.ite h.set.drainHeld h)

theorem Keeps.checked {c h' payload mk waves waits} (h : Keeps s t) :
    Keeps s (t.checked c h' payload mk waves waits) := by
  unfold State.checked
  exact .via (fun k => .ite k (.ite (.drainHeld <| .accept <| .set <| .set <| .set k) (.set k)))
      (.set <| .set h.followLanes)

theorem Keeps.execSegmentReceive {c bytes waves waits fec} (h : Keeps s t) :
    NextKeeps s (execSegmentReceive c bytes waves waits fec t) :=
  .next <| .ite h (by dsimp only; split; exacts [h.set.set, .ite h.set.set (.ite h h.set.checked)])

theorem Keeps.execReplayTimeout {c} (h : Keeps s t) : NextKeeps s (execReplayTimeout c t) :=
  .next (by split; exacts [h, .ite h.set h])

theorem Keeps.execNackRepeat {c} (h : Keeps s t) : NextKeeps s (execNackRepeat c t) := .next h.set

theorem Keeps.onCtl {c kind f} (h : Keeps s t) (hf : ∀ {u y}, Keeps s u → Keeps s (f u y)) :
    Keeps s (t.onCtl c kind f) := by
  unfold State.onCtl
  split
  · exact h
  · exact hf h.set

/-! ### Time exchange and labels -/

theorem Keeps.checkRef (h : Keeps s t) : Keeps s t.checkRef := by
  unfold State.checkRef
  dsimp only
  split
  · exact .ite h (.ite h.set h.set)
  · exact .ite h (.ite h.set h.set)
  · exact h

theorem Keeps.regain {c θ} (h : Keeps s t) : Keeps s (t.regain c θ) := .ite h.set.set (.ite h.set.set h.set.timeLoss)

theorem Keeps.syncStep {c θ} (h : Keeps s t) : Keeps s (t.syncStep c θ) := by
  unfold State.syncStep
  refine .via (fun k => .ite (.set <| .checkRef k) (.checkRef k)) ?_
  split
  · exact .ite h.set h
  · exact .ite h (.ite (.ite h.set h.set.set) (.ite h.set h.set))
  · exact h
  · exact .ite h.regain h
  · exact h
  · exact .ite h (.ite h.set h.set)

theorem Keeps.execTimeExchangeStart {c} (h : Keeps s t) : NextKeeps s (execTimeExchangeStart c t) :=
  .next <| .ite h h.set.set

theorem Keeps.execTimeReq {c frac} (h : Keeps s t) : NextKeeps s (execTimeReq c frac t) := .next <| h.onCtl (·.set)

theorem Keeps.execTimeRsp {c frac} (h : Keeps s t) : NextKeeps s (execTimeRsp c frac t) :=
  .next <| h.onCtl fun h => .ite h (.syncStep <| .ite h.set.set h.set.set)

theorem Keeps.execHoldoverLimit (h : Keeps s t) : NextKeeps s (execHoldoverLimit t) := .next <| .ite h.timeLoss h

theorem Keeps.keepLabel {hall tai utc number from_} (h : Keeps s t) :
    Keeps s (t.keepLabel hall tai utc number from_) :=
  h.set.foldl (·.set)

theorem Keeps.execTimeLabelSend {tai utc} (h : Keeps s t) : NextKeeps s (execTimeLabelSend tai utc t) :=
  .next <| .ite h.set.keepLabel h

theorem Keeps.execTimeLabel {c} (h : Keeps s t) : NextKeeps s (execTimeLabel c t) :=
  .next <| h.onCtl fun h => .ite h h.keepLabel

theorem Keeps.execNtpRequest {req} (h : Keeps s t) : NextKeeps s (execNtpRequest req t) :=
  .ite (.next h) (.next h.set.set)

/-! ### Dampers, freezes and beacons -/

theorem Keeps.pendDamper {ps seq m h'} (h : Keeps s t) : Keeps s (t.pendDamper ps seq m h') := h.foldl (·.set.set)

theorem Keeps.setDamper {p ps m} (h : Keeps s t) : Keeps s (t.setDamper p ps m) := by
  unfold State.setDamper
  exact .pendDamper <| .ite h h.sendAll

theorem Keeps.rootDecides {key p ps low} (h : Keeps s t) : Keeps s (t.rootDecides key p ps low) :=
  .ite h.set.setDamper (.ite (by split; exacts [h.set, .ite h.set.setDamper h]) h.set)

theorem Keeps.damperEval {dom} (h : Keeps s t) : Keeps s (t.damperEval dom) := by
  unfold State.damperEval
  dsimp only
  split
  · exact h
  · exact .ite h.rootDecides (.ite h h.set.set)

theorem Keeps.damperAll (h : Keeps s t) : Keeps s t.damperAll := .foldl (h.foldl (·.damperEval)) (·.rootDecides)

theorem Keeps.execDamperUp {c} (h : Keeps s t) : NextKeeps s (execDamperUp c t) := .next <| h.onCtl (·.set.damperEval)

theorem Keeps.execDamperSet {c} (h : Keeps s t) : NextKeeps s (execDamperSet c t) := by
  refine .next <| h.onCtl fun h => ?_
  dsimp only
  split
  · exact h
  · exact .ite h (.ite (.timeLoss h.sendAll) (.pendDamper h.sendAll))

theorem Keeps.execDamperChange {p} (h : Keeps s t) : NextKeeps s (execDamperChange p t) := .next h.set

theorem Keeps.setLocal {m cause} (h : Keeps s t) : Keeps s (t.setLocal m cause) := .ite h (.damperAll h.set.logEv)

theorem Keeps.execDesiredDamperUpdate {slow} (h : Keeps s t) : NextKeeps s (execDesiredDamperUpdate slow t) := by
  refine .next <| .ite (.damperAll h.set.setLocal) ?_
  split
  · exact .ite (.damperAll h.set.setLocal) h.damperAll
  · exact .ite (.damperAll h.set.set.setLocal) h.damperAll

theorem Keeps.execFreeze {d warn} (h : Keeps s t) : NextKeeps s (execFreeze d warn t) :=
  .next <| .ite h.set.set.setLocal h.set

theorem Keeps.execFreezeLift {d warn} (h : Keeps s t) : NextKeeps s (execFreezeLift d warn t) :=
  .next <| .ite h.set.set h.set

theorem Keeps.execSlipReq {c} (h : Keeps s t) : NextKeeps s (execSlipReq c t) :=
  .next <| h.onCtl fun h => .ite h (by split; exacts [h, .slipAt h.sendAll])

theorem Keeps.execDomainBeaconSend {p} (h : Keeps s t) : NextKeeps s (execDomainBeaconSend p t) :=
  .next <| .ite h.set.sendAll h

theorem Keeps.execDomainBeacon {c} (h : Keeps s t) : NextKeeps s (execDomainBeacon c t) := by
  refine .next <| h.onCtl fun h => ?_
  dsimp only
  split
  · exact h
  · refine .ite h ?_
    split
    · exact .timeLoss <| .foldl (.foldl h.sendAll (·.set)) (·.set)
    · exact .foldl (.foldl h.sendAll (·.set)) (·.set)

theorem Keeps.execBeaconTimeout {p} (h : Keeps s t) : NextKeeps s (execBeaconTimeout p t) :=
  .next <| .ite h.timeLoss h

theorem Keeps.execCntClear {p} (h : Keeps s t) : NextKeeps s (execCntClear p t) := .next <| .ite h.set h

/-! ### Lane changes and training -/

theorem Keeps.execLaneFailing {c lane cond fit} (h : Keeps s t) : NextKeeps s (execLaneFailing c lane cond fit t) :=
  .next (by split; exacts [h, .ite h h.set.set])

theorem Keeps.execWavelengthRestore {c wave} (h : Keeps s t) : NextKeeps s (execWavelengthRestore c wave t) :=
  .next <| .ite h h.set.set.logEv

theorem Keeps.openChange {c action map cls} (h : Keeps s t) : Keeps s (t.openChange c action map cls) := h.set.set

theorem Keeps.execLaneReq {c} (h : Keeps s t) : NextKeeps s (execLaneReq c t) := by
  refine .next <| h.onCtl fun h => .ite h (.ite (.ite h.set.openChange h.set.logEv) (.ite h ?_))
  dsimp only
  split
  · exact .ite h.set.openChange (.ite h.set.openChange h.set.set)
  · exact .ite h.set.openChange h.set.set

theorem Keeps.execLaneCmd {c} (h : Keeps s t) : NextKeeps s (execLaneCmd c t) :=
  .next <| h.onCtl fun h => .ite h.set h

theorem Keeps.execLaneDone {c} (h : Keeps s t) : NextKeeps s (execLaneDone c t) := .next <| h.onCtl (·.set)

theorem Keeps.execLaneCmdRetry {c} (h : Keeps s t) : NextKeeps s (execLaneCmdRetry c t) :=
  .next (by split; exacts [(by split; exacts [.ite h.set.set h, h]), h])

theorem Keeps.execSync {c} (h : Keeps s t) : NextKeeps s (execSync c t) := .next <| h.onCtl fun h => h

theorem Keeps.execLossOfSymbolLock {c ingress lane} (h : Keeps s t) :
    NextKeeps s (execLossOfSymbolLock c ingress lane t) :=
  .next <| .ite h h.set

theorem Keeps.startTraining {c} (h : Keeps s t) : Keeps s (t.startTraining c) := .ite h.set h.set.set

theorem Keeps.execSymbolLockRegained {c} (h : Keeps s t) : NextKeeps s (execSymbolLockRegained c t) :=
  .next <| .ite (.ite h h.startTraining) h.set

theorem Keeps.execIdent {c module number level} (h : Keeps s t) : NextKeeps s (execIdent c module number level t) := by
  refine .next <| .ite h ?_
  split
  · exact .via (fun k => .ite k (.set k)) (.ite h.startTraining h)
  · exact .via (fun k => .ite k (.set k)) (.ite h.startTraining h)
  · exact h

/-! ### Leases -/

theorem Keeps.propose {c grant mine theirs dom at_ slots} (h : Keeps s t) :
    Keeps s (t.propose c grant mine theirs dom at_ slots).1 :=
  .ite_fst h h.set.set.set

theorem Keeps.leaseAct {c l} (h : Keeps s t) : Keeps s (t.leaseAct c l) :=
  .ite (.ite (.ite h.set.set h.set.set) h.set.set.set) (.ite (.ite h.set.set.set h.set.set) h.set.set.set)

theorem Keeps.execLeasePropose {c} (h : Keeps s t) : NextKeeps s (execLeasePropose c t) :=
  .next <| h.onCtl fun h => .set <| .ite h.set h

theorem Keeps.execLeaseAck {c} (h : Keeps s t) : NextKeeps s (execLeaseAck c t) :=
  .next <| h.onCtl fun h => (by split; exacts [h, .ite h (.ite h.set.set h.set.set)])

theorem Keeps.execLeaseCommit {c} (h : Keeps s t) : NextKeeps s (execLeaseCommit c t) :=
  .next <| h.onCtl fun h => (by split; exacts [h, .ite h.set.leaseAct h.set])

theorem Keeps.execLeaseAbort {c} (h : Keeps s t) : NextKeeps s (execLeaseAbort c t) :=
  .next <| h.onCtl fun h => (by split; exacts [h, .ite h h.set])

theorem Keeps.execLeaseDone {c} (h : Keeps s t) : NextKeeps s (execLeaseDone c t) :=
  .next <| h.onCtl fun h => (by split; exacts [h, .ite h (.ite h.set (.ite h.set.set.set h.set.set.set))])

theorem Keeps.leaseLane {lane p grant h' slots} (h : Keeps s t) : Keeps s (t.leaseLane lane p grant h' slots).1 :=
  .ite_fst h h.set

theorem Keeps.execLeaseEffective {c} (h : Keeps s t) : NextKeeps s (execLeaseEffective c t) :=
  .next (by split; exacts [h.foldl (·.leaseAct), h.foldl (·.set)])

theorem Keeps.execLeaseAcceptEnd {c} (h : Keeps s t) : NextKeeps s (execLeaseAcceptEnd c t) :=
  .next <| h.foldl (·.set.set)

theorem Keeps.endLanes {p} (h : Keeps s t) : Keeps s (t.endLanes p) := .set <| h.foldl (·.set)

theorem Keeps.propStanding (h : Keeps s t) : Keeps s t.propStanding :=
  h.foldl fun h => .ite h (.ite h.set.leaseLane h.set.propose)

/-! ### Weight contexts, shards and overlays -/

theorem Keeps.execContextArm {core ctx} (h : Keeps s t) : NextKeeps s (execContextArm core ctx t) :=
  .next <| h.byCore <| .ite h.set
    (.via (fun k => .set <| .ite (.putMem <| .setCtx k) (.setCtx k)) (.ite h.unmapped (.ite h.unmapped h)))

theorem Keeps.execContextDisarm {core ctx} (h : Keeps s t) : NextKeeps s (execContextDisarm core ctx t) :=
  .next <| h.byCore <| .ite (.set <| .ite (.logEv h.setCtx) h.setCtx) h.set

theorem Keeps.shardWrite {p ctx off bytes from_} (h : Keeps s t) : Keeps s (t.shardWrite p ctx off bytes from_) :=
  .ite h.set (.ite h (.ite (.setCtx h.wrMems) (.ite (.set <| .setCtx h.wrMems) (.logEv <| .setCtx h.wrMems))))

theorem Keeps.shardRead {p ctx off n} (h : Keeps s t) : Keeps s (t.shardRead p ctx off n).1 := .ite_fst h h.setCtx

theorem Keeps.execShardWindowWrite {p ctx off bytes from_} (h : Keeps s t) :
    NextKeeps s (execShardWindowWrite p ctx off bytes from_ t) :=
  .next h.shardWrite

theorem Keeps.execResealVerifyDone {p ctx} (h : Keeps s t) : NextKeeps s (execResealVerifyDone p ctx t) :=
  .next <| .ite h (.ite h.setCtx (.logEv h.setCtx))

theorem Keeps.execShardWindowRead {p ctx off n} (h : Keeps s t) : NextKeeps s (execShardWindowRead p ctx off n t) :=
  .next <| .set h.shardRead

theorem Keeps.execLayerOpen {core layer value} (h : Keeps s t) : NextKeeps s (execLayerOpen core layer value t) :=
  .next <| h.byCore <| .ite h.set (.abortCtxs <| .set <| .ite h.set h.set)

theorem Keeps.epochRefused {p e} (h : Keeps s t) : Keeps s (t.epochRefused p e) := .ite h.set.set h.set

theorem Keeps.execEpochSet {core epoch compat} (h : Keeps s t) : NextKeeps s (execEpochSet core epoch compat t) :=
  .next <| h.byCore <| .ite h.epochRefused (.ite h.epochRefused (.set <| .set h.abortOpens))

theorem Keeps.execEpochArm {core epoch compat} (h : Keeps s t) : NextKeeps s (execEpochArm core epoch compat t) :=
  .next <| h.byCore <| .ite h.epochRefused
    (.ite h.epochRefused (.ite h.epochRefused (.ite h.epochRefused (.set <| .set h.abortOpens))))

theorem Keeps.execEpochDisarm {core} (h : Keeps s t) : NextKeeps s (execEpochDisarm core t) :=
  .next <| h.byCore <| .set h.cancelFlip

theorem Keeps.ovCommand {core h' none_ f} (h : Keeps s t) (hf : ∀ {x y}, Keeps s (f x y)) :
    Keeps s (t.ovCommand core h' none_ f) :=
  h.byCore <| .ite h.set (.ite (.set h.unmapped) hf)

theorem Keeps.execInstall {core h' atFlip tenant} (h : Keeps s t) :
    NextKeeps s (execInstall core h' atFlip tenant t) := by
  refine .next <| h.ovCommand <| .ite h.set ?_
  split
  · exact h.set
  · exact .ite h.set (.set <| .putMem <| .pWrLe <| .pWrLe <| .ite h (.set h.putMem))

theorem Keeps.execPin {core h'} (h : Keeps s t) : NextKeeps s (execPin core h' t) :=
  .next <| h.ovCommand (by intro _ _; split; exacts [h.set, .ite h.set (.set h.pWrLe)])

theorem Keeps.execUnpin {core h' gen} (h : Keeps s t) : NextKeeps s (execUnpin core h' gen t) :=
  .next <| h.ovCommand (by intro _ _; dsimp only; split; exacts [h.set, .set h.pWrLe])

theorem Keeps.execWithdraw {core h'} (h : Keeps s t) : NextKeeps s (execWithdraw core h' t) :=
  .next <| h.ovCommand (by intro _ _; split; exacts [h.set, h.set.set])

/-! ### Packets, routes and requests -/

theorem Keeps.readPiece {p host a n} (h : Keeps s t) : Keeps s (t.readPiece p host a n).1 := by
  unfold State.readPiece
  split
  · split
    · exact h
    · exact h
  · split
    · exact h
    · exact h
  · split
    · exact h
    · exact h
  · dsimp only
    split
    · exact h.shardRead
    · exact h
  · exact .ite_fst h h
  · exact h

theorem Keeps.readPieces {p host es at_ acc} (h : Keeps s t) : Keeps s (t.readPieces p host es at_ acc).1 := by
  induction es generalizing t at_ acc with
  | nil => exact h
  | cons e r ih =>
    unfold State.readPieces
    dsimp only
    split
    · exact ih h.readPiece
    · exact h.readPiece

theorem Keeps.readAll {p a n host} (h : Keeps s t) : Keeps s (t.readAll p a n host).1 := by
  unfold State.readAll
  split
  · exact h.readPieces
  · exact h

theorem Keeps.writeAll {p a bytes from_} (h : Keeps s t) : Keeps s (t.writeAll p a bytes from_).1 := by
  unfold State.writeAll
  dsimp only
  split
  · refine .foldl_fst h fun h => ?_
    split
    · exact h
    · split
      · exact h.shardWrite
      · exact .ite_fst h.putMem h
      · exact h.putMem
  · exact h

theorem Keeps.routeEntry {q m} (h : Keeps s t) : Keeps s (t.routeEntry q m).1 := by
  unfold State.routeEntry
  dsimp only
  split
  · exact h
  · exact .ite_fst h h.set

theorem Keeps.homeEntry {q m} (h : Keeps s t) : Keeps s (t.homeEntry q m).1 := by
  unfold State.homeEntry
  dsimp only
  split
  · exact h
  · exact .ite_fst h h.set

theorem Keeps.countDrop {cin q h' reason} (h : Keeps s t) : Keeps s (t.countDrop cin q h' reason) := h.set.logEv

theorem Keeps.respond {cin q h' payload} (h : Keeps s t) : Keeps s (t.respond cin q h' payload) := by
  unfold State.respond
  dsimp only
  split
  · exact .set h.routeEntry
  · split
    · exact .set (.homeEntry h.routeEntry)
    · exact .countDrop (.homeEntry h.routeEntry)

theorem Keeps.nackTo {cin q h' reason} (h : Keeps s t) : Keeps s (t.nackTo cin q h' reason) := h.respond

theorem Keeps.dropPkt {cin q h' reason} (h : Keeps s t) : Keeps s (t.dropPkt cin q h' reason) :=
  .ite (.nackTo h.countDrop) h.countDrop

theorem Keeps.deflect {cin q h' payload} (h : Keeps s t) : Keeps s (t.deflect cin q h' payload) := by
  unfold State.deflect
  split
  · exact h.set.set
  · exact h.dropPkt

theorem Keeps.routePkt {cin q b} (h : Keeps s t) : Keeps s (t.routePkt cin q b) := by
  refine .ite h.set
      (.ite h.set
        (.ite h.dropPkt
          (.ite h.dropPkt (.ite h.dropPkt (.ite h.dropPkt (.ite (.ite (.ite h.set h.deflect) h.deflect) ?_))))))
  dsimp only
  split
  · exact .set h.homeEntry
  · exact .deflect h.homeEntry

theorem Keeps.execPacketComplete {c} (h : Keeps s t) : NextKeeps s (execPacketComplete c t) :=
  .next (by split; exacts [h, h.set.routePkt])

theorem Keeps.execRouteInval {p} (h : Keeps s t) : NextKeeps s (execRouteInval p t) := .next <| .ite h.set h

theorem Keeps.onPkt {p type f} (h : Keeps s t) (hf : ∀ {u y z}, Keeps s u → Keeps s (f u y z)) :
    Keeps s (t.onPkt p type f) := by
  unfold State.onPkt
  split
  · exact h
  · exact hf h.set

theorem Keeps.checkReq {p m h' write go} (h : Keeps s t) (hgo : ∀ {u}, Keeps s u → Keeps s (go u)) :
    Keeps s (t.checkReq p m h' write go) :=
  .ite h.nackTo (.ite (.nackTo h.countDrop) (.ite (.nackTo h.unmapped) (hgo h)))

theorem Keeps.sendRead {cin p h' data} (h : Keeps s t) : Keeps s (t.sendRead cin p h' data) := h.foldl (·.respond)

theorem Keeps.execRdReq {p room host} (h : Keeps s t) : NextKeeps s (execRdReq p room host t) := by
  refine .next <| h.onPkt fun h => h.checkReq fun h => .ite h.nackTo ?_
  dsimp only
  split
  · exact .sendRead h.readAll
  · exact .nackTo h.readAll

theorem Keeps.execWrReq {p} (h : Keeps s t) : NextKeeps s (execWrReq p t) := by
  refine .next <| h.onPkt fun h => h.checkReq fun h => ?_
  dsimp only
  split
  · exact .ite h.set.respond (.ite h.set (.ite h.writeAll (.ite (.respond <| .set h.writeAll) (.set h.writeAll))))
  · exact .ite h.nackTo
        (.ite h.set.set.respond
          (.ite h.set.set (.ite h.set.writeAll (.ite (.respond <| .set h.set.writeAll) (.set h.set.writeAll)))))

theorem Keeps.execCompletionEntryExpiry {p} (h : Keeps s t) : NextKeeps s (execCompletionEntryExpiry p t) :=
  .next h.set

theorem Keeps.sendReq {p r route} (h : Keeps s t) : Keeps s (t.sendReq p r route) := .ite (h.foldl (·.set)) h.set

theorem Keeps.attempt {p r n} (h : Keeps s t) : Keeps s (t.attempt p r n) := by
  induction n generalizing t r with
  | zero => exact h
  | succ n ih =>
    unfold State.attempt
    dsimp only
    split
    · exact .sendReq <| .set h.routeEntry
    · exact .ite (ih <| .set <| .set <| .set h.routeEntry) (.set h.routeEntry)

theorem Keeps.nextAttempt {p r} (h : Keeps s t) : Keeps s (t.nextAttempt p r) := .ite h.set.set.attempt h

theorem Keeps.startReq {p r} (h : Keeps s t) : Keeps s (t.startReq p r) := by
  unfold State.startReq
  exact h.set.attempt

theorem Keeps.submit {p r} (h : Keeps s t) : Keeps s (t.submit p r) := .ite h.startReq h.set

theorem Keeps.dropReq {p r} (h : Keeps s t) : Keeps s (t.dropReq p r) :=
  .ite h.set (by split; exacts [h.set, h.set.set.startReq])

theorem Keeps.execAttemptTimeout {p} (h : Keeps s t) : NextKeeps s (execAttemptTimeout p t) :=
  .next (by split; exacts [h.nextAttempt, h])

/-! ### The life of a partition -/

/-- A part of a memory in canonical form is in it too. -/
theorem tabWfFrom_filter {α : Type} [DecidableEq α] (d : α) (f : Nat × α → Bool) (l : Tab α) {a : Nat}
    (h : tabWfFrom d a l = true) : tabWfFrom d a (l.filter f) = true := by
  induction l generalizing a with
  | nil => rfl
  | cons x r ih =>
    obtain ⟨k, v⟩ := x
    simp only [tabWfFrom, Bool.and_eq_true, decide_eq_true_eq] at h
    rw [List.filter_cons]
    obtain ⟨hk, hr⟩ := h
    split
    · simp only [tabWfFrom, Bool.and_eq_true, decide_eq_true_eq]
      exact ⟨hk, ih hr⟩
    · exact tabWfFrom_mono d _ (by omega) (ih hr)

theorem Keeps.eraseGroup {g} (h : Keeps s t) : Keeps s (t.eraseGroup g) :=
  .set ⟨h.pending, fun hw => tabWfFrom_filter _ _ _ (h.mem hw)⟩

theorem Keeps.startScrub {g} (h : Keeps s t) : Keeps s (t.startScrub g) := .set <| h.foldl (·.set)

theorem Keeps.execScrubDone {g} (h : Keeps s t) : NextKeeps s (execScrubDone g t) :=
  .next <| .ite (.set h.eraseGroup) h

theorem Keeps.resetPart {p port first count} (h : Keeps s t) : Keeps s (t.resetPart p port first count) := by
  unfold State.resetPart
  exact .refreshFn <| .set <| .drawKeys <| .foldl (.set <| h.set.foldl (·.set.set)) (·.set)

theorem Keeps.createPart {p gs port first count} (h : Keeps s t) : Keeps s (t.createPart p gs port first count) := by
  unfold State.createPart
  exact .resetPart <| h.foldl (·.set)

theorem Keeps.dropPart {p} (h : Keeps s t) : Keeps s (t.dropPart p) := .set h.set.endLanes

theorem Keeps.endDissolve {p} (h : Keeps s t) : Keeps s (t.endDissolve p) :=
  .ite h
    (.foldl (.set <| .set <| .refreshFn <| .set <| .dropPart <| h.foldl (·.set)) fun h => .newTurfKey h.startScrub)

theorem Keeps.dissolve {p} (h : Keeps s t) : Keeps s (t.dissolve p) := by
  unfold State.dissolve
  exact .endDissolve <| .set <| .set h.fence

theorem Keeps.endDissolves (h : Keeps s t) : Keeps s t.endDissolves := h.foldl (·.endDissolve)

theorem Keeps.execKeyInstall {p slot host} (h : Keeps s t) : NextKeeps s (execKeyInstall p slot host t) := by
  refine .next <| .ite h <| .ite (.unmapped h.set) ?_
  have hr : Keeps s (t.readAll p (t.part p).sec.blobBase 176 host).1 := h.readAll
  dsimp only
  generalize t.readAll p (t.part p).sec.blobBase 176 host = z at hr ⊢
  obtain ⟨u, _ | b⟩ := z
  · exact hr.set
  · refine .ite hr.set <| .ite hr.set <| .ite hr.set <| .ite hr.set <| .ite hr.set ?_
    split
    · exact hr.set.set
    · exact hr.set.set

theorem Keeps.execErase {p slot} (h : Keeps s t) : NextKeeps s (execErase p slot t) :=
  .next <| .ite h (.ite h.set (.set h.eraseSlot))

theorem Keeps.execHostWindowEnable {p w v} (h : Keeps s t) : NextKeeps s (execHostWindowEnable p w v t) :=
  .next <| .ite h (.ite h.set.set (.ite h.set.set h.set))

/-! ### Commands of Stoke -/

theorem Keeps.unitFail {p k u' off dst cause} (h : Keeps s t) : Keeps s (t.unitFail p k u' off dst cause) :=
  .ite (.set <| .ite h.logEv h) (.set <| .ite h.logEv h)

theorem Keeps.issueUnit {p k host r} (h : Keeps s t) : Keeps s (t.issueUnit p k host r) := by
  unfold State.issueUnit
  dsimp only
  split
  · exact h.set
  · refine .ite ?_ (.ite h.set.set.submit h.set.set)
    split
    · exact .submit h.set.set.readAll
    · exact .unitFail h.set.set.readAll

theorem Keeps.issueUnits {p k host n} (h : Keeps s t) : Keeps s (t.issueUnits p k host n) := by
  induction n generalizing t with
  | zero => exact h
  | succ n ih => exact .ite (by split; exacts [ih h.issueUnit, h]) h

theorem Keeps.advance {p k host} (h : Keeps s t) : Keeps s (t.advance p k host) := .stkDrained h.issueUnits

theorem Keeps.promote {p k host} (h : Keeps s t) : Keeps s (t.promote p k host) := by
  refine .ite (.endTransfer h.set.finalRec) ?_
  split
  · exact .endTransfer <| .finalRec (by split; exacts [h.set.unmapped, h.set])
  · exact h.set.set.advance

theorem Keeps.viaView {a ch f} (h : Keeps s t) (hf : ∀ {x y}, Keeps s (f x y)) : Keeps s (t.viaView a ch f) := by
  unfold State.viaView
  split
  · exact .ite h (by split; exacts [h, .ite hf h.set])
  · split
    · exact h
    · exact .ite h (.ite h.set hf)

theorem Keeps.stkCtrl {a ch f} (h : Keeps s t) (hf : ∀ {u}, Keeps s u → Keeps s (f u)) :
    Keeps s (t.stkCtrl a ch f) :=
  .ite (hf h) (h.viaView h)

theorem Keeps.execGo {a ch host} (h : Keeps s t) : NextKeeps s (execGo a ch host t) :=
  .next <| h.viaView <| .ite h (.ite h.set (.ite h.set.promote h.set.set))

theorem Keeps.execStokeCancel {a ch} (h : Keeps s t) : NextKeeps s (execStokeCancel a ch t) :=
  .next <| h.viaView h.set

theorem Keeps.execPromotion {g ch host} (h : Keeps s t) : NextKeeps s (execPromotion g ch host t) :=
  .next (by split; exacts [h, .ite h.promote h])

theorem Keeps.execAbort {a ch} (h : Keeps s t) : NextKeeps s (execAbort a ch t) :=
  .next <| h.viaView <| .ite h.endWith h

theorem Keeps.execResume {a ch host} (h : Keeps s t) : NextKeeps s (execResume a ch host t) :=
  .next <| h.viaView (by intro _ _; dsimp only; split; exacts [h.set.advance, h])

theorem Keeps.execSkip {a ch host} (h : Keeps s t) : NextKeeps s (execSkip a ch host t) :=
  .next <| h.viaView (by intro _ _; dsimp only; split; exacts [h.set.advance, h])

theorem Keeps.execStokeUnitDone {g ch i host} (h : Keeps s t) : NextKeeps s (execStokeUnitDone g ch i host t) := by
  refine .next <| .endDissolves ?_
  split
  next p u _ _ =>
    refine .ite h ?_
    extract_lets z fromHost
    have hz : Keeps s z.1 := by
      unfold z
      split
      · exact h
      · exact h.readAll
    clear_value z fromHost
    refine .advance ?_
    split
    · exact hz.unitFail
    · extract_lets w
      have hw : Keeps s w.1 := hz.writeAll
      clear_value w
      split
      · exact hw.unitFail
      · exact hw.set
  next => exact h

theorem Keeps.execStokeUnitFail {g ch i write cause off} (h : Keeps s t) :
    NextKeeps s (execStokeUnitFail g ch i write cause off t) :=
  .next <| .endDissolves (by split; exacts [.ite (.stkDrained h.unitFail) h, h])

theorem Keeps.execSettleReadDone {g ch err} (h : Keeps s t) : NextKeeps s (execSettleReadDone g ch err t) :=
  .next <| .endDissolves <| .ite h (.endTransfer <| .finalRec <| .ite h.set.stokeBus h.set)

theorem Keeps.execStokeCqSpace {a ch tail} (h : Keeps s t) : NextKeeps s (execStokeCqSpace a ch tail t) :=
  .next <| h.viaView h.set.drainRecs

theorem Keeps.writeDone {p r host} (h : Keeps s t) : Keeps s (t.writeDone p r host) := by
  unfold State.writeDone
  split
  · exact h.set.advance
  · exact h

theorem Keeps.reqRefused {r} (h : Keeps s t) : Keeps s (t.reqRefused r) := by
  unfold State.reqRefused
  split
  · exact h
  · exact .ite h.set.set.endWith h.set.set

theorem Keeps.reqLost {p r} (h : Keeps s t) : Keeps s (t.reqLost p r) := by
  unfold State.reqLost
  split
  · exact h
  · exact .stkDrained h.unitFail

theorem Keeps.execRdRsp {p} (h : Keeps s t) : NextKeeps s (execRdRsp p t) :=
  .next <| h.onPkt fun h => (by split; exacts [h, .ite h (.ite (.set h.dropReq) h.set)])

theorem Keeps.execWrRsp {p host} (h : Keeps s t) : NextKeeps s (execWrRsp p host t) :=
  .next <| .endDissolves <| h.onPkt fun h => (by split; exacts [h, .writeDone h.dropReq])

theorem Keeps.execNack {p} (h : Keeps s t) : NextKeeps s (execNack p t) := by
  refine .next <| .endDissolves <| h.onPkt fun h => ?_
  dsimp only
  split
  · exact h.set
  · exact .ite (.reqRefused h.set.dropReq) (.ite h.set.nextAttempt h.set)

theorem Keeps.execReqTimeout {p} (h : Keeps s t) : NextKeeps s (execReqTimeout p t) :=
  .next <| .endDissolves (by split; exacts [h, .reqLost <| .dropReq h.set.logEv])

theorem Keeps.reissueOn {c} (h : Keeps s t) : Keeps s (t.reissueOn c) := h.foldl fun h => h.foldl (·.nextAttempt)

/-! ### The state of a cord -/

theorem Keeps.execTrainingDone {c} (h : Keeps s t) : NextKeeps s (execTrainingDone c t) :=
  .next <| .ite h (.ite h.set h.set)

theorem Keeps.execMeasuringDone {c} (h : Keeps s t) : NextKeeps s (execMeasuringDone c t) :=
  .next <| .ite h (.ite h.set.set h.set.propStanding)

theorem Keeps.lostPkt {c k} (h : Keeps s t) : Keeps s (t.lostPkt c k) := .ite h h.dropPkt

theorem Keeps.cordDown {c reason} (h : Keeps s t) : Keeps s (t.cordDown c reason) := by
  unfold State.cordDown
  exact .checkRef <| .reissueOn <| .set <| .foldl (.set <| .cordReport h.logEv) (·.lostPkt)

theorem Keeps.execCordDown {c} (h : Keeps s t) : NextKeeps s (execCordDown c t) :=
  .next <| .ite h (.ite h.cordDown (by split; exacts [.ite h.cordDown h, h]))

/-! ### Hold-up and commits -/

theorem Keeps.chargeBank (h : Keeps s t) : Keeps s t.chargeBank := .ite h h.set

theorem Keeps.seekPass {b} (h : Keeps s t) : Keeps s (t.seekPass b) := .ite h h.set

theorem Keeps.commit {b r} (h : Keeps s t) : Keeps s (t.commit b r) := .ite (.set h.seekPass) (.set h.seekPass)

theorem Keeps.commitAll (h : Keeps s t) : Keeps s t.commitAll := h.foldl (·.set)

theorem Keeps.setPointer {f} (h : Keeps s t) : Keeps s (t.setPointer f) := h.set.set

/-! ### Domains -/

theorem Keeps.onDom {p f} (h : Keeps s t) (hf : ∀ {x}, Keeps s (f x)) : Keeps s (t.onDom p f) := .ite hf h

theorem Keeps.updCount {dom} (h : Keeps s t) : Keeps s (t.updCount dom) := by
  unfold State.updCount
  dsimp only
  split
  · exact h
  · exact .ite h (.via (fun k => .ite k (.set k)) (h.foldl (·.set)))

theorem Keeps.answerJoin {e} (h : Keeps s t) : Keeps s (t.answerJoin e) :=
  .ite h (by split; exacts [h, h.set.set])

theorem Keeps.answerJoins (h : Keeps s t) : Keeps s t.answerJoins := h.foldl (·.answerJoin)

theorem Keeps.becomeMember {p depth root part isRoot} (h : Keeps s t) :
    Keeps s (t.becomeMember p depth root part isRoot) := by
  unfold State.becomeMember
  exact .propStanding <| .answerJoins <| .updCount (by split; exacts [h.set.set.set, h.set.set])

theorem Keeps.sendJoin {p} (h : Keeps s t) : Keeps s (t.sendJoin p) := h.set.set

theorem Keeps.domJoin {p} (h : Keeps s t) : Keeps s (t.domJoin p) :=
  h.onDom <| .ite h.set (by split; exacts [h.becomeMember, .ite h.becomeMember h.set.sendJoin])

theorem Keeps.execJoin {p} (h : Keeps s t) : NextKeeps s (execJoin p t) := .next h.domJoin

theorem Keeps.execJoinRetry {p} (h : Keeps s t) : NextKeeps s (execJoinRetry p t) := .next <| .ite h.sendJoin h

theorem Keeps.execJoinTimeout {p} (h : Keeps s t) : NextKeeps s (execJoinTimeout p t) := .next <| .ite h.set h

theorem Keeps.execDomainJoin {c} (h : Keeps s t) : NextKeeps s (execDomainJoin c t) :=
  .next <| h.onCtl (·.set.answerJoin)

theorem Keeps.execDomainAck {c} (h : Keeps s t) : NextKeeps s (execDomainAck c t) :=
  .next <| h.onCtl fun h => h.foldl fun h => .ite h.becomeMember h.set

theorem Keeps.execDomainCount {c} (h : Keeps s t) : NextKeeps s (execDomainCount c t) :=
  .next <| h.onCtl (·.set.updCount)

theorem Keeps.domLeave {p} (h : Keeps s t) : Keeps s (t.domLeave p) := h.onDom <| .ite h.set (.ite h.set h.set)

theorem Keeps.execLeave {p} (h : Keeps s t) : NextKeeps s (execLeave p t) := .next h.domLeave

theorem Keeps.proposeReleases {p at_ mine} (h : Keeps s t) : Keeps s (t.proposeReleases p at_ mine) :=
  h.foldl (·.propose)

theorem Keeps.execLeaveTakeEffect {p} (h : Keeps s t) : NextKeeps s (execLeaveTakeEffect p t) := by
  refine .next ?_
  dsimp only
  split
  · exact h
  · exact .ite h (.updCount <| .proposeReleases <| .endLanes <| .fence <| .set <| .logEv <| .ite h.stopPlan h)

theorem Keeps.execLeaveReleaseTimeout {p} (h : Keeps s t) : NextKeeps s (execLeaveReleaseTimeout p t) :=
  .next (by dsimp only; split; exacts [h, .ite h.proposeReleases h])

theorem Keeps.execPartitionTeardown {p bank} (h : Keeps s t) : NextKeeps s (execPartitionTeardown p bank t) :=
  .next <| .ite (.commit h.dissolve) h

theorem Keeps.domShadow {p} (h : Keeps s t) : Keeps s (t.domShadow p) :=
  h.onDom <| .ite h.set (.ite h.set (.ite h.set (.set <| .set h.abandonSeal)))

theorem Keeps.execShadowStart {p} (h : Keeps s t) : NextKeeps s (execShadowStart p t) := .next h.domShadow

theorem Keeps.shadowFrom {p n hall} (h : Keeps s t) : Keeps s (t.shadowFrom p n hall) := .ite h.set h.set.set

theorem Keeps.execShadowSync {c} (h : Keeps s t) : NextKeeps s (execShadowSync c t) := by
  refine .next <| h.onCtl fun h => h.foldl fun h => ?_
  dsimp only
  split
  · exact h
  · exact .ite h (.ite h.shadowFrom (.ite h.set h))

theorem Keeps.execShadowDigest {c} (h : Keeps s t) : NextKeeps s (execShadowDigest c t) :=
  .next <| h.onCtl fun h => h.foldl (·.set.compareDigs)

theorem Keeps.domSwap {p} (h : Keeps s t) : Keeps s (t.domSwap p) :=
  h.onDom <| .ite h.set (.ite h.set (.ite h.set h.set))

theorem Keeps.execSwap {p} (h : Keeps s t) : NextKeeps s (execSwap p t) := .next h.domSwap

theorem Keeps.execSwapTakeEffect {p} (h : Keeps s t) : NextKeeps s (execSwapTakeEffect p t) :=
  .next <| .ite h.set (.ite h.set h)

theorem Keeps.setEpoch {dom epoch} (h : Keeps s t) : Keeps s (t.setEpoch dom epoch) := .set <| h.foldl (·.set)

theorem Keeps.domEpoch {p} (h : Keeps s t) : Keeps s (t.domEpoch p) :=
  h.onDom <| .ite h.set (.sendAll <| .set h.setEpoch)

theorem Keeps.execEpochAdvance {p} (h : Keeps s t) : NextKeeps s (execEpochAdvance p t) := .next h.domEpoch

theorem Keeps.execFaultEpoch {c} (h : Keeps s t) : NextKeeps s (execFaultEpoch c t) :=
  .next <| h.onCtl fun h => (by dsimp only; split; exacts [h, .ite h (.sendAll h.setEpoch)])

theorem Keeps.execFaultReport {c} (h : Keeps s t) : NextKeeps s (execFaultReport c t) :=
  .next <| h.onCtl fun h => (by dsimp only; split; exacts [h, h.onReport])

theorem Keeps.execMergeClose (h : Keeps s t) : NextKeeps s (execMergeClose t) :=
  .next <| h.set.foldl fun h => .ite h (by split; exacts [h, h.reportUp])

theorem Keeps.twinWrite {c twin mode swap} (h : Keeps s t) : Keeps s (t.twinWrite c twin mode swap) :=
  .ite h.set h.set

theorem Keeps.execTwinModeWrite {c valid b mode swap} (h : Keeps s t) :
    NextKeeps s (execTwinModeWrite c valid b mode swap t) :=
  .next h.twinWrite

/-! ### Host ports, events and resets -/

theorem Keeps.execDoorbell {p q v} (h : Keeps s t) : NextKeeps s (execDoorbell p q v t) :=
  .next <| .ite h (.ite h.set h.set)

theorem Keeps.execHqDevIdxWrite {core v} (h : Keeps s t) : NextKeeps s (execHqDevIdxWrite core v t) :=
  .next <| h.byCore <| .ite h.set h.set

theorem Keeps.execHqRaise {core q} (h : Keeps s t) : NextKeeps s (execHqRaise core q t) := .next <| h.byCore h.raiseQ

theorem Keeps.execEventClear {p w v same} (h : Keeps s t) : NextKeeps s (execEventClear p w v same t) :=
  .next <| .foldl (.ite h h.set) fun h => (by split; exacts [.ite h.raiseEv h, h.raiseQ])

theorem Keeps.sendEvents {p f g} (h : Keeps s t) : Keeps s (t.sendEvents p f g) :=
  .foldl (h.foldl (·.sendMsix)) (·.sendMsix)

theorem Keeps.execEventEnable {p r v} (h : Keeps s t) : NextKeeps s (execEventEnable p r v t) := by
  refine .next <| .ite h ?_
  dsimp only
  split
  · exact .ite h.set.sendEvents h.set
  · exact .ite h.set.sendEvents h.set
  · exact .ite h.set.sendEvents h.set

theorem Keeps.hostReset {p} (h : Keeps s t) : Keeps s (t.hostReset p) := .foldl (h.set.foldl (·.set)) (·.set)

theorem Keeps.execFunctionLevelReset {h' p} (h : Keeps s t) : NextKeeps s (execFunctionLevelReset h' p t) :=
  .next <| .ite h.set.hostReset h.set

theorem Keeps.portReset {h'} (h : Keeps s t) : Keeps s (t.portReset h') := h.set.foldl (·.hostReset)

theorem Keeps.execPerst {h' pin} (h : Keeps s t) : NextKeeps s (execPerst h' pin t) :=
  .next (by split; exacts [h.set, h.set.portReset, h.portReset])

theorem Keeps.execHostLinkUp {h' speed width cxl} (h : Keeps s t) :
    NextKeeps s (execHostLinkUp h' speed width cxl t) :=
  .next <| .ite h h.set

theorem Keeps.execHostLinkDown {h'} (h : Keeps s t) : NextKeeps s (execHostLinkDown h' t) :=
  .next <| .ite h.portReset h

theorem Keeps.execSpdmRequest {h' fn req} (h : Keeps s t) : NextKeeps s (execSpdmRequest h' fn req t) :=
  .next <| .ite h.set h

/-! ### Boot and restart -/

theorem Keeps.startOver {cause restart} (h : Keeps s t) : Keeps s (t.startOver cause restart) :=
  ⟨h.pending, fun _ => rfl⟩

theorem Keeps.stopAll (h : Keeps s t) : Keeps s t.stopAll := h.foldl (·.faultStop)

theorem Keeps.restart {cause} (h : Keeps s t) : Keeps s (t.restart cause) := .startOver h.stopAll

theorem Keeps.revert (h : Keeps s t) : Keeps s t.revert := .startOver <| .setPointer h.stopAll

theorem Keeps.execModuleReset {watchdog} (h : Keeps s t) : NextKeeps s (execModuleReset watchdog t) :=
  .next <| .ite h.restart h

theorem Keeps.execPowerUp (h : Keeps s t) : NextKeeps s (execPowerUp t) := .next <| .ite h h.set.set.startOver

theorem Keeps.startImage (h : Keeps s t) : Keeps s t.startImage := h.set.set

theorem Keeps.execKindleRomDone (h : Keeps s t) : NextKeeps s (execKindleRomDone t) :=
  .next <| .ite h
    (.ite (.revert <| .ite h.setPointer h)
      (.ite (.startImage <| .set <| .ite h.setPointer h)
        (.ite (.startImage <| .set <| .setPointer <| .ite h.setPointer h) (.set <| .ite h.setPointer h))))

theorem Keeps.execRomPldmUpdate {hdr body} (h : Keeps s t) : NextKeeps s (execRomPldmUpdate hdr body t) :=
  .next <| .ite h.set.startImage h

theorem Keeps.execKindleRails {late} (h : Keeps s t) : NextKeeps s (execKindleRails late t) :=
  .next <| .ite h (.ite (.set <| h.set.foldl (·.portReset)) h.set.set)

theorem Keeps.afterTests {f} (h : Keeps s t) : Keeps s (t.afterTests f) :=
  .foldl (.foldl (h.set.foldl (·.set)) (·.set)) fun h => h.set.foldl (·.set)

theorem Keeps.execKindleSelftest {f bank} (h : Keeps s t) : NextKeeps s (execKindleSelftest f bank t) :=
  .next <| .ite h (.ite h.set (.set <| .commit <| .ite (.commit h.afterTests) h.afterTests))

theorem Keeps.resetConfig {bank r} (h : Keeps s t) : Keeps s (t.resetConfig bank r) := by
  unfold State.resetConfig
  exact .logOpen <| .commit <| .set <| .ite h.set (.ite h.set (.ite h.set h.set))

theorem Keeps.migrate {bank} (h : Keeps s t) : Keeps s (t.migrate bank) := .ite (h.set.foldl (·.commit)) h

theorem Keeps.execKindleLoad {resets bank} (h : Keeps s t) : NextKeeps s (execKindleLoad resets bank t) :=
  .next <| .ite h
    (.ite (.ite h.revert h.set)
      (.via
        (fun k => .set <| .set <| .foldl (.set <| .ite (.logEv <| .set <| .migrate k) (.migrate k)) (·.startTraining))
        (h.foldl (·.resetConfig))))

theorem Keeps.openFree (h : Keeps s t) : Keeps s t.openFree := h.set.set.set

theorem Keeps.execKindleSync (h : Keeps s t) : NextKeeps s (execKindleSync t) :=
  .next <| .ite h (.ite h.set.set (.ite h.openFree (.ite h.set h)))

theorem Keeps.execKindleSyncTimeout (h : Keeps s t) : NextKeeps s (execKindleSyncTimeout t) :=
  .next <| .ite h.openFree h

theorem Keeps.execKindlePartitions (h : Keeps s t) : NextKeeps s (execKindlePartitions t) :=
  .next <| .ite h (.set <| h.foldl fun h => .ite h (.ite h.logOpen h.createPart))

/-! ### Reads and writes of the CMS -/

theorem Keeps.execCmsRead {r type inst off count} (h : Keeps s t) :
    NextKeeps s (execCmsRead r type inst off count t) :=
  .next <| .ite h (.ite h.set (by split; exacts [h.set, .ite h.set h.set.set]))

theorem Keeps.writeIdent {r w} (h : Keeps s t) : Keeps s (t.writeIdent r w).1 := .ite_fst h (.ite_fst h h.set.commit)

theorem Keeps.writeTime {r w} (h : Keeps s t) : Keeps s (t.writeTime r w).1 := .ite_fst h h.set.commit

theorem Keeps.writeCord {r c w} (h : Keeps s t) : Keeps s (t.writeCord r c w).1 :=
  .ite_fst h (.ite_fst h.set.commit h)

theorem Keeps.writeRouting {p w} (h : Keeps s t) : Keeps s (t.writeRouting p w).1 :=
  .ite_fst h (.ite_fst h (.ite h.set.set h.set))

theorem Keeps.domCmd {p n} (h : Keeps s t) : Keeps s (t.domCmd p n) :=
  .ite h.domJoin (.ite h.domLeave (.ite h.domShadow (.ite h.domSwap (.ite h.domEpoch h))))

theorem Keeps.writeDomain {p w} (h : Keeps s t) : Keeps s (t.writeDomain p w).1 :=
  .ite_fst h (.ite_fst h (.domCmd <| .ite h.set h.set.set))

theorem Keeps.writeTwin {c w} (h : Keeps s t) : Keeps s (t.writeTwin c w).1 := .ite_fst h h.twinWrite

theorem Keeps.execCmsWrite {r type inst off data} (h : Keeps s t) :
    NextKeeps s (execCmsWrite r type inst off data t) := by
  refine .next <| .ite h (.ite h.set ?_)
  dsimp only
  split
  · exact h.set
  · refine .ite h.set (.set ?_)
    split
    · exact h.writeIdent
    · exact h.writeTime
    · exact h.writeCord
    · exact h.writeRouting
    · exact h.writeDomain
    · exact h.writeTwin

/-! ### Commands of the CMS -/

theorem Keeps.command {r args n f} (h : Keeps s t) (hf : ∀ {u}, Keeps s u → Keeps s (f u)) :
    Keeps s (t.command r args n f) :=
  .ite h (.ite h.set (hf h))

theorem Keeps.execCreate {r args} (h : Keeps s t) : NextKeeps s (execCreate r args t) :=
  .next <| h.command fun h => .ite h.set (.ite h.set (.ite h.set (.set <| .commit <| .set h.createPart)))

theorem Keeps.execDissolve {r args} (h : Keeps s t) : NextKeeps s (execDissolve r args t) :=
  .next <| h.command fun h => .ite h.set (.ite h.set (.ite h.set (.set <| .commit h.dissolve)))

theorem Keeps.movePart {p port} (h : Keeps s t) : Keeps s (t.movePart p port) := by
  unfold State.movePart
  exact .raiseEv <| .set <| .set h.hostReset

theorem Keeps.execMove {r args} (h : Keeps s t) : NextKeeps s (execMove r args t) :=
  .next <| h.command fun h => .ite h.set (.ite h.set (.ite h.set (.set <| .commit h.movePart)))

theorem Keeps.keepStanding {r args} (h : Keeps s t) : Keeps s (t.keepStanding r args) :=
  .ite (.ite h.set.commit h) (.ite h.set.commit h)

theorem Keeps.execLease {r args} (h : Keeps s t) : NextKeeps s (execLease r args t) :=
  .next <| h.command fun h => .ite h.set
    (.ite h.set
      (.ite h.set
        (.ite h.set
          (.via (fun k => .ite (.set k) (.set <| .keepStanding k)) (.ite_fst h.set.propose h.set.leaseLane)))))

theorem Keeps.openTest {scope} (h : Keeps s t) : Keeps s (t.openTest scope) := by
  unfold State.openTest
  extract_lets live s1 s2
  have h1 : Keeps s s1 := h.foldl fun h => .set <| .set <| .set <| .reportLocal <| .logEv h.faultStop
  have h2 : Keeps s s2 := h1.foldl (·.newTurfKey)
  exact ⟨h2.pending, fun _ => rfl⟩

theorem Keeps.execEnableTest {r args} (h : Keeps s t) : NextKeeps s (execEnableTest r args t) :=
  .next <| .ite h (.ite h.set (.ite h.set.set.set (.ite h.set (.ite h.set (.set h.openTest)))))

theorem Keeps.execRestart {r args} (h : Keeps s t) : NextKeeps s (execRestart r args t) :=
  .next <| h.command (·.set.restart)

theorem Keeps.execPersistNow {r args} (h : Keeps s t) : NextKeeps s (execPersistNow r args t) :=
  .next <| h.command fun h => .ite (.set <| .set h.seekPass) (.set h.seekPass)

theorem Keeps.execHoldupTest {r args} (h : Keeps s t) : NextKeeps s (execHoldupTest r args t) :=
  .next <| h.command fun h => .ite h.set h.set.set

theorem Keeps.execHoldupRetest {bank} (h : Keeps s t) : NextKeeps s (execHoldupRetest bank t) :=
  .next <| .ite h (.ite (.commitAll <| .ite h.set.set h.set) (.ite h.set.set h.set))

theorem Keeps.execCinderPersist {bank} (h : Keeps s t) : NextKeeps s (execCinderPersist bank t) :=
  .next <| .ite h (.ite (.ite h.set.set h.set) (.via (fun k => .ite (.set k) k) (.set <| .ite h.set.set h.set)))

/-! ### SEAL, RELEASE and the walk -/

theorem Keeps.sealSlot {p i} (h : Keeps s t) : Keeps s (t.sealSlot p i) := by
  unfold State.sealSlot
  exact .via (fun k => .ite (.set <| .voidSlot k) k) (.ite h.set h.unmapped)

theorem Keeps.execSeal {core} (h : Keeps s t) : NextKeeps s (execSeal core t) :=
  .next <| h.byCore <| .ite h.set (.ite h (h.set.foldl (·.sealSlot)))

theorem Keeps.finishSeal {p} (h : Keeps s t) : Keeps s (t.finishSeal p) :=
  .set <| .set <| .mirrorFrame <| .wrLe h.wrLe

theorem Keeps.execSealComplete {p} (h : Keeps s t) : NextKeeps s (execSealComplete p t) :=
  .next <| .ite h.finishSeal h

theorem Keeps.execUnseal {core} (h : Keeps s t) : NextKeeps s (execUnseal core t) :=
  .next <| h.byCore <| .ite h h.abandonSeal

theorem Keeps.voidShadow {p ste} (h : Keeps s t) : Keeps s (t.voidShadow p ste) :=
  .ite h
    (.ite h
      (.via (fun k => .ite (.ite (.wrLe k) (.wrMems <| .wrLe k)) k)
        (h.foldl fun h => .set <| .ite h.voidSlot (.wrMems h.voidSlot))))

theorem Keeps.releaseCmd {core ste cancel trim} (h : Keeps s t) : Keeps s (t.releaseCmd core ste cancel trim) :=
  h.byCore <| .ite h.set (.ite h.unmapped (.ite h.set (.set <| .voidShadow <| .ite (.pWrLe h.pWrLe) h)))

theorem Keeps.execRelease {core ste} (h : Keeps s t) : NextKeeps s (execRelease core ste t) := .next h.releaseCmd

theorem Keeps.execCancel {core ste} (h : Keeps s t) : NextKeeps s (execCancel core ste t) := .next h.releaseCmd

theorem Keeps.execTrim {core ste} (h : Keeps s t) : NextKeeps s (execTrim core ste t) := .next h.releaseCmd

theorem Keeps.walkEntry {p a} (h : Keeps s t) : Keeps s (t.walkEntry p a) := by
  unfold State.walkEntry
  dsimp only
  split
  · exact h.refDec
  · exact h.set
  · exact h.set
  · exact h

theorem Keeps.execReleaseWalkEnd {p} (h : Keeps s t) : NextKeeps s (execReleaseWalkEnd p t) :=
  .next (by split; exacts [h, .raiseCores <| .set <| .set <| .steToFree <| .foldl h.unmappedAll (·.walkEntry)])

/-! ### Update of images -/

theorem Keeps.withPass {r f} (h : Keeps s t) (hf : ∀ {u}, Keeps s u → Keeps s (f u)) : Keeps s (t.withPass r f) :=
  .ite (.set <| hf h.seekPass) (.set h.seekPass)

theorem Keeps.execStageBegin {r args} (h : Keeps s t) : NextKeeps s (execStageBegin r args t) :=
  .next <| h.command fun h => .ite h.set (.ite h.set (h.withPass (·.set.set)))

theorem Keeps.execStageWrite {r args} (h : Keeps s t) : NextKeeps s (execStageWrite r args t) :=
  .next <| .ite h (.ite h.set (.ite h.set (.ite h.set (.ite h.set (.ite h.set (h.withPass (·.set)))))))

theorem Keeps.execStageCopy {r args} (h : Keeps s t) : NextKeeps s (execStageCopy r args t) :=
  .next <| h.command fun h => .ite h.set (.ite h.set (h.withPass (·.set)))

theorem Keeps.execStageEnd {r args} (h : Keeps s t) : NextKeeps s (execStageEnd r args t) :=
  .next <| h.command fun h => .ite h.set (.ite h.set (.ite h.set (h.withPass (·.set))))

theorem Keeps.execActivate {r args} (h : Keeps s t) : NextKeeps s (execActivate r args t) :=
  .next <| h.command fun h => .ite h.set (.ite h.set (.ite h.set (.ite h.set (h.withPass (·.set)))))

theorem Keeps.execCancelActivate {r args} (h : Keeps s t) : NextKeeps s (execCancelActivate r args t) :=
  .next <| h.command fun h => .ite h.set h.set.set

theorem Keeps.execActivationRetest {bank} (h : Keeps s t) : NextKeeps s (execActivationRetest bank t) :=
  .next <| .ite h (.ite h.set h.set.set.logOpen)

theorem Keeps.execActivation (h : Keeps s t) : NextKeeps s (execActivation t) :=
  .next <| .ite h (.ite h.set (.startOver <| .set <| .setPointer h.stopAll))

theorem Keeps.execConfirm {r args} (h : Keeps s t) : NextKeeps s (execConfirm r args t) :=
  .next <| h.command fun h => .ite h.set h.set.set

theorem Keeps.execHealthConfirm {bank} (h : Keeps s t) : NextKeeps s (execHealthConfirm bank t) :=
  .next <| .ite h (.ite h.seekPass (.set <| .setPointer h.seekPass))

theorem Keeps.execTrialTimeout (h : Keeps s t) : NextKeeps s (execTrialTimeout t) := .next <| .ite h.revert h

/-! ### Self-tests and repair -/

theorem Keeps.takeDown {c} (h : Keeps s t) : Keeps s (t.takeDown c) := .ite h.cordDown h.set

theorem Keeps.execSelftest {r args} (h : Keeps s t) : NextKeeps s (execSelftest r args t) :=
  .next <| h.command fun h => .ite h.set
    (.ite h.set (.ite h.set (.set <| .ite h.set.takeDown (.ite h.set h.set.startScrub))))

theorem Keeps.addRepairs {g sram stack bank} (h : Keeps s t) : Keeps s (t.addRepairs g sram stack bank) :=
  .ite h h.set.commit

theorem Keeps.execSelftestDone {found sram stack waves bank} (h : Keeps s t) :
    NextKeeps s (execSelftestDone found sram stack waves bank t) := by
  refine .next <| .ite h ?_
  split
  · exact .ite h (by dsimp only; split; exacts [.set h.set.addRepairs, .set <| .eraseGroup h.set.addRepairs])
  · exact .ite h (by split; exacts [h.set, h.set.set])
  · exact .ite h (.ite h.set.set h.set.set.startTraining)
  · exact .ite h h.set.commit

theorem Keeps.execFuseRepair {r args stackFull} (h : Keeps s t) : NextKeeps s (execFuseRepair r args stackFull t) :=
  .next <| h.command fun h => .ite h.set (.ite h.set (.ite h.set (.ite h.set (h.withPass (·.set.set.set)))))

theorem Keeps.execCinderClear {r args} (h : Keeps s t) : NextKeeps s (execCinderClear r args t) :=
  .next <| h.command fun h => .ite h.set (.ite h.set (h.withPass (·.set.set)))

theorem Keeps.execCoalesceClose (h : Keeps s t) : NextKeeps s (execCoalesceClose t) := .next <| h.set.foldl (·.logPut)

/-! ### Power, thermal and clock events -/

theorem Keeps.loseInput {c} (h : Keeps s t) : Keeps s (t.loseInput c) := by
  unfold State.loseInput
  dsimp only
  split
  · exact .ite (.commitAll <| .set <| .stopAll h.logEv) (.set <| .stopAll h.logEv)
  · exact .set <| .stopAll h.logEv

theorem Keeps.auxOff (h : Keeps s t) : Keeps s t.auxOff := by
  unfold State.auxOff
  exact .startOver <| .set <| .ite h.set h

theorem Keeps.execInputPower {c} (h : Keeps s t) : NextKeeps s (execInputPower c t) :=
  .next <| .ite (.ite h.auxOff h) (.startOver <| .set h.loseInput)

theorem Keeps.execInputPowerRecovery (h : Keeps s t) : NextKeeps s (execInputPowerRecovery t) :=
  .next <| .ite h (.startOver <| .set <| .set <| .ite h h.set)

theorem Keeps.execInrushRamp (h : Keeps s t) : NextKeeps s (execInrushRamp t) := .next <| .ite h h.set.chargeBank

theorem Keeps.dieFault {d e} (h : Keeps s t) : Keeps s (t.dieFault d e) :=
  .foldl (.logEv <| h.foldl (·.faultStop)) (·.reportLocal)

theorem Keeps.dieRailsOff {d} (h : Keeps s t) : Keeps s (t.dieRailsOff d) := by
  unfold State.dieRailsOff
  exact .portReset <| .portReset <| h.set.foldl (·.set)

theorem Keeps.execRegulatorLimit {d rail} (h : Keeps s t) : NextKeeps s (execRegulatorLimit d rail t) :=
  .next <| .ite (.dieRailsOff h.dieFault) h

theorem Keeps.execSharedClockLoss {d} (h : Keeps s t) : NextKeeps s (execSharedClockLoss d t) :=
  .next <| .ite h.dieFault h

theorem Keeps.lasersOff {k} (h : Keeps s t) : Keeps s (t.lasersOff k) := h.set.foldl (·.takeDown)

theorem Keeps.execThermalTrip {sensor} (h : Keeps s t) : NextKeeps s (execThermalTrip sensor t) :=
  .next <| .ite h (.ite (.ite h (.lasersOff h.logEv)) (.ite h (.dieRailsOff h.dieFault)))

theorem Keeps.execSensorRead {readings} (h : Keeps s t) : NextKeeps s (execSensorRead readings t) :=
  .next <| .ite h.set h

/-! ### Lookup and registration of shared blocks -/

theorem Keeps.phKey {p i} (h : Keeps s t) : Keeps s (t.phKey p i).1 := by
  unfold State.phKey
  split
  · exact h
  · exact h.set

theorem Keeps.refInc {p h'} (h : Keeps s t) : Keeps s (t.refInc p h') := .ite h h.setPage

theorem Keeps.mapBlock {p ste a j} (h : Keeps s t) : Keeps s (t.mapBlock p ste a j) := by
  unfold State.mapBlock
  exact .pWrLe <| .pWrLe <| h.foldl fun h => (by dsimp only; split; exacts [.wrPte h.refInc, h.refInc])

theorem Keeps.lookBlocks {p sg ste k n j tok r} (h : Keeps s t) : Keeps s (t.lookBlocks p sg ste k n j tok r).1 := by
  induction n generalizing t j tok r with
  | zero => exact h
  | succ n ih =>
    refine .ite_fst h.unmapped ?_
    dsimp only
    split
    · exact h.set
    · exact .ite_fst h.set (ih <| .mapBlock h.set)

theorem Keeps.lookEnd {c p ste r} (h : Keeps s t) : Keeps s (t.lookEnd c p ste r) :=
  .set <| .pWrLe <| .pWrLe <| .pWrLe h.pWrLe

theorem Keeps.phCommand {c needs f} (h : Keeps s t) (hf : ∀ {x y u}, Keeps s u → Keeps s (f x y u)) :
    Keeps s (t.phCommand c needs f) :=
  h.byCore <| .ite h.set (.ite h.set (.ite (.set h.set.unmapped) (hf h.set)))

theorem Keeps.phReach {c p gaps t2} (h : Keeps s t) (h2 : Keeps s t2) : Keeps s (t.phReach c p gaps t2) := by
  unfold State.phReach
  split
  · exact h2
  · exact .set h.unmappedAll

theorem Keeps.execLookup {core} (h : Keeps s t) : NextKeeps s (execLookup core t) :=
  .next <| h.phCommand fun h => .ite h.set (h.phReach <| .lookEnd <| .lookBlocks h.phKey)

theorem Keeps.execLookupHandle {core} (h : Keeps s t) : NextKeeps s (execLookupHandle core t) := by
  refine .next <| h.phCommand fun h => .ite h.set (h.phReach ?_)
  dsimp only
  split
  · exact .lookEnd h.phKey
  · split
    · exact .lookEnd h.phKey
    · exact .ite (.lookEnd h.phKey)
          (.via
            (fun k => .ite (.lookEnd <| .pWrLe <| .pWrLe k) (.lookEnd <| .lookBlocks <| .set <| .pWrLe <| .pWrLe k))
            (.foldl h.phKey (·.mapBlock)))

theorem Keeps.putEntry {p a key sg block kind prev nl list} (h : Keeps s t) :
    Keeps s (t.putEntry p a key sg block kind prev nl list) := by
  unfold State.putEntry
  exact h.set.putMem

theorem Keeps.putChain {p ste j key} (h : Keeps s t) : Keeps s (t.putChain p ste j key) :=
  .foldl h.pWrLe fun h => (by split; exacts [h, .ite h.wrLe h])

theorem Keeps.enterBlock {p sg ste j key prev d plist} (h : Keeps s t) :
    Keeps s (t.enterBlock p sg ste j key prev d plist) := by
  unfold State.enterBlock
  refine .via (fun k => .ite (.putEntry k) (.pWrLe <| .putEntry k)) (h.foldl fun h => ?_)
  split
  · exact h
  · exact .putMem <| .pWrLe h.setPage

theorem Keeps.insBlocks {p sg ste k n j plist r} (h : Keeps s t) : Keeps s (t.insBlocks p sg ste k n j plist r).1 := by
  induction n generalizing t j plist r with
  | zero => exact h
  | succ n ih =>
    unfold State.insBlocks
    dsimp only
    split
    · exact h
    · refine .ite_fst (ih <| .putChain h.set) (.ite_fst (.unmapped <| .putChain h.set)
        (.ite_fst (.putChain h.set) ?_))
      split
      · exact .putChain h.set
      · exact .ite_fst h.set (ih <| .enterBlock <| .putChain h.set)

theorem Keeps.execInsert {core} (h : Keeps s t) : NextKeeps s (execInsert core t) := by
  refine .next <| h.phCommand fun h => .ite h.set (.ite h.set (.ite h.set (h.phReach ?_)))
  dsimp only
  split
  · exact h.set
  · exact .set <| .insBlocks h.phKey

theorem Keeps.emptyEntry {p a} (h : Keeps s t) : Keeps s (t.emptyEntry p a) := by
  unfold State.emptyEntry
  exact h.pWrLe

theorem Keeps.execRemove {core} (h : Keeps s t) : NextKeeps s (execRemove core t) :=
  .next <| h.phCommand fun h => .ite h.set
    (.ite (.set <| .emptyEntry h.pWrLe)
      (.ite h.set (h.phReach <| .via (fun k => .set <| .emptyEntry <| .ite k (.pWrLe k)) (h.foldl (·.refDec)))))

theorem Keeps.execRegister {core} (h : Keeps s t) : NextKeeps s (execRegister core t) := by
  refine .next <| h.phCommand fun h => .ite h.set (.ite h.set (.ite h.set (.ite (.set h.phKey) ?_)))
  split
  · exact .set h.phKey
  · exact .ite (.set h.phKey) (.set <| .pWrLe <| .putEntry h.phKey)

theorem Keeps.execPrefixEnable {p} (h : Keeps s t) : NextKeeps s (execPrefixEnable p t) :=
  .next <| .ite h (.ite h.set (.set h.unmappedAll))

theorem Keeps.execPhSgInval {core sg} (h : Keeps s t) : NextKeeps s (execPhSgInval core sg t) :=
  .next <| h.byCore h.set

/-! ### Register writes -/

/-- A write to any register of the list keeps the queue and the form of memory. -/
def RegsKeep (l : List RegDef) : Prop := ∀ r ∈ l, ∀ {s t}, Keeps s t → Keeps s (r.2.2 t)

theorem RegsKeep.cons {a n : Nat} {f : State → State} {l : List RegDef} (hf : ∀ {s t}, Keeps s t → Keeps s (f t))
    (hl : RegsKeep l) : RegsKeep ((a, n, f) :: l) := by
  intro r hr
  rcases List.mem_cons.mp hr with rfl | hr
  · exact hf
  · exact hl r hr

theorem RegsKeep.one {a n : Nat} {f : State → State} (hf : ∀ {s t}, Keeps s t → Keeps s (f t)) :
    RegsKeep [(a, n, f)] :=
  .cons hf nofun

theorem RegsKeep.append {l m : List RegDef} (hl : RegsKeep l) (hm : RegsKeep m) : RegsKeep (l ++ m) := by
  intro r hr
  rcases List.mem_append.mp hr with hr | hr
  · exact hl r hr
  · exact hm r hr

theorem RegsKeep.map {α : Type} {l : List α} {a n : α → Nat} {f : α → State → State}
    (hf : ∀ {x s t}, Keeps s t → Keeps s (f x t)) : RegsKeep (l.map fun x => (a x, n x, f x)) := by
  intro r hr
  obtain ⟨x, -, rfl⟩ := List.mem_map.mp hr
  exact hf

theorem RegsKeep.flatMap {α : Type} {l : List α} {f : α → List RegDef} (hf : ∀ {x}, RegsKeep (f x)) :
    RegsKeep (l.flatMap f) := by
  intro r hr
  obtain ⟨x, -, hx⟩ := List.mem_flatMap.mp hr
  exact hf r hx

theorem Keeps.apply {w : RegWrite} {l} (h : Keeps s t) (hl : RegsKeep l) : Keeps s (w.apply l t) := by
  unfold RegWrite.apply
  induction l generalizing t with
  | nil => exact h
  | cons r l ih =>
    exact ih (.ite (hl r List.mem_cons_self h) h) fun x hx => hl x (List.mem_cons_of_mem r hx)

theorem Keeps.afterOf {o} (h : Keeps s t) (ho : NextKeeps s o) : Keeps s (afterOf t o) := by
  cases o with
  | next u => exact ho u rfl
  | fault r => exact h
  | refused r => exact h

theorem Keeps.does {f} (h : Keeps s t) (hf : Keeps s t → NextKeeps s (f t)) : Keeps s (t.does f) := h.afterOf (hf h)

theorem RegsKeep.budgetRegs {w a b} : RegsKeep (budgetRegs w a b) := by
  unfold Machine.budgetRegs
  extract_lets entry
  have he {f s t} (h : Keeps s t) : Keeps s (entry f t) := by
    unfold entry
    split
    · exact h.set
    · exact h
  exact .cons (fun h => by split; exacts [h.set, h.set]) <| .cons he <| .cons he <| .cons he <| .cons he <| .cons he <|
    .cons he <| .one fun h => h.does (·.execBtAdd)

theorem Keeps.writeCqCfg {a ch v} (h : Keeps s t) : Keeps s (t.writeCqCfg a ch v) := by
  unfold State.writeCqCfg
  split
  · exact h.viaView <| .ite h.set h.set
  · exact .ite h (by split; exacts [h, .ite h.set (.ite h.set h.set.set)])

theorem RegsKeep.stokeRegs {w host a ch b} : RegsKeep (stokeRegs w host a ch b) :=
  .cons (fun h => h.stkCtrl fun h =>
    .via (fun k => .via (fun k => .ite (k.does (·.execSkip)) k) (.ite (k.does (·.execResume)) k))
      (.ite (h.does (·.execAbort)) h)) <|
  .cons (fun h => h.viaView <| .ite h.set h.set) <|
  .cons (·.writeCqCfg) <|
  .cons (fun h => h.does (·.execStokeCqSpace)) <|
  .cons (fun h => h.stkCtrl fun h =>
    .via (fun k => .ite (k.does (·.execStokeCancel)) k) (.ite (h.does (·.execGo)) h)) <|
  .cons (fun h => h.viaView <| .ite h.set h.set) <|
  .cons (fun h => h.viaView <| .ite h.set h.set) <|
  .cons (fun h => h.viaView <| .ite h.set h.set) <|
  .cons (fun h => h.viaView <| .ite h.set h.set) <|
  .one fun h => h.viaView <| .ite h.set h.set

theorem RegsKeep.eventRegs {w p} : RegsKeep (eventRegs w p) :=
  .append
    (.append
      (.append
        (.cons (fun h => h.does (·.execEventEnable)) <| .cons (fun h => h.does (·.execEventClear)) <|
          .one fun h => h.does (·.execEventEnable))
        (.map fun h => .ite h.set h))
      (.map fun h => h.does (·.execEventClear)))
    (.map fun h => h.does (·.execEventEnable))

theorem Keeps.writeQCfg {p q v} (h : Keeps s t) : Keeps s (t.writeQCfg p q v) := .ite h.set.set h.set

theorem RegsKeep.queueRegs {w p} : RegsKeep (queueRegs w p) :=
  .cons (·.set) <|
  .cons (fun h => .ite h.set h.set) <|
  .one (·.writeQCfg)

theorem Keeps.writeSrv {p v} (h : Keeps s t) : Keeps s (t.writeSrv p v) := by
  unfold State.writeSrv
  split
  · exact h
  · exact h.does (·.execHalt)
  · exact h.does (·.execStart)
  · exact h.does (·.execStartImage)
  · exact h.set

theorem RegsKeep.servingRegs {w p} : RegsKeep (servingRegs w p) :=
  .append (.cons (·.writeSrv) (.cons (·.set) (.one (·.set)))) .budgetRegs

theorem Keeps.writePlanCtrl {p v host} (h : Keeps s t) : Keeps s (t.writePlanCtrl p v host) := by
  unfold State.writePlanCtrl
  split
  · exact h
  · exact h.does (·.execPlanLoad)
  · exact h.does (·.execPlanArm)
  · exact h.does (·.execPlanStop)
  · exact h.does (·.execPlanUnload)
  · exact h.does (·.execRebind)
  · exact h.set

theorem RegsKeep.planRegs {w p host} : RegsKeep (planRegs w p host) :=
  .cons (·.writePlanCtrl) <|
  .cons (·.set) <|
  .cons (·.set) <|
  .cons (·.set) <|
  .cons (·.set) <|
  .cons (·.set) <|
  .one fun h => .ite (h.does (·.execSfClear)) h

theorem RegsKeep.timeRegs {w p} : RegsKeep (timeRegs w p) :=
  .cons (fun h => .ite h.set h.set) <|
  .cons (fun h => .ite h.set h.set) <|
  .cons (fun h => .ite h.set h.set) <|
  .one fun h => .ite (h.does (·.execCntClear)) h

theorem RegsKeep.faultRegs {w p} : RegsKeep (faultRegs w p) :=
  .cons (·.set) <|
  .one (·.set)

theorem Keeps.writeKeyCmd {p v host} (h : Keeps s t) : Keeps s (t.writeKeyCmd p v host) := by
  unfold State.writeKeyCmd
  split
  · exact h.does (·.execKeyInstall)
  · exact h.does (·.execErase)
  · exact h

theorem Keeps.writeWin {p i f} (h : Keeps s t) : Keeps s (t.writeWin p i f) := .ite h.set h.set

theorem RegsKeep.securityRegs {w p host} : RegsKeep (securityRegs w p host) :=
  .append (.cons (·.set) <| .one (·.writeKeyCmd))
    (.flatMap <| .cons (·.writeWin) <| .cons (·.writeWin) <| .cons (·.writeWin) <|
      .one fun h => h.does (·.execHostWindowEnable))

theorem Keeps.writeBar0 {p w host} (h : Keeps s t) : Keeps s (t.writeBar0 p w host) :=
  .ite (h.apply .planRegs)
    (.ite (h.apply .faultRegs)
      (.ite h
        (.ite (h.apply .eventRegs)
          (.ite (h.apply .stokeRegs)
            (.ite h
              (.ite (h.apply .queueRegs)
                (.ite (h.apply .servingRegs) (.ite (h.apply .timeRegs) (h.apply .securityRegs)))))))))

theorem Keeps.writeBar2 {p w} (h : Keeps s t) : Keeps s (t.writeBar2 p w) := .ite (h.does (·.execDoorbell)) h

theorem Keeps.writeMsix {p v w} (h : Keeps s t) : Keeps s (t.writeMsix p v w) := .ite h.set.set h.set

theorem Keeps.writeBar4 {p w} (h : Keeps s t) : Keeps s (t.writeBar4 p w) := .ite h.writeMsix h

theorem Keeps.writeFunc0 {h' w} (h : Keeps s t) : Keeps s (t.writeFunc0 h' w) := .ite h.set h

theorem Keeps.writeConfig {h' fn w} (h : Keeps s t) : Keeps s (t.writeConfig h' fn w) := .ite h h.set

theorem Keeps.locked {on p f} (hf : ∀ {u}, Keeps s u → Keeps s (f u)) (h : Keeps s t) : Keeps s (locked on p f t) :=
  .ite h.set (hf h)

theorem RegsKeep.pageRegs {w core p} : RegsKeep (pageRegs w core p) :=
  .append
    (.append (.one fun h => h.locked fun h => .ite (h.set.does (·.execPagePoolEnable)) h.set)
      (.flatMap <| .cons (fun h => h.locked (·.set)) <| .cons (fun h => h.locked (·.set)) <|
        .cons (fun h => h.locked (·.set)) <| .one (·.set)))
    (.one fun h => .ite h.set (by
      split
      · exact h.set.does (·.execFree)
      · exact h.set.does (·.execRefInc)
      · exact h.set.does (·.execRefDec)
      · exact h.set.does (·.execShare)
      · exact h.set.does (·.execQuery)
      · exact h.set))

theorem Keeps.writePhCmd {core v} (h : Keeps s t) : Keeps s (t.writePhCmd core v) := by
  unfold State.writePhCmd
  split
  · exact .ite (h.does (·.execLookupHandle)) (h.does (·.execLookup))
  · exact h.does (·.execInsert)
  · exact h.does (·.execRemove)
  · exact h.does (·.execRegister)
  · exact h

theorem RegsKeep.prefixRegs {w core p} : RegsKeep (prefixRegs w core p) :=
  .cons (·.set) <|
  .cons (·.set) <|
  .cons (·.set) <|
  .cons (·.set) <|
  .cons (·.set) <|
  .cons (·.set) <|
  .cons (·.set) <|
  .cons (·.writePhCmd) <|
  .cons (·.set) <|
  .cons (fun h => h.locked (·.set)) <|
  .cons (fun h => h.locked fun h => .ite (h.set.does (·.execPrefixEnable)) h.set) <|
  .cons (fun h => h.locked (·.set)) <|
  .cons (fun h => h.locked (·.set)) <|
  .one fun h => h.does (·.execPhSgInval)

theorem Keeps.writeFbCmd {core p v} (h : Keeps s t) : Keeps s (t.writeFbCmd core p v) := by
  unfold State.writeFbCmd
  split
  · exact h.does (·.execSeal)
  · exact h.does (·.execUnseal)
  · exact h.set
  · exact h

theorem Keeps.writeFbRelease {core v} (h : Keeps s t) : Keeps s (t.writeFbRelease core v) :=
  .ite (h.does (·.execCancel)) (.ite (h.does (·.execTrim)) (h.does (·.execRelease)))

theorem Keeps.writeEpochCmd {core v} (h : Keeps s t) : Keeps s (t.writeEpochCmd core v) := by
  unfold State.writeEpochCmd
  exact .via (fun k => .via (fun k => .ite (.does k (·.execEpochDisarm)) k) (.ite (.does k (·.execEpochArm)) k))
      (.ite (h.does (·.execEpochSet)) h)

theorem Keeps.writeOvCmd {core x} (h : Keeps s t) : Keeps s (t.writeOvCmd core x) := by
  unfold State.writeOvCmd
  dsimp only
  split
  · exact h.does (·.execInstall)
  · exact h.does (·.execPin)
  · exact h.does (·.execUnpin)
  · exact h.does (·.execWithdraw)
  · exact h

theorem Keeps.writeLayer {core p l v} (h : Keeps s t) : Keeps s (t.writeLayer core p l v) :=
  .ite (h.does (·.execLayerOpen)) (.ite h.set h.set)

theorem Keeps.noTable {p} (h : Keeps s t) : Keeps s (t.noTable p) := .ite h.set h

theorem RegsKeep.frameRegs {w core p} : RegsKeep (frameRegs w core p) :=
  .append
    (.cons (fun h => .noTable <| h.locked (·.set)) <|
      .cons (fun h => h.locked (·.set)) <|
      .cons (·.writeFbCmd) <|
      .cons (·.writeFbRelease) <|
      .cons (·.writeEpochCmd) <|
      .cons (·.set) <|
      .cons (fun h => h.locked (·.set)) <|
      .cons (fun h => by dsimp only; split; exacts [h.does (·.execContextArm), h.does (·.execContextDisarm), h]) <|
      .cons (fun h => h.locked (·.set)) <|
      .cons (fun h => h.locked (·.set)) <|
      .cons (·.set) <|
      .one fun h => .ite h.set.writeOvCmd h.set)
    (.map (·.writeLayer))

theorem RegsKeep.bankRegs {w core p} : RegsKeep (bankRegs w core p) :=
  .cons (fun h => h.locked (·.set)) <|
  .cons (fun h => h.locked (·.set)) <|
  .cons (fun h => h.locked (·.set)) <|
  .cons (fun h => h.locked (·.set)) <|
  .cons (fun h => h.locked (·.set)) <|
  .cons (fun h => .ite (h.does (·.execBankEnable)) h) <|
  .cons (·.set) <|
  .cons (·.set) <|
  .cons (·.set) <|
  .cons (·.set) <|
  .cons (fun h => h.does (·.execBankCqSpace)) <|
  .cons (·.set) <|
  .cons (·.set) <|
  .one fun h => (by split; exacts [h.does (·.execBank), h.does (·.execRekindle), h])

theorem RegsKeep.stealRegs {w core} : RegsKeep (stealRegs w core) :=
  .cons (·.set) <|
  .one fun h => h.set.does (·.execSqPush)

theorem RegsKeep.mirrorRegs {w core p} : RegsKeep (mirrorRegs w core p) :=
  .append
    (.cons (·.set) <| .cons (fun h => h.does (·.execHqDevIdxWrite)) <| .one fun h => h.does (·.execHqRaise))
    (.map fun h => h.foldl (·.set))

theorem RegsKeep.localRegs {w core} : RegsKeep (localRegs w core) :=
  .cons (·.set) <|
  .cons (·.set) <|
  .one fun h => h.does (·.execMbTailWrite)

theorem Keeps.writeTmbx {core w} (h : Keeps s t) : Keeps s (t.writeTmbx core w) := by
  unfold State.writeTmbx
  exact h.does (·.execTmbxWrite)

theorem Keeps.writeAssist {core p w host} (h : Keeps s t) : Keeps s (t.writeAssist core p w host) := by
  refine .ite h.writeTmbx (.ite (h.apply .localRegs) ?_)
  split
  · exact h.apply .pageRegs
  · exact h.apply .prefixRegs
  · exact h.apply .budgetRegs
  · exact h.apply .frameRegs
  · exact h.apply .bankRegs
  · exact h.apply .stealRegs
  · exact .ite (h.apply .stokeRegs) (h.apply .mirrorRegs)

theorem Keeps.coreStore {core p a bytes} (h : Keeps s t) : Keeps s (t.coreStore core p a bytes) :=
  .ite h.writeAll (.set h.unmapped)

theorem Keeps.writeCore {core p w host} (h : Keeps s t) : Keeps s (t.writeCore core p w host) :=
  .ite (.ite h.writeAssist h.set) (.ite h (.ite h.set (.ite (.ite h.wrMems h.set.set) (.ite h.coreStore h.set.set))))

theorem Keeps.execGenericRegisterWrite {w host} (h : Keeps s t) : NextKeeps s (execGenericRegisterWrite w host t) := by
  refine .next ?_
  split
  · exact h.byCore h.writeCore
  · exact .ite h.writeBar0 h
  · exact .ite h.writeBar2 h
  · exact .ite h.writeBar4 h
  · exact .ite h.writeFunc0 h
  · exact h.writeConfig

/-! ### The step -/

theorem Keeps.exec (h : Keeps s t) : ∀ i, NextKeeps s (exec i t)
  | .planLoad .. => h.execPlanLoad
  | .loadDone .. => h.execLoadDone
  | .planArm .. => h.execPlanArm
  | .planStop .. => h.execPlanStop
  | .planUnload .. => h.execPlanUnload
  | .unloadComplete .. => h.execUnloadComplete
  | .rebind .. => h.execRebind
  | .launch .. => h.execLaunch
  | .sfClear .. => h.execSfClear
  | .beat .. => h.execBeat
  | .stepBoundary .. => h.execStepBoundary
  | .loopEntry .. => h.execLoopEntry
  | .loopSpanEnd .. => h.execLoopSpanEnd
  | .flueBudgetWindow .. => h.execFlueBudgetWindow
  | .wld .. => h.execWld
  | .wldWithOverlay .. => h.execWldWithOverlay
  | .wsw .. => h.execWsw
  | .mmaAcc .. => h.execMmaAcc
  | .mmaStart .. => h.execMmaStart
  | .acz .. => h.execAcz
  | .drn .. => h.execDrn
  | .drw .. => h.execDrw
  | .vop .. => h.execVop
  | .vsf .. => h.execVsf
  | .vrd .. => h.execVrd
  | .vrg .. => h.execVrg
  | .vtk .. => h.execVtk
  | .vld .. => h.execVld
  | .vst .. => h.execVst
  | .snd .. => h.execSnd
  | .draw .. => h.execDraw
  | .lay .. => h.execLay
  | .awt .. => h.execAwt
  | .sclAlu .. => h.execSclAlu
  | .sclMul .. => h.execSclMul
  | .sclDiv .. => h.execSclDiv
  | .sclLd .. => h.execSclLd
  | .sclSt .. => h.execSclSt
  | .cnt .. => h.execCnt
  | .pcr .. => h.execPcr
  | .mbx .. => h.execMbx
  | .landingBeat .. => h.execLandingBeat
  | .flueEntryComplete .. => h.execFlueEntryComplete
  | .mailboxEntryArrival .. => h.execMailboxEntryArrival
  | .tmbxWrite .. => h.execTmbxWrite
  | .mbTailWrite .. => h.execMbTailWrite
  | .emberHalt .. => h.execEmberHalt
  | .halt .. => h.execHalt
  | .start .. => h.execStart
  | .startImage .. => h.execStartImage
  | .steCount .. => h.execSteCount
  | .sqPush .. => h.execSqPush
  | .sqPop .. => h.execSqPop
  | .sqSteal .. => h.execSqSteal
  | .alloc .. => h.execAlloc
  | .free .. => h.execFree
  | .refInc .. => h.execRefInc
  | .refDec .. => h.execRefDec
  | .share .. => h.execShare
  | .query .. => h.execQuery
  | .pagePoolEnable .. => h.execPagePoolEnable
  | .seal .. => h.execSeal
  | .sealComplete .. => h.execSealComplete
  | .unseal .. => h.execUnseal
  | .release .. => h.execRelease
  | .cancel .. => h.execCancel
  | .trim .. => h.execTrim
  | .releaseWalkEnd .. => h.execReleaseWalkEnd
  | .btBalanceRead .. => h.execBtBalanceRead
  | .btAdd .. => h.execBtAdd
  | .lookup .. => h.execLookup
  | .lookupHandle .. => h.execLookupHandle
  | .insert .. => h.execInsert
  | .remove .. => h.execRemove
  | .register .. => h.execRegister
  | .prefixEnable .. => h.execPrefixEnable
  | .phSgInval .. => h.execPhSgInval
  | .bank .. => h.execBank
  | .bankMoveStart .. => h.execBankMoveStart
  | .bankDone .. => h.execBankDone
  | .migrate .. => h.execMigrate
  | .rekindle .. => h.execRekindle
  | .rekindleDone .. => h.execRekindleDone
  | .bankEnable .. => h.execBankEnable
  | .bankCqSpace .. => h.execBankCqSpace
  | .contextArm .. => h.execContextArm
  | .contextDisarm .. => h.execContextDisarm
  | .shardWindowWrite .. => h.execShardWindowWrite
  | .shardWindowRead .. => h.execShardWindowRead
  | .resealVerifyDone .. => h.execResealVerifyDone
  | .layerOpen .. => h.execLayerOpen
  | .epochSet .. => h.execEpochSet
  | .epochArm .. => h.execEpochArm
  | .epochDisarm .. => h.execEpochDisarm
  | .install .. => h.execInstall
  | .pin .. => h.execPin
  | .unpin .. => h.execUnpin
  | .withdraw .. => h.execWithdraw
  | .segmentSend .. => h.execSegmentSend
  | .segmentReceive .. => h.execSegmentReceive
  | .replayTimeout .. => h.execReplayTimeout
  | .nackRepeat .. => h.execNackRepeat
  | .laneFailing .. => h.execLaneFailing
  | .wavelengthRestore .. => h.execWavelengthRestore
  | .laneReq .. => h.execLaneReq
  | .laneCmd .. => h.execLaneCmd
  | .laneDone .. => h.execLaneDone
  | .laneCmdRetry .. => h.execLaneCmdRetry
  | .sync .. => h.execSync
  | .ident .. => h.execIdent
  | .trainingDone .. => h.execTrainingDone
  | .measuringDone .. => h.execMeasuringDone
  | .cordDown .. => h.execCordDown
  | .leasePropose .. => h.execLeasePropose
  | .leaseAck .. => h.execLeaseAck
  | .leaseCommit .. => h.execLeaseCommit
  | .leaseAbort .. => h.execLeaseAbort
  | .leaseDone .. => h.execLeaseDone
  | .leaseEffective .. => h.execLeaseEffective
  | .packetComplete .. => h.execPacketComplete
  | .rdReq .. => h.execRdReq
  | .wrReq .. => h.execWrReq
  | .rdRsp .. => h.execRdRsp
  | .wrRsp .. => h.execWrRsp
  | .nack .. => h.execNack
  | .attemptTimeout .. => h.execAttemptTimeout
  | .reqTimeout .. => h.execReqTimeout
  | .completionEntryExpiry .. => h.execCompletionEntryExpiry
  | .routeInval .. => h.execRouteInval
  | .timeExchangeStart .. => h.execTimeExchangeStart
  | .timeReq .. => h.execTimeReq
  | .timeRsp .. => h.execTimeRsp
  | .timeLabel .. => h.execTimeLabel
  | .holdoverLimit => h.execHoldoverLimit
  | .ntpRequest .. => h.execNtpRequest
  | .damperUp .. => h.execDamperUp
  | .damperSet .. => h.execDamperSet
  | .damperChange .. => h.execDamperChange
  | .desiredDamperUpdate .. => h.execDesiredDamperUpdate
  | .freeze .. => h.execFreeze
  | .freezeLift .. => h.execFreezeLift
  | .slipReq .. => h.execSlipReq
  | .domainBeacon .. => h.execDomainBeacon
  | .domainBeaconSend .. => h.execDomainBeaconSend
  | .beaconTimeout .. => h.execBeaconTimeout
  | .cntClear .. => h.execCntClear
  | .join .. => h.execJoin
  | .joinRetry .. => h.execJoinRetry
  | .joinTimeout .. => h.execJoinTimeout
  | .domainJoin .. => h.execDomainJoin
  | .domainAck .. => h.execDomainAck
  | .domainCount .. => h.execDomainCount
  | .leave .. => h.execLeave
  | .leaveTakeEffect .. => h.execLeaveTakeEffect
  | .partitionTeardown .. => h.execPartitionTeardown
  | .shadowStart .. => h.execShadowStart
  | .shadowSync .. => h.execShadowSync
  | .shadowDigest .. => h.execShadowDigest
  | .swap .. => h.execSwap
  | .swapTakeEffect .. => h.execSwapTakeEffect
  | .epochAdvance .. => h.execEpochAdvance
  | .faultEpoch .. => h.execFaultEpoch
  | .faultReport .. => h.execFaultReport
  | .mergeClose => h.execMergeClose
  | .twinModeWrite .. => h.execTwinModeWrite
  | .cmsRead .. => h.execCmsRead
  | .cmsWrite .. => h.execCmsWrite
  | .create .. => h.execCreate
  | .dissolve .. => h.execDissolve
  | .move .. => h.execMove
  | .lease .. => h.execLease
  | .enableTest .. => h.execEnableTest
  | .stageBegin .. => h.execStageBegin
  | .stageWrite .. => h.execStageWrite
  | .stageCopy .. => h.execStageCopy
  | .stageEnd .. => h.execStageEnd
  | .activate .. => h.execActivate
  | .cancelActivate .. => h.execCancelActivate
  | .activationRetest .. => h.execActivationRetest
  | .activation => h.execActivation
  | .confirm .. => h.execConfirm
  | .healthConfirm .. => h.execHealthConfirm
  | .trialTimeout => h.execTrialTimeout
  | .restart .. => h.execRestart
  | .persistNow .. => h.execPersistNow
  | .holdupTest .. => h.execHoldupTest
  | .holdupRetest .. => h.execHoldupRetest
  | .cinderPersist .. => h.execCinderPersist
  | .fuseRepair .. => h.execFuseRepair
  | .selftest .. => h.execSelftest
  | .selftestDone .. => h.execSelftestDone
  | .cinderClear .. => h.execCinderClear
  | .scrubDone .. => h.execScrubDone
  | .coalesceClose => h.execCoalesceClose
  | .keyInstall .. => h.execKeyInstall
  | .erase .. => h.execErase
  | .hostWindowEnable .. => h.execHostWindowEnable
  | .go .. => h.execGo
  | .stokeCancel .. => h.execStokeCancel
  | .promotion .. => h.execPromotion
  | .abort .. => h.execAbort
  | .resume .. => h.execResume
  | .skip .. => h.execSkip
  | .stokeUnitDone .. => h.execStokeUnitDone
  | .stokeUnitFail .. => h.execStokeUnitFail
  | .settleReadDone .. => h.execSettleReadDone
  | .stokeCqSpace .. => h.execStokeCqSpace
  | .doorbell .. => h.execDoorbell
  | .hqDevIdxWrite .. => h.execHqDevIdxWrite
  | .hqRaise .. => h.execHqRaise
  | .eventClear .. => h.execEventClear
  | .eventEnable .. => h.execEventEnable
  | .functionLevelReset .. => h.execFunctionLevelReset
  | .perst .. => h.execPerst
  | .hostLinkUp .. => h.execHostLinkUp
  | .hostLinkDown .. => h.execHostLinkDown
  | .genericRegisterWrite .. => h.execGenericRegisterWrite
  | .powerUp => h.execPowerUp
  | .kindleRomDone => h.execKindleRomDone
  | .kindleRails .. => h.execKindleRails
  | .kindleSelftest .. => h.execKindleSelftest
  | .kindleLoad .. => h.execKindleLoad
  | .kindleSync => h.execKindleSync
  | .kindlePartitions => h.execKindlePartitions
  | .moduleReset .. => h.execModuleReset
  | .inputPower .. => h.execInputPower
  | .inrushRamp => h.execInrushRamp
  | .regulatorLimit .. => h.execRegulatorLimit
  | .thermalTrip .. => h.execThermalTrip
  | .sensorRead .. => h.execSensorRead
  | .lossOfSymbolLock .. => h.execLossOfSymbolLock
  | .symbolLockRegained .. => h.execSymbolLockRegained
  | .spdmRequest .. => h.execSpdmRequest
  | .romPldmUpdate .. => h.execRomPldmUpdate
  | .sharedClockLoss .. => h.execSharedClockLoss
  | .inputPowerRecovery => h.execInputPowerRecovery
  | .timeLabelSend .. => h.execTimeLabelSend
  | .leaseAcceptEnd .. => h.execLeaseAcceptEnd
  | .leaveReleaseTimeout .. => h.execLeaveReleaseTimeout
  | .kindleSyncTimeout => h.execKindleSyncTimeout

theorem Keeps.idle (h : Keeps s t) : Keeps s t.idle := h.set

theorem step_of_pending_cons {c : Instr} {l : List Instr} (h : s.pending = c :: l) : step s = exec c s.rest := by
  simp [step, h]

theorem Keeps.step_nil (h : s.pending = []) (e : step s = .next t) : Keeps s t := by
  rw [step_of_pending_nil s h] at e
  cases e
  exact (Keeps.refl s).idle

theorem Keeps.step_cons {c : Instr} {l : List Instr} (h : s.pending = c :: l) (e : step s = .next t) :
    Keeps s.rest t :=
  (Keeps.refl s.rest).exec c t (step_of_pending_cons h ▸ e)

end

/-- Settles O59: the meaning of each command keeps the queue it is given, which is the rest of the queue, and the form of
memory (`Keeps.exec`); with no command in the queue the step is the idle one. -/
theorem stepsKeepTheQueueAndTheMemoryForm : Obligations.StepsKeepTheQueueAndTheMemoryForm := by
  unfold Obligations.StepsKeepTheQueueAndTheMemoryForm
  intro s t e
  cases hp : s.pending with
  | nil =>
    have k := Keeps.step_nil hp e
    exact ⟨k.pending.trans hp, k.mem⟩
  | cons c l =>
    have k := Keeps.step_cons hp e
    exact ⟨k.pending.trans (congrArg List.tail hp), k.mem⟩

end Sys2Proof.Machine
end

section
/-! PROOFS. The actions of PLAN_CTRL (O4), REBIND (O7), the binding of hops (O8), LOAD_DONE (O6). -/

namespace Sys2Proof.Machine

open State

/-! ### LOAD_ERROR -/

@[simp] theorem State.part_loadErr_self (s : State) (p code detail : Nat) : (s.loadErr p code detail).part p =
    { s.part p with plan := { (s.part p).plan with errCode := code, errDetail := detail % 2 ^ 24 } } :=
  part_updPlan_self _ _ _

theorem onlyPart_loadErr (s : State) (p code detail : Nat) : OnlyPart p s (s.loadErr p code detail) := onlyPart_updPlan _ _ _

theorem onlyPart_loadErr_updPlan (s : State) (p code detail : Nat) (f : Plan → Plan) :
    OnlyPart p s ((s.loadErr p code detail).updPlan p f) :=
  (onlyPart_loadErr s p code detail).trans (onlyPart_updPlan _ p f)

theorem State.planCode_le (s : State) (p : Nat) : s.planCode p ≤ 7 := by
  unfold State.planCode
  split
  case h_5 => split <;> decide
  all_goals decide

theorem State.part_planRefuse_self (s : State) (p : Nat) : (s.planRefuse p).part p =
    { s.part p with plan := { (s.part p).plan with errCode := 0x0C, errDetail := s.planCode p } } := by
  rw [planRefuse, part_loadErr_self, Nat.mod_eq_of_lt (by have := s.planCode_le p; omega)]

theorem onlyPart_planRefuse (s : State) (p : Nat) : OnlyPart p s (s.planRefuse p) := onlyPart_loadErr _ _ _ _

theorem State.planAccepts_iff (s : State) (p : Nat) (sts : List PlanState) :
    s.planAccepts p sts = true ↔ (s.part p).plan.st ∈ sts ∧ (s.part p).plan.unloadWait = false := by
  simp [planAccepts]

/-! ### The actions of PLAN_CTRL -/

section
variable {s : State} {p : PartId} (hf : s.fnPlan p = true)
include hf

theorem exec_planLoad_of_accepts (h : s.planAccepts p [.empty] = true) :
    exec (.planLoad p) s = .next ((s.loadErr p 0 0).updPlan p fun x => { x with st := .loading }) := by
  simp [exec, execPlanLoad, hf, h]

theorem exec_planLoad_of_not_accepts (h : ¬ s.planAccepts p [.empty] = true) :
    exec (.planLoad p) s = .next (s.planRefuse p) := by
  simp [exec, execPlanLoad, hf, h]

theorem exec_planArm_of_accepts (h : s.planAccepts p [.loaded, .stopped] = true) (hj : (s.part p).dom.st ≠ .joining)
    (hl : (s.part p).dom.st ≠ .leaving) (ha : s.hall + 65536 ≤ (s.part p).plan.launchAt) :
    exec (.planArm p) s = .next ((s.loadErr p 0 0).updPlan p fun x => { x with st := .armed }) := by
  simp [exec, execPlanArm, hf, h, hj, hl, Nat.not_lt.mpr ha]

theorem exec_planArm_of_late (h : s.planAccepts p [.loaded, .stopped] = true) (hj : (s.part p).dom.st ≠ .joining)
    (hl : (s.part p).dom.st ≠ .leaving) (ha : (s.part p).plan.launchAt < s.hall + 65536) :
    exec (.planArm p) s = .next (s.loadErr p 0x0B 0) := by
  simp [exec, execPlanArm, hf, h, hj, hl, ha]

theorem exec_planArm_of_not_accepts (h : ¬ (s.planAccepts p [.loaded, .stopped] = true ∧ (s.part p).dom.st ≠ .joining ∧
    (s.part p).dom.st ≠ .leaving)) : exec (.planArm p) s = .next (s.planRefuse p) := by
  simp only [exec, execPlanArm, hf, not_true_eq_false, if_false, if_neg h]

theorem exec_planStop_of_accepts (h : s.planAccepts p [.running] = true) :
    exec (.planStop p) s = .next (s.updPlan p fun x => { x with stopReq := true }) := by
  simp [exec, execPlanStop, hf, h]

theorem exec_planStop_of_not_accepts (h : ¬ s.planAccepts p [.running] = true) :
    exec (.planStop p) s = .next (s.planRefuse p) := by
  simp [exec, execPlanStop, hf, h]

theorem exec_planUnload_of_busy (h : s.planAccepts p [.loaded, .armed, .stopped, .faulted] = true)
    (hb : s.flueBusy p = true) : exec (.planUnload p) s = .next (s.updPlan p fun x => { x with unloadWait := true }) := by
  simp [exec, execPlanUnload, hf, h, hb]

theorem exec_planUnload_of_idle (h : s.planAccepts p [.loaded, .armed, .stopped, .faulted] = true)
    (hb : s.flueBusy p = false) : exec (.planUnload p) s = .next (s.unloadNow p) := by
  simp [exec, execPlanUnload, hf, h, hb]

theorem exec_planUnload_of_not_accepts (h : ¬ s.planAccepts p [.loaded, .armed, .stopped, .faulted] = true) :
    exec (.planUnload p) s = .next (s.planRefuse p) := by
  simp [exec, execPlanUnload, hf, h]

theorem exec_sfClear :
    exec (.sfClear p) s = .next (s.updPlan p fun x => { x with sf := { x.sf with valid := false, more := false } }) := by
  simp [exec, execSfClear, hf]

theorem exec_rebind_of_not_accepts {host : HostData} (h : ¬ s.planAccepts p [.running] = true) :
    exec (.rebind p host) s = .next (s.planRefuse p) := by
  simp [exec, execRebind, hf, h]

end

/-- Settles O4: in an accepting state an action writes its own plan control block; in any other it only sets LOAD_ERROR. -/
theorem planActionsFollowTheState : Obligations.PlanActionsFollowTheState := by
  unfold Obligations.PlanActionsFollowTheState
  refine ⟨fun s p hf => ⟨fun hw => ⟨fun h => ?_, fun h hj hl ha => ?_, fun h hj hl ha => ?_, fun h => ?_, fun h hb => ?_⟩, ?_⟩,
    fun s p host hf => ?_⟩
  · exact ⟨_, exec_planLoad_of_accepts hf ((s.planAccepts_iff _ _).mpr ⟨by simp [h], hw⟩), onlyPart_loadErr_updPlan _ _ _ _ _,
      by simp⟩
  · exact ⟨_, exec_planArm_of_accepts hf ((s.planAccepts_iff _ _).mpr ⟨by simpa using h, hw⟩) hj hl ha,
      onlyPart_loadErr_updPlan _ _ _ _ _, by simp⟩
  · exact ⟨_, exec_planArm_of_late hf ((s.planAccepts_iff _ _).mpr ⟨by simpa using h, hw⟩) hj hl ha, onlyPart_loadErr _ _ _ _,
      by simp⟩
  · exact ⟨_, exec_planStop_of_accepts hf ((s.planAccepts_iff _ _).mpr ⟨by simp [h], hw⟩), onlyPart_updPlan _ _ _, by simp⟩
  · exact ⟨_, exec_planUnload_of_busy hf ((s.planAccepts_iff _ _).mpr ⟨by simpa using h, hw⟩) hb, onlyPart_updPlan _ _ _,
      by simp⟩
  · exact ⟨_, exec_sfClear hf, onlyPart_updPlan _ _ _, by simp⟩
  · have refused {c : Instr} (h : exec c s = .next (s.planRefuse p)) : ∃ t, exec c s = .next t ∧ OnlyPart p s t ∧
        t.part p = { s.part p with plan := { (s.part p).plan with errCode := 0x0C, errDetail := s.planCode p } } :=
      ⟨_, h, onlyPart_planRefuse s p, s.part_planRefuse_self p⟩
    refine ⟨fun h => refused (exec_planLoad_of_not_accepts hf ?_), fun h => refused (exec_planArm_of_not_accepts hf ?_),
      fun h => ?_, fun h => refused (exec_planUnload_of_not_accepts hf ?_)⟩
    · rw [planAccepts_iff]
      rintro ⟨hs, hw⟩
      simp_all
    · rw [planAccepts_iff]
      rintro ⟨⟨hs, hw⟩, hj, hl⟩
      simp_all
    · have hn : ¬ s.planAccepts p [.running] = true := by
        rw [planAccepts_iff]
        rintro ⟨hs, hw⟩
        simp_all
      exact ⟨refused (exec_planStop_of_not_accepts hf hn), refused (exec_rebind_of_not_accepts hf hn)⟩
    · rw [planAccepts_iff]
      rintro ⟨hs, hw⟩
      obtain h | h | h | h := h <;> simp_all

end Sys2Proof.Machine
end

section
/-! PROOFS. REBIND (O7), and the binding of hops (O8). -/

namespace Sys2Proof.Machine

open State

/-! ### REBIND -/

section
variable {s : State} {p : PartId} {host : HostData} (hf : s.fnPlan p = true) (h : s.planAccepts p [.running] = true)
include hf h

theorem exec_rebind_of_unreadable
    (hr : s.rdRange p (s.part p).plan.delayBase (s.part p).plan.delayLen host.tbl = none) :
    exec (.rebind p host) s = .next (s.loadErr p 0x0E 1) := by
  simp [exec, execRebind, hf, h, hr]

variable {b : List Byte} (hr : s.rdRange p (s.part p).plan.delayBase (s.part p).plan.delayLen host.tbl = some b)
include hr

theorem exec_rebind_of_error {code detail : Nat}
    (hb : s.bindTable p ((s.part p).plan.loaded.getD {}).hops b = .error (code, detail)) :
    exec (.rebind p host) s = .next (s.loadErr p code detail) := by
  simp [exec, execRebind, hf, h, hr, hb]

theorem exec_rebind_of_ok {sp : List Nat} (hb : s.bindTable p ((s.part p).plan.loaded.getD {}).hops b = .ok sp) :
    exec (.rebind p host) s = .next ((s.loadErr p 0 0).updPlan p fun x => { x with rebind := some sp }) := by
  simp [exec, execRebind, hf, h, hr, hb]

end

/-- Settles O7: one equation of REBIND for each answer of the range and of the table. -/
theorem rebindWaitsForTheBoundary : Obligations.RebindWaitsForTheBoundary := by
  unfold Obligations.RebindWaitsForTheBoundary
  intro s p host hf pl hw hs
  have h : s.planAccepts p [.running] = true := (s.planAccepts_iff _ _).mpr ⟨by simp [pl, hs] at *, hw⟩
  refine ⟨fun hr => ⟨_, exec_rebind_of_unreadable hf h hr, onlyPart_loadErr _ _ _ _, by simp [pl]⟩, fun b hr =>
    ⟨fun code detail hb => ⟨_, exec_rebind_of_error hf h hr hb, onlyPart_loadErr _ _ _ _, by simp [pl]⟩, fun sp hb =>
      ⟨_, exec_rebind_of_ok hf h hr hb, onlyPart_loadErr_updPlan _ _ _ _ _, by simp [pl]⟩⟩⟩

/-! ### The binding of hops -/

/-- The delay table's entry for a hop's cord holds delay `d`. -/
def Measured (tab : List (Nat × Nat × Nat)) (h : Hop) (d : Nat) : Prop :=
  tab.find? (fun e => e.1 = h.module ∧ e.2.1 = h.cord) = some (h.module, h.cord, d)

/-- A measured hop stays within its slack ceiling. -/
def Binds (tab : List (Nat × Nat × Nat)) (h : Hop) : Prop :=
  ∃ d, Measured tab h d ∧ d + h.slack + h.fixed ≤ h.interval

section
variable {tab : List (Nat × Nat × Nat)} {h : Hop} {d : Nat}

theorem measured_of_find? {e : Nat × Nat × Nat} (he : tab.find? (fun e => e.1 = h.module ∧ e.2.1 = h.cord) = some e) :
    Measured tab h e.2.2 := by
  obtain ⟨h1, h2⟩ : e.1 = h.module ∧ e.2.1 = h.cord := by simpa using List.find?_some he
  rw [Measured, he, ← h1, ← h2]

theorem Measured.unique {c : Nat} (hd : Measured tab h d) (hc : Measured tab h c) : c = d := by
  simpa using hc.symm.trans hd

theorem bindHop_of_unmeasured (hn : ∀ e ∈ tab, ¬ (e.1 = h.module ∧ e.2.1 = h.cord)) : bindHop tab h = .error 0x09 := by
  have : tab.find? (fun e => e.1 = h.module ∧ e.2.1 = h.cord) = none := by simpa using hn
  simp only [bindHop, this]

theorem bindHop_of_measured_above (hd : Measured tab h d) (hc : h.interval < d + h.slack + h.fixed) :
    bindHop tab h = .error 0x0A := by
  unfold Measured at hd
  simp only [bindHop, hd, if_neg (Nat.not_le.mpr hc)]

theorem bindHop_of_measured_within (hd : Measured tab h d) (hc : d + h.slack + h.fixed ≤ h.interval) :
    bindHop tab h = .ok (h.interval - h.slack - h.fixed - d) := by
  unfold Measured at hd
  simp only [bindHop, hd, if_pos hc]

/-- A hop has no delay, exceeds its ceiling, or binds. -/
theorem bindHop_cases (tab : List (Nat × Nat × Nat)) (h : Hop) :
    (bindHop tab h = .error 0x09 ∧ ¬ Binds tab h) ∨ (bindHop tab h = .error 0x0A ∧ ¬ Binds tab h) ∨
    ((∃ v, bindHop tab h = .ok v) ∧ Binds tab h) := by
  cases he : tab.find? (fun e => e.1 = h.module ∧ e.2.1 = h.cord) with
  | none => exact .inl ⟨by simp only [bindHop, he], by rintro ⟨d, hd, -⟩; rw [Measured, he] at hd; cases hd⟩
  | some e =>
    have hm := measured_of_find? he
    by_cases hc : e.2.2 + h.slack + h.fixed ≤ h.interval
    · exact .inr (.inr ⟨⟨_, bindHop_of_measured_within hm hc⟩, _, hm, hc⟩)
    · refine .inr (.inl ⟨bindHop_of_measured_above hm (Nat.not_le.mp hc), ?_⟩)
      rintro ⟨d, hd, hdc⟩
      exact hc (hm.unique hd ▸ hdc)

theorem bindHop_ok_iff (tab : List (Nat × Nat × Nat)) (h : Hop) : (∃ v, bindHop tab h = .ok v) ↔ Binds tab h := by
  obtain ⟨he, hn⟩ | ⟨he, hn⟩ | ⟨he, hb⟩ := bindHop_cases tab h
  · simp [he, hn]
  · simp [he, hn]
  · exact ⟨fun _ => hb, fun _ => he⟩

end

/-- The spare of a hop that binds. -/
def spareOf (tab : List (Nat × Nat × Nat)) (h : Hop) : Nat :=
  match bindHop tab h with
  | .ok v => v
  | .error _ => 0

theorem spareOf_of_measured {tab : List (Nat × Nat × Nat)} {h : Hop} {d : Nat} (hd : Measured tab h d)
    (hc : d + h.slack + h.fixed ≤ h.interval) : spareOf tab h + d + h.slack + h.fixed = h.interval := by
  simp only [spareOf, bindHop_of_measured_within hd hc]
  omega

theorem exists_mem_zipIdx {hops : List Hop} {h : Hop} (hh : h ∈ hops) : ∃ i, (h, i) ∈ hops.zipIdx := by
  obtain ⟨i, hi, rfl⟩ := List.getElem_of_mem hh
  exact ⟨i, List.mk_mem_zipIdx_iff_getElem?.mpr (List.getElem?_eq_getElem hi)⟩

theorem bindAll_of_binds {tab : List (Nat × Nat × Nat)} {hops : List Hop} (hb : ∀ h ∈ hops, Binds tab h) :
    bindAll tab hops = .ok (hops.map (spareOf tab)) := by
  have hn : ∀ x ∈ hops.zipIdx, ∃ v, bindHop tab x.1 = .ok v := fun x hx =>
    (bindHop_ok_iff tab x.1).mpr (hb _ (List.mem_of_getElem? (List.mem_zipIdx_iff_getElem?.mp hx)))
  dsimp only [bindAll]
  rw [List.find?_eq_none.mpr, List.find?_eq_none.mpr]
  · rfl
  all_goals
    intro x hx
    obtain ⟨v, hv⟩ := hn x hx
    simp [hv]

theorem binds_of_bindAll {tab : List (Nat × Nat × Nat)} {hops : List Hop} {l : List Nat} (he : bindAll tab hops = .ok l) :
    ∀ h ∈ hops, Binds tab h := by
  intro h hh
  obtain ⟨i, hi⟩ := exists_mem_zipIdx hh
  dsimp only [bindAll] at he
  split at he
  · cases he
  · next h9 =>
    split at he
    · cases he
    · next hA =>
      obtain ⟨hb, -⟩ | ⟨hb, -⟩ | ⟨-, hb⟩ := bindHop_cases tab h
      · exact absurd (by simp [hb]) (List.find?_eq_none.mp h9 _ hi)
      · exact absurd (by simp [hb]) (List.find?_eq_none.mp hA _ hi)
      · exact hb

/-- Settles O8: a hop binds exactly when it is `Binds`, and a table binds exactly when each of its hops does. -/
theorem hopsBindWithinTheirSlackCeilings : Obligations.HopsBindWithinTheirSlackCeilings := by
  unfold Obligations.HopsBindWithinTheirSlackCeilings
  intro tab
  refine ⟨fun h => ⟨bindHop_of_unmeasured, fun d hd => ⟨bindHop_of_measured_above hd, fun hc =>
    ⟨_, bindHop_of_measured_within hd hc, by omega⟩⟩⟩, fun hops => ⟨⟨?_, ?_⟩, ?_⟩⟩
  · rintro ⟨l, hl⟩
    exact binds_of_bindAll hl
  · exact fun hb => ⟨_, bindAll_of_binds hb⟩
  · intro l hl
    have hb := binds_of_bindAll hl
    obtain rfl : l = hops.map (spareOf tab) := by simpa [bindAll_of_binds hb] using hl.symm
    refine ⟨by simp, fun k i j d hd => ?_⟩
    obtain ⟨c, hc, hw⟩ := hb _ (List.getElem_mem i)
    rw [List.getElem_map]
    exact spareOf_of_measured hd (Measured.unique hd hc ▸ hw)

end Sys2Proof.Machine
end

section
/-! PROOFS. What a package leaves in its partition (O6), and the frame builder's return of a shadow to OPEN. -/

namespace Sys2Proof.Machine

open State

/-! ### A shadow returned to OPEN -/

/-- A shadow returned to OPEN changes its partition and the core that sealed it. -/
theorem State.abandonSeal_eq (s : State) (p : Nat) :
    s.abandonSeal p = { s with parts := (s.updFrame p fun f => { f with shadow := .open_ }).parts,
                               cores := (s.abandonSeal p).cores } := by
  unfold State.abandonSeal
  dsimp only
  split <;> rfl

theorem State.part_abandonSeal (s : State) (p q : Nat) :
    (s.abandonSeal p).part q = (s.updFrame p fun f => { f with shadow := .open_ }).part q := by
  rw [abandonSeal_eq]
  rfl

@[simp] theorem State.part_abandonSeal_self (s : State) (p : Nat) :
    (s.abandonSeal p).part p = { s.part p with frame := { (s.part p).frame with shadow := .open_ } } := by
  rw [part_abandonSeal, updFrame, part_updPart_self]

theorem State.part_abandonSeal_ne (s : State) {p q : Nat} (h : q ≠ p) : (s.abandonSeal p).part q = s.part q := by
  rw [part_abandonSeal, updFrame, part_updPart_ne _ _ h]

@[simp] theorem State.abandonSeal_hall (s : State) (p : Nat) : (s.abandonSeal p).hall = s.hall := by rw [abandonSeal_eq]
@[simp] theorem State.abandonSeal_groups (s : State) (p : Nat) : (s.abandonSeal p).groups = s.groups := by rw [abandonSeal_eq]
@[simp] theorem State.abandonSeal_mem (s : State) (p : Nat) : (s.abandonSeal p).mem = s.mem := by rw [abandonSeal_eq]
@[simp] theorem State.abandonSeal_turf (s : State) (p : Nat) : (s.abandonSeal p).turf = s.turf := by rw [abandonSeal_eq]
@[simp] theorem State.tile_abandonSeal (s : State) (p k : Nat) : (s.abandonSeal p).tile k = s.tile k := by
  rw [abandonSeal_eq]
  rfl

/-! ### What a plan has in flight -/

section
variable (s : State) (p : Nat)

@[simp] theorem State.dropFlight_hall : (s.dropFlight p).hall = s.hall := rfl
@[simp] theorem State.dropFlight_groups : (s.dropFlight p).groups = s.groups := rfl
@[simp] theorem State.dropFlight_mem : (s.dropFlight p).mem = s.mem := rfl
@[simp] theorem State.dropFlight_turf : (s.dropFlight p).turf = s.turf := rfl
@[simp] theorem State.part_dropFlight (q : Nat) : (s.dropFlight p).part q = s.part q := rfl
@[simp] theorem State.tile_dropFlight (k : Nat) : (s.dropFlight p).tile k = s.tile k := rfl

end

/-! ### The tiles of a partition -/

@[simp] theorem State.tilesOf_updPart (s : State) (p q : Nat) (f : Part → Part) : (s.updPart p f).tilesOf q = s.tilesOf q := rfl
@[simp] theorem State.tilesOf_updPlan (s : State) (p q : Nat) (f : Plan → Plan) : (s.updPlan p f).tilesOf q = s.tilesOf q := rfl

/-- An initialiser over a partition changes nothing but tiles. -/
theorem State.initTiles_eq (s : State) (p : Nat) (img : PlanImage) (f : TileImage → Tile → Tile) :
    s.initTiles p img f = { s with tiles := (s.initTiles p img f).tiles } := by
  unfold State.initTiles
  generalize s.tilesOf p = l
  induction l generalizing s with
  | nil => rfl
  | cons k l ih => exact ih (s.updTile k (f (tileImage img k)))

section
variable (s : State) (p : Nat) (img : PlanImage) (f : TileImage → Tile → Tile)

@[simp] theorem State.initTiles_hall : (s.initTiles p img f).hall = s.hall := by rw [initTiles_eq]
@[simp] theorem State.initTiles_groups : (s.initTiles p img f).groups = s.groups := by rw [initTiles_eq]
@[simp] theorem State.initTiles_mem : (s.initTiles p img f).mem = s.mem := by rw [initTiles_eq]
@[simp] theorem State.initTiles_turf : (s.initTiles p img f).turf = s.turf := by rw [initTiles_eq]
@[simp] theorem State.part_initTiles (q : Nat) : (s.initTiles p img f).part q = s.part q := by
  rw [initTiles_eq]
  rfl

end

/-- Each tile of the partition takes its image once, every other tile is left. -/
theorem State.tile_initTiles (s : State) (p : Nat) (img : PlanImage) (f : TileImage → Tile → Tile) (k : Nat) :
    (s.initTiles p img f).tile k = if k ∈ s.tilesOf p then f (tileImage img k) (s.tile k) else s.tile k := by
  unfold State.initTiles
  have hn := s.nodup_tilesOf p
  generalize s.tilesOf p = l at hn
  induction l generalizing s with
  | nil => rfl
  | cons j l ih =>
    obtain ⟨hj, hl⟩ := List.nodup_cons.mp hn
    rw [List.foldl_cons, ih _ hl, tile_updTile]
    by_cases e : k = j
    · subst e
      simp [hj]
    · simp [e]

section
variable {s : State} {p k : Nat}

theorem State.tile_initTiles_of_mine {img : PlanImage} {f : TileImage → Tile → Tile} (h : s.tilePart k = some p) (hk : k < 192) :
    (s.initTiles p img f).tile k = f (tileImage img k) (s.tile k) := by
  rw [tile_initTiles, if_pos ((s.mem_tilesOf p k).mpr ⟨hk, h⟩)]

theorem State.tile_initTiles_of_not_mine {img : PlanImage} {f : TileImage → Tile → Tile} (h : s.tilePart k ≠ some p) :
    (s.initTiles p img f).tile k = s.tile k := by
  rw [tile_initTiles, if_neg fun hm => h ((s.mem_tilesOf p k).mp hm).2]

theorem State.tile_onTiles_of_mine {f : Tile → Tile} (h : s.tilePart k = some p) (hk : k < 192) :
    (s.onTiles (s.tilesOf p) f).tile k = f (s.tile k) := by
  rw [tile_onTiles _ _ _ (s.nodup_tilesOf p), if_pos ((s.mem_tilesOf p k).mpr ⟨hk, h⟩)]

theorem State.tile_onTiles_of_not_mine {f : Tile → Tile} (h : s.tilePart k ≠ some p) :
    (s.onTiles (s.tilesOf p) f).tile k = s.tile k := by
  rw [tile_onTiles _ _ _ (s.nodup_tilesOf p), if_neg fun hm => h ((s.mem_tilesOf p k).mp hm).2]

end

/-! ### The padding registers -/

/-- The padding registers of the ten units of one tile. -/
def tilePads (pcl t : Nat) (m : Tab Nat) : Tab Nat :=
  (List.range 10).foldl (fun m u => tabSet 0 m (16 * t + u) (Config.padding pcl u)) m

/-- A fold of writes at distinct keys `f u` holds at a key what the writes put there. -/
theorem tabGet_foldl_tabSet (f g : Nat → Nat) (hf : ∀ u v, f u = f v → u = v) (l : List Nat) (m : Tab Nat) (u : Nat) :
    tabGet 0 (l.foldl (fun m u => tabSet 0 m (f u) (g u)) m) (f u) = if u ∈ l then g u else tabGet 0 m (f u) := by
  induction l generalizing m with
  | nil => simp
  | cons v l ih =>
    rw [List.foldl_cons, ih, tabGet_tabSet]
    by_cases e : u = v
    · subst e
      simp
    · simp [e, mt (hf u v) e]

theorem tabGet_foldl_tabSet_of_ne (f g : Nat → Nat) (l : List Nat) (m : Tab Nat) (k : Nat) (h : ∀ u ∈ l, k ≠ f u) :
    tabGet 0 (l.foldl (fun m u => tabSet 0 m (f u) (g u)) m) k = tabGet 0 m k := by
  induction l generalizing m with
  | nil => rfl
  | cons v l ih =>
    rw [List.foldl_cons, ih _ fun u hu => h u (List.mem_cons_of_mem _ hu), tabGet_tabSet_ne _ _ _ (h v List.mem_cons_self)]

theorem tabGet_tilePads (pcl t k u : Nat) (hu : u < 10) (m : Tab Nat) :
    tabGet 0 (tilePads pcl t m) (16 * k + u) = if k = t then Config.padding pcl u else tabGet 0 m (16 * k + u) := by
  unfold tilePads
  by_cases h : k = t
  · subst h
    rw [tabGet_foldl_tabSet (16 * k + ·) _ fun _ _ => Nat.add_left_cancel]
    simp [hu]
  · rw [if_neg h, tabGet_foldl_tabSet_of_ne]
    intro v hv
    have := List.mem_range.mp hv
    omega

/-- A unit of a tile of the partition has the padding of the contract level (R62). -/
theorem tabGet_padsFor {s : State} {p k u : Nat} (pcl : Nat) (hk : k ∈ s.tilesOf p) (hu : u < 10) :
    tabGet 0 (s.padsFor p pcl) (16 * k + u) = Config.padding pcl u := by
  have key (l : List Nat) (m : Tab Nat) : tabGet 0 (l.foldl (fun m t => tilePads pcl t m) m) (16 * k + u) =
      if k ∈ l then Config.padding pcl u else tabGet 0 m (16 * k + u) := by
    induction l generalizing m with
    | nil => simp
    | cons t l ih =>
      rw [List.foldl_cons, ih, tabGet_tilePads _ _ _ _ hu]
      by_cases h : k = t <;> simp [h]
  exact (key _ _).trans (if_pos hk)

/-! ### LOAD_DONE -/

/-- LOAD_DONE refuses a package: the plan is EMPTY with LOAD_ERROR set (R71). -/
def State.loadRefused (s : State) (p code detail : Nat) : State :=
  (s.loadErr p code detail).updPlan p fun x => { x with st := .empty }

/-- LOAD_DONE binds a package (R71). -/
def State.loadBound (s : State) (p : Nat) (img : PlanImage) (l : Loaded) (spares : List Nat) : State :=
  let t := s.updPlan p fun x =>
    { x with st := .loaded, loaded := some l, near := [], turf := [], failOpen := false, rebind := none
             circuits := [], passes := [], arrived := [], contract := l.pcl, pads := s.padsFor p l.pcl }
  (((t.initTiles p img loadTile).dropFlight p).setBinding p spares).loadFrames p l

section
variable {s : State} {p : PartId} {img : PlanImage} {host : HostData} (h : (s.part p).plan.st = .loading)
include h

theorem exec_loadDone_of_unreadable (hr : s.rdRange p (s.part p).plan.base (s.part p).plan.len host.pkg = none) :
    exec (.loadDone p img host) s = .next (s.loadRefused p 0x0E 0) := by
  simp [exec, execLoadDone, h, hr, loadRefused]

variable {b : List Byte} (hb : s.rdRange p (s.part p).plan.base (s.part p).plan.len host.pkg = some b)
include hb

theorem exec_loadDone_of_no_table
    (hr : s.rdRange p (s.part p).plan.delayBase (s.part p).plan.delayLen host.tbl = none) :
    exec (.loadDone p img host) s = .next (s.loadRefused p 0x0E 1) := by
  simp [exec, execLoadDone, h, hb, hr, loadRefused]

variable {d : List Byte} (hd : s.rdRange p (s.part p).plan.delayBase (s.part p).plan.delayLen host.tbl = some d)
include hd

theorem exec_loadDone_of_fail {code detail : Nat} (hc : s.checkPackage p b img d = .fail code detail) :
    exec (.loadDone p img host) s = .next (s.loadRefused p code detail) := by
  simp [exec, execLoadDone, h, hb, hd, hc, loadRefused]

theorem exec_loadDone_of_ok {l : Loaded} {spares : List Nat} (hc : s.checkPackage p b img d = .ok l spares) :
    exec (.loadDone p img host) s = .next (s.loadBound p img l spares) := by
  simp [exec, execLoadDone, h, hb, hd, hc, loadBound]

end

section
variable (s : State) (p : Nat) (img : PlanImage) (l : Loaded) (spares : List Nat)

theorem State.loadBound_outside : (s.loadBound p img l spares).mem = s.mem ∧ (s.loadBound p img l spares).turf = s.turf ∧
    (s.loadBound p img l spares).hall = s.hall := by
  simp [loadBound, loadFrames, setBinding, updFrame]

theorem State.tile_loadBound (k : Nat) : (s.loadBound p img l spares).tile k = (s.initTiles p img loadTile).tile k := by
  simp only [loadBound, loadFrames, setBinding, updFrame, updPlan, tile_updPart, tile_abandonSeal, tile_dropFlight]
  rw [tile_initTiles, tile_initTiles]
  rfl

theorem State.part_loadBound_ne {q : Nat} (h : q ≠ p) : (s.loadBound p img l spares).part q = s.part q := by
  simp [loadBound, loadFrames, setBinding, updFrame, part_updPart_ne _ _ h, part_updPlan_ne _ _ h, part_abandonSeal_ne _ h]

theorem State.part_loadBound_self : ∃ m h, (s.loadBound p img l spares).part p = { s.part p with
    plan := { (s.part p).plan with
      st := .loaded, loaded := some l, near := [], turf := [], failOpen := false, rebind := none
      circuits := [], passes := [], arrived := [], contract := l.pcl, pads := s.padsFor p l.pcl
      spares := spares, spareMin := m, spareHop := h }
    frame := { (s.part p).frame with
      shadow := .open_, area := l.fbArea, mirror := l.fbMirror, out := l.fbOut, slotCeil := l.slotCeil
      target := 0, shadowBuf := 0, active := none, latched := [], launched := false } } := by
  simp [loadBound, loadFrames, setBinding, updFrame]

end

theorem State.loadRefused_refuses (s : State) (p code detail : Nat) : OnlyPart p s (s.loadRefused p code detail) ∧
    (s.loadRefused p code detail).part p =
      { s.part p with plan := { (s.part p).plan with st := .empty, errCode := code, errDetail := detail % 2 ^ 24 } } :=
  ⟨onlyPart_loadErr_updPlan _ _ _ _ _, by simp [loadRefused]⟩

/-- Settles O6: one equation of LOAD_DONE for each answer of the ranges and of the checks, and what a bound package leaves. -/
theorem loadDoneBindsOrRefuses : Obligations.LoadDoneBindsOrRefuses := by
  unfold Obligations.LoadDoneBindsOrRefuses
  intro s p img host pl refused h
  refine ⟨fun hb => ⟨_, exec_loadDone_of_unreadable h hb, s.loadRefused_refuses p _ _⟩, fun b hb =>
    ⟨fun hd => ⟨_, exec_loadDone_of_no_table h hb hd, s.loadRefused_refuses p _ _⟩, fun d hd =>
      ⟨fun code detail hc => ⟨_, exec_loadDone_of_fail h hb hd hc, s.loadRefused_refuses p _ _⟩, fun l spares hc =>
        ⟨_, exec_loadDone_of_ok h hb hd hc, ?_⟩⟩⟩⟩
  obtain ⟨m, o, hp⟩ := s.part_loadBound_self p img l spares
  obtain ⟨hmem, hturf, hhall⟩ := s.loadBound_outside p img l spares
  refine ⟨by simp [hp], by simp [hp], by simp [hp], by simp [hp, pl], by simp [hp, pl], by simp [hp, pl], by simp [hp], by simp [hp],
    by simp [hp], by simp [hp], fun k u hk h192 hu => ?_, fun k hk h192 => ?_, fun k hk => ?_, fun q hq => ?_, hmem, hturf, hhall⟩
  · rw [hp]
    exact tabGet_padsFor _ ((s.mem_tilesOf p k).mpr ⟨h192, hk⟩) hu
  · rw [tile_loadBound, tile_initTiles_of_mine hk h192]
  · rw [tile_loadBound, tile_initTiles_of_not_mine hk]
  · exact s.part_loadBound_ne p img l spares hq

end Sys2Proof.Machine
end

section
/-! PROOFS. What the units beside a plan leave of it. `Aside s t`: `t` differs from `s` in none of hall count, groups and tiles,
and each partition keeps its plan, its clock and which frame buffers it uses. The lemma about a function of the model takes
what it is applied to from `Aside s t` to `Aside s` of its value, and its proof follows the function's body. -/

namespace Sys2Proof.Machine

/-- Two records of a partition agree in plan, clock and fence and in the frame's buffers; an OPEN shadow stays OPEN, and a
fault log that holds an entry still holds one. -/
structure Beside (P Q : Part) : Prop where
  plan : Q.plan = P.plan
  clock : Q.clock = P.clock
  fenced : Q.dom.fenced = P.dom.fenced
  active : Q.frame.active = P.frame.active
  target : Q.frame.target = P.frame.target
  shadowBuf : Q.frame.shadowBuf = P.frame.shadowBuf
  shadow : P.frame.shadow = .open_ → Q.frame.shadow = .open_
  flLog : P.flLog ≠ [] → Q.flLog ≠ []

theorem Beside.refl (P : Part) : Beside P P := ⟨rfl, rfl, rfl, rfl, rfl, rfl, id, id⟩

theorem Beside.trans {P Q R : Part} (h : Beside P Q) (k : Beside Q R) : Beside P R :=
  ⟨k.plan.trans h.plan, k.clock.trans h.clock, k.fenced.trans h.fenced, k.active.trans h.active, k.target.trans h.target,
    k.shadowBuf.trans h.shadowBuf, k.shadow ∘ h.shadow, k.flLog ∘ h.flLog⟩

/-- The units beside a plan have acted, and left the plan as it was. -/
structure Aside (s t : State) : Prop where
  hall : t.hall = s.hall
  groups : t.groups = s.groups
  tiles : t.tiles = s.tiles
  part : ∀ q, Beside (s.part q) (t.part q)

section
variable {s t : State}

theorem Aside.refl (s : State) : Aside s s := ⟨rfl, rfl, rfl, fun _ => .refl _⟩

theorem Aside.trans {u : State} (h : Aside s t) (k : Aside t u) : Aside s u :=
  ⟨k.hall.trans h.hall, k.groups.trans h.groups, k.tiles.trans h.tiles, fun q => (h.part q).trans (k.part q)⟩

/-- A write of any fields but hall count, partitions, groups and tiles. -/
theorem Aside.set
    {pending moduleId cores cords lanes laneLeases budgets mem turf badWords beats egBeats mail outbox
     cinder log logSeq coalesce reported merge rootTab rootDrop reportQ ports fn0 stoke images flash ident layout
     standing stood unsaved kindle update holdup power sensors test tap retortOff fuses spare time timeRec joinHeld
     subCount turfKey latches serial}
    (h : Aside s t) : Aside s { t with
      pending := pending, moduleId := moduleId, cores := cores, cords := cords, lanes := lanes, laneLeases := laneLeases,
      budgets := budgets, mem := mem, turf := turf, badWords := badWords, beats := beats, egBeats := egBeats, mail := mail,
      outbox := outbox, cinder := cinder, log := log, logSeq := logSeq, coalesce := coalesce, reported := reported,
      merge := merge, rootTab := rootTab, rootDrop := rootDrop, reportQ := reportQ, ports := ports, fn0 := fn0,
      stoke := stoke, images := images, flash := flash, ident := ident, layout := layout, standing := standing,
      stood := stood, unsaved := unsaved, kindle := kindle, update := update, holdup := holdup, power := power,
      sensors := sensors, test := test, tap := tap, retortOff := retortOff, fuses := fuses, spare := spare, time := time,
      timeRec := timeRec, joinHeld := joinHeld, subCount := subCount, turfKey := turfKey, latches := latches,
      serial := serial } :=
  ⟨h.hall, h.groups, h.tiles, h.part⟩

/-- A write of a partition's record beside its plan. -/
theorem Aside.updPart {p f} (h : Aside s t)
    (hf : ∀ P, Beside P (f P) := by exact fun _ => ⟨rfl, rfl, rfl, rfl, rfl, rfl, id, id⟩) : Aside s (t.updPart p f) := by
  refine ⟨h.hall, h.groups, h.tiles, fun q => (h.part q).trans ?_⟩
  rw [State.part_updPart]
  split
  · next e => exact e ▸ hf _
  · exact .refl _

/-- A function of the state applied to what the model names with `let`. -/
theorem Aside.via {u v : State} (k : Aside s u → Aside s v) (h : Aside s u) : Aside s v := k h

theorem Aside.foldl {α : Type} {f : State → α → State} {l : List α} (h : Aside s t)
    (hf : ∀ {u x}, Aside s u → Aside s (f u x)) : Aside s (l.foldl f t) := by
  induction l generalizing t with
  | nil => exact h
  | cons x l ih => exact ih (hf h)

section
variable {c : Prop} {_ : Decidable c} {β : Type}

theorem Aside.ite {a b : State} (ha : Aside s a) (hb : Aside s b) : Aside s (if c then a else b) := by
  split
  · exact ha
  · exact hb

theorem Aside.ite_fst {a b : State × β} (ha : Aside s a.1) (hb : Aside s b.1) : Aside s (if c then a else b).1 := by
  split
  · exact ha
  · exact hb

end

/-! ### Memory writes, interrupts, the log and fault reports -/

theorem Aside.wrMem {a b} (h : Aside s t) : Aside s (t.wrMem a b) := .ite h.set h.set

theorem Aside.wrMems {a bytes} (h : Aside s t) : Aside s (t.wrMems a bytes) := by
  induction bytes generalizing t a with
  | nil => exact h
  | cons b r ih => exact ih h.wrMem

theorem Aside.wrLe {a n v} (h : Aside s t) : Aside s (t.wrLe a n v) := h.wrMems

theorem Aside.putBlock {p a bytes rec} (h : Aside s t) : Aside s (t.putBlock p a bytes rec) := by
  unfold State.putBlock
  split
  · exact h.wrMems
  · exact h.wrMems
  · exact h.wrMems
  · exact .ite h (.ite h.set h.set)
  · exact h

theorem Aside.putMem {p a bytes rec} (h : Aside s t) : Aside s (t.putMem p a bytes rec) := h.foldl (·.putBlock)

theorem Aside.pWrLe {p a n v} (h : Aside s t) : Aside s (t.pWrLe p a n v) := h.putMem

theorem Aside.sendMsix {p v} (h : Aside s t) : Aside s (t.sendMsix p v) := .ite h.updPart h.set

theorem Aside.raiseEv {p b} (h : Aside s t) : Aside s (t.raiseEv p b) := .ite h (.ite h.updPart.sendMsix h.updPart)

theorem Aside.refreshFn {p} (h : Aside s t) : Aside s (t.refreshFn p) := .ite h h.updPart.raiseEv

theorem Aside.raiseCore {c b} (h : Aside s t) : Aside s (t.raiseCore c b) := h.set

theorem Aside.raiseCores {p b} (h : Aside s t) : Aside s (t.raiseCores p b) := h.foldl (·.raiseCore)

theorem ringKeep_append_ne_nil {α : Type} {n : Nat} (hn : 0 < n) (l : List α) (a : α) : ringKeep n (l ++ [a]) ≠ [] := by
  rw [ringKeep, ← List.length_pos_iff, List.length_drop, List.length_append, List.length_singleton]
  omega

/-- A partition's fault log ring and its HEAD. -/
def Part.setRing (P : Part) (l : List LogEntry) (n : Nat) : Part := { P with flLog := l, flHead := n }

theorem beside_setRing (P : Part) (l : List LogEntry) (n : Nat) (hl : l ≠ []) : Beside P (P.setRing l n) :=
  ⟨rfl, rfl, rfl, rfl, rfl, rfl, id, fun _ => hl⟩

theorem State.ringPut_eq (s : State) (e : LogEntry) (p : Nat) : s.ringPut e p =
    (s.updPart p fun P => P.setRing (ringKeep 1024 (P.flLog ++ [e])) ((P.flHead + 1) % 2 ^ 32)).raiseEv p evFault := rfl

theorem Aside.ringPut {e p} (h : Aside s t) : Aside s (t.ringPut e p) := by
  rw [State.ringPut_eq]
  exact .raiseEv <| h.updPart fun _ => beside_setRing _ _ _ (ringKeep_append_ne_nil (by omega) _ _)

theorem Aside.logPut {e affects} (h : Aside s t) : Aside s (t.logPut e affects) := h.set.foldl (·.ringPut)

theorem Aside.joinWindow {e} (h : Aside s t) : Aside s (t.joinWindow e) := .set <| h.foldl (·.logPut)

theorem Aside.logEv {e affects} (h : Aside s t) : Aside s (t.logEv e affects) := .ite h.set.joinWindow h.set.logPut

theorem Aside.logTile {t' e} (h : Aside s t) : Aside s (t.logTile t' e) := h.logEv

theorem Aside.unmapped {kind index p a} (h : Aside s t) : Aside s (t.unmapped kind index p a) := h.logEv

theorem Aside.reportUp {p r} (h : Aside s t) : Aside s (t.reportUp p r) := .ite h.set.updPart h.updPart

theorem Aside.raiseMembers {dom b} (h : Aside s t) : Aside s (t.raiseMembers dom b) := h.foldl (·.raiseEv)

theorem Aside.rootAdd {r} (h : Aside s t) : Aside s (t.rootAdd r) :=
  .ite h.set.raiseMembers (.ite h.set.raiseMembers h.set)

theorem Aside.onReport {p r} (h : Aside s t) : Aside s (t.onReport p r) :=
  .ite h.rootAdd (.ite h.set.updPart (.ite h.set.reportUp (.updPart h.reportUp)))

theorem Aside.reportLocal {p cls omodule okind oindex detail} (h : Aside s t) :
    Aside s (t.reportLocal p cls omodule okind oindex detail) :=
  .ite (.ite h (.onReport <| .ite h.set h)) h

/-! ### Pages and frames -/

theorem Aside.setPage {p h' x} (h : Aside s t) : Aside s (t.setPage p h' x) := .ite h.updPart.raiseCores h.updPart

theorem Aside.refDec {p h' atOnce} (h : Aside s t) : Aside s (t.refDec p h' atOnce) :=
  .ite (.ite h.setPage h.setPage) h

theorem Aside.setSteState {p i v} (h : Aside s t) : Aside s (t.setSteState p i v) := by
  unfold State.setSteState
  exact h.pWrLe

theorem Aside.wrPte {p a loc ro handle target} (h : Aside s t) : Aside s (t.wrPte p a loc ro handle target) := h.putMem

theorem Aside.unmappedAll {kind index p l} (h : Aside s t) : Aside s (t.unmappedAll kind index p l) := h.foldl (·.unmapped)

theorem Aside.chargeFrame {p base} (h : Aside s t) : Aside s (t.chargeFrame p base) := h.foldl fun h => .ite h h.set

theorem Aside.freeReleasing {p} (h : Aside s t) : Aside s (t.freeReleasing p) := h.updPart

theorem Aside.countSte {p} (h : Aside s t) : Aside s (t.countSte p) := h.updPart

/-! ### Contexts and overlays at a boundary -/

theorem Aside.setGst {p a b v} (h : Aside s t) : Aside s (t.setGst p a b v) := h.pWrLe

theorem Aside.ovAdopt {p a b flipped} (h : Aside s t) : Aside s (t.ovAdopt p a b flipped) :=
  .ite (.pWrLe <| .setGst <| .ite h.setGst h) h

theorem Aside.ovWithdraw {p a b} (h : Aside s t) : Aside s (t.ovWithdraw p a b) := .ite (.pWrLe h.setGst) h

theorem Aside.ovDrain {p a b} (h : Aside s t) : Aside s (t.ovDrain p a b) := .ite h.setGst h

theorem Aside.ovBoundary {p h' flipped} (h : Aside s t) : Aside s (t.ovBoundary p h' flipped) := by
  unfold State.ovBoundary
  exact .via (fun k => .ite (.updPart <| .pWrLe k) k)
      (.ovDrain <| .ovDrain <| .ite (.ovWithdraw <| .ovWithdraw <| .ovAdopt h.ovAdopt) (.ovAdopt h.ovAdopt))

theorem Aside.weightBoundary {p n} (h : Aside s t) : Aside s (t.weightBoundary p n) :=
  .updPart <| .foldl (.ite h.updPart h) (·.ovBoundary)

theorem Aside.cancelFlip {p} (h : Aside s t) : Aside s (t.cancelFlip p) :=
  .ite (h.updPart.foldl fun h => .ite (.setGst <| .ite h.setGst h) (.ite h.setGst h)) h

/-! ### Banking -/

theorem Aside.freeTurf {p ks} (h : Aside s t) : Aside s (t.freeTurf p ks) := h.updPart

theorem Aside.bankPut {p r} (h : Aside s t) : Aside s (t.bankPut p r) := .updPart h.putMem

theorem Aside.bankRecord {p r} (h : Aside s t) : Aside s (t.bankRecord p r) := .ite h.bankPut (.updPart h.updPart)

theorem Aside.sealPage {p ste i e k} (h : Aside s t) : Aside s (t.sealPage p ste i e k) :=
  .setPage <| .wrPte <| .wrMems h.updPart.wrMems

theorem Aside.sealAll {p ste es ks m sk} (h : Aside s t) : Aside s (t.sealAll p ste es ks m sk).1 := by
  induction es generalizing t ks m sk with
  | nil => exact h
  | cons e r ih =>
    cases ks with
    | nil => exact h
    | cons k ks => exact .ite_fst (ih h.sealPage) (ih h)

theorem Aside.openPage {p e h' far} (h : Aside s t) : Aside s (t.openPage p e h' far).1 := by
  unfold State.openPage
  dsimp only
  split
  · exact .set <| .wrPte <| .setPage <| .ite h.updPart h.freeTurf
  · exact .ite_fst (.wrPte <| .wrMems <| .wrMems <| .ite h.updPart h.freeTurf)
      (.set <| .wrPte <| .setPage <| .ite h.updPart h.freeTurf)

theorem Aside.openAll {p nl es hs far m bad} (h : Aside s t) : Aside s (t.openAll p nl es hs far m bad).1 := by
  induction es generalizing t hs far m bad with
  | nil => exact h
  | cons e r ih =>
    cases hs with
    | nil => exact h
    | cons k hs => exact .ite_fst (ih h.openPage) (ih h.openPage)

theorem Aside.bankRelease {p ste} (h : Aside s t) : Aside s (t.bankRelease p ste) := by
  unfold State.bankRelease
  split
  · exact h
  · exact .bankRecord <| .set <| .ite_fst (.freeTurf h.set.updPart.sealAll) (.foldl h.set.updPart.openAll (·.setPage))

theorem Aside.bankBoundary {p l} (h : Aside s t) : Aside s (t.bankBoundary p l) := h.updPart

/-! ### Frames and releases at a step boundary -/

theorem Aside.abandonSeal {p} (h : Aside s t) : Aside s (t.abandonSeal p) :=
  have k : Aside s (t.updFrame p fun f => { f with shadow := .open_ }) :=
    h.updPart fun _ => ⟨rfl, rfl, rfl, rfl, rfl, rfl, fun _ => rfl, id⟩
  .ite k.raiseCore k

theorem Aside.emptyFrame {p b n} (h : Aside s t) : Aside s (t.emptyFrame p b n) := by
  unfold State.emptyFrame
  exact .via (fun k => .ite (.wrLe <| .wrLe k) (.wrMems <| .wrLe <| .wrLe k)) (.foldl (.wrLe h.wrLe) (·.wrLe))

/-- What follows the count of the unmapped blocks in a trim. -/
theorem Aside.trim_of_unmappedAll {p ste}
    (h : Aside s (t.unmappedAll kAssist p p (t.tableGaps p (t.stePdir p ste) (t.tableSize p ste)))) : Aside s (t.trim p ste) := by
  unfold State.trim
  exact .pWrLe <| .foldl h fun h => .ite (by split; exacts [h, .ite (.wrPte h.refDec) h]) h

theorem Aside.trim {p ste} (h : Aside s t) : Aside s (t.trim p ste) := .trim_of_unmappedAll h.unmappedAll

theorem Aside.startReleases {p} (h : Aside s t) : Aside s (t.startReleases p) :=
  h.updPart.foldl fun h => .ite h.trim (.updPart <| .setSteState h.bankRelease)

theorem Aside.stopFrames {p} (h : Aside s t) : Aside s (t.stopFrames p) := by
  unfold State.stopFrames
  exact .raiseCores <| .updPart <| .cancelFlip <| .abandonSeal h.freeReleasing.startReleases

/-! ### Records of Stoke -/

theorem Aside.stokeBus {k cause addr} (h : Aside s t) : Aside s (t.stokeBus k cause addr) := h.logEv

theorem Aside.putRec {k r} (h : Aside s t) : Aside s (t.putRec k r) := by
  unfold State.putRec
  split
  · exact h
  · exact .via (fun k => .ite (.raiseEv <| .set k) (.set k)) (.ite h.putMem h.stokeBus)

theorem Aside.record {k irq r} (h : Aside s t) : Aside s (t.record k irq r) := .ite h.putRec h.set

theorem Aside.finalRec {k status bytes} (h : Aside s t) : Aside s (t.finalRec k status bytes) := by
  unfold State.finalRec
  exact h.record

theorem Aside.endTransfer {k} (h : Aside s t) : Aside s (t.endTransfer k) :=
  .set (by split; exacts [.set h.set.record, h])

theorem Aside.stkDrained {k} (h : Aside s t) : Aside s (t.stkDrained k) := by
  refine .ite h ?_
  split
  · exact .endTransfer h.finalRec
  · refine .ite h ?_
    split
    · exact .stokeBus h.set.record
    · exact .ite h (.ite (.endTransfer h.finalRec) (.ite (.set h.finalRec) (.endTransfer <| .finalRec h.finalRec)))

theorem Aside.endWith {k status} (h : Aside s t) : Aside s (t.endWith k status) := h.set.stkDrained

theorem Aside.stkFenceChan {k} (h : Aside s t) : Aside s (t.stkFenceChan k) := by
  unfold State.stkFenceChan
  dsimp only
  split
  · exact h.set.set.endWith
  · exact h.set.set.endWith
  · exact h.set.endTransfer
  · exact h.set.endTransfer
  · exact h.set

theorem Aside.stkFence {p} (h : Aside s t) : Aside s (t.stkFence p) := h.foldl (·.stkFenceChan)

/-! ### Messages on the cords -/

theorem Aside.sendCtlOf {p c m} (h : Aside s t) : Aside s (t.sendCtlOf p c m) := h.set

theorem Aside.sendAllOf {p cs m} (h : Aside s t) : Aside s (t.sendAllOf p cs m) := h.foldl (·.sendCtlOf)

end

end Sys2Proof.Machine
end

section
/-! PROOFS. What an UNLOAD leaves (O5). -/

namespace Sys2Proof.Machine

open State

/-! ### The event registers of a partition -/

/-- Nothing differs but partition `p` and what was sent out. -/
def Signals (p : Nat) (s t : State) : Prop := t = { s with parts := t.parts, outbox := t.outbox } ∧ PartsBut p s t

section
variable {p : Nat} {s t u : State}

theorem Signals.refl (p : Nat) (s : State) : Signals p s s := ⟨rfl, fun _ _ => rfl⟩

theorem Signals.trans (h : Signals p s t) (k : Signals p t u) : Signals p s u := by
  refine ⟨?_, fun q hq => (k.2 q hq).trans (h.2 q hq)⟩
  have e := k.1
  rw [h.1] at e
  exact e

theorem Signals.updPart {f} (h : Signals p s t) : Signals p s (t.updPart p f) :=
  h.trans ⟨rfl, fun _ hq => part_updPart_ne _ _ hq⟩

theorem Signals.send {o} (h : Signals p s t) : Signals p s (t.send o) := h.trans ⟨rfl, fun _ _ => rfl⟩

theorem Signals.ite {c : Prop} {_ : Decidable c} {a b : State} (ha : Signals p s a) (hb : Signals p s b) :
    Signals p s (if c then a else b) := by
  split
  · exact ha
  · exact hb

theorem Signals.sendMsix {v} (h : Signals p s t) : Signals p s (t.sendMsix p v) := .ite h.updPart h.send

theorem Signals.raiseEv {b} (h : Signals p s t) : Signals p s (t.raiseEv p b) :=
  .ite h (.ite h.updPart.sendMsix h.updPart)

theorem Signals.refreshFn (h : Signals p s t) : Signals p s (t.refreshFn p) := .ite h h.updPart.raiseEv

theorem Signals.mem (h : Signals p s t) : t.mem = s.mem := by rw [h.1]
theorem Signals.turf (h : Signals p s t) : t.turf = s.turf := by rw [h.1]

end

/-! ### An armed flip cancelled -/

theorem foldl_parts {α : Type} {f : State → α → State} (hf : ∀ s a, (f s a).parts = s.parts) (l : List α) (s : State) :
    (l.foldl f s).parts = s.parts := by
  induction l generalizing s with
  | nil => rfl
  | cons a l ih => rw [List.foldl_cons, ih, hf]

theorem State.wrMem_parts (s : State) (a : Nat) (b : Byte) : (s.wrMem a b).parts = s.parts := by
  unfold State.wrMem
  dsimp only
  split <;> rfl

theorem State.wrMems_parts (s : State) (a : Nat) (l : List Byte) : (s.wrMems a l).parts = s.parts := by
  induction l generalizing s a with
  | nil => rfl
  | cons b r ih => rw [wrMems, ih, wrMem_parts]

theorem State.putBlock_parts (s : State) (p a : Nat) (l : List Byte) (rec : Bool) : (s.putBlock p a l rec).parts = s.parts := by
  unfold State.putBlock
  split
  · exact wrMems_parts _ _ _
  · exact wrMems_parts _ _ _
  · exact wrMems_parts _ _ _
  · split
    · rfl
    · split <;> rfl
  · rfl

theorem State.setGst_parts (s : State) (p a : Nat) (b : Bool) (v : Nat) : (s.setGst p a b v).parts = s.parts :=
  foldl_parts (fun _ _ => putBlock_parts _ _ _ _ _) _ _

theorem State.part_cancelFlip_ne (s : State) {p q : Nat} (h : q ≠ p) : (s.cancelFlip p).part q = s.part q := by
  have one (s : State) (a : Nat) (b : Bool) : (if s.ovGst p a b = gAtFlip then s.setGst p a b gFree else s).parts = s.parts := by
    split
    · exact setGst_parts _ _ _ _ _
    · rfl
  unfold State.cancelFlip
  split
  · dsimp only
    unfold State.part
    rw [foldl_parts fun _ _ => (one _ _ _).trans (one _ _ _)]
    exact part_updPart_ne _ _ h
  · rfl

theorem State.cancelFlip_of_not_armed (s : State) (p : Nat) (h : (s.part p).wts.armed = false) : s.cancelFlip p = s := by
  simp [cancelFlip, h]

/-! ### UNLOAD -/

/-- What UNLOAD clears of a plan control block (R68, R75). -/
def Plan.unloaded (x : Plan) : Plan :=
  { x with st := .empty, loaded := none, spares := [], spareMin := 0xFFFF, spareHop := 0, sf := {}, failOpen := false
           rebind := none, stopReq := false, unloadWait := false, near := [], turf := [], circuits := [], passes := []
           arrived := [] }

/-- A fence that no LEAVE made ends (R368). -/
def Dom.unfenced (d : Dom) : Dom := if d.st = .leaving then d else { d with fenced := false }

/-- The tiles, what is in flight and the plan control block are cleared. -/
def State.unloadPlan (s : State) (p : Nat) : State :=
  (((s.onTiles (s.tilesOf p) unloadTile).dropFlight p).updPlan p Plan.unloaded).updDom p Dom.unfenced

theorem State.unloadNow_eq (s : State) (p : Nat) :
    s.unloadNow p = ((s.unloadPlan p).unloadFrames p).refreshFn p := rfl

section
variable (s : State) (p : Nat)

theorem State.unloadPlan_outside : (s.unloadPlan p).groups = s.groups ∧ (s.unloadPlan p).hall = s.hall ∧
    (s.unloadPlan p).mem = s.mem ∧ (s.unloadPlan p).turf = s.turf := by
  rw [unloadPlan, onTiles_eq]
  exact ⟨rfl, rfl, rfl, rfl⟩

theorem State.tile_unloadPlan (k : Nat) : (s.unloadPlan p).tile k = (s.onTiles (s.tilesOf p) unloadTile).tile k := rfl

theorem State.part_unloadPlan (q : Nat) :
    (s.unloadPlan p).part q = ((s.updPlan p Plan.unloaded).updDom p Dom.unfenced).part q := by
  rw [unloadPlan, onTiles_eq]
  rfl

/-- What the frame builder and the function registers leave of an unloaded plan. -/
theorem State.unloadNow_leaves : (s.unloadNow p).hall = (s.unloadPlan p).hall ∧ (s.unloadNow p).groups = (s.unloadPlan p).groups ∧
    (s.unloadNow p).tiles = (s.unloadPlan p).tiles ∧ ((s.unloadNow p).part p).plan = ((s.unloadPlan p).part p).plan ∧
    ((s.unloadNow p).part p).clock = ((s.unloadPlan p).part p).clock ∧
    ((s.unloadNow p).part p).dom.fenced = ((s.unloadPlan p).part p).dom.fenced := by
  have a : Aside (s.unloadPlan p) (((s.unloadPlan p).abandonSeal p).cancelFlip p) := (Aside.refl _).abandonSeal.cancelFlip
  have b := (Aside.refl ((s.unloadPlan p).unloadFrames p)).refreshFn (p := p)
  rw [← unloadNow_eq, unloadFrames] at b
  generalize ((s.unloadPlan p).abandonSeal p).cancelFlip p = u at a b
  have ap := a.part p
  have bp := b.part p
  simp only [updFrame, part_updPart_self] at bp
  exact ⟨b.hall.trans a.hall, b.groups.trans a.groups, b.tiles.trans a.tiles, bp.plan.trans ap.plan, bp.clock.trans ap.clock,
    bp.fenced.trans ap.fenced⟩

theorem State.part_unloadNow_ne {q : Nat} (h : q ≠ p) : (s.unloadNow p).part q = s.part q := by
  rw [unloadNow_eq, (Signals.refl p _).refreshFn.2 q h, unloadFrames, updFrame, part_updPart_ne _ _ h, part_cancelFlip_ne _ h,
    part_abandonSeal_ne _ h, part_unloadPlan, part_updDom_ne _ _ h, part_updPlan_ne _ _ h]

theorem State.unloadNow_mem_turf (h : (s.part p).wts.armed = false) :
    (s.unloadNow p).mem = s.mem ∧ (s.unloadNow p).turf = s.turf := by
  have hw : (((s.unloadPlan p).abandonSeal p).part p).wts.armed = false := by
    rw [part_abandonSeal_self, part_unloadPlan, part_updDom_self, part_updPlan_self]
    exact h
  have k : Signals p ((s.unloadPlan p).unloadFrames p) (s.unloadNow p) := (Signals.refl p _).refreshFn
  rw [k.mem, k.turf, unloadFrames, cancelFlip_of_not_armed _ _ hw]
  obtain ⟨-, -, hm, ht⟩ := s.unloadPlan_outside p
  simp [updFrame, hm, ht]

end

theorem exec_unloadComplete (s : State) (p : PartId) (hw : (s.part p).plan.unloadWait = true) (hb : s.flueBusy p = false) :
    exec (.unloadComplete p) s = .next (s.unloadNow p) := by
  simp [exec, execUnloadComplete, hw, hb]

/-- Settles O5: both commands end in `State.unloadNow`, whose frame builder and registers leave the cleared plan aside. -/
theorem unloadEmptiesThePlan : Obligations.UnloadEmptiesThePlan := by
  unfold Obligations.UnloadEmptiesThePlan
  intro s p hb pl emptied
  have done {c : Instr} (hc : exec c s = .next (s.unloadNow p)) : emptied c := by
    obtain ⟨hall, groups, tiles, plan, clock, fenced⟩ := s.unloadNow_leaves p
    obtain ⟨hg, hh, -, -⟩ := s.unloadPlan_outside p
    have htile (k : Nat) : (s.unloadNow p).tile k = (s.onTiles (s.tilesOf p) unloadTile).tile k := by
      rw [← tile_unloadPlan, State.tile, tiles, State.tile]
    refine ⟨_, hc, ?_, fun hl => ?_, ?_, fun k hk h192 => ?_, fun k hk => ?_, fun q hq => s.part_unloadNow_ne p hq, groups.trans hg,
      hall.trans hh, s.unloadNow_mem_turf p⟩
    · rw [plan, part_unloadPlan]
      simp [Plan.unloaded, pl]
    · rw [fenced, part_unloadPlan]
      simp [Dom.unfenced, hl]
    · rw [clock, part_unloadPlan]
      simp
    · rw [htile, tile_onTiles_of_mine hk h192]
    · rw [htile, tile_onTiles_of_not_mine hk]
  refine ⟨fun hf hw hs => done (exec_planUnload_of_idle hf ((s.planAccepts_iff _ _).mpr ⟨by simpa using hs, hw⟩) hb),
    fun hw => done (exec_unloadComplete s p hw hb)⟩

end Sys2Proof.Machine
end

section
/-! PROOFS. What an act does at the end of its tick (O14), and reads of local store against landing buffers (O17). -/

namespace Sys2Proof.Machine

open State

/-! ### Local store -/

theorem Tile.wrLs_eq (t : Tile) (a : Nat) (b : List Byte) : t.wrLs a b = { t with store := (t.wrLs a b).store } := rfl

section
variable (t : Tile) {a : Nat} {b : List Byte} (ha : a < 2 ^ 22) (hb : b.length ≤ 2 ^ 22)
include ha hb

/-- A store of at most 4 MiB wraps at the end of local store and puts each byte at its address. -/
theorem Tile.rdByte_wrLs_in (k : Nat) (h : k < b.length) : rdByte (t.wrLs a b).store ((a + k) % 2 ^ 22) = b[k] := by
  simp only [wrLs, Nat.mod_eq_of_lt ha]
  split
  · rw [Nat.mod_eq_of_lt (by omega), rdByte_wrBytes_in]
  · by_cases hk : a + k < 2 ^ 22
    · have hl : k < (b.take (2 ^ 22 - a)).length := by
        rw [List.length_take]
        omega
      rw [Nat.mod_eq_of_lt hk, rdByte_wrBytes_out _ _ _ _ (by rw [List.length_drop]; omega), rdByte_wrBytes_in _ _ _ _ hl,
        List.getElem_take]
    · have hl : k - (2 ^ 22 - a) < (b.drop (2 ^ 22 - a)).length := by
        rw [List.length_drop]
        omega
      have he : (a + k) % 2 ^ 22 = 0 + (k - (2 ^ 22 - a)) := by omega
      rw [he, rdByte_wrBytes_in _ _ _ _ hl, List.getElem_drop]
      congr 1
      omega

theorem Tile.rdByte_wrLs_out (x : Nat) (h : ∀ k, k < b.length → x ≠ (a + k) % 2 ^ 22) :
    rdByte (t.wrLs a b).store x = rdByte t.store x := by
  simp only [wrLs, Nat.mod_eq_of_lt ha]
  split
  · refine rdByte_wrBytes_out _ _ _ _ ?_
    by_contra hx
    exact h (x - a) (by omega) (by omega)
  · rw [rdByte_wrBytes_out, rdByte_wrBytes_out]
    · by_contra hx
      rw [List.length_take] at hx
      exact h (x - a) (by omega) (by omega)
    · by_contra hx
      rw [List.length_drop] at hx
      exact h (x + (2 ^ 22 - a)) (by omega) (by omega)

end

/-! ### Scalar registers -/

theorem Tile.scalar_zero (t : Tile) : t.scalar 0 = 0 := rfl

theorem Tile.scalar_setScalar (t : Tile) (r q : Nat) (v : BitVec 64) :
    (t.setScalar r v).scalar q = if q = r ∧ r ≠ 0 then v else t.scalar q := by
  unfold Tile.setScalar Tile.scalar
  split_ifs <;> simp_all [tabGet_tabSet]

/-! ### An act on one tile -/

section
variable {s : State} {p n : Nat} {w : Work}

/-- What the acts that write one tile do to it. -/
theorem State.applyAct_of_tile {f : Tile → Tile} (h : s.applyAct p n w = s.updTile n f) :
    OnlyTile n s (s.applyAct p n w) ∧ (s.applyAct p n w).tile n = f (s.tile n) := by
  rw [h]
  exact ⟨onlyTile_updTile s n f, tile_updTile_self s n f⟩

theorem State.applyAct_wrScalar {r v} (h : w.act = .wrScalar r v) : s.applyAct p n w = s.updTile n fun t => t.setScalar r v := by
  simp only [applyAct, h]

theorem State.applyAct_wrLine {a b} (h : w.act = .wrLine a b) : s.applyAct p n w = s.updTile n fun t => t.wrLs a b := by
  simp only [applyAct, h]

theorem State.applyAct_wrDmem {k v} (h : w.act = .wrDmem k v) :
    s.applyAct p n w = s.updTile n fun t => { t with dmem := tabSet 0 t.dmem k v } := by
  simp only [applyAct, h]

theorem State.applyAct_wrVreg {k v} (h : w.act = .wrVreg k v) :
    s.applyAct p n w = s.updTile n fun t => { t with vregs := tabSet [] t.vregs k v } := by
  simp only [applyAct, h]

theorem State.applyAct_wrBase {g k v} (h : w.act = .wrBase g k v) : s.applyAct p n w = s.updTile n fun t =>
    { t with streams := tabUpd {} t.streams (8 * g + k) fun x => { x with base := v } } := by
  simp only [applyAct, h]

theorem State.applyAct_swap (h : w.act = .swap) : s.applyAct p n w = s.updTile n fun t => { t with active := !t.active } := by
  simp only [applyAct, h]

theorem State.applyAct_accZero {r e} (h : w.act = .accZero r e) :
    s.applyAct p n w = s.updTile n fun t => { t with accRows := tabSet {} t.accRows r { exact := e } } := by
  simp only [applyAct, h]

theorem State.applyAct_count_idle {g l v} (h : w.act = .count g l v) (hr : ((s.tile n).level g l).running = false) :
    s.applyAct p n w = s.updTile n fun _ => (s.tile n).updLevel g l fun x => { x with count := v } := by
  simp [applyAct, h, Tile.writeCount, hr]

theorem State.applyAct_count_running {g l v} (h : w.act = .count g l v) (hr : ((s.tile n).level g l).running = true) :
    s.applyAct p n w = (s.updTile n fun _ => (s.tile n).updLevel g l fun x => { x with shadow := v, waiting := true }).cinderTile
      n cLoopBound := by
  simp [applyAct, h, Tile.writeCount, hr]

end

@[simp] theorem Tile.level_updLevel_self (t : Tile) (g l : Nat) (f : AgLevel → AgLevel) :
    (t.updLevel g l f).level g l = f (t.level g l) := tabGet_tabUpd_self _ _ _ _

/-- A count of an event at a logical tile changes the counter of the physical tile that carries it. -/
theorem State.cinderTile_updTile (s : State) (n cls : Nat) (f : Tile → Tile) :
    ((s.updTile n f).cinderTile n cls).parts = s.parts ∧ ((s.updTile n f).cinderTile n cls).tile n = f (s.tile n) ∧
    tabGet 0 ((s.updTile n f).cinderTile n cls).cinder (cinderKey 1 (s.physTile n) cls) =
      satInc 16 (tabGet 0 s.cinder (cinderKey 1 (s.physTile n) cls)) :=
  ⟨rfl, tile_updTile_self s n f, tabGet_tabUpd_self _ _ _ _⟩

/-- Settles O14: one equation of `State.applyAct` for each act, and the read of what the act wrote. -/
theorem actsLandAtTheEndOfTheirTick : Obligations.ActsLandAtTheEndOfTheirTick := by
  unfold Obligations.ActsLandAtTheEndOfTheirTick
  intro s p n w
  refine ⟨fun r v h => ?_, fun a b h ha hb => ?_, fun k v h => ?_, fun k v h => ?_, fun g k v h => ?_, fun g l v h hr => ?_,
    fun g l v h hr => ?_, fun h => ?_, fun r e h => ?_⟩
  · obtain ⟨only, tile⟩ := applyAct_of_tile (applyAct_wrScalar (s := s) (p := p) (n := n) h)
    refine ⟨only, Tile.scalar_zero _, fun hr => ?_, fun q hq => ?_⟩ <;> rw [tile, Tile.scalar_setScalar]
    · exact if_pos ⟨rfl, hr⟩
    · exact if_neg fun e => hq e.1
  · obtain ⟨only, tile⟩ := applyAct_of_tile (applyAct_wrLine (s := s) (p := p) (n := n) h)
    refine ⟨only, ?_, ?_, ?_⟩ <;> rw [tile]
    · exact Tile.wrLs_eq _ _ _
    · exact fun k hk => Tile.rdByte_wrLs_in _ ha hb k hk
    · exact fun x hx => Tile.rdByte_wrLs_out _ ha hb x hx
  · obtain ⟨only, tile⟩ := applyAct_of_tile (applyAct_wrDmem (s := s) (p := p) (n := n) h)
    refine ⟨only, ?_, fun j hj => ?_⟩ <;> rw [tile]
    · exact tabGet_tabSet_self _ _ _ _
    · exact tabGet_tabSet_ne _ _ _ hj
  · obtain ⟨only, tile⟩ := applyAct_of_tile (applyAct_wrVreg (s := s) (p := p) (n := n) h)
    refine ⟨only, ?_, fun j hj => ?_⟩ <;> rw [tile]
    · exact tabGet_tabSet_self _ _ _ _
    · exact tabGet_tabSet_ne _ _ _ hj
  · obtain ⟨only, tile⟩ := applyAct_of_tile (applyAct_wrBase (s := s) (p := p) (n := n) h)
    refine ⟨only, ?_⟩
    rw [tile, Tile.stream, tabGet_tabUpd_self]
  · obtain ⟨only, tile⟩ := applyAct_of_tile (applyAct_count_idle (p := p) h hr)
    exact ⟨only, by rw [tile, Tile.level_updLevel_self]⟩
  · rw [applyAct_count_running h hr]
    obtain ⟨parts, tile, cinder⟩ := s.cinderTile_updTile n cLoopBound fun _ =>
      (s.tile n).updLevel g l fun x => { x with shadow := v, waiting := true }
    exact ⟨by rw [tile, Tile.level_updLevel_self], parts, cinder⟩
  · exact applyAct_of_tile (applyAct_swap h)
  · obtain ⟨only, tile⟩ := applyAct_of_tile (applyAct_accZero (s := s) (p := p) (n := n) h)
    refine ⟨only, ?_, fun q hq => ?_⟩ <;> rw [tile]
    · exact tabGet_tabSet_self _ _ _ _
    · exact tabGet_tabSet_ne _ _ _ hq

end Sys2Proof.Machine
end

section
/-! PROOFS. Reads of local store against landing buffers (O17). -/

namespace Sys2Proof.Machine

open State

/-! ### The landing check -/

theorem Tile.mem_overruns (t : Tile) (a n : Nat) (skip : Option Nat) (k : Nat) : k ∈ t.overruns a n skip ↔
    0 < n ∧ ∃ b, (k, b) ∈ t.lands ∧ b.st ≠ .empty ∧ b.meets a n = true ∧ skip ≠ some k := by
  simp only [overruns, List.mem_map, List.mem_filter, decide_eq_true_eq]
  constructor
  · rintro ⟨⟨j, b⟩, ⟨hm, hs, hn, hk, hj⟩, rfl⟩
    exact ⟨hn, b, hm, hs, hk, hj⟩
  · rintro ⟨hn, b, hm, hs, hk, hj⟩
    exact ⟨(k, b), ⟨hm, hs, hn, hk, hj⟩, rfl⟩

/-! ### The read -/

section
variable (s : State) (i : Issue) (slot pc a n : Nat)

theorem State.readLs_plain (keep : Bool) : s.readLs i slot pc a n false keep =
    ⟨s.updTile i.tile fun t => t.note i slot pc a n, ((s.tile i.tile).overruns a n none).map (overrunFail i slot pc), none⟩ := rfl

variable {a} {l : Nat} (hl : (s.tile i.tile).landAt a = some l)
include hl

theorem State.readLs_of_not_valid (keep : Bool) (hv : ((s.tile i.tile).land l).st ≠ .valid) :
    s.readLs i slot pc a n true keep = ⟨s, [], some (.landing l)⟩ := by
  simp [readLs, hl, hv]

theorem State.readLs_of_valid (hv : ((s.tile i.tile).land l).st = .valid) : s.readLs i slot pc a n true false =
    ⟨s.updTile i.tile fun t => (t.note i slot pc a n).later pc uNone pc slot i (.consumed l),
      ((s.tile i.tile).overruns a n (some l)).map (overrunFail i slot pc), none⟩ := by
  simp [readLs, hl, hv]

end

/-! ### The completion of a consuming read -/

theorem Tile.land_updLand (t : Tile) (l m : Nat) (f : Landing → Landing) :
    (t.updLand l f).land m = if m = l then f (t.land l) else t.land m := tabGet_tabUpd _ _ _ _ _

@[simp] theorem State.part_updCnt_self (s : State) (p : Nat) (f : Counters → Counters) : (s.updCnt p f).part p =
    { s.part p with clock := { (s.part p).clock with cnt := f (s.part p).clock.cnt } } := part_updClock_self _ _ _

/-- A completed consuming read empties its buffer, ends the buffer's landing circuit, and counts the absorbed retries. -/
theorem State.applyAct_consumed {s : State} {p n l : Nat} {w : Work} (h : w.act = .consumed l) : ∃ f : Plan → Plan,
    s.applyAct p n w = ((s.updCnt p fun c => { c with
        retries := min (2 ^ 64 - 1) (c.retries + ((s.tile n).land l).retx) }).updPlan p f).updTile n fun t =>
      t.updLand l fun x => { x with st := .empty, landed := 0, retx := 0 } := by
  simp only [applyAct, h]
  exact ⟨_, rfl⟩

theorem consumed_mem_tileFails {t : Tile} {tile pc l : Nat} {w : Work} (hw : w ∈ t.work) (ha : w.act = .consumed l)
    (ht : w.tick = pc) (hg : (t.land l).tag.toNat ≠ pc % 16) :
    { cls := cSchedTag, tile := tile, slot := w.slot, bundle := w.bundle, tick := pc, tagExp := pc % 16
      tagGot := (t.land l).tag.toNat, src := (t.land l).src, detLo := l, detMid := (t.land l).landed } ∈ tileFails t tile pc := by
  unfold tileFails
  refine List.mem_append_right _ (List.mem_flatMap.mpr ⟨w, List.mem_filter.mpr ⟨hw, ?_⟩, ?_⟩)
  · simp [ht, ha, isStart]
  · simp [ha, hg]

/-- Settles O17: one equation of `State.readLs` for each case, and the completion of a consuming read. -/
theorem readsConsumeLandingBuffers : Obligations.ReadsConsumeLandingBuffers := by
  unfold Obligations.ReadsConsumeLandingBuffers
  intro s i slot pc a n
  refine ⟨fun ho => ?_, ?_, fun k => ?_, fun l hl => ⟨fun hv => ?_, fun hv ho => ?_, fun p w hw => ?_⟩⟩
  · rw [readLs_plain, ho]
    exact ⟨⟨rfl, rfl⟩, onlyTile_updTile _ _ _, tile_updTile_self _ _ _⟩
  · rw [readLs_plain]
    rfl
  · simp [Tile.mem_overruns]
  · rw [s.readLs_of_not_valid i slot pc n hl false hv]
    exact ⟨rfl, rfl⟩
  · rw [s.readLs_of_valid i slot pc n hl hv, ho]
    exact ⟨⟨rfl, rfl⟩, onlyTile_updTile _ _ _, tile_updTile_self _ _ _⟩
  · obtain ⟨f, he⟩ := applyAct_consumed (s := s) (p := p) (n := i.tile) hw
    have htile : (s.applyAct p i.tile w).tile i.tile =
        (s.tile i.tile).updLand l fun x => { x with st := .empty, landed := 0, retx := 0 } := by
      rw [he, tile_updTile_self]
      rfl
    refine ⟨?_, fun m hm => ?_, ?_, fun j hj => ?_, ?_, fun hm ht hg => consumed_mem_tileFails hm hw ht hg⟩
    · rw [htile, Tile.land_updLand, if_pos rfl]
    · rw [htile, Tile.land_updLand, if_neg hm]
    · rw [htile]
      rfl
    · rw [he, tile_updTile_ne _ _ hj]
      rfl
    · rw [he, part_updTile, part_updPlan_self, part_updCnt_self]

end Sys2Proof.Machine
end

section
/-! PROOFS. The operations of the vector unit (O16). -/

namespace Sys2Proof.Machine

open State

/-! ### Tables of a function -/

/-- The table of a function reads as the function on its keys. -/
theorem tabGet_tabOf {α : Type} [DecidableEq α] (d : α) (n : Nat) (f : Nat → α) (k : Nat) :
    tabGet d (tabOf d n f) k = if k < n then f k else d := by
  have key (l : List Nat) : tabGet d (l.filterMap fun k => if f k = d then none else some (k, f k)) k =
      if k ∈ l then f k else d := by
    induction l with
    | nil => rfl
    | cons j l ih =>
      by_cases hj : f j = d <;> by_cases hk : k = j
      · subst hk
        simp [ih, hj]
      · simp [ih, hj, hk]
      · subst hk
        simp [tabGet, hj]
      · simp [tabGet, ih, hj, hk, Ne.symm hk]
  simpa [tabOf] using key (List.range n)

theorem tabGet_lanes (f : Nat → BitVec 32) (k : Nat) : tabGet 0 (lanes f) k = if k < 2048 then f k else 0 :=
  tabGet_tabOf 0 2048 f k

/-! ### The list of a VTK pass -/

theorem length_topInsert (x : BitVec 32 × BitVec 32) (l : List (BitVec 32 × BitVec 32)) :
    (topInsert x l).length = l.length + 1 := by
  induction l with
  | nil => rfl
  | cons y l ih =>
    unfold topInsert
    split
    · rfl
    · simp [ih]

theorem length_foldl_topInsert (k : Nat) (xs l : List (BitVec 32 × BitVec 32)) (h : l.length ≤ k) :
    (xs.foldl (fun l x => (topInsert x l).take k) l).length = min k (l.length + xs.length) := by
  induction xs generalizing l with
  | nil => simp [h]
  | cons x xs ih =>
    rw [List.foldl_cons, ih _ (List.length_take_le _ _), List.length_take, length_topInsert, List.length_cons]
    omega

/-- Of 64 entries and 2,048 candidates the best k are k. -/
theorem length_topList (k : Nat) (hk : k ≤ 64) (list cand : Nat → BitVec 32) (base : BitVec 64) :
    (topList k list cand base).length = k := by
  unfold topList
  rw [length_foldl_topInsert _ _ _ (Nat.zero_le _)]
  simp
  omega

theorem getD_fst (l : List (BitVec 32 × BitVec 32)) (m : Nat) (a b c : BitVec 32) :
    (l.getD m (a, b)).1 = (l.getD m (a, c)).1 := by
  cases h : l[m]? <;> simp [List.getD, h]

theorem getD_snd (l : List (BitVec 32 × BitVec 32)) (m : Nat) (a b c : BitVec 32) :
    (l.getD m (a, c)).2 = (l.getD m (b, c)).2 := by
  cases h : l[m]? <;> simp [List.getD, h]

/-! ### An operation that writes its tile -/

@[simp] theorem State.part_slotUsed (s : State) (i : Issue) (slot q : Nat) : (s.slotUsed i slot).part q = s.part q := rfl

section
variable {s : State} {i : Issue} {p slot : Nat} {c : Instr} {f : State → Nat → Nat → OpRes} {g : Tile → Tile} {y : Tile}

/-- An operation that issues and whose answer is one write of its tile leaves that write, its slot used. -/
theorem issue_writes_tile (h : CanIssue s i p slot) (hf : f s p (s.part p).plan.pc = ⟨s.updTile i.tile g, [], none⟩)
    (hy : (g (s.tile i.tile)).used slot = y) :
    ∃ t, (.next (s.issue slot i c f) : Out3) = .next t ∧ OnlyTile i.tile s t ∧ t.tile i.tile = y := by
  refine ⟨_, rfl, ?_⟩
  rw [s.issue_passes i p slot c f h (by rw [hf]; exact ⟨rfl, rfl⟩), hf]
  exact ⟨(onlyTile_updTile _ _ _).trans (onlyTile_updTile _ _ _), by rw [slotUsed_tile, tile_updTile_self, hy]⟩

end

/-- Only a wide add counts a result as newly inexact (R145). -/
theorem vecResult_inexact (t : Tile) (op : VecOp) (a b c : Tab (BitVec 32)) (h : op ≠ .wideAdd) :
    (vecResult t op a b c).2 = 0 := by
  cases op with
  | wideAdd => exact absurd rfl h
  | _ => rfl

/-- A VOP counts its newly inexact results and writes its register. -/
theorem exec_vop {s : State} {i : Issue} {p : Nat} (h : CanIssue s i p 1) (op : VecOp) (vd va vb vc : Fin 16) :
    let x := s.tile i.tile
    let z := vecResult x op (x.vreg va) (x.vreg vb) (x.vreg vc)
    let pc := (s.part p).plan.pc
    exec (.vop i op vd va vb vc) s = .next (((s.updCnt p fun c => { c with inexact := min (2 ^ 64 - 1) (c.inexact + z.2) }).updTile
      i.tile fun t => (t.takeUnit uValu sVec pc 1).later (pc + 3 - 1) uValu pc sVec i (.wrVreg vd z.1)).slotUsed i 1) :=
  congrArg Host.Outcome.next (s.issue_passes i p 1 _ _ h ⟨rfl, rfl⟩)

theorem vrdResult_eq (op : RedOp) (seg : Fin 8) (lane : Nat → BitVec 32) : vrdResult op seg lane =
    lanes fun k => if k < 2048 / (16 * 2 ^ seg.val) then
        let l := (List.range (16 * 2 ^ seg.val)).map fun m => lane (16 * 2 ^ seg.val * k + m)
        if op = .argmax then BitVec.ofNat 32 (16 * 2 ^ seg.val * k + argmaxOf l) else reduceSeg op (seg.val + 4) l
      else 0 := by
  have e : segSize seg = 16 * 2 ^ seg.val := by
    rw [segSize, Nat.pow_add, Nat.mul_comm]
  simp only [vrdResult, e]

theorem tabGet_vrgResult (lane : Nat → BitVec 32) (key : BitVec 64) (n : Nat) (hn : n < 512) :
    let out := philox (lane (4 * n), lane (4 * n + 1), lane (4 * n + 2), lane (4 * n + 3)) key
    tabGet 0 (vrgResult lane key) (4 * n) = out.1 ∧ tabGet 0 (vrgResult lane key) (4 * n + 1) = out.2.1 ∧
    tabGet 0 (vrgResult lane key) (4 * n + 2) = out.2.2.1 ∧ tabGet 0 (vrgResult lane key) (4 * n + 3) = out.2.2.2 := by
  have at_ (r : Nat) (hr : r < 4) : 4 * n + r < 2048 ∧ (4 * n + r) / 4 = n ∧ (4 * n + r) % 4 = r := by omega
  obtain ⟨l0, d0, m0⟩ := at_ 0 (by omega)
  obtain ⟨l1, d1, m1⟩ := at_ 1 (by omega)
  obtain ⟨l2, d2, m2⟩ := at_ 2 (by omega)
  obtain ⟨l3, d3, m3⟩ := at_ 3 (by omega)
  simp only [Nat.add_zero] at l0 d0 m0
  simp only [vrgResult, tabGet_lanes, l0, d0, m0, l1, d1, m1, l2, d2, m2, l3, d3, m3, if_true, and_self]

theorem tabGet_topLanes (best : List (BitVec 32 × BitVec 32)) (m : Nat) :
    (m < 64 → tabGet 0 (topLanes best) m = (best.getD m (0xFF800000#32, 0xFFFFFFFF#32)).1 ∧
      tabGet 0 (topLanes best) (64 + m) = (best.getD m (0xFF800000#32, 0xFFFFFFFF#32)).2) ∧
    (128 ≤ m → tabGet 0 (topLanes best) m = 0) := by
  refine ⟨fun h => ⟨?_, ?_⟩, fun h => ?_⟩ <;> rw [topLanes, tabGet_lanes]
  · rw [if_pos (by omega), if_pos h]
    exact getD_fst _ _ _ _ _
  · rw [if_pos (by omega), if_neg (by omega), if_pos (by omega), Nat.add_sub_cancel_left]
    exact getD_snd _ _ _ _ _
  · rw [if_neg (show ¬ m < 64 by omega), if_neg (show ¬ m < 128 by omega)]
    exact ite_self 0

/-! ### Reads of local store by an operation -/

/-- A read that passes leaves the local store as it was. -/
theorem State.readLs_st (s : State) (i : Issue) (slot pc a n : Nat) (consume keep : Bool) :
    OnlyTile i.tile s (s.readLs i slot pc a n consume keep).st ∧
    ((s.readLs i slot pc a n consume keep).st.tile i.tile).store = (s.tile i.tile).store := by
  unfold State.readLs
  dsimp only
  split
  · exact ⟨onlyTile_updTile _ _ _, by rw [tile_updTile_self]; rfl⟩
  · split
    · exact ⟨OnlyTile.refl _ _, rfl⟩
    · split
      · exact ⟨onlyTile_updTile _ _ _, by rw [tile_updTile_self]; rfl⟩
      · exact ⟨onlyTile_updTile _ _ _, by rw [tile_updTile_self]; rfl⟩

theorem Tile.rdLs_congr {t u : Tile} (h : u.store = t.store) (a n : Nat) : u.rdLs a n = t.rdLs a n := by
  simp only [rdLs, h]

section
variable {s : State} {i : Issue} {p slot : Nat} {c : Instr} {f : State → Nat → Nat → OpRes} {g : Tile → Tile} {r : OpRes} {y : Tile}

/-- An operation that issues and whose answer is one write of its tile after a read that passed. -/
theorem issue_writes_tile_after_read (h : CanIssue s i p slot) (hr : ReadPasses r)
    (hf : f s p (s.part p).plan.pc = ⟨r.st.updTile i.tile g, r.fails, none⟩)
    (hy : (g (r.st.tile i.tile)).used slot = y) :
    ∃ t, (.next (s.issue slot i c f) : Out3) = .next t ∧ OnlyTile i.tile r.st t ∧ t.tile i.tile = y := by
  refine ⟨_, rfl, ?_⟩
  rw [s.issue_passes i p slot c f h (by rw [hf]; exact ⟨hr.1, rfl⟩), hf]
  exact ⟨(onlyTile_updTile _ _ _).trans (onlyTile_updTile _ _ _), by rw [slotUsed_tile, tile_updTile_self, hy]⟩

end

/-- Settles O16: each operation of the vector unit issues and writes its tile; the lanes of VRD, VRG and VTK. -/
theorem vectorUnitIssues : Obligations.VectorUnitIssues := by
  unfold Obligations.VectorUnitIssues
  intro s i p vd va vb vc h pc x result
  refine ⟨fun op => ?_, fun fn => issue_writes_tile h rfl rfl, fun op seg => ?_, fun key => ?_, fun k base => ?_,
    fun a cm hr => ?_, fun a => issue_writes_tile h rfl rfl⟩
  · refine ⟨_, exec_vop h op vd va vb vc, rfl, fun j hj => tile_updTile_ne _ _ hj |>.trans (tile_updTile_ne _ _ hj), fun q hq => ?_,
      ?_, vecResult_inexact _ _ _ _ _, ?_⟩
    · rw [part_slotUsed, part_updTile]
      exact part_updClock_ne _ _ hq
    · rw [part_slotUsed, part_updTile]
      exact part_updCnt_self _ _ _
    · rw [slotUsed_tile, tile_updTile_self]
      rfl
  · exact issue_writes_tile h rfl (congrArg (result 1 8) (vrdResult_eq op seg (x.lane va)))
  · obtain ⟨t, e, only, tile⟩ := issue_writes_tile (c := .vrg i vd vc key) (f := fun s _ pc => s.vecOp i pc 1 12 vd fun t =>
      vrgResult (t.lane vc) (t.scalar key)) h rfl rfl
    exact ⟨t, _, e, only, tile, fun n => tabGet_vrgResult _ _ n n.isLt⟩
  · obtain ⟨t, e, only, tile⟩ := issue_writes_tile (c := .vtk i k vd va vb base) (f := fun s _ pc => s.vecOp i pc 4 16 vd fun t =>
      topLanes (topList (k.val + 1) (t.lane vb) (t.lane va) (t.scalar base))) h rfl rfl
    exact ⟨t, _, e, only, tile, length_topList _ (by omega) _ _ _, tabGet_topLanes _⟩
  · refine issue_writes_tile_after_read h hr (g := fun t => (t.takeUnit uVmem sVec pc 2).later (pc + 1) uVmem pc sVec i
      (.rdVld vd (lsAddr (x.opnd a) 512 + 4096) (t.rdLs (lsAddr (x.opnd a) 512) 4096))) ?_ ?_
    · have hw : (s.readLs i sVec pc (lsAddr (x.opnd a) 512) 4096 cm false).wait = none := hr.2
      show (match (s.readLs i sVec pc (lsAddr (x.opnd a) 512) 4096 cm false).wait with
        | some w => _
        | none => _) = _
      rw [hw]
      rfl
    · rw [Tile.rdLs_congr (s.readLs_st i 1 pc (lsAddr (x.opnd a) 512) 4096 cm false).2]
      rfl

end Sys2Proof.Machine
end

section
/-! PROOFS. Loads and stores of the scalar unit, CNT, PCR and MBX (O13). -/

namespace Sys2Proof.Machine

open State

/-! ### SCL LD and SCL ST -/

section
variable {s : State} {i : Issue} {p : Nat} (h : CanIssue s i p 5) (r : Fin 32) {a : Opnd}
include h

/-- A load of anything but local store gives what its address reads as. -/
theorem sclLd_gives (cm : Bool) (v : Tile → BitVec 64)
    (ha : match sclAddr ((s.tile i.tile).opnd a) with
      | .dmem k => v = fun t => tabGet 0 t.dmem k
      | .mbox k => v = fun t => tabGet 0 t.mbox k
      | .ag g o => v = fun t => t.agRead g o
      | .none => v = fun _ => 0
      | .store _ => False) :
    ∃ t, exec (.sclLd i r a cm) s = .next t ∧ OnlyTile i.tile s t ∧
      t.tile i.tile = ((s.tile i.tile).sclResult i uScl (s.part p).plan.pc 1 2 r (v (s.tile i.tile))).used 5 := by
  refine issue_writes_tile h (g := fun t => t.sclResult i uScl (s.part p).plan.pc 1 2 r (v t)) ?_ rfl
  dsimp only
  split at ha <;> simp_all

/-- A load of local store whose read passes. -/
theorem sclLd_store_gives (cm : Bool) {k : Nat} (ha : sclAddr ((s.tile i.tile).opnd a) = .store k)
    (hr : ReadPasses (s.readLs i 5 (s.part p).plan.pc k 8 cm false)) :
    let z := (s.readLs i 5 (s.part p).plan.pc k 8 cm false).st
    ∃ t, exec (.sclLd i r a cm) s = .next t ∧ OnlyTile i.tile z t ∧ t.tile i.tile =
      ((z.tile i.tile).sclResult i uScl (s.part p).plan.pc 1 2 r (BitVec.ofNat 64 (leNat ((s.tile i.tile).rdLs k 8)))).used 5 := by
  refine issue_writes_tile_after_read h hr (g := fun t =>
    t.sclResult i uScl (s.part p).plan.pc 1 2 r (BitVec.ofNat 64 (leNat (t.rdLs k 8)))) ?_ ?_
  · have hw : (s.readLs i sScl (s.part p).plan.pc k 8 cm false).wait = none := hr.2
    simp only [ha, hw]
    rfl
  · rw [Tile.rdLs_congr (s.readLs_st i 5 _ k 8 cm false).2]
    rfl

omit h in
/-- The tile after the issue of a store to an address: its act scheduled, where the address takes one (R81, R85). -/
def Tile.sclStore (t : Tile) (i : Issue) (pc r : Nat) : SclAddr → Tile
  | .dmem k => (t.takeUnit uScl sScl pc 1).later (pc + 1) uScl pc sScl i (.wrDmem k (t.scalar r))
  | .store k => (t.takeUnit uScl sScl pc 1).later (pc + 1) uScl pc sScl i (.wrLine k (leBytes 8 (t.scalar r).toNat))
  | .ag g o => if 0x100 ≤ o ∧ o < 0x300 ∧ o % 0x40 = 0 then
      (t.takeUnit uScl sScl pc 1).later pc uScl pc sScl i (.wrBase g ((o - 0x100) / 0x40) (t.scalar r))
    else t.takeUnit uScl sScl pc 1
  | _ => t.takeUnit uScl sScl pc 1

theorem sclSt_gives {w : SclAddr} (ha : sclAddr ((s.tile i.tile).opnd a) = w) :
    ∃ t, exec (.sclSt i r a) s = .next t ∧ OnlyTile i.tile s t ∧
      t.tile i.tile = ((s.tile i.tile).sclStore i (s.part p).plan.pc r w).used 5 := by
  subst ha
  exact issue_writes_tile h rfl rfl

end

/-- The offsets of the stream BASEs in the window of an address generator (R91). -/
theorem stream_base_iff (o : Nat) : (0x100 ≤ o ∧ o < 0x300 ∧ o % 0x40 = 0) ↔ ∃ k, k < 8 ∧ o = 0x100 + 0x40 * k := by
  constructor
  · rintro ⟨h1, h2, h3⟩
    exact ⟨(o - 0x100) / 0x40, by omega, by omega⟩
  · rintro ⟨k, hk, rfl⟩
    omega

theorem Tile.sclStore_base (t : Tile) (i : Issue) (pc r g k : Nat) (hk : k < 8) : t.sclStore i pc r (.ag g (0x100 + 0x40 * k)) =
    (t.takeUnit uScl sScl pc 1).later pc uScl pc sScl i (.wrBase g k (t.scalar r)) := by
  have e : (0x100 + 0x40 * k - 0x100) / 0x40 = k := by omega
  rw [sclStore, if_pos ((stream_base_iff _).mpr ⟨k, hk, rfl⟩), e]

theorem Tile.sclStore_not_base (t : Tile) (i : Issue) (pc r g o : Nat) (ho : ¬ ∃ k, k < 8 ∧ o = 0x100 + 0x40 * k) :
    t.sclStore i pc r (.ag g o) = t.takeUnit uScl sScl pc 1 := by
  rw [sclStore, if_neg (mt (stream_base_iff o).mp ho)]

/-! ### MBX -/

/-- An operation that issues and whose answer is a state leaves that state, its slot used. -/
theorem issue_answers {s t : State} {i : Issue} {p slot : Nat} {c : Instr} {f : State → Nat → Nat → OpRes}
    (h : CanIssue s i p slot) (hf : f s p (s.part p).plan.pc = ⟨t, [], none⟩) :
    (.next (s.issue slot i c f) : Out3) = .next (t.slotUsed i slot) := by
  rw [s.issue_passes i p slot c f h (by rw [hf]; exact ⟨rfl, rfl⟩), hf]

/-- The scalar unit of a tile taken for one tick. -/
def State.takeScl (s : State) (i : Issue) (pc : Nat) : State := s.updTile i.tile fun t => t.takeUnit uScl sScl pc 1

theorem State.tile_takeScl_self (s : State) (i : Issue) (pc : Nat) :
    (s.takeScl i pc).tile i.tile = (s.tile i.tile).takeUnit uScl sScl pc 1 := tile_updTile_self _ _ _

theorem State.tile_takeScl_ne (s : State) (i : Issue) (pc : Nat) {j : Nat} (h : j ≠ i.tile) :
    (s.takeScl i pc).tile j = s.tile j := tile_updTile_ne _ _ h

@[simp] theorem Tile.scalar_takeUnit (t : Tile) (u slot pc occ r : Nat) : (t.takeUnit u slot pc occ).scalar r = t.scalar r := by
  unfold Tile.takeUnit
  dsimp only
  split <;> rfl

section
variable {s : State} {i : Issue} {p : Nat} (h : CanIssue s i p 5) (r : Fin 32) (core : CoreId) (m : Byte)
include h

/-- An entry for a core of the tile's own die and partition leaves (R96, R97). -/
theorem exec_mbx_of_reaches (hd : i.tile.val / 96 = core.val / 32) (ho : s.owns p (core.val / 4) = true) :
    exec (.mbx i r core m) s = .next (State.slotUsed { s.takeScl i (s.part p).plan.pc with
      mail := s.mail ++ [{
        part := p, core := core, due := (s.part p).plan.pc + travelMbx i.tile core
        bytes := mbEntry ((s.tile i.tile).scalar r) i.tile m (s.part p).plan.step (s.part p).plan.pc }] } i 5) := by
  have hc : tileDie i.tile = core.val / 32 ∧ (s.takeScl i (s.part p).plan.pc).owns p (core.val / 4) = true := ⟨hd, ho⟩
  refine issue_answers h ((if_pos hc).trans ?_)
  rw [tile_updTile_self, Tile.scalar_takeUnit]
  rfl

/-- An entry for any other core is discarded and counted (R96). -/
theorem exec_mbx_of_not_reaches (hn : ¬ (i.tile.val / 96 = core.val / 32 ∧ s.owns p (core.val / 4) = true)) :
    exec (.mbx i r core m) s = .next (((s.takeScl i (s.part p).plan.pc).cinderTile i.tile cFence).slotUsed i 5) := by
  have hc : ¬ (tileDie i.tile = core.val / 32 ∧ (s.takeScl i (s.part p).plan.pc).owns p (core.val / 4) = true) := hn
  exact issue_answers h (if_neg hc)

end

/-- Settles O13: each operation of the scalar slot issues and writes its tile; an MBX entry leaves or is counted. -/
theorem scalarMemoryAndCounter : Obligations.ScalarMemoryAndCounter := by
  unfold Obligations.ScalarMemoryAndCounter
  intro s i p r a h pc x gives
  refine ⟨fun k ha cm => ?_, fun k ha cm => ?_, fun g o ha cm => ?_, fun ha cm => ?_, fun k ha cm hr => ?_, fun k ha => ?_,
    fun k ha => ?_, fun g k ha hk => ?_, fun ha => ?_, fun g l => issue_writes_tile h rfl rfl, issue_writes_tile h rfl rfl,
    fun core m => ?_⟩
  · exact sclLd_gives h r cm (fun t => tabGet 0 t.dmem k) (by rw [ha])
  · exact sclLd_gives h r cm (fun t => tabGet 0 t.mbox k) (by rw [ha])
  · exact sclLd_gives h r cm (fun t => t.agRead g o) (by rw [ha])
  · exact sclLd_gives h r cm (fun _ => 0) (by rw [ha])
  · exact sclLd_store_gives h r cm ha hr
  · exact sclSt_gives h r ha
  · exact sclSt_gives h r ha
  · have e := sclSt_gives h r ha
    rwa [Tile.sclStore_base _ _ _ _ _ _ hk] at e
  · obtain ha | ⟨k, ha⟩ | ⟨g, o, ha, hn⟩ := ha
    · exact sclSt_gives h r ha
    · exact sclSt_gives h r ha
    · have e := sclSt_gives h r ha
      rwa [Tile.sclStore_not_base _ _ _ _ _ _ hn] at e
  · by_cases hc : i.tile.val / 96 = core.val / 32 ∧ s.owns p (core.val / 4) = true
    · refine ⟨_, exec_mbx_of_reaches h r core m hc.1 hc.2, ?_, ?_, fun _ _ => rfl, ?_⟩
      · rw [slotUsed_tile]
        exact congrArg (·.used 5) (s.tile_takeScl_self i pc)
      · exact fun j hj => (tile_updTile_ne _ _ hj).trans (s.tile_takeScl_ne i pc hj)
      · rintro (hd | ho)
        · exact absurd hc.1 hd
        · simp [ho] at hc
    · refine ⟨_, exec_mbx_of_not_reaches h r core m hc, ?_, ?_, fun hd ho => absurd ⟨hd, ho⟩ hc, fun _ => rfl⟩
      · rw [slotUsed_tile]
        exact congrArg (·.used 5) (s.tile_takeScl_self i pc)
      · exact fun j hj => (tile_updTile_ne _ _ hj).trans (s.tile_takeScl_ne i pc hj)

end Sys2Proof.Machine
end

section
/-! PROOFS. What a stop leaves of a plan's step. `Stands s t`: each partition of `t` is at the plan counter and in the step of
`s`, with its record of a schedule fault and the frame of the step; each tile keeps its landing buffers, its mailbox and its
program position, and what has ended in it stays ended. The lemmas follow the functions' bodies, as those of `Aside` do. -/

namespace Sys2Proof.Machine

open State

/-! ### Draws written at a stop -/

/-- Writing the draws of a list of entries touches local store and nothing else. -/
theorem foldl_drawInto_eq (c : Nat × FlueEntry → Prop) [DecidablePred c] (l : List (Nat × FlueEntry)) (t : Tile) :
    l.foldl (fun t e => if c e then drawInto t e.2 else t) t =
      { t with store := (l.foldl (fun t e => if c e then drawInto t e.2 else t) t).store } := by
  induction l generalizing t with
  | nil => rfl
  | cons e l ih =>
    rw [List.foldl_cons]
    split
    · exact ih (drawInto t e.2)
    · exact ih t

theorem settleDraws_eq (t : Tile) : settleDraws t = { t with store := (settleDraws t).store } := foldl_drawInto_eq _ t.flue t

/-- A tile's share of a stop. -/
def stopTile (t : Tile) : Tile :=
  settleDraws { t with wait := none, held := [], flue := t.flue.filter fun e => !(e.2.used && !e.2.taken) }

/-- What a stop leaves of a tile. -/
structure TileStands (x y : Tile) : Prop where
  lands : y.lands = x.lands
  mbox : y.mbox = x.mbox
  mboxIn : y.mboxIn = x.mboxIn
  pos : y.pos = x.pos
  gap : y.gap = x.gap
  levels : y.levels = x.levels
  flue : x.flue = [] → y.flue = []
  wait : x.wait = none → y.wait = none

theorem TileStands.refl (x : Tile) : TileStands x x := ⟨rfl, rfl, rfl, rfl, rfl, rfl, id, id⟩

theorem TileStands.trans {x y z : Tile} (h : TileStands x y) (k : TileStands y z) : TileStands x z :=
  ⟨k.lands.trans h.lands, k.mbox.trans h.mbox, k.mboxIn.trans h.mboxIn, k.pos.trans h.pos, k.gap.trans h.gap,
    k.levels.trans h.levels, k.flue ∘ h.flue, k.wait ∘ h.wait⟩

theorem tileStands_stopTile (t : Tile) : TileStands t (stopTile t) := by
  rw [stopTile, settleDraws_eq]
  exact ⟨rfl, rfl, rfl, rfl, rfl, rfl, fun h => by simp [h], fun _ => rfl⟩

/-! ### A partition in its step -/

/-- Two records of a partition agree in where its plan stands. -/
structure PartStands (P Q : Part) : Prop where
  pc : Q.plan.pc = P.plan.pc
  step : Q.plan.step = P.plan.step
  spares : Q.plan.spares = P.plan.spares
  sf : Q.plan.sf = P.plan.sf
  faulted : P.plan.st = .faulted → Q.plan.st = .faulted
  stepStart : Q.clock.stepStart = P.clock.stepStart
  beat : Q.clock.beat = P.clock.beat
  active : Q.frame.active = P.frame.active
  target : Q.frame.target = P.frame.target
  shadow : P.frame.shadow = .open_ → Q.frame.shadow = .open_

theorem PartStands.refl (P : Part) : PartStands P P := ⟨rfl, rfl, rfl, rfl, id, rfl, rfl, rfl, rfl, id⟩

theorem PartStands.trans {P Q R : Part} (h : PartStands P Q) (k : PartStands Q R) : PartStands P R :=
  ⟨k.pc.trans h.pc, k.step.trans h.step, k.spares.trans h.spares, k.sf.trans h.sf, k.faulted ∘ h.faulted,
    k.stepStart.trans h.stepStart, k.beat.trans h.beat, k.active.trans h.active, k.target.trans h.target, k.shadow ∘ h.shadow⟩

theorem Beside.stands {P Q : Part} (h : Beside P Q) : PartStands P Q := by
  refine ⟨?_, ?_, ?_, ?_, fun hf => ?_, ?_, ?_, h.active, h.target, h.shadow⟩ <;> simp only [h.plan, h.clock]
  exact hf

/-- Every partition and every tile stands where it stood. -/
structure Stands (s t : State) : Prop where
  hall : t.hall = s.hall
  groups : t.groups = s.groups
  part : ∀ q, PartStands (s.part q) (t.part q)
  tile : ∀ k, TileStands (s.tile k) (t.tile k)

section
variable {s t : State}

theorem Stands.refl (s : State) : Stands s s := ⟨rfl, rfl, fun _ => .refl _, fun _ => .refl _⟩

theorem Stands.trans {u : State} (h : Stands s t) (k : Stands t u) : Stands s u :=
  ⟨k.hall.trans h.hall, k.groups.trans h.groups, fun q => (h.part q).trans (k.part q), fun n => (h.tile n).trans (k.tile n)⟩

theorem Aside.stands (h : Aside s t) : Stands s t :=
  ⟨h.hall, h.groups, fun q => (h.part q).stands, fun k => by rw [State.tile, State.tile, h.tiles]; exact .refl _⟩

/-- What the units beside a plan do. -/
theorem Stands.aside {u : State} (h : Stands s t) (k : Aside t u) : Stands s u := h.trans k.stands

/-- A write of a partition's record that leaves where its plan stands. -/
theorem Stands.updPart {p f} (h : Stands s t)
    (hf : ∀ P, PartStands P (f P) := by exact fun _ => ⟨rfl, rfl, rfl, rfl, id, rfl, rfl, rfl, rfl, id⟩) :
    Stands s (t.updPart p f) := by
  refine ⟨h.hall, h.groups, fun q => (h.part q).trans ?_, h.tile⟩
  rw [part_updPart]
  split
  · next e => exact e ▸ hf _
  · exact .refl _

theorem Stands.foldl {α : Type} {f : State → α → State} {l : List α} (h : Stands s t)
    (hf : ∀ {u x}, Stands s u → Stands s (f u x)) : Stands s (l.foldl f t) := by
  induction l generalizing t with
  | nil => exact h
  | cons x l ih => exact ih (hf h)

theorem Stands.ite {c : Prop} {_ : Decidable c} {a b : State} (ha : Stands s a) (hb : Stands s b) :
    Stands s (if c then a else b) := by
  split
  · exact ha
  · exact hb

/-- A function of the state applied to what the model names with `let`. -/
theorem Stands.via {u v : State} (k : Stands s u → Stands s v) (h : Stands s u) : Stands s v := k h

/-! ### Stops -/

theorem Stands.logEv {e affects} (h : Stands s t) : Stands s (t.logEv e affects) := h.aside (.logEv <| .refl _)

theorem Stands.reportLocal {p cls omodule okind oindex detail} (h : Stands s t) :
    Stands s (t.reportLocal p cls omodule okind oindex detail) := h.aside (.reportLocal <| .refl _)

theorem Stands.flushSlips {p} (h : Stands s t) : Stands s (t.flushSlips p) := .updPart <| h.foldl (·.logEv)

theorem Stands.fence {p} (h : Stands s t) : Stands s (t.fence p) :=
  .aside h.updPart (.refreshFn <| .stkFence <| .refl _)

theorem Stands.onTiles {ts} {f : Tile → Tile} (h : Stands s t) (hf : ∀ x, TileStands x (f x)) : Stands s (t.onTiles ts f) := by
  refine h.foldl fun {u n} k => ⟨k.hall, k.groups, k.part, fun j => (k.tile j).trans ?_⟩
  rw [tile_updTile]
  split
  · next e => exact e ▸ hf _
  · exact .refl _

theorem Stands.freezeUnits {p} (h : Stands s t) : Stands s (t.freezeUnits p) :=
  .aside (Stands.updPart <| h.onTiles tileStands_stopTile) (.set <| .refl _)

theorem Stands.stopFrames {p} (h : Stands s t) : Stands s (t.stopFrames p) := h.aside (.stopFrames <| .refl _)

theorem Stands.faultStop {p} (h : Stands s t) : Stands s (t.faultStop p) := by
  unfold State.faultStop
  exact .stopFrames <| .freezeUnits <| .fence <| h.flushSlips.updPart fun _ =>
    ⟨rfl, rfl, rfl, rfl, fun _ => rfl, rfl, rfl, rfl, rfl, id⟩

/-- A fault stop leaves the plan FAULTED (R72). -/
theorem faulted_faultStop (s : State) (p : Nat) : ((s.faultStop p).part p).plan.st = .faulted := by
  have h : Stands ((s.flushSlips p).updPlan p fun x => { x with st := .faulted, stopReq := false, rebind := none })
      (s.faultStop p) := .stopFrames <| .freezeUnits <| .fence <| .refl _
  exact (h.part p).faulted (by rw [part_updPlan_self])

end

end Sys2Proof.Machine
end

section
/-! PROOFS. A beat at its landing buffer (O20): the buffer after it, and the stops it can cause. -/

namespace Sys2Proof.Machine

open State

/-! ### Stops of a running plan -/

/-- A stop on an uncorrectable error leaves a running plan FAULTED, and every step where it stood. -/
theorem stands_ueStop (s : State) (p cls : Nat) (detail : List Byte) : Stands s (s.ueStop p cls detail) :=
  .ite (.reportLocal <| .faultStop <| .refl _) (.refl _)

theorem faulted_ueStop (s : State) (p cls : Nat) (detail : List Byte) (hr : (s.part p).plan.st = .running) :
    ((s.ueStop p cls detail).part p).plan.st = .faulted := by
  rw [ueStop, if_pos hr]
  exact ((Stands.refl (s.faultStop p)).reportLocal.part p).faulted (faulted_faultStop s p)

/-- An uncorrectable error logged and then stopped on. -/
theorem ueStop_after {s t : State} {p cls : Nat} {detail : List Byte} (h : Aside s t) (hr : (s.part p).plan.st = .running) :
    ((t.ueStop p cls detail).part p).plan.st = .faulted ∧ ((t.ueStop p cls detail).part p).plan.sf = (s.part p).plan.sf ∧
      ∀ k, ((t.ueStop p cls detail).tile k).lands = (s.tile k).lands := by
  have hs := h.stands.trans (stands_ueStop t p cls detail)
  exact ⟨faulted_ueStop t p cls detail (by rw [(h.part p).plan]; exact hr), (hs.part p).sf, fun k => (hs.tile k).lands⟩

/-- A first failed check is recorded and logged (R72, R75). -/
def State.recordFail (s : State) (p : Nat) (f : SchedFail) : State :=
  ((s.updPlan p fun x => { x with sf := recOfFail f s.hall false, failOpen := true }).logTile f.tile
    { cls := f.cls, part := p, stopped := true, tick := f.tick, detail := failDetail f }).raiseEv p evPlan

theorem plan_recordFail (s : State) (p : Nat) (f : SchedFail) : ((s.recordFail p f).part p).plan =
    { (s.part p).plan with sf := recOfFail f s.hall false, failOpen := true } := by
  have h : Aside (s.updPlan p fun x => { x with sf := recOfFail f s.hall false, failOpen := true }) (s.recordFail p f) :=
    .raiseEv <| .logTile <| .refl _
  rw [(h.part p).plan, part_updPlan_self]

theorem tiles_recordFail (s : State) (p : Nat) (f : SchedFail) : (s.recordFail p f).tiles = s.tiles := by
  have h : Aside (s.updPlan p fun x => { x with sf := recOfFail f s.hall false, failOpen := true }) (s.recordFail p f) :=
    .raiseEv <| .logTile <| .refl _
  exact h.tiles

theorem schedFail_first_eq (s : State) (p : Nat) (f : SchedFail) (hv : (s.part p).plan.sf.valid = false)
    (hr : (s.part p).plan.st = .running) : s.schedFail p [f] =
      ((s.recordFail p f).faultStop p).reportLocal p f.cls (s.recordFail p f).moduleId 1 p
        ((failDetail f).drop 8 |>.take 8) := by
  simp only [schedFail, List.foldl_cons, List.foldl_nil, hr, hv, if_true, Bool.false_eq_true, if_false]
  rfl

/-- The first failed check of a running plan with no record yet: it is recorded, and the plan stops (R72 to R75). -/
theorem schedFail_first (s : State) (p : Nat) (f : SchedFail) (hv : (s.part p).plan.sf.valid = false)
    (hr : (s.part p).plan.st = .running) :
    ((s.schedFail p [f]).part p).plan.st = .faulted ∧
      ((s.schedFail p [f]).part p).plan.sf = recOfFail f s.hall false ∧
      ∀ k, (s.tile k).wait = none → ((s.schedFail p [f]).tile k).wait = none := by
  have hs : Stands (s.recordFail p f) (s.schedFail p [f]) := by
    rw [schedFail_first_eq s p f hv hr]
    exact .reportLocal <| .faultStop <| .refl _
  refine ⟨?_, ?_, fun k hk => (hs.tile k).wait ?_⟩
  · rw [schedFail_first_eq s p f hv hr]
    exact ((Stands.refl _).reportLocal.part p).faulted (faulted_faultStop _ p)
  · rw [(hs.part p).sf, plan_recordFail]
  · rw [State.tile, tiles_recordFail]
    exact hk

/-! ### The beat -/

/-- The beat taken is one that satisfies the test. -/
theorem of_takeBeat {f : Beat → Bool} {l : List Beat} {b : Beat} {rest : List Beat} (h : takeBeat f l = some (b, rest)) :
    f b = true := by
  induction l generalizing rest with
  | nil => simp [takeBeat] at h
  | cons c l ih =>
    rw [takeBeat] at h
    split at h
    · next hc =>
      cases h
      exact hc
    · cases he : takeBeat f l with
      | none => simp [he] at h
      | some x =>
        simp only [he, Option.map_some, Option.some.injEq, Prod.mk.injEq] at h
        exact ih (rest := x.2) (by rw [he, ← h.1])

/-- A bundle that does not wait is not resumed. -/
theorem resume_of_wait_none (s : State) (k : Nat) (h : (s.tile k).wait = none) : s.resume k = s := by
  rw [resume, if_neg (by simp [Tile.waitOver, h])]

/-- A tile after a beat its buffer takes (R48). -/
def landTile (b : Beat) (x : Tile) : Tile :=
  let y := x.land b.landing
  let t := { x with lands := tabSet {} x.lands b.landing (landStep y b (x.wait = some (.landing b.landing))) }
  if b.off < y.size then t.wrLs (y.base + b.off) b.bytes else t

theorem land_landTile_self (b : Beat) (x : Tile) : (landTile b x).land b.landing =
    landStep (x.land b.landing) b (x.wait = some (.landing b.landing)) := by
  dsimp only [landTile]
  split
  · exact tabGet_tabSet_self _ _ _ _
  · exact tabGet_tabSet_self _ _ _ _

theorem land_landTile_ne (b : Beat) (x : Tile) {m : Nat} (h : m ≠ b.landing) : (landTile b x).land m = x.land m := by
  dsimp only [landTile]
  split
  · exact tabGet_tabSet_ne _ _ _ h
  · exact tabGet_tabSet_ne _ _ _ h

theorem wait_landTile (b : Beat) (x : Tile) : (landTile b x).wait = x.wait := by
  dsimp only [landTile]
  split <;> rfl

theorem store_landTile_of_lt (b : Beat) (x : Tile) (h : b.off < (x.land b.landing).size) :
    (landTile b x).store = (x.wrLs ((x.land b.landing).base + b.off) b.bytes).store := by
  rw [landTile, if_pos h]
  rfl

theorem store_landTile_of_le (b : Beat) (x : Tile) (h : (x.land b.landing).size ≤ b.off) : (landTile b x).store = x.store := by
  rw [landTile, if_neg (by omega)]

/-- A declared buffer that is EMPTY, or FILLING from the beat's transfer, takes the beat of a running plan. -/
theorem landBeat_taken (s : State) (b : Beat) (hs : 0 < ((s.tile b.tile).land b.landing).size)
    (hb : landBad ((s.tile b.tile).land b.landing) b = none) (hr : (s.part b.part).plan.st = .running) :
    s.landBeat b = s.updTile b.tile (landTile b) := by
  rw [landBeat, if_neg (by omega), hb]
  simp only [hr, ne_eq, not_true_eq_false, if_false]
  refine congrArg (fun x => { s with tiles := tabSet {} s.tiles b.tile x }) ?_
  rfl

/-- Any other declared buffer fails LANDING_OVERRUN (R53). -/
theorem landBeat_overrun (s : State) (b : Beat) {d : Nat} (hs : 0 < ((s.tile b.tile).land b.landing).size)
    (hb : landBad ((s.tile b.tile).land b.landing) b = some d) :
    s.landBeat b = s.schedFail b.part [{ cls := cLandingOverrun, tile := b.tile, slot := sLand
                                         tick := (s.part b.part).plan.pc, src := b.src, detLo := b.landing, detMid := d }] := by
  rw [landBeat, if_neg (by omega), hb]

theorem landBad_eq_none {y : Landing} {b : Beat} (h : y.st = .empty ∨ (y.st = .filling ∧ y.xfer = b.xfer)) :
    landBad y b = none := by
  obtain h | ⟨h, hx⟩ := h
  · simp [landBad, h]
  · simp [landBad, h, hx]

theorem landBad_eq_some {y : Landing} {b : Beat} (h : y.st = .valid ∨ (y.st = .filling ∧ y.xfer ≠ b.xfer)) :
    landBad y b = some (if y.st = .valid then 0 else 1) := by
  obtain h | ⟨h, hx⟩ := h
  · simp [landBad, h]
  · simp [landBad, h, hx]

/-- An uncorrectable error of a beat stops the plan it is of and leaves its record and every buffer (R162). -/
theorem beatUe_running (s : State) (b : Beat) (hr : (s.part b.part).plan.st = .running) :
    ((s.beatUe b).part b.part).plan.st = .faulted ∧ ((s.beatUe b).part b.part).plan.sf = (s.part b.part).plan.sf ∧
      ∀ k, ((s.beatUe b).tile k).lands = (s.tile k).lands := by
  have hc : (s.part b.part).plan.checks = true := by simp [Plan.checks, hr]
  rw [beatUe, if_pos hc]
  exact ueStop_after (.logTile <| .refl s) hr

/-- Settles O20: by the kind of error, and then by whether the buffer takes the beat. -/
theorem beatsFillLandingBuffers : Obligations.BeatsFillLandingBuffers := by
  unfold Obligations.BeatsFillLandingBuffers
  intro s b rest k l hb x y hsize hwait hrun
  obtain ⟨hk, hl⟩ : b.tile = k.val ∧ b.landing = l.val := by
    obtain ⟨hk, hl, -⟩ := of_decide_eq_true (of_takeBeat hb)
    exact ⟨hk, hl⟩
  obtain ⟨u, hu⟩ : ∃ u : State, u = { s with beats := rest } := ⟨_, rfl⟩
  have hnone : exec (.landingBeat k l .none) s = .next ((u.landBeat b).resume k) := by
    simp only [exec, execLandingBeat, hb, hu]
  have hue : exec (.landingBeat k l .uncorrectable) s = .next (u.beatUe b) := by
    simp only [exec, execLandingBeat, hb, hu]
  have hx : u.tile b.tile = x := by rw [hu, hk]; rfl
  have hy : (u.tile b.tile).land b.landing = y := by rw [hx, hl]
  have hsize' : 0 < ((u.tile b.tile).land b.landing).size := by rw [hy]; exact hsize
  have hrun' : (u.part b.part).plan.st = .running := by rw [hu]; exact hrun
  refine ⟨fun hst => ?_, fun hv hst => ?_, ?_⟩
  · have he := landBeat_taken u b hsize' (by rw [hy]; exact landBad_eq_none hst) hrun'
    have ht : (u.updTile b.tile (landTile b)).tile k = landTile b x := by rw [← hk, tile_updTile_self, hx]
    have hw : ((u.updTile b.tile (landTile b)).tile k).wait = none := by rw [ht, wait_landTile]; exact hwait
    have hnext : exec (.landingBeat k l .none) s = .next (u.updTile b.tile (landTile b)) := by
      rw [hnone, he, resume_of_wait_none _ _ hw]
    refine ⟨_, hnext, by rw [hu]; rfl, fun j hj => ?_, ?_, fun m hm => ?_, fun ho => ?_, fun ho => ?_⟩
    · rw [tile_updTile_ne _ _ (by omega), hu]
      rfl
    · rw [ht, ← hl, land_landTile_self, hwait]
      simp only [landStep, hl]
      rfl
    · rw [ht, land_landTile_ne _ _ (by omega)]
    · rw [ht, store_landTile_of_lt _ _ (by rw [hl]; exact ho), hl]
    · rw [ht, store_landTile_of_le _ _ (by rw [hl]; exact ho)]
  · have he := landBeat_overrun u b hsize' (by rw [hy]; exact landBad_eq_some hst)
    obtain ⟨hf, hsf, hw⟩ := schedFail_first u b.part
      { cls := cLandingOverrun, tile := b.tile, slot := sLand, tick := (u.part b.part).plan.pc, src := b.src
        detLo := b.landing, detMid := if y.st = .valid then 0 else 1 } (by rw [hu]; exact hv) hrun'
    rw [← he] at hf hsf hw
    have hnext : exec (.landingBeat k l .none) s = .next (u.landBeat b) := by
      rw [hnone, resume_of_wait_none _ _ (hw k (by rw [← hk, hx]; exact hwait))]
    refine ⟨_, hnext, hf, ?_⟩
    rw [hsf]
    exact ⟨rfl, hl, rfl, rfl⟩
  · obtain ⟨hf, hsf, hlands⟩ := beatUe_running u b hrun'
    refine ⟨_, hue, hf, ?_, fun m => ?_⟩
    · rw [hsf, hu]
      rfl
    · rw [Tile.land, hlands, ← hk, hx]
      rfl

end Sys2Proof.Machine
end

section
/-! PROOFS. The passage from one step to the next (O22). `Ends s t`: a plan tick with nothing in flight in the tiles has ended.
`Closes s t`: a step has been closed, up to where the boundary binds, flips and begins the next step. `Stands` takes the state
from there on. -/

namespace Sys2Proof.Machine

open State

/-! ### The end of a plan tick with nothing in flight -/

/-- What the end of a quiet plan tick leaves of a tile. -/
structure TileCloses (x y : Tile) : Prop where
  lands : y.lands = x.lands
  flue : y.flue = x.flue
  wait : y.wait = x.wait
  mbox : y.mbox = x.mbox
  mboxIn : y.mboxIn = x.mboxIn
  loops : y.loops = x.loops
  work : x.work = [] → y.work = []
  accs : x.accs = [] → y.accs = []
  ended : x.ended = true → y.ended = true

theorem TileCloses.refl (x : Tile) : TileCloses x x := ⟨rfl, rfl, rfl, rfl, rfl, rfl, id, id, id⟩

theorem TileCloses.trans {x y z : Tile} (h : TileCloses x y) (k : TileCloses y z) : TileCloses x z :=
  ⟨k.lands.trans h.lands, k.flue.trans h.flue, k.wait.trans h.wait, k.mbox.trans h.mbox, k.mboxIn.trans h.mboxIn,
    k.loops.trans h.loops, k.work ∘ h.work, k.accs ∘ h.accs, k.ended ∘ h.ended⟩

/-- A plan tick has ended: tiles moved on, and the tracks dropped what collided on them. -/
structure Ends (s t : State) : Prop where
  rest : t = { s with tiles := t.tiles, beats := t.beats, egBeats := t.egBeats }
  eg : ∀ e ∈ t.egBeats, e ∈ s.egBeats
  tile : ∀ k, TileCloses (s.tile k) (t.tile k)

theorem Ends.refl (s : State) : Ends s s := ⟨rfl, fun _ => id, fun _ => .refl _⟩

/-- Nothing of the running plan is in flight in a tile, and no loop of it is due. -/
structure Still (s : State) (p : Nat) : Prop where
  running : (s.part p).plan.st = .running
  work : ∀ k ∈ s.tilesOf p, (s.tile k).work = []
  accs : ∀ k ∈ s.tilesOf p, (s.tile k).accs = []
  loops : ∀ k ∈ s.tilesOf p, (s.tile k).ended = true ∨ (s.tile k).loops = []
  eg : ∀ e ∈ s.egBeats, e.part ≠ p

section
variable {s t : State} {p : Nat}

theorem Ends.trans {u : State} (h : Ends s t) (k : Ends t u) : Ends s u := by
  refine ⟨?_, fun e he => h.eg e (k.eg e he), fun n => (h.tile n).trans (k.tile n)⟩
  rw [k.rest, h.rest]

theorem Ends.part (h : Ends s t) (q : Nat) : t.part q = s.part q := by rw [h.rest]; rfl

theorem Ends.hall (h : Ends s t) : t.hall = s.hall := by rw [h.rest]

theorem Ends.tilesOf (h : Ends s t) (q : Nat) : t.tilesOf q = s.tilesOf q := by rw [h.rest]; rfl

theorem Ends.updTile {n : Nat} {f : Tile → Tile} (h : Ends s t) (hf : ∀ x, TileCloses x (f x)) : Ends s (t.updTile n f) := by
  refine h.trans ⟨rfl, fun _ => id, fun k => ?_⟩
  rw [tile_updTile]
  split
  · next e => exact e ▸ hf _
  · exact .refl _

theorem Ends.still (h : Ends s t) (k : Still s p) : Still t p := by
  refine ⟨by rw [h.part]; exact k.running, ?_, ?_, ?_, fun e he => k.eg e (h.eg e he)⟩ <;> rw [h.tilesOf] <;> intro n hn
  · exact (h.tile n).work (k.work n hn)
  · exact (h.tile n).accs (k.accs n hn)
  · rw [(h.tile n).loops]
    exact (k.loops n hn).imp_left (h.tile n).ended

theorem still_of_quiet (hr : (s.part p).plan.st = .running) (hq : s.quiet p = true)
    (hl : ∀ k ∈ s.tilesOf p, (s.tile k).ended = true ∨ (s.tile k).loops = []) : Still s p := by
  simp only [quiet, Bool.and_eq_true, List.all_eq_true, List.isEmpty_iff, bne_iff_ne] at hq
  exact ⟨hr, fun k hk => (hq.1 k hk).1, fun k hk => (hq.1 k hk).2, hl, hq.2⟩

theorem Still.quiet (h : Still s p) : s.quiet p = true := by
  simp only [State.quiet, Bool.and_eq_true, List.all_eq_true, List.isEmpty_iff, bne_iff_ne]
  exact ⟨fun k hk => ⟨h.work k hk, h.accs k hk⟩, h.eg⟩

/-- A tile with no work ends the tick (R79, R86). -/
theorem ends_endTick {pc n : Nat} (hw : (s.tile n).work = []) :
    Ends s (s.endTick p pc n) ∧ ((s.endTick p pc n).tile n).ended = true := by
  unfold endTick
  split
  · next he => exact ⟨.refl _, he⟩
  · have ho : ((List.range 4).flatMap fun r => ((s.tile n).work.filter fun w => w.tick = pc && !isStart w.act).filter
        fun w => actRank w.act = r) = [] := by simp [hw]
    simp only [ho, List.foldl_nil]
    exact ⟨.updTile (.refl _) fun x => ⟨rfl, rfl, rfl, rfl, rfl, rfl, fun h => by simp [h], fun _ => rfl, fun _ => rfl⟩,
      by rw [tile_updTile_self]⟩

theorem ends_endTicks {pc : Nat} (l : List Nat) (hw : ∀ k ∈ l, (s.tile k).work = []) :
    Ends s (l.foldl (fun s n => s.endTick p pc n) s) := by
  induction l generalizing s with
  | nil => exact .refl _
  | cons n l ih =>
    have h := (ends_endTick (s := s) (p := p) (pc := pc) (hw n List.mem_cons_self)).1
    exact h.trans (ih fun k hk => (h.tile k).work (hw k (List.mem_cons_of_mem _ hk)))

theorem ends_trackTick {pc : Nat} : Ends s (s.trackTick p pc) :=
  ⟨rfl, fun _ he => (List.mem_filter.mp he).1, fun _ => .refl _⟩

/-- No loop is entered in a tile that has ended its tick or has no loop (R86). -/
theorem Still.enterAll (h : Still s p) : s.enterAll p = s := by
  have key (l : List Nat) (hl : ∀ k ∈ l, k ∈ s.tilesOf p) : l.foldl (fun s n => s.enterDue p n 7) s = s := by
    induction l with
    | nil => rfl
    | cons n l ih =>
      have hd (pc stop : Nat) : (s.tile n).dueLoop pc stop = none := by
        obtain he | he := h.loops n (hl n List.mem_cons_self)
        · simp [Tile.dueLoop, Tile.bundleDue, he]
        · simp [Tile.dueLoop, he]
      have hn : s.enterDue p n 7 = s := by simp [enterDue, hd]
      rw [List.foldl_cons, hn]
      exact ih fun k hk => hl k (List.mem_cons_of_mem _ hk)
  exact key _ fun _ => id

/-- A tile with nothing in flight fails no check. -/
theorem tileFails_of_idle {x : Tile} {k pc : Nat} (hw : x.work = []) (ha : x.accs = []) : tileFails x k pc = [] := by
  have hb (b : Nat) : bankFail k pc b [] = none := rfl
  unfold tileFails
  rw [hw, ha]
  exact List.append_eq_nil_iff.mpr ⟨List.filterMap_eq_nil_iff.mpr fun b _ => hb b, rfl⟩

theorem Still.closeFails (h : Still s p) (pc : Nat) : s.closeFails p pc = [] := by
  rw [State.closeFails, List.flatMap_eq_nil_iff]
  intro k hk
  rw [tileFails_of_idle (h.work k hk) (h.accs k hk), ite_self]

theorem Still.eccAll (h : Still s p) (pc : Nat) : s.eccAll p pc = [] := by
  rw [State.eccAll, List.flatMap_eq_nil_iff]
  intro k hk
  simp [eccDue, h.work k hk]

/-- The plan tick of a quiet partition ends. -/
theorem Still.closeTick (h : Still s p) : Ends s (s.closeTick p) := by
  have he := ends_trackTick (s := s) (p := p) (pc := (s.part p).plan.pc)
  unfold State.closeTick
  simp only [h.enterAll, h.closeFails, h.eccAll, List.foldl_nil, List.find?_nil, he.part, h.running, ne_eq, not_true_eq_false,
    if_false, he.tilesOf]
  exact he.trans (ends_endTicks _ fun k hk => (he.tile k).work (h.work k hk))

theorem Ends.of_hall {h : Nat} (e : Ends { s with hall := h } t) : Ends s { t with hall := s.hall } :=
  ⟨congrArg (fun x : State => { x with hall := s.hall }) e.rest, e.eg, e.tile⟩

theorem Still.atBeat (h : Still s p) : Ends s (s.atBeat p fun s => s.closeTick p) := by
  have k : Still { s with hall := ((s.part p).clock.lastBeat).getD s.hall } p := ⟨h.1, h.2, h.3, h.4, h.5⟩
  exact k.closeTick.of_hall

theorem Still.runOut (h : Still s p) (last fuel : Nat) : s.runOut p last fuel = s := by
  cases fuel with
  | zero => rfl
  | succ n => rw [State.runOut, if_pos (.inr (.inr h.quiet))]

end

end Sys2Proof.Machine
end

section
/-! PROOFS. The parts of the passage of a boundary (O22): the closing of the step, the binding that waited, and the entry of
the next step. -/

namespace Sys2Proof.Machine

open State

/-! ### The closing of a step -/

/-- Two records of a partition with one plan, one count of beats and one shadow buffer. -/
structure PartCloses (P Q : Part) : Prop where
  plan : Q.plan = P.plan
  beat : Q.clock.beat = P.clock.beat
  shadowBuf : Q.frame.shadowBuf = P.frame.shadowBuf

theorem PartCloses.refl (P : Part) : PartCloses P P := ⟨rfl, rfl, rfl⟩

/-- A step has been closed. -/
structure Closes (s t : State) : Prop where
  hall : t.hall = s.hall
  groups : t.groups = s.groups
  part : ∀ q, PartCloses (s.part q) (t.part q)
  tile : ∀ k, TileCloses (s.tile k) (t.tile k)

theorem tileCloses_settleDraws (x : Tile) : TileCloses x (settleDraws x) := by
  rw [settleDraws_eq]
  exact ⟨rfl, rfl, rfl, rfl, rfl, rfl, id, id, id⟩

section
variable {s t : State} {p : Nat}

theorem Closes.refl (s : State) : Closes s s := ⟨rfl, rfl, fun _ => .refl _, fun _ => .refl _⟩

theorem Closes.trans {u : State} (h : Closes s t) (k : Closes t u) : Closes s u :=
  ⟨k.hall.trans h.hall, k.groups.trans h.groups, fun q => ⟨(k.part q).plan.trans (h.part q).plan,
    (k.part q).beat.trans (h.part q).beat, (k.part q).shadowBuf.trans (h.part q).shadowBuf⟩, fun n => (h.tile n).trans (k.tile n)⟩

theorem Ends.closes (h : Ends s t) : Closes s t :=
  ⟨h.hall, by rw [h.rest], fun q => by rw [h.part]; exact .refl _, h.tile⟩

theorem Closes.aside {u : State} (h : Closes s t) (k : Aside t u) : Closes s u :=
  h.trans ⟨k.hall, k.groups, fun q => ⟨(k.part q).plan, by rw [(k.part q).clock], (k.part q).shadowBuf⟩,
    fun n => by rw [State.tile, State.tile, k.tiles]; exact .refl _⟩

theorem Closes.updPart {q f} (h : Closes s t) (hf : ∀ P, PartCloses P (f P) := by exact fun _ => ⟨rfl, rfl, rfl⟩) :
    Closes s (t.updPart q f) := by
  refine h.trans ⟨rfl, rfl, fun r => ?_, fun _ => .refl _⟩
  rw [part_updPart]
  split
  · next e => exact e ▸ hf _
  · exact .refl _

theorem Closes.ite {c : Prop} {_ : Decidable c} {a b : State} (ha : Closes s a) (hb : Closes s b) :
    Closes s (if c then a else b) := by
  split
  · exact ha
  · exact hb

theorem Closes.onTiles {ts} {f : Tile → Tile} (h : Closes s t) (hf : ∀ x, TileCloses x (f x)) : Closes s (t.onTiles ts f) := by
  unfold State.onTiles
  induction ts generalizing t with
  | nil => exact h
  | cons n ts ih =>
    refine ih (h.trans ⟨rfl, rfl, fun _ => .refl _, fun k => ?_⟩)
    rw [tile_updTile]
    split
    · next e => exact e ▸ hf _
    · exact .refl _

theorem Closes.endWork {q} (h : Closes s t) : Closes s (t.endWork q) := .ite (.updPart h.updPart) h.updPart

theorem Aside.stepDigest {q n} (h : Aside s t) : Aside s (t.stepDigest q n) :=
  .ite (.updPart h.updPart) (.ite (.sendCtlOf h.updPart) h.updPart)

theorem Aside.compareDigs {q n} (h : Aside s t) : Aside s (t.compareDigs q n) := by
  unfold State.compareDigs
  refine h.foldl fun {u o} k => ?_
  dsimp only
  split
  · exact .ite k.updPart k.updPart
  · exact .ite k.updPart k

/-- The state in which the plan tick before the boundary has ended and the work of the step with it. -/
def State.workEnded (s : State) (p : Nat) : State :=
  let s := s.atBeat p fun s => s.closeTick p
  if (s.part p).clock.workDone then s else s.endWork p

/-- What a boundary does to the step it ends: its digest, and the draws that nothing awaited. -/
def State.closeStep (s : State) (p n : Nat) : State :=
  let s := ((s.workEnded p).stepDigest p n).compareDigs p n
  s.onTiles (s.tilesOf p) fun t => settleDraws t

theorem Still.workEnded (h : Still s p) : Closes s (s.workEnded p) := by
  unfold State.workEnded
  exact .ite h.atBeat.closes h.atBeat.closes.endWork

theorem Still.closeStep (h : Still s p) (n : Nat) : Closes s (s.closeStep p n) :=
  .onTiles (h.workEnded.aside <| .compareDigs <| .stepDigest <| .refl _) tileCloses_settleDraws

theorem Closes.tilesOf (h : Closes s t) (q : Nat) : t.tilesOf q = s.tilesOf q := by
  unfold State.tilesOf State.groupsOf State.owns State.group
  rw [h.groups]

theorem Closes.boundaryFails (h : Closes s t) (tick : Nat) : t.boundaryFails p tick = s.boundaryFails p tick := by
  simp only [State.boundaryFails, h.tilesOf, (h.tile _).lands]

/-- Whether an entry of the partition failed with nothing to await it (R184). -/
theorem Closes.badEntry (h : Closes s t) : ((t.tilesOf p).findSome? fun k =>
      ((t.tile k).flue.find? fun e => e.2.used && e.2.failed && !e.2.awaited).map (·.2)) =
    (s.tilesOf p).findSome? fun k => ((s.tile k).flue.find? fun e => e.2.used && e.2.failed && !e.2.awaited).map (·.2) := by
  simp only [h.tilesOf, (h.tile _).flue]

/-! ### The binding that waits -/

/-- A plan takes the binding that waits for the boundary (R61). -/
def State.bindNext (s : State) (p : Nat) : State :=
  match (s.part p).plan.rebind with
  | some sp => (s.setBinding p sp).updPlan p fun x => { x with rebind := none }
  | none => s

theorem bindNext_eq (s : State) (p : Nat) : s.bindNext p = { s with parts := (s.bindNext p).parts } := by
  unfold State.bindNext
  split <;> rfl

theorem part_bindNext (s : State) (p : Nat) : (s.bindNext p).part p = { s.part p with plan := { (s.part p).plan with
    rebind := ((s.bindNext p).part p).plan.rebind, spares := ((s.bindNext p).part p).plan.spares
    spareMin := ((s.bindNext p).part p).plan.spareMin, spareHop := ((s.bindNext p).part p).plan.spareHop } } := by
  unfold State.bindNext
  split
  · simp [setBinding]
  · rfl

theorem spares_bindNext (s : State) (p : Nat) {sp : List Nat} (h : (s.part p).plan.rebind = some sp) :
    ((s.bindNext p).part p).plan.spares = sp := by
  simp [State.bindNext, h, setBinding]

/-! ### The passage -/

/-- The partition's tiles at the boundary (R48, R83, R98, R99). -/
def State.tileBoundary (s : State) (p : Nat) : State := s.onTiles (s.tilesOf p) (boundaryTile s.hall)

/-- Plan and clock at the start of step `n` (R225, R346). -/
def State.startStep (s : State) (p n len b : Nat) : State :=
  let s := s.updPlan p fun x => { x with pc := n * len, step := n, circuits := [], passes := [] }
  s.updClock p fun c =>
    { c with stepStart := s.hall, lag := b - c.g len n, stepHeld := 0, workDone := false, inHold := false, bndLate := false }

/-- The state in which the next step stands before its first plan tick begins. -/
def State.enterStep (s : State) (p n len b : Nat) : State :=
  (((s.flip p n).tileBoundary p).boundaryRest p n).startStep p n len b

/-- The first plan tick of a step begins, and the projection of the schedule goes on from it (R348, R349). -/
def State.beginStep (s : State) (p tick b : Nat) : State :=
  let s := s.openTick p tick
  (if (s.part p).plan.st = .running then s.slipProject p b else s).fixNext p b

/-- The passage of a boundary whose checks all pass. -/
def State.crossBoundary (s : State) (p n len b : Nat) : State :=
  let s := (s.closeStep p (n - 1)).bindNext p
  if (s.part p).plan.stopReq then s.stopPlan p else (s.enterStep p n len b).beginStep p (n * len) b

/-- A boundary with its conditions met: the step is closed, the binding taken, and the plan stops or enters the next step. -/
theorem Still.passBoundary (h : Still s p) {b : Nat}
    (hf : s.boundaryFails p (((s.part p).plan.step + 1) * (s.part p).plan.stepLen) = [])
    (hb : ((s.tilesOf p).findSome? fun k =>
      ((s.tile k).flue.find? fun e => e.2.used && e.2.failed && !e.2.awaited).map (·.2)) = none) :
    s.passBoundary p b = s.crossBoundary p ((s.part p).plan.step + 1) (s.part p).plan.stepLen b := by
  unfold State.passBoundary
  extract_lets n len u fails v bad w x y flipped tiled rest moved z
  have hu : u = s.atBeat p fun s => s.closeTick p := by
    unfold u
    rw [h.runOut]
  have hv : v = s.workEnded p := by rw [State.workEnded, ← hu]
  have hrun : (u.part p).plan.st = .running := by rw [hu, h.atBeat.part, h.running]
  have hfails : fails = [] := by
    unfold fails
    rw [hu, h.atBeat.closes.boundaryFails]
    exact hf
  have hbad : bad = none := by
    unfold bad
    rw [hv]
    exact h.workEnded.badEntry.trans hb
  have hx : x = s.closeStep p (n - 1) := by
    unfold x w
    rw [hv, State.closeStep]
  clear_value x
  have hy : y = (s.closeStep p (n - 1)).bindNext p := by
    rw [← hx]
    unfold y State.bindNext
    cases (x.part p).plan.rebind <;> rfl
  have hz : z = (y.enterStep p n len b).openTick p (n * len) := by
    rw [State.enterStep, State.tileBoundary, State.startStep]
  rw [if_neg (by rw [hrun]; simp), hbad, State.crossBoundary, ← hy, State.beginStep, ← hz]
  exact if_neg (by rw [hfails]; simp)

end

end Sys2Proof.Machine
end

section
/-! PROOFS. The entry of a step (O22): what the flip of the frame leaves (`Flips`), the first plan tick of a step, the slip
requests, and the statement. -/

namespace Sys2Proof.Machine

open State

/-! ### The flip of the frame -/

/-- A frame flip with its releases: no plan, no clock and no tile changes. -/
structure Flips (s t : State) : Prop where
  hall : t.hall = s.hall
  groups : t.groups = s.groups
  tiles : t.tiles = s.tiles
  plan : ∀ q, (t.part q).plan = (s.part q).plan
  clock : ∀ q, (t.part q).clock = (s.part q).clock

section
variable {s t : State}

theorem Flips.trans {u : State} (h : Flips s t) (k : Flips t u) : Flips s u :=
  ⟨k.hall.trans h.hall, k.groups.trans h.groups, k.tiles.trans h.tiles, fun q => (k.plan q).trans (h.plan q),
    fun q => (k.clock q).trans (h.clock q)⟩

theorem Aside.flips (h : Aside s t) : Flips s t :=
  ⟨h.hall, h.groups, h.tiles, fun q => (h.part q).plan, fun q => (h.part q).clock⟩

theorem Flips.updFrame {p : Nat} {f : Frame → Frame} (h : Flips s t) : Flips s (t.updFrame p f) := by
  refine h.trans ⟨rfl, rfl, rfl, fun q => ?_, fun q => ?_⟩ <;> rw [State.updFrame, part_updPart] <;> split <;> simp_all

theorem flips_flip (s : State) (p n : Nat) : Flips s (s.flip p n) := by
  unfold State.flip
  dsimp only
  split
  · exact (Aside.refl s).flips.updFrame
  · exact .updFrame <| .trans (.updFrame (Aside.abandonSeal <| .refl s).flips) (Aside.emptyFrame <| .refl _).flips

/-- The shadow frame's buffer becomes active (R225 item 2). -/
theorem active_flip (s : State) (p n : Nat) : ((s.flip p n).part p).frame.active = some (s.part p).frame.shadowBuf := by
  unfold State.flip
  dsimp only
  split <;> rw [State.updFrame, part_updPart_self]

/-- What precedes the opening of the next shadow frame at a boundary (R225 item 4, R245, R264). -/
def State.boundaryWork (s : State) (p n : Nat) : State :=
  let s := s.weightBoundary p n
  let live := s.liveStes p ((s.part p).frame.buf (n % 2))
  let s := if live ≠ [] ∧ (s.part p).wts.anyOpen
    then s.updWts p fun w => { w with swapViol := satInc 32 w.swapViol } else s
  s.bankBoundary p live

theorem boundaryRest_eq (s : State) (p n : Nat) : s.boundaryRest p n = (s.boundaryWork p n).afterFlip p n := by
  rw [boundaryRest, boundaryWork]

theorem Aside.boundaryWork {p n} (h : Aside s t) : Aside s (t.boundaryWork p n) := by
  unfold State.boundaryWork
  exact .bankBoundary <| .ite (.updPart h.weightBoundary) h.weightBoundary

/-- The shadow frame of the next step opens (R225, R228). -/
theorem afterFlip_eq (s : State) (p n : Nat) : ∃ u g, Aside s u ∧ Aside (u.updFrame p fun f =>
    { f with shadowBuf := (n + 1) % 2, shadow := .open_, target := n + 1, digest := g }) (s.afterFlip p n) :=
  ⟨_, _, .startReleases <| .freeReleasing <| .chargeFrame <| .refl s, .raiseCores <| .countSte <| .refl _⟩

theorem flips_afterFlip (s : State) (p n : Nat) : Flips s (s.afterFlip p n) := by
  obtain ⟨u, g, hu, hv⟩ := afterFlip_eq s p n
  exact hu.flips.updFrame.trans hv.flips

theorem frame_afterFlip (s : State) (p n : Nat) :
    ((s.afterFlip p n).part p).frame.active = (s.part p).frame.active ∧ ((s.afterFlip p n).part p).frame.target = n + 1 ∧
      ((s.afterFlip p n).part p).frame.shadow = .open_ := by
  obtain ⟨u, g, hu, hv⟩ := afterFlip_eq s p n
  have h := hv.part p
  rw [State.updFrame, part_updPart_self] at h
  exact ⟨h.active.trans (hu.part p).active, h.target, h.shadow rfl⟩

theorem flips_boundaryRest (s : State) (p n : Nat) : Flips s (s.boundaryRest p n) := by
  rw [boundaryRest_eq]
  exact (Aside.refl s).boundaryWork.flips.trans (flips_afterFlip _ p n)

theorem frame_boundaryRest (s : State) (p n : Nat) :
    ((s.boundaryRest p n).part p).frame.active = (s.part p).frame.active ∧
      ((s.boundaryRest p n).part p).frame.target = n + 1 ∧ ((s.boundaryRest p n).part p).frame.shadow = .open_ := by
  rw [boundaryRest_eq, ← ((Aside.refl s).boundaryWork.part p).active]
  exact frame_afterFlip _ p n

end

/-! ### The first plan tick of a step -/

/-- A tile with nothing in flight and no loop running. -/
structure TileIdle (x : Tile) : Prop where
  work : x.work = []
  flue : x.flue = []
  levels : ∀ e ∈ x.levels, e.2.running = false

/-- No tile of the partition has anything in flight, and no loop of it runs. -/
def Idle (s : State) (p : Nat) : Prop := ∀ k ∈ s.tilesOf p, TileIdle (s.tile k)

section
variable {s t : State} {p : Nat}

theorem Stands.tilesOf (h : Stands s t) (q : Nat) : t.tilesOf q = s.tilesOf q := by
  unfold State.tilesOf State.groupsOf State.owns State.group
  rw [h.groups]

/-- Loops that do not run stay where they are (R86). -/
theorem map_loopAt {l : Tab AgLevel} (q : Nat) (h : ∀ e ∈ l, e.2.running = false) :
    (l.map fun e => (e.1, loopAt e.2 q)) = l := by
  have hl : ∀ e ∈ l, (fun e : Nat × AgLevel => (e.1, loopAt e.2 q)) e = id e := fun e he => by simp [loopAt, h e he]
  rw [List.map_congr_left hl, List.map_id]

/-- An idle tile at the start of a plan tick. -/
def startedTile (q : Nat) (x : Tile) : Tile :=
  { x with levels := x.levels.map fun e => (e.1, loopAt e.2 q), ended := false, loopBad := false, slots := [], work := [] }

theorem tileStands_startedTile {x : Tile} (q : Nat) (h : TileIdle x) : TileStands x (startedTile q x) :=
  ⟨rfl, rfl, rfl, rfl, rfl, map_loopAt q h.levels, id, id⟩

theorem TileIdle.startedTile {x : Tile} (q : Nat) (h : TileIdle x) : TileIdle (startedTile q x) :=
  ⟨rfl, h.flue, by rw [(tileStands_startedTile q h).levels]; exact h.levels⟩

theorem startTick_idle {n : Nat} (q : Nat) (h : (s.tile n).work = []) :
    s.startTick p q n = { s with tiles := (s.startTick p q n).tiles } ∧
      ∀ k, (s.startTick p q n).tile k = if k = n then startedTile q (s.tile n) else s.tile k := by
  unfold State.startTick
  simp only [tile_updTile_self, h, List.filter_nil, List.foldl_nil]
  refine ⟨rfl, fun k => ?_⟩
  rw [tile_updTile]
  split
  · rw [tile_updTile_self, startedTile]
    simp [h]
  · next e => exact tile_updTile_ne _ _ e

theorem stands_startTick {n : Nat} (q : Nat) (h : TileIdle (s.tile n)) : Stands s (s.startTick p q n) := by
  obtain ⟨he, ht⟩ := startTick_idle (p := p) q h.work
  refine ⟨by rw [he], by rw [he], fun r => by rw [he]; exact .refl _, fun k => ?_⟩
  rw [ht]
  split
  · next e =>
    subst e
    exact tileStands_startedTile q h
  · exact .refl _

theorem TileIdle.startTick {n k : Nat} (q : Nat) (h : TileIdle (s.tile n)) (hk : TileIdle (s.tile k)) :
    TileIdle ((s.startTick p q n).tile k) := by
  rw [(startTick_idle q h.work).2]
  split
  · exact h.startedTile q
  · exact hk

theorem stands_startTicks (q : Nat) (l : List Nat) (h : ∀ k ∈ l, TileIdle (s.tile k)) :
    Stands s (l.foldl (fun s n => s.startTick p q n) s) := by
  induction l generalizing s with
  | nil => exact .refl _
  | cons n l ih =>
    have hn := h n List.mem_cons_self
    exact (stands_startTick q hn).trans (ih fun k hk => hn.startTick q (h k (List.mem_cons_of_mem _ hk)))

/-- No entry of an idle tile has a bound to meet (R181). -/
theorem Idle.flueBounds (h : Idle s p) (q : Nat) : s.flueBounds p q = s := by
  unfold State.flueBounds
  have key (l : List Nat) (hl : ∀ k ∈ l, k ∈ s.tilesOf p) : l.foldl (fun s n => (s.tile n).flue.foldl (fun s x =>
      if x.2.used ∧ ¬ x.2.complete ∧ x.2.issue + x.2.bound ≤ q ∧ s.boundHolds x.2 then s.flueComplete p n x.1 .none 0 else s) s) s
      = s := by
    induction l with
    | nil => rfl
    | cons n l ih =>
      rw [List.foldl_cons, (h n (hl n List.mem_cons_self)).flue, List.foldl_nil]
      exact ih fun k hk => hl k (List.mem_cons_of_mem _ hk)
  exact key _ fun _ => id

theorem Aside.digItem {q n desc data} (h : Aside s t) : Aside s (t.digItem q n desc data) := by
  unfold State.digItem
  split
  · exact h
  · exact h.updPart

theorem Aside.stage {c x via} (h : Aside s t) : Aside s (t.stage c x via) := .ite h (h.foldl (·.set))

theorem Aside.egressBeat {pc e} (h : Aside s t) : Aside s (t.egressBeat pc e) :=
  .ite h.set (h.set.foldl fun h => .stage h.digItem)

theorem Aside.egressDue {q pc} (h : Aside s t) : Aside s (t.egressDue q pc) := h.set.foldl (·.egressBeat)

theorem Idle.aside (h : Idle s p) (k : Aside s t) : Idle t p := by
  unfold Idle State.tile
  rw [k.stands.tilesOf, k.tiles]
  exact h

/-- The first plan tick of a step begins in idle tiles. -/
theorem Idle.openTick (h : Idle s p) (q : Nat) : Stands s (s.openTick p q) := by
  have hr : Stands s (s.routeTick p q) := (Stands.refl s).updPart
  have hi : Idle (s.routeTick p q) p := h
  have he : Aside (s.routeTick p q) (((s.routeTick p q).flueBounds p q).egressDue p q) := by
    rw [hi.flueBounds]
    exact .egressDue <| .refl _
  unfold State.openTick
  extract_lets u ts fails v
  have hu : Idle u p := hi.aside he
  have hf : fails = [] := List.flatMap_eq_nil_iff.mpr fun k hk => by simp [startFails, (hu k hk).work]
  rw [if_neg (not_not.mpr hf)]
  exact (hr.aside he).trans (stands_startTicks q ts hu)

/-! ### Slip requests -/

theorem Stands.timeLoss {cause theta} (h : Stands s t) : Stands s (t.timeLoss cause theta) := by
  unfold State.timeLoss
  exact .via (fun k => .ite (.aside k (.set <| .refl _)) k) (.foldl h.logEv fun h => .reportLocal h.faultStop)

theorem Stands.slipAt {dom tag amount module but} (h : Stands s t) : Stands s (t.slipAt dom tag amount module but) := by
  unfold State.slipAt
  exact .via (fun k => .ite (.timeLoss k) k) (h.foldl fun h => .ite h.updPart h)

theorem Stands.slipAsk {q tag need} (h : Stands s t) : Stands s (t.slipAsk q tag need) := by
  unfold State.slipAsk
  exact .via (fun k => .ite (.slipAt <| k.aside <| .sendAllOf <| .refl _) k)
    (.ite h.updPart.updPart.updPart h.updPart.updPart)

theorem Stands.slipProject {q b} (h : Stands s t) : Stands s (t.slipProject q b) := .ite h.slipAsk h

theorem Stands.fixNext {q b} (h : Stands s t) : Stands s (t.fixNext q b) :=
  h.updPart fun P => by
    dsimp only
    split
    · exact ⟨rfl, rfl, rfl, rfl, id, rfl, rfl, rfl, rfl, id⟩
    · exact .refl _

/-- A step begun from idle tiles stands where it was entered. -/
theorem Idle.beginStep (h : Idle s p) (tick b : Nat) : Stands s (s.beginStep p tick b) := by
  unfold State.beginStep
  exact .fixNext <| .ite (h.openTick tick).slipProject (h.openTick tick)

/-! ### The entry of a step -/

theorem tile_tileBoundary (s : State) (p : Nat) {k : Nat} (hk : k ∈ s.tilesOf p) :
    (s.tileBoundary p).tile k = boundaryTile s.hall (s.tile k) := by
  rw [tileBoundary, tile_onTiles _ _ _ (s.nodup_tilesOf p), if_pos hk]

theorem tileBoundary_eq (s : State) (p : Nat) : s.tileBoundary p = { s with tiles := (s.tileBoundary p).tiles } := onTiles_eq _ _ _

theorem part_startStep (s : State) (p n len b : Nat) : ∃ lag, (s.startStep p n len b).part p = { s.part p with
    plan := { (s.part p).plan with pc := n * len, step := n, circuits := [], passes := [] }
    clock := { (s.part p).clock with
      stepStart := s.hall, lag := lag, stepHeld := 0, workDone := false, inHold := false, bndLate := false } } := by
  refine ⟨b - (s.part p).clock.g len n, ?_⟩
  rw [startStep, part_updClock_self, part_updPlan_self, updPlan_hall]

theorem boundaryTile_stopped (h : Nat) (x : Tile) : ∀ e ∈ (boundaryTile h x).levels, e.2.running = false := by
  intro e he
  obtain ⟨e', -, rfl⟩ := List.mem_map.mp he
  dsimp only
  split
  · rfl
  · next hr => simpa using hr

/-- Where a step stands when it is entered. -/
structure Entered (s t : State) (p n len : Nat) : Prop where
  hall : t.hall = s.hall
  groups : t.groups = s.groups
  step : (t.part p).plan.step = n
  pc : (t.part p).plan.pc = n * len
  spares : (t.part p).plan.spares = (s.part p).plan.spares
  stepStart : (t.part p).clock.stepStart = s.hall
  beat : (t.part p).clock.beat = (s.part p).clock.beat
  active : (t.part p).frame.active = some (s.part p).frame.shadowBuf
  target : (t.part p).frame.target = n + 1
  shadow : (t.part p).frame.shadow = .open_
  tile : ∀ k ∈ s.tilesOf p, t.tile k = boundaryTile s.hall (s.tile k)

theorem entered_enterStep (s : State) (p n len b : Nat) : Entered s (s.enterStep p n len b) p n len := by
  obtain ⟨u, hu⟩ : ∃ u, u = s.flip p n := ⟨_, rfl⟩
  obtain ⟨v, hv⟩ : ∃ v, v = u.tileBoundary p := ⟨_, rfl⟩
  obtain ⟨w, hw⟩ : ∃ w, w = v.boundaryRest p n := ⟨_, rfl⟩
  have he : s.enterStep p n len b = w.startStep p n len b := by rw [enterStep, hw, hv, hu]
  have hsu : Flips s u := hu ▸ flips_flip s p n
  have hua : (u.part p).frame.active = some (s.part p).frame.shadowBuf := hu ▸ active_flip s p n
  have huv : v = { u with tiles := v.tiles } := hv ▸ tileBoundary_eq u p
  have hvt (k : Nat) (hk : k ∈ u.tilesOf p) : v.tile k = boundaryTile u.hall (u.tile k) := hv ▸ tile_tileBoundary u p hk
  have hvw : Flips v w := hw ▸ flips_boundaryRest v p n
  obtain ⟨ha, ht, hs⟩ := hw ▸ frame_boundaryRest v p n
  obtain ⟨lag, hx⟩ := part_startStep w p n len b
  have hvp : v.part p = u.part p := by rw [huv]; rfl
  have hvh : v.hall = u.hall := by rw [huv]
  have hvg : v.groups = u.groups := by rw [huv]
  have hhall : w.hall = s.hall := by rw [hvw.hall, hvh, hsu.hall]
  have hts : u.tilesOf p = s.tilesOf p := by
    unfold State.tilesOf State.groupsOf State.owns State.group
    rw [hsu.groups]
  rw [he]
  constructor
  · exact hhall
  · exact hvw.groups.trans (hvg.trans hsu.groups)
  · rw [hx]
  · rw [hx]
  · rw [hx, hvw.plan, hvp, hsu.plan]
  · rw [hx, hhall]
  · rw [hx, hvw.clock, hvp, hsu.clock]
  · rw [hx, ha, hvp, hua]
  · rw [hx, ht]
  · rw [hx, hs]
  · intro k hk
    have hk' := hvt k (by rw [hts]; exact hk)
    rw [hsu.hall] at hk'
    unfold State.tile at hk' ⊢
    rw [← hsu.tiles, ← hk', ← hvw.tiles]
    rfl

theorem hall_flushSlips (s : State) (p : Nat) : (s.flushSlips p).hall = s.hall := by
  rw [flushSlips, updClock_hall]
  exact ((Aside.refl s).foldl (·.logEv)).hall

theorem plan_flushSlips (s : State) (p : Nat) : ((s.flushSlips p).part p).plan = (s.part p).plan := by
  rw [flushSlips, part_updClock_self]
  exact (((Aside.refl s).foldl (·.logEv)).part p).plan

theorem hall_freezeUnits (s : State) (p : Nat) : (s.freezeUnits p).hall = s.hall := ((Stands.refl s).freezeUnits (p := p)).hall

theorem plan_freezeUnits (s : State) (p : Nat) : ((s.freezeUnits p).part p).plan =
    { (s.part p).plan with circuits := [], passes := [] } := by
  have h := onTiles_eq s (s.tilesOf p) stopTile
  have hp : (s.onTiles (s.tilesOf p) stopTile).part p = s.part p := by rw [h]; rfl
  rw [← hp]
  exact congrArg Part.plan (part_updPlan_self (s.onTiles (s.tilesOf p) stopTile) p
    fun x => { x with circuits := [], passes := [] })

/-- The plan after a STOP took effect at a boundary (R68, R228). -/
theorem plan_stopPlan (s : State) (p : Nat) : ((s.stopPlan p).part p).plan = { (s.part p).plan with
    st := .stopped, stopReq := false, rebind := none, circuits := [], passes := [] } := by
  have h (u : State) : ((u.stopFrames p).part p).plan = (u.part p).plan := ((Aside.refl u).stopFrames.part p).plan
  rw [stopPlan, part_updClock_self, h, plan_freezeUnits, part_updPlan_self, plan_flushSlips]

theorem hall_stopPlan (s : State) (p : Nat) : (s.stopPlan p).hall = s.hall := by
  have h (u : State) : (u.stopFrames p).hall = u.hall := (Aside.refl u).stopFrames.hall
  rw [stopPlan, updClock_hall, h, hall_freezeUnits, updPlan_hall, hall_flushSlips]

/-! ### The statement -/

/-- A beat before the scheduled start of the next step schedules nothing (R346). -/
theorem schedule_early (s : State) (p b : Nat) (h : b < (s.part p).clock.g (s.part p).plan.stepLen ((s.part p).clock.sched + 1)) :
    s.schedule p b = s := by
  rw [State.schedule, if_pos h]

theorem Closes.waiting (h : Closes s t) (p : Nat) : t.waiting p = s.waiting p := by
  simp only [State.waiting, h.tilesOf, (h.tile _).wait]

theorem Ends.boundaryDue (h : Ends s t) (p b : Nat) : t.boundaryDue p b = s.boundaryDue p b := by
  rw [State.boundaryDue, State.boundaryDue, h.part, h.closes.waiting]

theorem Ends.boundaryWait (h : Ends s t) (p : Nat) : t.boundaryWait p = s.boundaryWait p := by
  have hbusy : t.flueBusy p = s.flueBusy p := by simp only [State.flueBusy, h.tilesOf, (h.tile _).flue]
  have hfrozen : t.frozen p = s.frozen p := by rw [h.rest]; rfl
  rw [State.boundaryWait, State.boundaryWait, hbusy, hfrozen, isSealed, isSealed, h.part]

/-- The end of the standing plan tick, when no bundle waits and the first step has begun. -/
theorem Still.endPrev (h : Still s p) {b : Nat} (hd : s.boundaryDue p b = true) : Ends s (s.endPrev p) := by
  simp only [State.boundaryDue, Bool.and_eq_true, Option.isNone_iff_eq_none] at hd
  obtain ⟨⟨⟨hstarted, hwait⟩, -⟩, -⟩ := hd
  rw [State.endPrev, if_neg (by simp [hstarted, hwait])]
  exact h.atBeat

/-- STEP_BOUNDARY at a beat at which its boundary is due and nothing keeps it waiting. -/
theorem execStepBoundary_of_due {s : State} {p : PartId} (h : Still (s.damperNow p) p) (hbeat : (s.damperNow p).beatNow p = true)
    (hb : ((s.damperNow p).part p).clock.beat <
      ((s.damperNow p).part p).clock.g ((s.damperNow p).part p).plan.stepLen (((s.damperNow p).part p).clock.sched + 1))
    (hd : (s.damperNow p).boundaryDue p ((s.damperNow p).part p).clock.beat = true)
    (hw : (s.damperNow p).boundaryWait p = none) :
    exec (.stepBoundary p) s = .next ((((s.damperNow p).endPrev p).useBeat p).passBoundary p
      ((s.damperNow p).part p).clock.beat) := by
  have he := h.endPrev hd
  have hrun : (((s.damperNow p).endPrev p).part p).plan.st = .running := by rw [he.part, h.running]
  have hsched : ((s.damperNow p).endPrev p).schedule p ((s.damperNow p).part p).clock.beat = (s.damperNow p).endPrev p :=
    schedule_early _ _ _ (by rw [he.part]; exact hb)
  simp only [exec, execStepBoundary, h.running, hbeat, hsched, hrun, he.boundaryDue, he.boundaryWait, hd, hw,
    ne_eq, not_true_eq_false, or_self, if_false, and_self, if_true]

/-- The state from which a boundary passes: what it closed, and the beat it used. -/
theorem Still.useBeat (h : Still s p) : Still (s.useBeat p) p :=
  ⟨by rw [State.useBeat, part_updClock_self]; exact h.running, h.work, h.accs, h.loops, h.eg⟩

end

end Sys2Proof.Machine
end

section
/-! PROOFS. STEP_BOUNDARY (O22): the passage from the state the standing tick leaves to the first plan tick of the next step. -/

namespace Sys2Proof.Machine

open State

/-- What mailbox words a boundary shows does not depend on the rest of a tile (R98). -/
theorem mbox_mboxCopy {x y : Tile} (h : Nat) (hm : y.mbox = x.mbox) (hi : y.mboxIn = x.mboxIn) :
    (mboxCopy h y).mbox = (mboxCopy h x).mbox := by
  simp only [mboxCopy, hm, hi]

/-- A tile of the partition once its step has begun. -/
structure TileBegun (h : Nat) (x y : Tile) : Prop where
  flue : y.flue = []
  wait : y.wait = none
  pos : y.pos = 0
  gap : y.gap = 0
  levels : (y.levels.all fun e => !e.2.running) = true
  mboxIn : y.mboxIn = x.mboxIn.filter fun w => h ≤ w.hall
  mbox : y.mbox = (mboxCopy h x).mbox

/-- A tile that was closed, taken over the boundary, and in which the first plan tick then began. -/
theorem tileBegun {h : Nat} {x y z : Tile} (hc : TileCloses x y) (hs : TileStands (boundaryTile h y) z) : TileBegun h x z where
  flue := hs.flue rfl
  wait := hs.wait rfl
  pos := hs.pos
  gap := hs.gap
  levels := by
    rw [hs.levels]
    exact List.all_eq_true.mpr fun e he => by rw [boundaryTile_stopped h y e he]; rfl
  mboxIn := by
    rw [hs.mboxIn, ← hc.mboxIn]
    rfl
  mbox := hs.mbox.trans (mbox_mboxCopy h hc.mbox hc.mboxIn)

/-- A tile with nothing in flight is idle once it is over the boundary. -/
theorem tileIdle_boundaryTile (h : Nat) {x : Tile} (hw : x.work = []) : TileIdle (boundaryTile h x) :=
  ⟨hw, rfl, boundaryTile_stopped h x⟩

section
variable {s : State} {p : Nat}

theorem tiles_bindNext (s : State) (p k : Nat) : (s.bindNext p).tile k = s.tile k := by
  rw [bindNext_eq]
  rfl

theorem tilesOf_bindNext (s : State) (p q : Nat) : (s.bindNext p).tilesOf q = s.tilesOf q := by
  rw [bindNext_eq]
  rfl

theorem hall_bindNext (s : State) (p : Nat) : (s.bindNext p).hall = s.hall := by rw [bindNext_eq]

/-- No entry of the partition failed with nothing to await it. -/
theorem badEntry_none (h : ((s.tilesOf p).any fun k => (s.tile k).flue.any fun e => e.2.used && e.2.failed && !e.2.awaited) = false) :
    ((s.tilesOf p).findSome? fun k =>
      ((s.tile k).flue.find? fun e => e.2.used && e.2.failed && !e.2.awaited).map (·.2)) = none := by
  refine List.findSome?_eq_none_iff.mpr fun k hk => ?_
  rw [Option.map_eq_none_iff, List.find?_eq_none]
  intro e he hbad
  have := List.any_eq_false.mp h k hk
  exact this (List.any_eq_true.mpr ⟨e, he, hbad⟩)

/-- A still plan crosses its boundary into step `n` (R225). -/
structure Crossed (s t : State) (p n len : Nat) : Prop where
  hall : t.hall = s.hall
  step : (t.part p).plan.step = n
  pc : (t.part p).plan.pc = n * len
  spares : ∀ sp, (s.part p).plan.rebind = some sp → (t.part p).plan.spares = sp
  stepStart : (t.part p).clock.stepStart = s.hall
  beat : (t.part p).clock.beat = (s.part p).clock.beat
  active : (t.part p).frame.active = some (s.part p).frame.shadowBuf
  target : (t.part p).frame.target = n + 1
  shadow : (t.part p).frame.shadow = .open_
  tile : ∀ k ∈ s.tilesOf p, TileBegun s.hall (s.tile k) (t.tile k)

theorem Still.crossed (h : Still s p) (n len b : Nat) (hs : (s.part p).plan.stopReq = false) :
    Crossed s (s.crossBoundary p n len b) p n len := by
  obtain ⟨x, hx⟩ : ∃ x, x = s.closeStep p (n - 1) := ⟨_, rfl⟩
  obtain ⟨y, hy⟩ : ∃ y, y = x.bindNext p := ⟨_, rfl⟩
  obtain ⟨v, hv⟩ : ∃ v, v = y.enterStep p n len b := ⟨_, rfl⟩
  have hc : Closes s x := hx ▸ h.closeStep (n - 1)
  have hyp := part_bindNext x p
  rw [← hy] at hyp
  have hyh : y.hall = s.hall := by rw [hy, hall_bindNext, hc.hall]
  have hyt (k : Nat) : TileCloses (s.tile k) (y.tile k) := by
    rw [hy, tiles_bindNext]
    exact hc.tile k
  have hyo : y.tilesOf p = s.tilesOf p := by rw [hy, tilesOf_bindNext, hc.tilesOf]
  have hstop : (y.part p).plan.stopReq = false := by rw [hyp, (hc.part p).plan]; exact hs
  have he : s.crossBoundary p n len b = v.beginStep p (n * len) b := by
    rw [crossBoundary, ← hx, ← hy, hstop, ← hv]
    rfl
  have ev : Entered y v p n len := hv ▸ entered_enterStep y p n len b
  have hvo : v.tilesOf p = y.tilesOf p := by
    unfold State.tilesOf State.groupsOf State.owns State.group
    rw [ev.groups]
  have hidle : Idle v p := fun k hk => by
    rw [hvo] at hk
    rw [ev.tile k hk]
    exact tileIdle_boundaryTile _ ((hyt k).work (h.work k (by rw [← hyo]; exact hk)))
  have ht := hidle.beginStep (n * len) b
  rw [he]
  have hq := ht.part p
  constructor
  · rw [ht.hall, ev.hall, hyh]
  · rw [hq.step, ev.step]
  · rw [hq.pc, ev.pc]
  · intro sp hsp
    rw [hq.spares, ev.spares, hy]
    exact spares_bindNext x p (by rw [(hc.part p).plan]; exact hsp)
  · rw [hq.stepStart, ev.stepStart, hyh]
  · rw [hq.beat, ev.beat, hyp, (hc.part p).beat]
  · rw [hq.active, ev.active, hyp, (hc.part p).shadowBuf]
  · rw [hq.target, ev.target]
  · exact hq.shadow ev.shadow
  · intro k hk
    have hk' := ht.tile k
    rw [ev.tile k (by rw [hyo]; exact hk), hyh] at hk'
    exact tileBegun (hyt k) hk'

/-- A still plan under a STOP is STOPPED where it stands (R68, R228). -/
theorem Still.stopped (h : Still s p) (n len b : Nat) (hs : (s.part p).plan.stopReq = true) :
    let t := s.crossBoundary p n len b
    (t.part p).plan.st = .stopped ∧ (t.part p).plan.stopReq = false ∧ (t.part p).plan.pc = (s.part p).plan.pc ∧
      (t.part p).plan.step = (s.part p).plan.step ∧ t.hall = s.hall := by
  obtain ⟨x, hx⟩ : ∃ x, x = s.closeStep p (n - 1) := ⟨_, rfl⟩
  have hc : Closes s x := hx ▸ h.closeStep (n - 1)
  have hyp := part_bindNext x p
  have hstop : ((x.bindNext p).part p).plan.stopReq = true := by rw [hyp, (hc.part p).plan]; exact hs
  have he : s.crossBoundary p n len b = (x.bindNext p).stopPlan p := by
    rw [crossBoundary, ← hx, hstop]
    rfl
  intro t
  have ht : t = (x.bindNext p).stopPlan p := he
  refine ⟨?_, ?_, ?_, ?_, ?_⟩
  · rw [ht, plan_stopPlan]
  · rw [ht, plan_stopPlan]
  · rw [ht, plan_stopPlan, hyp, (hc.part p).plan]
  · rw [ht, plan_stopPlan, hyp, (hc.part p).plan]
  · rw [ht, hall_stopPlan, hall_bindNext, hc.hall]

end

/-- Settles O22: the standing tick ends, the beat is used, and the boundary is crossed or stops the plan. -/
theorem boundaryBeginsTheNextStep : Obligations.BoundaryBeginsTheNextStep := by
  unfold Obligations.BoundaryBeginsTheNextStep
  intro s p d P b len n hrun hquiet hloops hbeat hb hdue hwait hfails hbad
  have h : Still d p := still_of_quiet hrun hquiet hloops
  have he := h.endPrev hdue
  have hu := (he.still h).useBeat
  obtain ⟨u, hud⟩ : ∃ u, u = (d.endPrev p).useBeat p := ⟨_, rfl⟩
  rw [← hud] at hu
  have hup : u.part p = { P with clock := { P.clock with beat := b + 1, lastBeat := some (d.endPrev p).hall } } := by
    rw [hud, State.useBeat, part_updClock_self, he.part]
  have hut (k : Nat) : TileCloses (d.tile k) (u.tile k) := hud ▸ he.tile k
  have huo : u.tilesOf p = d.tilesOf p := by rw [hud]; exact he.tilesOf p
  have huh : u.hall = s.hall := by rw [hud]; exact he.hall
  have hexec : exec (.stepBoundary p) s = .next (u.crossBoundary p n len b) := by
    rw [execStepBoundary_of_due h hbeat hb hdue hwait, ← hud, hu.passBoundary, hup]
    · rw [hup]
      simp only [State.boundaryFails, huo, (hut _).lands]
      exact hfails
    · simp only [huo, (hut _).flue]
      exact badEntry_none hbad
  refine ⟨fun hs => ?_, fun hs => ?_⟩
  · have hx := hu.crossed n len b (by rw [hup]; exact hs)
    refine ⟨_, hexec, hx.step, hx.pc, fun sp hsp => hx.spares sp (by rw [hup]; exact hsp), by rw [hx.stepStart, huh],
      by rw [hx.beat, hup], by rw [hx.active, hup], hx.shadow, hx.target, fun k hk h192 => ?_, by rw [hx.hall, huh]⟩
    have hk := hx.tile k (by rw [huo]; exact (d.mem_tilesOf p k).mpr ⟨h192, hk⟩)
    rw [huh] at hk
    have hm : (mboxCopy s.hall (u.tile k)).mbox = (mboxCopy s.hall (s.tile k)).mbox :=
      mbox_mboxCopy _ (hut k).mbox (hut k).mboxIn
    exact ⟨hk.flue, hk.wait, hk.pos, hk.gap, hk.levels, by rw [hk.mboxIn, (hut k).mboxIn]; rfl, by rw [hk.mbox, hm]⟩
  · obtain ⟨hst, hreq, hpc, hstep, hhall⟩ := hu.stopped n len b (by rw [hup]; exact hs)
    exact ⟨_, hexec, hst, hreq, by rw [hpc, hup], by rw [hstep, hup], by rw [hhall, huh]⟩

end Sys2Proof.Machine
end

section
/-! PROOFS. The launch (O9). A launch starts the trims that its frame queued, and an unmapped block of a trimmed page table is
logged under the assists of the launched partition. The entry it logs closes an older coalescing window of the same unit and
class, and that window's entry goes to the ring of the partition that the window names. -/

namespace Sys2Proof.Machine

open State

/-! ### A window that closes -/

/-- An event at hall count `h` closes the window: it is of the event's unit and class, and older than 1 s (R481). -/
def Coalesce.closedBy (c : Coalesce) (e : LogEntry) : Bool := c.isOf e && decide (c.entry.hall + 500000000 < e.hall)

theorem flLog_setRing (P : Part) (l : List LogEntry) (n : Nat) : (P.setRing l n).flLog = l := rfl

theorem flLog_logPut (s : State) (e : LogEntry) (l : List Nat) (h : e.part < 16) : ((s.logPut e l).part e.part).flLog ≠ [] := by
  unfold State.logPut
  dsimp only
  rw [if_pos h, List.foldl_cons, List.foldl_nil, ringPut_eq]
  refine ((Aside.refl _).raiseEv.part e.part).flLog ?_
  rw [part_updPart_self, flLog_setRing]
  exact ringKeep_append_ne_nil (by omega) _ _

theorem flLog_joinWindow {s : State} {e : LogEntry} {c : Coalesce} (hc : c ∈ s.coalesce) (he : c.closedBy e = true)
    (hp : c.entry.part < 16) : ((s.joinWindow e).part c.entry.part).flLog ≠ [] := by
  obtain ⟨l, r, hl⟩ := List.append_of_mem (List.mem_filter (p := fun c => c.closedBy e).mpr ⟨hc, he⟩)
  have hput (u : State) : ((u.logPut c.close []).part c.entry.part).flLog ≠ [] := flLog_logPut u c.close [] hp
  have hfold : (((s.coalesce.filter fun c => c.closedBy e).foldl (fun s c => s.logPut c.close []) s).part c.entry.part).flLog ≠ [] := by
    rw [hl, List.foldl_append, List.foldl_cons]
    exact (((Aside.refl _).foldl (·.logPut)).part _).flLog (hput _)
  exact hfold

/-- An unmapped access of a unit whose window is old closes that window. -/
theorem flLog_unmapped {s : State} {kind index p a : Nat} {c : Coalesce} (hc : c ∈ s.coalesce)
    (he : c.closedBy { cls := cFence, kind := kind, index := index, hall := s.hall } = true) (hp : c.entry.part < 16) :
    ((s.unmapped kind index p a).part c.entry.part).flLog ≠ [] := by
  have h : s.unmapped kind index p a = (s.cinderInc kind index cFence).joinWindow
      { cls := cFence, kind := kind, index := index, part := p, cause := 1, addr := a, hall := s.hall } := rfl
  rw [h]
  exact flLog_joinWindow hc he hp

/-- A trim over an unmapped block of a page table closes an old window of the partition's assists. -/
theorem flLog_trim {s : State} {p ste : Nat} {c : Coalesce} (hg : s.tableGaps p (s.stePdir p ste) (s.tableSize p ste) ≠ [])
    (hc : c ∈ s.coalesce) (he : c.closedBy { cls := cFence, kind := kAssist, index := p, hall := s.hall } = true)
    (hp : c.entry.part < 16) : ((s.trim p ste).part c.entry.part).flLog ≠ [] := by
  obtain ⟨a, l, hl⟩ := List.exists_cons_of_ne_nil hg
  have h : Aside (s.unmapped kAssist p p a) (s.trim p ste) := by
    refine .trim_of_unmappedAll ?_
    rw [hl]
    exact (Aside.refl (s.unmapped kAssist p p a)).unmappedAll
  exact (h.part _).flLog (flLog_unmapped hc he hp)

/-! ### The launch -/

/-- What a launch does before the frames: the tiles take their images, plan and clock start at step 0 (R70). -/
def State.launchPlan (s : State) (p : Nat) : State :=
  let s := (s.initTiles p ((s.part p).plan.loaded.getD {}).image launchTile).dropFlight p
  let s := s.updPlan p fun x =>
    { x with st := .running, pc := 0, step := 0, near := [], turf := [], stopReq := false, failOpen := false
             circuits := [], passes := [], arrived := [], firstStep := 0 }
  let s := s.updDom p fun d => { d with beaconStep := 0, beaconX := 0 }
  s.updClock p fun c =>
    { c with started := false, stepStart := s.hall, beat := 0, lastBeat := none, sched := 0, fixed := 0, xs := [], seen := []
             asked := [], seenFrom := [], lag := 0, stepHeld := 0, debtMax := 0, workDone := false, winIndex := 0, winSum := 0
             holdCause := 0, holdTile := 0xFF, inHold := false, bndLate := false, cnt := {} }

theorem execLaunch_of_armed (s : State) (p : PartId) (ha : (s.part p).plan.st = .armed) (hl : (s.part p).plan.launchAt ≤ s.hall) :
    exec (.launch p) s = .next ((s.launchPlan p).launchFrames p) := by
  unfold exec execLaunch
  dsimp only
  rw [if_pos ⟨ha, hl⟩, State.launchPlan]

/-- A first launch after the flip of its frame, when the releases queued for it start (R228). -/
def State.launchFlipped (s : State) (p : Nat) : State :=
  let s := (s.updFrame p fun f => { f with launched := true }).flip p 0
  (s.chargeFrame p ((s.part p).frame.buf 0)).freeReleasing p

theorem flLog_updFrame (s : State) (p q : Nat) (f : Frame → Frame) : ((s.updFrame p f).part q).flLog = (s.part q).flLog := by
  rw [updFrame, part_updPart]
  split <;> simp_all

/-- A queue of one trim starts it. -/
theorem startReleases_trim {s : State} {p : Nat} {r : RelCmd} (hq : (s.part p).frame.queue = [r]) (ht : r.trim = true) :
    s.startReleases p = (s.updFrame p fun f => { f with queue := [] }).trim p r.ste := by
  rw [startReleases, hq, List.foldl_cons, List.foldl_nil, if_pos ht]

/-- What a first launch logged before its releases started it has logged when it ends. -/
theorem flLog_launchFrames {s : State} {p q : Nat} (hl : (s.part p).frame.launched = false)
    (hm : (s.part p).frame.missHold = false) (h : (((s.launchFlipped p).startReleases p).part q).flLog ≠ []) :
    ((s.launchFrames p).part q).flLog ≠ [] := by
  have hm' : ((s.updFrame p fun f => { f with launched := true }).part p).frame.missHold = false := by
    rw [updFrame, part_updPart_self]
    exact hm
  unfold State.launchFrames
  simp only [hl, Bool.false_eq_true, if_false]
  rw [State.launchFlip, if_neg fun hc => Bool.false_ne_true (hm'.symm.trans hc.1), flLog_updFrame]
  refine (((Aside.refl _).countSte.raiseCores).part q).flLog ?_
  rw [flLog_updFrame]
  exact h

/-! ### The refutation -/

/-- Partition 0 is armed with a sealed frame and a queued trim of sequence 0, whose root (one block, at 2^48) is unmapped; an
open window of its assists, older than 1 s, holds an entry of partition 1. -/
def armedWithTrim : State where
  hall := 600000000
  groups := [(0, { st := .assigned, owner := 0 })]
  mem := [(0x1E, 1), (0x26, 1)]
  coalesce := [⟨{ cls := cFence, kind := kAssist, index := 0, part := 1, cause := 1 }, 1⟩]
  parts := [(0, { plan := { st := .armed }, frame := { shadow := .sealed, queue := [⟨0, false, true⟩] } })]

/-- Refutes O9: launching partition 0 in `armedWithTrim` writes an entry into the fault log ring of partition 1. -/
theorem not_launchStartsStepZero : ¬ Obligations.LaunchStartsStepZero := by
  unfold Obligations.LaunchStartsStepZero
  intro h
  obtain ⟨t, he, -, -, -, -, -, -, -, -, -, -, -, -, -, -, hbut, -⟩ := h armedWithTrim 0 (by decide +kernel) (by decide +kernel)
  rw [execLaunch_of_armed _ _ (by decide +kernel) (by decide +kernel)] at he
  have ht := Host.Outcome.next.inj he
  have hlog : (((armedWithTrim.launchPlan 0).launchFrames 0).part 1).flLog ≠ [] := by
    refine flLog_launchFrames (by decide +kernel) (by decide +kernel) ?_
    rw [startReleases_trim (r := ⟨0, false, true⟩) (by decide +kernel) rfl]
    exact flLog_trim (c := ⟨{ cls := cFence, kind := kAssist, index := 0, part := 1, cause := 1 }, 1⟩)
      (by decide +kernel) (by decide +kernel) (by decide +kernel) (by decide)
  have hnone : (t.part 1).flLog = [] := congrArg Part.flLog (hbut 1 (by decide))
  exact hlog (ht ▸ hnone)

end Sys2Proof.Machine
end

section
/-! PROOFS. The arithmetic of the scalar unit (O12). -/

namespace Sys2Proof.Machine

open State

/-! ### Quotients and remainders -/

section
variable {a b : BitVec 64}

/-- A division by zero (R507). -/
theorem divVal_zero (a : BitVec 64) : divVal .div a 0 = BitVec.allOnes 64 ∧ divVal .divu a 0 = BitVec.allOnes 64 ∧
    divVal .rem a 0 = a ∧ divVal .remu a 0 = a := ⟨rfl, rfl, rfl, rfl⟩

theorem divVal_div (h : b ≠ 0) : divVal .div a b = BitVec.ofInt 64 (a.toInt.tdiv b.toInt) := by
  refine (if_neg h).trans (BitVec.eq_of_toInt_eq ?_)
  rw [BitVec.toInt_sdiv, BitVec.toInt_ofInt]

theorem divVal_rem (h : b ≠ 0) : divVal .rem a b = BitVec.ofInt 64 (a.toInt.tmod b.toInt) := by
  refine (if_neg h).trans ?_
  rw [← BitVec.toInt_srem, BitVec.ofInt_toInt]

theorem divVal_divu (h : b ≠ 0) : divVal .divu a b = BitVec.ofNat 64 (a.toNat / b.toNat) :=
  (if_neg h).trans BitVec.udiv_def

theorem divVal_remu (h : b ≠ 0) : divVal .remu a b = BitVec.ofNat 64 (a.toNat % b.toNat) :=
  (if_neg h).trans BitVec.umod_def

/-- The quotient 2^63 of −2^63 by −1 does not fit and wraps to −2^63; the remainder is 0 (R507). -/
theorem divVal_overflow (ha : a.toInt = -2 ^ 63) (hb : b.toInt = -1) : divVal .div a b = a ∧ divVal .rem a b = 0 := by
  have h0 : b ≠ 0 := by
    rintro rfl
    exact absurd hb (by decide)
  obtain rfl : a = BitVec.ofInt 64 (-2 ^ 63) := by rw [← ha, BitVec.ofInt_toInt]
  rw [divVal_div h0, divVal_rem h0, ha, hb]
  decide

end

/-! ### The operations -/

section
variable {s : State} {i : Issue} {p : Nat} (h : CanIssue s i p 5) (rd : Fin 32) {a b : Opnd} {v : BitVec 64}
include h

theorem sclAlu_gives {op : AluOp} (hv : aluVal op ((s.tile i.tile).opnd a) ((s.tile i.tile).opnd b) = v) :
    ∃ t, exec (.sclAlu i op rd a b) s = .next t ∧ OnlyTile i.tile s t ∧
      t.tile i.tile = ((s.tile i.tile).sclResult i uScl (s.part p).plan.pc 1 1 rd v).used 5 := by
  subst hv
  exact issue_writes_tile h rfl rfl

theorem sclMul_gives (hv : (s.tile i.tile).opnd a * (s.tile i.tile).opnd b = v) :
    ∃ t, exec (.sclMul i rd a b) s = .next t ∧ OnlyTile i.tile s t ∧
      t.tile i.tile = ((s.tile i.tile).sclResult i uScl (s.part p).plan.pc 1 3 rd v).used 5 := by
  subst hv
  exact issue_writes_tile h rfl rfl

theorem sclDiv_gives {op : DivOp} (hv : divVal op ((s.tile i.tile).opnd a) ((s.tile i.tile).opnd b) = v) :
    ∃ t, exec (.sclDiv i op rd a b) s = .next t ∧ OnlyTile i.tile s t ∧
      t.tile i.tile = ((s.tile i.tile).sclResult i uDiv (s.part p).plan.pc 18 18 rd v).used 5 := by
  subst hv
  exact issue_writes_tile h rfl rfl

end

/-- Settles O12: each operation issues and writes its tile; the comparisons, products, quotients and remainders are those of
the operands' values. -/
theorem scalarArithmetic : Obligations.ScalarArithmetic := by
  unfold Obligations.ScalarArithmetic
  intro s i p rd a b h pc x va vb gives
  refine ⟨sclAlu_gives h rd rfl, sclAlu_gives h rd rfl, sclAlu_gives h rd rfl, sclAlu_gives h rd rfl, sclAlu_gives h rd rfl,
    sclAlu_gives h rd rfl, sclAlu_gives h rd rfl, sclAlu_gives h rd rfl, sclAlu_gives h rd ?_, sclAlu_gives h rd ?_,
    sclAlu_gives h rd rfl, sclMul_gives h rd ?_, fun h0 => ?_, fun h0 => ?_, fun ha hb => ?_⟩
  · simp only [aluVal, BitVec.slt_iff_toInt_lt, va, vb, x]
  · simp only [aluVal, BitVec.ult_iff_lt, BitVec.lt_def, va, vb, x]
  · rw [BitVec.ofNat_mul, BitVec.ofNat_toNat, BitVec.ofNat_toNat, BitVec.setWidth_eq, BitVec.setWidth_eq]
  · obtain ⟨hdiv, hdivu, hrem, hremu⟩ := divVal_zero va
    rw [← h0] at hdiv hdivu hrem hremu
    exact ⟨sclDiv_gives h rd hdiv, sclDiv_gives h rd hdivu, sclDiv_gives h rd hrem, sclDiv_gives h rd hremu⟩
  · exact ⟨sclDiv_gives h rd (divVal_div h0), sclDiv_gives h rd (divVal_rem h0), sclDiv_gives h rd (divVal_divu h0),
      sclDiv_gives h rd (divVal_remu h0)⟩
  · obtain ⟨hdiv, hrem⟩ := divVal_overflow ha hb
    exact ⟨sclDiv_gives h rd hdiv, sclDiv_gives h rd hrem⟩

end Sys2Proof.Machine
end

section
/-! PROOFS. Loops of a tile: the entry, the end of the span and the stop above the declared maximum (O10). -/

namespace Sys2Proof.Machine

open State

/-! ### The stop of a first failed check -/

/-- Releasing what a stopped plan held leaves its domain record. -/
theorem dom_freezeUnits (s : State) (p : Nat) : ((s.freezeUnits p).part p).dom = (s.part p).dom := by
  have h : (s.onTiles (s.tilesOf p) stopTile).part p = s.part p := by
    rw [onTiles_eq]
    rfl
  have hplan (u : State) (f : Plan → Plan) : ((u.updPlan p f).part p).dom = (u.part p).dom := by rw [part_updPlan_self]
  rw [← h]
  exact hplan (s.onTiles (s.tilesOf p) stopTile) fun x => { x with circuits := [], passes := [] }

/-- A fence, the release of the tiles and the stop of the frames leave the partition fenced (R367). -/
theorem fenced_fence_freezeUnits_stopFrames (s : State) (p : Nat) :
    ((((s.fence p).freezeUnits p).stopFrames p).part p).dom.fenced = true := by
  have hfence : Aside (s.updDom p fun d => { d with fenced := true }) (s.fence p) := .refreshFn <| .stkFence <| .refl _
  rw [((Aside.stopFrames <| .refl _).part p).fenced, dom_freezeUnits, (hfence.part p).fenced, part_updDom_self]

/-- A fault stop fences its partition (R366, R367). -/
theorem fenced_faultStop (s : State) (p : Nat) : ((s.faultStop p).part p).dom.fenced = true := by
  unfold State.faultStop
  dsimp only
  exact fenced_fence_freezeUnits_stopFrames _ p

section
variable (s : State) (p : Nat) (f : SchedFail) (hv : (s.part p).plan.sf.valid = false) (hr : (s.part p).plan.st = .running)
include hv hr

/-- The plan counter and the loops of every tile stand where they stood when the check failed. -/
theorem pc_levels_schedFail_first :
    ((s.schedFail p [f]).part p).plan.pc = (s.part p).plan.pc ∧ ∀ k, ((s.schedFail p [f]).tile k).levels = (s.tile k).levels := by
  have hs : Stands (s.recordFail p f) (s.schedFail p [f]) := by
    rw [schedFail_first_eq s p f hv hr]
    exact .reportLocal <| .faultStop <| .refl _
  refine ⟨?_, fun k => ?_⟩
  · rw [(hs.part p).pc, plan_recordFail]
  · rw [(hs.tile k).levels, State.tile, tiles_recordFail, State.tile]

theorem fenced_schedFail_first : ((s.schedFail p [f]).part p).dom.fenced = true := by
  rw [schedFail_first_eq s p f hv hr]
  exact ((Aside.reportLocal <| .refl _).part p).fenced.trans (fenced_faultStop _ p)

end

/-! ### The entry -/

/-- The level of a loop declared as `d` after its entry at tick `pc` (R86, R87). -/
def AgLevel.enter (x : AgLevel) (pc : Nat) (d : LoopDecl) : AgLevel :=
  { x with max := d.max, latched := x.count, index := 0, running := true, idle := x.count = 0
           entry := pc, body := d.body, first := d.first, after := d.after }

/-- The failed check of a loop whose count is above its maximum (R87, R90). -/
def loopBoundFail (n pc count : Nat) (d : LoopDecl) : SchedFail :=
  { cls := cLoopBound, tile := n, slot := sScl, bundle := d.first, tick := pc, detLo := d.ag * 8 + d.level, detHi := count }

/-- A tile whose loop `d` failed its entry: COUNT is latched, and the bundle does not issue (R87). -/
def Tile.latchBad (t : Tile) (d : LoopDecl) : Tile :=
  { t.updLevel d.ag d.level fun y => { y with latched := y.count } with loopBad := true }

theorem Tile.level_latchBad (t : Tile) (d : LoopDecl) :
    (t.latchBad d).level d.ag d.level = { t.level d.ag d.level with latched := (t.level d.ag d.level).count } :=
  t.level_updLevel_self d.ag d.level fun y => { y with latched := y.count }

theorem State.enterLoop_of_le {s : State} {n : Nat} {d : LoopDecl} (p : Nat)
    (h : ((s.tile n).level d.ag d.level).count ≤ d.max) :
    s.enterLoop p n d = s.updTile n fun t => t.updLevel d.ag d.level fun x => x.enter (s.part p).plan.pc d := by
  simp only [enterLoop, if_neg (Nat.not_lt.mpr h)]
  rfl

theorem State.enterLoop_of_lt {s : State} {n : Nat} {d : LoopDecl} (p : Nat)
    (h : d.max < ((s.tile n).level d.ag d.level).count) :
    s.enterLoop p n d = (s.updTile n fun t => t.latchBad d).schedFail p
      [loopBoundFail n (s.part p).plan.pc ((s.tile n).level d.ag d.level).count d] := by
  simp only [enterLoop, if_pos h]
  rfl

section
variable {s : State} {i : Issue} {p : Nat} (hp : s.tilePart i.tile = some p) (hr : (s.part p).plan.st = .running)
include hp hr

theorem exec_loopEntry_of_due {d : LoopDecl} (hs : (s.part p).clock.started = true) (hf : d.first = i.bundle)
    (hd : (s.tile i.tile).dueLoop (s.part p).plan.pc (s.part p).plan.workEnd = some d) :
    exec (.loopEntry i d.ag d.level) s = .next (s.enterLoop p i.tile d) := by
  simp [exec, execLoopEntry, hp, hd, hs, hf, Plan.checks, hr]

/-! ### The end of the span -/

theorem exec_loopSpanEnd_of_ends {g : Fin 4} {l : Fin 6} (hx : ((s.tile i.tile).level g l).running = true)
    (he : (s.tile i.tile).ended = false) (hn : ((s.tile i.tile).level g l).entry +
      ((s.tile i.tile).level g l).max * ((s.tile i.tile).level g l).body ≤ (s.part p).plan.pc + 1) :
    exec (.loopSpanEnd i.tile g l) s = .next (s.updTile i.tile fun t =>
      { t with work := t.work ++ [⟨(s.part p).plan.pc, uNone, (s.part p).plan.pc, sScl, 0, .loopEnd g l⟩] }) := by
  simp [exec, execLoopSpanEnd, hp, hr, hx, he, hn]

end

theorem State.applyAct_loopEnd {s : State} {p n : Nat} {w : Work} {g l : Nat} (h : w.act = .loopEnd g l) :
    s.applyAct p n w = s.updTile n fun t => t.updLevel g l AgLevel.stop := by
  simp only [applyAct, h]

/-- Settles O10: an entry in bounds and the end of a span each write one level of the tile; an entry above the maximum is the
first failed check of a running plan. -/
theorem loopsLatchRunAndEnd : Obligations.LoopsLatchRunAndEnd := by
  unfold Obligations.LoopsLatchRunAndEnd
  intro s i p g l hp hr pl x
  refine ⟨?_, fun hx he hn => ?_, fun q n w hw => ?_⟩
  · rintro d hd rfl rfl hf hs
    have hexec := exec_loopEntry_of_due hp hr hs hf hd
    refine ⟨fun hc => ?_, fun hc hv => ?_⟩
    · exact ⟨_, hexec.trans (congrArg _ (enterLoop_of_le p hc)), onlyTile_updTile _ _ _, tile_updTile_self _ _ _⟩
    · obtain ⟨u, hu⟩ : ∃ u, u = s.updTile i.tile fun t => t.latchBad d := ⟨_, rfl⟩
      have hpart : u.part p = s.part p := by rw [hu, part_updTile]
      have hvu : (u.part p).plan.sf.valid = false := by rw [hpart]; exact hv
      have hru : (u.part p).plan.st = .running := by rw [hpart]; exact hr
      obtain ⟨hst, hsf, -⟩ := schedFail_first u p (loopBoundFail i.tile pl.pc x.count d) hvu hru
      obtain ⟨hpc, hlevels⟩ := pc_levels_schedFail_first u p (loopBoundFail i.tile pl.pc x.count d) hvu hru
      refine ⟨_, hexec.trans (congrArg _ ((enterLoop_of_lt p hc).trans (by rw [← hu]))), hst,
        fenced_schedFail_first u p _ hvu hru, hpc.trans (by rw [hpart]), ?_, hsf.trans ?_⟩
      · rw [Tile.level, hlevels, hu, tile_updTile_self]
        exact Tile.level_latchBad _ d
      · rw [hu, ← hf]
        rfl
  · exact ⟨_, exec_loopSpanEnd_of_ends hp hr hx he hn, onlyTile_updTile _ _ _, tile_updTile_self _ _ _⟩
  · obtain ⟨only, tile⟩ := applyAct_of_tile (applyAct_loopEnd (s := s) (p := q) (n := n) hw)
    exact ⟨only, by rw [tile, Tile.level_updLevel_self]; rfl⟩

end Sys2Proof.Machine
end

section
/-! PROOFS. The commands of the matrix engine (O15): the acts that an operation schedules, a weight load and its chunks, and what
each command leaves of its tile. -/

namespace Sys2Proof.Machine

open State

/-! ### Taking a unit -/

section
variable (t : Tile) (u slot pc occ : Nat) (reads : Option Nat)

/-- Taking a unit touches the work, the accesses and the overlay chunks of its tile, and the table of units (R77). -/
theorem Tile.takeUnit_eq : t.takeUnit u slot pc occ reads =
    { t with
      work := (t.takeUnit u slot pc occ reads).work, accs := (t.takeUnit u slot pc occ reads).accs
      ovl := (t.takeUnit u slot pc occ reads).ovl, units := tabSet {} t.units u ⟨pc, pc + occ, reads⟩ } := by
  unfold Tile.takeUnit
  dsimp only
  split <;> rfl

variable {t u pc}

/-- An operation whose unit is free cuts nothing off (R77). -/
theorem Tile.takeUnit_of_free (h : (tabGet {} t.units u).ends ≤ pc) : t.takeUnit u slot pc occ reads =
    { t with units := tabSet {} t.units u ⟨pc, pc + occ, reads⟩ } := by
  unfold Tile.takeUnit
  dsimp only
  rw [if_neg (Nat.not_lt.mpr h)]

/-- Taking a unit over from an operation that stands in it cuts that operation off (R77). -/
theorem Tile.takeUnit_of_busy (h : pc < (tabGet {} t.units u).ends) : t.takeUnit u slot pc occ reads =
    { t with
      work := t.work.filter fun w => ¬ (w.unit = u ∧ w.issue = (tabGet {} t.units u).issue)
      accs := t.accs.filter fun a => ¬ (a.slot = slot ∧ a.issue = (tabGet {} t.units u).issue ∧ a.issue < pc)
      ovl := t.ovl.filter fun e => ¬ (u = uWld ∧ e.1 = (tabGet {} t.units u).issue)
      units := tabSet {} t.units u ⟨pc, pc + occ, reads⟩ } := by
  unfold Tile.takeUnit
  dsimp only
  rw [if_pos h]

end

/-! ### Scheduled acts -/

/-- A tile with more work scheduled behind what it has. -/
def Tile.scheduled (t : Tile) (l : List Work) : Tile := { t with work := t.work ++ l }

section
variable (t : Tile) (i : Issue) (tick unit pc slot : Nat)

theorem Tile.scheduled_scheduled (l m : List Work) : (t.scheduled l).scheduled m = t.scheduled (l ++ m) := by
  simp [Tile.scheduled]

theorem Tile.later_eq (a : Act) : t.later tick unit pc slot i a = t.scheduled [⟨tick, unit, pc, slot, i.bundle, a⟩] := rfl

/-- Acts scheduled one after the other stand in their order. -/
theorem Tile.foldl_later (tick : Nat → Nat) (act : Nat → Act) (l : List Nat) :
    l.foldl (fun t k => t.later (tick k) unit pc slot i (act k)) t =
      t.scheduled (l.map fun k => ⟨tick k, unit, pc, slot, i.bundle, act k⟩) := by
  induction l generalizing t with
  | nil => simp [Tile.scheduled]
  | cons k l ih => rw [List.foldl_cons, ih, later_eq, scheduled_scheduled, List.map_cons, List.singleton_append]

variable (units : List MxeUnit) (ecc : Option MxeEcc)

/-- The work of an error met at a tick in a word that an operation uses (R125). -/
def eccWork : List Work :=
  match ecc with
  | some e => if e.unit ∈ units then [⟨tick, unit, pc, sMxe, i.bundle, .eccHit e⟩] else []
  | none => []

theorem Tile.eccAt_of_mem {units : List MxeUnit} {e : MxeEcc} (h : e.unit ∈ units) :
    t.eccAt units (some e) tick unit pc i = t.later tick unit pc sMxe i (.eccHit e) := by
  simp [Tile.eccAt, h]

theorem Tile.eccAt_of_not_mem {units : List MxeUnit} {e : MxeEcc} (h : e.unit ∉ units) :
    t.eccAt units (some e) tick unit pc i = t := by
  simp [Tile.eccAt, h]

theorem Tile.eccAt_eq : t.eccAt units ecc tick unit pc i = t.scheduled (eccWork i tick unit pc units ecc) := by
  cases ecc with
  | none => simp [Tile.eccAt, eccWork, Tile.scheduled]
  | some e =>
    by_cases h : e.unit ∈ units
    · rw [t.eccAt_of_mem i tick unit pc h, later_eq, eccWork, if_pos h]
    · simp [t.eccAt_of_not_mem i tick unit pc h, eccWork, h, Tile.scheduled]

end

/-! ### Reads of local store by the matrix engine -/

section
variable (s : State) (i : Issue) (slot pc a n : Nat) (consume keep : Bool)

/-- A read touches the accesses and the work of its tile. -/
theorem State.tile_readLs : let t := (s.readLs i slot pc a n consume keep).st.tile i.tile
    t = { s.tile i.tile with accs := t.accs, work := t.work } := by
  unfold State.readLs
  dsimp only
  split
  · rw [tile_updTile_self]
    rfl
  · split
    · rfl
    · split <;> rw [tile_updTile_self] <;> rfl

/-- A read passes where the buffer that its mark names is VALID and its range meets no other that is FILLING or VALID (R48 to
R53). -/
theorem State.readPasses_iff : ReadPasses (s.readLs i slot pc a n consume keep) ↔
    let x := s.tile i.tile
    let buf := if consume then x.landAt a else none
    (∀ l, buf = some l → (x.land l).st = .valid) ∧ x.overruns a n buf = [] := by
  unfold State.readLs ReadPasses
  dsimp only
  split
  case _ hb => simp [hb]
  case _ l hb =>
    split
    case _ hv => simp [hb, hv]
    case _ hv => split <;> simp_all

/-- Whether a read passes is decided by the landing buffers of its tile. -/
theorem State.readPasses_updTile {f : Tile → Tile} (hf : (f (s.tile i.tile)).lands = (s.tile i.tile).lands)
    (h : ReadPasses (s.readLs i slot pc a n consume keep)) :
    ReadPasses ((s.updTile i.tile f).readLs i slot pc a n consume keep) := by
  have hlandAt : (f (s.tile i.tile)).landAt a = (s.tile i.tile).landAt a := by rw [Tile.landAt, hf]; rfl
  have hland (l : Nat) : (f (s.tile i.tile)).land l = (s.tile i.tile).land l := by rw [Tile.land, hf]; rfl
  have hover (b : Option Nat) : (f (s.tile i.tile)).overruns a n b = (s.tile i.tile).overruns a n b := by
    rw [Tile.overruns, hf]
    rfl
  rw [readPasses_iff] at h ⊢
  simpa only [tile_updTile_self, hlandAt, hland, hover] using h

variable {s i slot pc a n consume}

/-- A read that passes and completes later only notes its accesses (R108). -/
theorem State.readLs_keep_passes (h : ReadPasses (s.readLs i slot pc a n consume true)) :
    s.readLs i slot pc a n consume true = ⟨s.updTile i.tile fun t => t.note i slot pc a n, [], none⟩ := by
  obtain ⟨hfails, hwait⟩ := h
  unfold State.readLs at hfails hwait ⊢
  dsimp only at hfails hwait ⊢
  split
  · simp_all
  · split <;> simp_all

end

/-! ### A weight load -/

section
variable (x : Tile) (i : Issue) (pc a occ : Nat) (form : ImgForm) (buf : Option Nat)

/-- A tile whose weight load has noted its first read and holds the unit (R106, R108). -/
def Tile.takeWld : Tile := ((x.takeUnit uWld sMxe pc occ).note i sMxe pc a 4096).takeUnit uWld sMxe pc occ buf

/-- The work of a weight load: its first chunk to be written, 31 to be read, and the end of its consuming read (R106, R108). -/
def wldWork (b : Bool) (first : List Byte) : List Work :=
  ⟨pc + 2, uWld, pc, sMxe, i.bundle, .wrStat b form 0 first⟩ ::
    ((List.range 31).map fun k => ⟨pc + k + 1, uWld, pc, sMxe, i.bundle, .rdWld a (k + 1) b form⟩) ++
    match buf with
    | some l => [⟨pc + 31, uWld, pc, sMxe, i.bundle, .consumed l⟩]
    | none => []

/-- A tile after the issue of a weight load. -/
def Tile.startWld : Tile := (x.takeWld i pc a occ buf).scheduled (wldWork i pc a form buf (!x.active) (x.rdLs a 4096))

theorem Tile.takeWld_eq : x.takeWld i pc a occ buf = { x with
    work := (x.takeWld i pc a occ buf).work, accs := (x.takeWld i pc a occ buf).accs
    ovl := (x.takeWld i pc a occ buf).ovl, units := (x.takeWld i pc a occ buf).units } := by
  unfold Tile.takeWld
  rw [Tile.takeUnit_eq (Tile.note _ _ _ _ _ _), Tile.takeUnit_eq x]
  rfl

theorem Tile.units_takeWld : tabGet {} (x.takeWld i pc a occ buf).units uWld = ⟨pc, pc + occ, buf⟩ := by
  rw [Tile.takeWld, Tile.takeUnit_eq]
  exact tabGet_tabSet_self _ _ _ _

/-- The work of an overlay of `c` chunks at `o`: the chunks behind the first to be read, and the merge (R115, R116, R121,
R125). -/
def ovlWork (i : Issue) (pc o : Nat) (form : ImgForm) (d : Density) (c : Nat) (ecc : Option MxeEcc) (b : Bool) : List Work :=
  ((List.range (c - 1)).map fun k => ⟨pc + k + 1, uWld, pc, sMxe, i.bundle, .rdOvl o (k + 1)⟩) ++
    eccWork i (pc + ovlOcc form d + 1) uWld pc [.merge] ecc ++
    [⟨pc + ovlOcc form d + 1, uWld, pc, sMxe, i.bundle, .merge b form d c⟩]

/-- A tile whose weight load also takes an overlay, of which it reads the first chunk now (R116). -/
def Tile.addOverlay (t : Tile) (i : Issue) (pc o : Nat) (form : ImgForm) (d : Density) (c : Nat) (ecc : Option MxeEcc) : Tile :=
  { t with
    accs := (t.note i sMxe pc o 4096 true).accs
    ovl := t.ovl.filter (fun e => e.1 ≠ pc) ++ [(pc, t.rdLs o 4096)]
    work := t.work ++ ovlWork i pc o form d c ecc (!t.active) }

theorem ovlOcc_pos (f : ImgForm) (d : Density) : 0 < ovlOcc f d := Nat.lt_of_lt_of_le (by decide) (Nat.le_max_left _ _)

section
variable {x pc occ} (hu : (tabGet {} x.units uWld).ends ≤ pc) (hw : ∀ w ∈ x.work, w.unit = uWld → w.issue ≠ pc)
include hu hw

/-- A weight load that finds its unit free cuts off at most overlay chunks of its own tick. -/
theorem Tile.takeWld_of_free (ho : 0 < occ) :
    (x.takeWld i pc a occ buf).work = x.work ∧
      (x.takeWld i pc a occ buf).ovl = x.ovl.filter fun e => e.1 ≠ pc := by
  have hwork : (x.work.filter fun w => ¬ (w.unit = uWld ∧ w.issue = pc)) = x.work :=
    List.filter_eq_self.mpr fun w h => decide_eq_true fun ⟨hu, hi⟩ => hw w h hu hi
  have hbusy : pc < (tabGet {} ((x.takeUnit uWld sMxe pc occ).note i sMxe pc a 4096).units uWld).ends := by
    rw [Tile.takeUnit_eq]
    simpa [Tile.note] using ho
  rw [Tile.takeWld, Tile.takeUnit_of_busy _ _ _ hbusy, Tile.takeUnit_of_free _ _ _ hu]
  simp only [Tile.note, tabGet_tabSet_self, true_and, and_true]
  exact hwork

/-- What a weight load that finds its unit free leaves of its tile. -/
theorem Tile.startWld_of_free (ho : 0 < occ) : x.startWld i pc a occ form buf = { x with
      work := x.work ++ wldWork i pc a form buf (!x.active) (x.rdLs a 4096)
      accs := (x.takeWld i pc a occ buf).accs, ovl := x.ovl.filter fun e => e.1 ≠ pc
      units := (x.takeWld i pc a occ buf).units } := by
  obtain ⟨hwork, hovl⟩ := Tile.takeWld_of_free i a buf hu hw ho
  rw [Tile.startWld, Tile.takeWld_eq, hwork, hovl]
  rfl

/-- What a weight load with overlay that finds its unit free leaves of its tile. -/
theorem Tile.addOverlay_startWld_of_free (o c : Nat) (d : Density) (ecc : Option MxeEcc) :
    let y := x.startWld i pc a (ovlOcc form d) form buf
    y.addOverlay i pc o form d c ecc = { x with
      work := x.work ++ wldWork i pc a form buf (!x.active) (x.rdLs a 4096) ++ ovlWork i pc o form d c ecc (!x.active)
      accs := (y.note i sMxe pc o 4096 true).accs
      ovl := x.ovl.filter (fun e => e.1 ≠ pc) ++ [(pc, x.rdLs o 4096)]
      units := (x.takeWld i pc a (ovlOcc form d) buf).units } := by
  have h := Tile.startWld_of_free i a form buf hu hw (ovlOcc_pos form d)
  intro y
  have hovl : y.ovl.filter (fun e => e.1 ≠ pc) = x.ovl.filter fun e => e.1 ≠ pc := by
    rw [show y = _ from h, List.filter_filter]
    simp only [Bool.and_self]
  rw [Tile.addOverlay, hovl, show y = _ from h]
  rfl

end

/-- A weight load whose first read passes. -/
theorem State.loadWeights_passes {s : State} {cm : Bool} (hr : ReadPasses (s.readLs i sMxe pc a 4096 cm true)) :
    ∃ t, s.loadWeights i pc a form cm occ = ⟨t, [], none⟩ ∧ OnlyTile i.tile s t ∧
      t.tile i.tile = (s.tile i.tile).startWld i pc a occ form (if cm then (s.tile i.tile).landAt a else none) := by
  have hr' := s.readPasses_updTile i sMxe pc a 4096 cm true (f := fun t => t.takeUnit uWld sMxe pc occ)
    (by rw [Tile.takeUnit_eq]) hr
  unfold State.loadWeights
  simp only [readLs_keep_passes hr']
  refine ⟨_, rfl, ((onlyTile_updTile _ _ _).trans (onlyTile_updTile _ _ _)).trans (onlyTile_updTile _ _ _), ?_⟩
  rw [tile_updTile_self, tile_updTile_self, tile_updTile_self]
  generalize (if cm then (s.tile i.tile).landAt a else none) = buf
  generalize s.tile i.tile = x
  have hactive : ((x.takeUnit uWld sMxe pc occ).note i sMxe pc a 4096).active = x.active := by rw [Tile.takeUnit_eq]; rfl
  have hbytes : (x.takeWld i pc a occ buf).rdLs a 4096 = x.rdLs a 4096 := Tile.rdLs_congr (by rw [Tile.takeWld_eq]) _ _
  unfold Tile.startWld wldWork
  unfold Tile.takeWld at hbytes ⊢
  simp only [Tile.foldl_later]
  cases buf <;>
    simp only [Tile.later_eq, Tile.scheduled_scheduled, hactive, hbytes, List.singleton_append, List.append_nil]

end

/-! ### The commands -/

/-- The tile after the issue of an MMA (R100, R109, R125). -/
def Tile.mmaRow (t : Tile) (j : MxeIssue) (row : Fin 256) (fmt : MxeFmt) (start : Bool) (pc : Nat) (cols : List ColSum) : Tile :=
  (((t.takeUnit uArray sMxe pc 1).eccAt [.stat] j.ecc pc uArray pc j.toIssue).eccAt [.accRow] j.ecc (pc + 4) uArray pc
    j.toIssue).later (pc + 4) uArray pc sMxe j.toIssue (.accAdd row start (fmt.cls = .c16) cols)

section
variable {s : State} {j : MxeIssue} {p : Nat} (h : CanIssue s j.toIssue p sMxe) (row : Fin 256) (a : Opnd)
include h

/-- An MMA whose read passes issues: the sums of its row land four ticks later. -/
theorem mma_gives {c : Instr} {cm start : Bool} {fmt : MxeFmt}
    (hr : ReadPasses (s.readLs j.toIssue sMxe (s.part p).plan.pc (lsAddr ((s.tile j.tile).opnd a) 1024) 1024 cm false)) :
    let pc := (s.part p).plan.pc
    let x := s.tile j.tile
    let z := (s.readLs j.toIssue sMxe pc (lsAddr (x.opnd a) 1024) 1024 cm false).st
    ∃ t, (.next (s.issue sMxe j.toIssue c fun s _ pc => s.mma j row a fmt cm start pc) : Out3) = .next t ∧
      OnlyTile j.tile z t ∧ t.tile j.tile = ((z.tile j.tile).mmaRow j row fmt start pc
        (columnSums fmt (x.rdLs (lsAddr (x.opnd a) 1024) 1024) (x.stat x.active))).used sMxe := by
  intro pc x z
  refine issue_writes_tile_after_read h hr (g := fun t => t.mmaRow j row fmt start pc
    (columnSums fmt (t.rdLs (lsAddr (x.opnd a) 1024) 1024) (t.stat t.active))) ?_ ?_
  · simp only [State.mma, hr.2]
    rfl
  · rw [s.tile_readLs j.toIssue sMxe pc]
    rfl

/-- A DRW issues: its five lines are written at t + 3 to t + 7 (R110, R113). -/
theorem drw_gives :
    let pc := (s.part p).plan.pc
    let x := s.tile j.tile
    ∃ t, exec (.drw j row a) s = .next t ∧ OnlyTile j.tile s t ∧
      t.tile j.tile = (((x.takeUnit uAcc sMxe pc 5).eccAt [.accRow] j.ecc pc uAcc pc j.toIssue).scheduled
        ((List.range 5).map fun k => ⟨pc + 3 + k, uAcc, pc, sMxe, j.bundle, .wrLine (lsAddr (x.opnd a) 512 + 512 * k)
          (((drwBytes (tabGet {} x.accRows row)).drop (512 * k)).take 512)⟩)).used sMxe :=
  issue_writes_tile h rfl (congrArg (Tile.used · sMxe) (Tile.foldl_later _ _ _ _ _ _ _ _))

end

section
variable {s : State} {i : Issue} {p : Nat} (h : CanIssue s i p sMxe) (a : Opnd) (f : ImgOpnd) (cm : Bool)
  (hr : ReadPasses (s.readLs i sMxe (s.part p).plan.pc (lsAddr ((s.tile i.tile).opnd a) 4096) 4096 cm true))
include h hr

/-- A WLD whose read passes issues (R106). -/
theorem wld_gives :
    let x := s.tile i.tile
    let src := lsAddr (x.opnd a) 4096
    ∃ t, exec (.wld i a f cm) s = .next t ∧ OnlyTile i.tile s t ∧ t.tile i.tile =
      (x.startWld i (s.part p).plan.pc src 32 f.form (if cm then x.landAt src else none)).used sMxe := by
  intro x src
  obtain ⟨u, hu, only, tile⟩ := loadWeights_passes i (s.part p).plan.pc src 32 f.form hr
  exact ⟨_, issue_answers h hu, only.trans (onlyTile_updTile _ _ _), by rw [slotUsed_tile, tile]⟩

/-- A WLD with overlay whose reads pass issues (R115 to R121). -/
theorem wldWithOverlay_gives (o : Opnd) (d : Density) (n : Fin 512) (ecc : Option MxeEcc)
    (ho : (s.tile i.tile).overruns (lsAddr ((s.tile i.tile).opnd o) 4096) 4096 none = []) :
    let x := s.tile i.tile
    let src := lsAddr (x.opnd a) 4096
    let pc := (s.part p).plan.pc
    ∃ t, exec (.wldWithOverlay ⟨i, ecc⟩ a f o d n cm) s = .next t ∧ OnlyTile i.tile s t ∧ t.tile i.tile =
      ((x.startWld i pc src (ovlOcc f.form d) f.form (if cm then x.landAt src else none)).addOverlay i pc
        (lsAddr (x.opnd o) 4096) f.form d (ovlChunks f.form d n) ecc).used sMxe := by
  obtain ⟨u, hu, only, tile⟩ := loadWeights_passes i _ _ (ovlOcc f.form d) f.form hr
  have hover : (u.tile i.tile).overruns (lsAddr ((s.tile i.tile).opnd o) 4096) 4096 none = [] := by
    rw [tile, Tile.startWld, Tile.takeWld_eq]
    exact ho
  refine ⟨_, issue_answers h (t := u.updTile i.tile fun t => t.addOverlay i (s.part p).plan.pc
    (lsAddr ((s.tile i.tile).opnd o) 4096) f.form d (ovlChunks f.form d n) ecc) ?_,
    (only.trans (onlyTile_updTile _ _ _)).trans (onlyTile_updTile _ _ _), ?_⟩
  · simp only [hu, hover, Tile.foldl_later, Tile.eccAt_eq]
    simp only [Tile.later_eq, Tile.scheduled_scheduled]
    rfl
  · rw [slotUsed_tile, tile_updTile_self, tile]

end

/-- Settles O15: each command of the matrix engine issues and schedules its acts; a weight load that finds its unit free keeps
the work it finds. -/
theorem matrixEngineIssues : Obligations.MatrixEngineIssues := by
  unfold Obligations.MatrixEngineIssues
  intro s i p row a cm ecc h pc x
  refine ⟨issue_writes_tile h rfl rfl, fun e => issue_writes_tile h rfl rfl, fun f => issue_writes_tile h rfl rfl, ?_,
    fun f hr => ⟨mma_gives (j := ⟨i, ecc⟩) h row a hr, mma_gives (j := ⟨i, ecc⟩) h row a hr⟩,
    fun units tick unit => ⟨rfl, fun e => ⟨x.eccAt_of_mem i tick unit pc, x.eccAt_of_not_mem i tick unit pc⟩⟩,
    fun hr hu hw => ⟨fun f => ?_, fun f o d n ho => ?_⟩⟩
  · obtain ⟨t, e, only, tile⟩ := drw_gives (j := ⟨i, ecc⟩) h row a
    exact ⟨t, e, only, by rw [tile]; rfl⟩
  · obtain ⟨t, e, only, tile⟩ := wld_gives h a f cm hr
    refine ⟨t, e, only, ?_⟩
    rw [tile, Tile.startWld_of_free i _ _ _ hu hw (by decide)]
    exact ⟨rfl, rfl, rfl, congrArg UnitUse.ends (x.units_takeWld i pc _ 32 _), rfl, rfl⟩
  · obtain ⟨t, e, only, tile⟩ := wldWithOverlay_gives h a f cm hr o d n ecc ho
    refine ⟨t, e, only, ?_⟩
    rw [tile, Tile.addOverlay_startWld_of_free i _ _ _ hu hw _ _ d ecc]
    refine ⟨rfl, rfl, rfl, rfl, congrArg UnitUse.ends (x.units_takeWld i pc _ _ _), rfl, ?_⟩
    simp only [Tile.used, ovlWork, Tile.eccAt_eq, Tile.scheduled, List.append_assoc]
    rfl

end Sys2Proof.Machine
end

section
/-! PROOFS. AWT, and the completion of a flue entry (O19). -/

namespace Sys2Proof.Machine

open State

/-! ### A unit taken leaves local store, the flue and the slots of its tile -/

section
variable (t : Tile) (u slot pc occ : Nat) (reads : Option Nat)

@[simp] theorem Tile.store_takeUnit : (t.takeUnit u slot pc occ reads).store = t.store := by rw [takeUnit_eq]
@[simp] theorem Tile.flue_takeUnit : (t.takeUnit u slot pc occ reads).flue = t.flue := by rw [takeUnit_eq]
@[simp] theorem Tile.slots_takeUnit : (t.takeUnit u slot pc occ reads).slots = t.slots := by rw [takeUnit_eq]
@[simp] theorem Tile.slotEntry_takeUnit (k : Nat) : (t.takeUnit u slot pc occ reads).slotEntry k = t.slotEntry k := by
  rw [slotEntry, flue_takeUnit, slotEntry]

end

/-- The flue unit of a tile taken for one tick. -/
def State.takeFlue (s : State) (n pc : Nat) : State := s.updTile n fun t => t.takeUnit uFlue sFlu pc 1

@[simp] theorem State.tile_takeFlue_self (s : State) (n pc : Nat) :
    (s.takeFlue n pc).tile n = (s.tile n).takeUnit uFlue sFlu pc 1 := tile_updTile_self _ _ _

theorem State.onlyTile_takeFlue (s : State) (n pc : Nat) : OnlyTile n s (s.takeFlue n pc) := onlyTile_updTile _ _ _

/-! ### An entry that counts as awaited -/

/-- A tile whose entry `e` in slot `k` counts as awaited, a draw's bytes written to its destination (R172). -/
def Tile.await (t : Tile) (k : Nat) (e : FlueEntry) : Tile :=
  let t := if e.draw then drawInto t e else t
  { t with flue := tabSet {} t.flue k { e with awaited := true } }

theorem Tile.slotEntry_await (t : Tile) (k : Nat) (e : FlueEntry) : (t.await k e).slotEntry k = { e with awaited := true } :=
  tabGet_tabSet_self _ _ _ _

theorem Tile.store_await_of_draw (t : Tile) (k : Nat) {e : FlueEntry} (h : e.draw = true) :
    (t.await k e).store = (t.wrLs e.ls e.data).store := by
  simp [Tile.await, h, drawInto]

theorem Tile.store_await_of_lay (t : Tile) (k : Nat) {e : FlueEntry} (h : e.draw = false) : (t.await k e).store = t.store := by
  simp [Tile.await, h]

theorem State.awaitEntry_of_not_failed (s : State) (p n k : Nat) (h : ((s.tile n).slotEntry k).failed = false) :
    s.awaitEntry p n k = s.updTile n fun t => t.await k ((s.tile n).slotEntry k) := if_neg (by simp [h])

/-! ### AWT -/

/-- An operation that waits on an entry holds its tile, and the late await is counted (R80, R172). -/
theorem State.settleOp_await (s : State) (p slot : Nat) (i : Issue) (c : Instr) (k : Nat) :
    s.settleOp p slot i c ⟨s, [], some (.await k)⟩ =
      (s.updCnt p fun c => { c with lateAwaits := satInc 64 c.lateAwaits }).updTile i.tile fun t =>
        { t with wait := some (.await k), held := t.held ++ [c] } := by
  simp [settleOp]

section
variable {s : State} {i : Issue} {p : Nat} {slot : Fin 2048} (h : CanIssue s i p 4)
include h

/-- An AWT of a completed entry whose re-read has not failed. -/
theorem exec_awt_of_complete (hu : ((s.tile i.tile).slotEntry slot).used = true)
    (ha : ((s.tile i.tile).slotEntry slot).awaited = false) (hc : ((s.tile i.tile).slotEntry slot).complete = true)
    (hf : ((s.tile i.tile).slotEntry slot).failed = false) :
    exec (.awt i slot) s = .next (((s.takeFlue i.tile (s.part p).plan.pc).updTile i.tile fun t =>
      t.await slot ((s.tile i.tile).slotEntry slot)).slotUsed i 4) := by
  refine issue_answers h ?_
  have he : ((s.takeFlue i.tile (s.part p).plan.pc).tile i.tile).slotEntry slot = (s.tile i.tile).slotEntry slot := by simp
  have hw := awaitEntry_of_not_failed (s.takeFlue i.tile (s.part p).plan.pc) p i.tile slot (by rw [he]; exact hf)
  rw [he] at hw
  simp only [hu, ha, hc, ← hw]
  rfl

/-- An AWT of a slot that holds no entry, or one awaited before. -/
theorem exec_awt_of_awaited
    (hd : ((s.tile i.tile).slotEntry slot).used = false ∨ ((s.tile i.tile).slotEntry slot).awaited = true) :
    exec (.awt i slot) s = .next ((s.takeFlue i.tile (s.part p).plan.pc).slotUsed i 4) :=
  issue_answers h (if_neg (by rcases hd with hd | hd <;> simp [hd]))

/-- An AWT of an entry in flight. -/
theorem exec_awt_of_in_flight (hu : ((s.tile i.tile).slotEntry slot).used = true)
    (ha : ((s.tile i.tile).slotEntry slot).awaited = false) (hc : ((s.tile i.tile).slotEntry slot).complete = false) :
    exec (.awt i slot) s = .next ((s.updCnt p fun c => { c with lateAwaits := satInc 64 c.lateAwaits }).updTile i.tile fun t =>
      { t with wait := some (.await slot), held := t.held ++ [.awt i slot] }) := by
  refine congrArg Host.Outcome.next ((s.issue_settles i p 4 _ _ h).trans ?_)
  simp only [hu, ha, hc]
  exact s.settleOp_await p 4 i _ slot

end

/-! ### A completion -/

/-- An entry that has taken its bytes completes, where no codeword is bad and none meets an error (R181, R183). -/
theorem State.flueComplete_clean (s : State) (p n k word : Nat) (hu : ((s.tile n).slotEntry k).used = true)
    (hc : ((s.tile n).slotEntry k).complete = false) (ht : ((s.tile n).slotEntry k).taken = true) (hb : s.badWords = []) :
    s.flueComplete p n k .none word = s.updTile n fun x =>
      { x with flue := tabSet {} x.flue k { (s.tile n).slotEntry k with complete := true } } := by
  simp [flueComplete, hu, hc, ht, hb]

theorem exec_flueEntryComplete_clean {s : State} {n : TileId} {p : Nat} (hp : s.tilePart n = some p)
    (hr : (s.part p).plan.st = .running) (hw : (s.tile n).wait = none) (k : Fin 2048) (word : Nat)
    (hu : ((s.tile n).slotEntry k).used = true) (hc : ((s.tile n).slotEntry k).complete = false)
    (ht : ((s.tile n).slotEntry k).taken = true) (hb : s.badWords = []) :
    exec (.flueEntryComplete n k .none word) s = .next (s.updTile n fun x =>
      { x with flue := tabSet {} x.flue k { (s.tile n).slotEntry k with complete := true } }) := by
  obtain ⟨u, he⟩ : ∃ u, u = s.updTile n fun x =>
    { x with flue := tabSet {} x.flue k { (s.tile n).slotEntry k with complete := true } } := ⟨_, rfl⟩
  have hz : s.flueComplete p n k .none word = u := (s.flueComplete_clean p n k word hu hc ht hb).trans he.symm
  have hrun : (u.part p).plan.st = .running := by rw [he, part_updTile]; exact hr
  have hwait : (u.tile n).wait = none := by rw [he, tile_updTile_self]; exact hw
  rw [← he]
  simp only [exec, execFlueEntryComplete, hp, hz, hrun, if_true, resume_of_wait_none u n hwait, ite_self]

/-- Settles O19: an AWT by the state of its entry, and the completion of an entry no bundle waits on. -/
theorem flueEntriesCompleteAndAreAwaited : Obligations.FlueEntriesCompleteAndAreAwaited := by
  unfold Obligations.FlueEntriesCompleteAndAreAwaited
  intro s i p slot h x e pc
  refine ⟨fun hu ha hc hf => ?_, fun hd => ?_, fun hu ha hc => ?_, fun hu hc ht hb w => ?_⟩
  · have htile : (((s.takeFlue i.tile pc).updTile i.tile fun t => t.await slot e).slotUsed i 4).tile i.tile =
        ((x.takeUnit uFlue sFlu pc 1).await slot e).used 4 := by
      rw [slotUsed_tile, tile_updTile_self, tile_takeFlue_self]
    refine ⟨_, exec_awt_of_complete h hu ha hc hf,
      ((s.onlyTile_takeFlue _ _).trans (onlyTile_updTile _ _ _)).trans (onlyTile_updTile _ _ _), ?_, fun hd => ?_, fun hd => ?_⟩
    · rw [htile]
      exact Tile.slotEntry_await _ _ _
    · rw [htile]
      refine (Tile.store_await_of_draw _ slot hd).trans ?_
      simp only [Tile.wrLs, Tile.store_takeUnit]
    · rw [htile]
      exact (Tile.store_await_of_lay _ slot hd).trans (Tile.store_takeUnit _ _ _ _ _ _)
  · exact ⟨_, exec_awt_of_awaited h hd, (s.onlyTile_takeFlue _ _).trans (onlyTile_updTile _ _ _),
      by rw [slotUsed_tile, tile_takeFlue_self]; rfl⟩
  · refine ⟨_, exec_awt_of_in_flight h hu ha hc, fun j hj => tile_updTile_ne _ _ hj,
      fun q hq => (part_updTile _ _ _ _).trans (part_updClock_ne _ _ hq), rfl, tile_updTile_self _ _ _, ?_, ?_⟩ <;>
      rw [part_updTile, part_updCnt_self]
  · obtain ⟨hp, hr, hw, -, -⟩ := h
    exact ⟨_, exec_flueEntryComplete_clean hp hr hw slot w hu hc ht hb, onlyTile_updTile _ _ _, tile_updTile_self _ _ _⟩

end Sys2Proof.Machine
end

section
/-! PROOFS. The beats of a SND, and the tracks that two beats share (O18). -/

namespace Sys2Proof.Machine

open State

/-! ### Tracks -/

theorem mem_claimsAt (cs : List Claim) (pc : Nat) (k : Track) : k ∈ claimsAt cs pc ↔ (⟨pc, k⟩ : Claim) ∈ cs := by
  simp only [claimsAt, List.mem_map, List.mem_filter, decide_eq_true_eq]
  constructor
  · rintro ⟨⟨t, j⟩, ⟨hc, rfl⟩, rfl⟩
    exact hc
  · exact fun hc => ⟨_, ⟨hc, rfl⟩, rfl⟩

/-- What two members of a list both give stands twice in what the list gives. -/
theorem one_lt_count_flatMap {α β : Type} [DecidableEq β] {f : α → List β} {l : List α} {a b : α} {k : β}
    (ha : a ∈ l) (hb : b ∈ l) (hne : a ≠ b) (hka : k ∈ f a) (hkb : k ∈ f b) : 1 < (l.flatMap f).count k := by
  induction l with
  | nil => cases ha
  | cons c l ih =>
    have later {x : α} (hx : x ∈ l) (hk : k ∈ f x) : 0 < (l.flatMap f).count k :=
      List.count_pos_iff.mpr (List.mem_flatMap.mpr ⟨x, hx, hk⟩)
    rw [List.flatMap_cons, List.count_append]
    rcases List.mem_cons.mp ha with rfl | hal <;> rcases List.mem_cons.mp hb with rfl | hbl
    · exact absurd rfl hne
    · have := List.count_pos_iff.mpr hka
      have := later hbl hkb
      omega
    · have := List.count_pos_iff.mpr hkb
      have := later hal hka
      omega
    · have := ih hal hbl
      omega

/-- A beat of partition `p` on plan time uses track `k` in plan tick `pc` (R159). -/
def Beat.uses (b : Beat) (p pc : Nat) (k : Track) : Prop := b.part = p ∧ b.circuit = false ∧ (⟨pc, k⟩ : Claim) ∈ b.claims

/-- The tracks that the beats of a partition toward landing buffers claim in a plan tick. -/
def State.tileTracks (s : State) (p pc : Nat) : List Track :=
  s.beats.flatMap fun b => if b.part = p && !b.circuit then claimsAt b.claims pc else []

/-- The tracks that the beats of a partition toward egress ports claim in a plan tick. -/
def State.egressTracks (s : State) (p pc : Nat) : List Track :=
  s.egBeats.flatMap fun b => if b.part = p then claimsAt b.claims pc else []

/-- Two claims of a plan tick meet on a track, or one meets a landing circuit (R161, R166). -/
def State.trackLost (s : State) (p pc : Nat) (k : Track) : Prop :=
  1 < (s.tileTracks p pc ++ s.egressTracks p pc).count k ∨ k ∈ s.heldTracks p

section
variable {s : State} {p pc : Nat} {b : Beat} {e : EgBeat} {k : Track}

theorem mem_claimsAt_of_uses (h : b.uses p pc k) : k ∈ if b.part = p && !b.circuit then claimsAt b.claims pc else [] := by
  obtain ⟨hp, hc, hk⟩ := h
  simpa [hp, hc] using (mem_claimsAt _ _ _).mpr hk

theorem mem_tileTracks (hb : b ∈ s.beats) (h : b.uses p pc k) : k ∈ s.tileTracks p pc :=
  List.mem_flatMap.mpr ⟨b, hb, mem_claimsAt_of_uses h⟩

theorem mem_egressTracks (he : e ∈ s.egBeats) (hp : e.part = p) (hk : (⟨pc, k⟩ : Claim) ∈ e.claims) : k ∈ s.egressTracks p pc :=
  List.mem_flatMap.mpr ⟨e, he, by simpa [hp] using (mem_claimsAt _ _ _).mpr hk⟩

theorem trackLost_of_two_beats {c : Beat} (hb : b ∈ s.beats) (hc : c ∈ s.beats) (hne : b ≠ c) (hbk : b.uses p pc k)
    (hck : c.uses p pc k) : s.trackLost p pc k := by
  have h : 1 < (s.tileTracks p pc).count k :=
    one_lt_count_flatMap hb hc hne (mem_claimsAt_of_uses hbk) (mem_claimsAt_of_uses hck)
  left
  rw [List.count_append]
  omega

theorem trackLost_of_beat_and_egBeat (hb : b ∈ s.beats) (he : e ∈ s.egBeats) (hbk : b.uses p pc k) (hp : e.part = p)
    (hk : (⟨pc, k⟩ : Claim) ∈ e.claims) : s.trackLost p pc k := by
  have ht := List.count_pos_iff.mpr (mem_tileTracks hb hbk)
  have hg := List.count_pos_iff.mpr (mem_egressTracks he hp hk)
  left
  rw [List.count_append]
  omega

/-- A scheduled beat of the partition keeps its way exactly when it uses no lost track. -/
theorem mem_beats_trackTick_iff (hb : b ∈ s.beats) (hp : b.part = p) (hc : b.circuit = false) :
    b ∈ (s.trackTick p pc).beats ↔ ∀ k, b.uses p pc k → ¬ s.trackLost p pc k := by
  simp [trackTick, hb, hp, hc, Beat.uses, trackLost, tileTracks, egressTracks, mem_claimsAt]

theorem not_mem_beats_trackTick (h : b.uses p pc k) (hl : s.trackLost p pc k) : b ∉ (s.trackTick p pc).beats := by
  intro hm
  exact (mem_beats_trackTick_iff (List.mem_filter.mp hm).1 h.1 h.2.1).mp hm k h hl

theorem not_mem_egBeats_trackTick (hp : e.part = p) (hk : (⟨pc, k⟩ : Claim) ∈ e.claims) (hl : s.trackLost p pc k) :
    e ∉ (s.trackTick p pc).egBeats := by
  intro hm
  have hn := (List.mem_filter.mp hm).2
  simp only [hp, decide_true, Bool.true_and, Bool.not_eq_true', List.any_eq_false] at hn
  refine hn k ((mem_claimsAt _ _ _).mpr hk) ?_
  simpa only [trackLost, tileTracks, egressTracks, Bool.or_eq_true, decide_eq_true_eq, List.contains_iff_mem] using hl

theorem mem_beats_trackTick_of_part_ne (hb : b ∈ s.beats) (hp : b.part ≠ p) : b ∈ (s.trackTick p pc).beats :=
  List.mem_filter.mpr ⟨hb, by simp [hp]⟩

theorem mem_egBeats_trackTick_of_part_ne (he : e ∈ s.egBeats) (hp : e.part ≠ p) : e ∈ (s.trackTick p pc).egBeats :=
  List.mem_filter.mpr ⟨he, by simp [hp]⟩

end

/-! ### The first beat of a SND -/

/-- A SND that cuts another off takes away at most beats of it. -/
theorem State.cutSend_eq (s : State) (n pc eng : Nat) :
    s.cutSend n pc eng = { s with beats := (s.cutSend n pc eng).beats, egBeats := (s.cutSend n pc eng).egBeats } := by
  unfold State.cutSend
  dsimp only
  split <;> rfl

/-- Which beats a SND cuts off is decided by the units of its tile. -/
theorem State.cutSend_set_tiles (s : State) (ts : Tab Tile) (n pc eng : Nat) (h : (tabGet {} ts n).units = (s.tile n).units) :
    State.cutSend { s with tiles := ts } n pc eng = { s.cutSend n pc eng with tiles := ts } := by
  have hu : (State.tile { s with tiles := ts } n).units = (s.tile n).units := h
  unfold State.cutSend
  rw [hu]
  dsimp only
  split <;> rfl

/-- A beat that leaves touches no tile. -/
theorem State.sendBeat_tiles (s : State) (p n pc i len issue eng addr : Nat) (dst : SndDst) (tag : BitVec 4) :
    (s.sendBeat p n pc i len issue eng addr dst tag).tiles = s.tiles := by
  unfold State.sendBeat
  dsimp only
  split
  · split <;> rfl
  · split <;> rfl
  · split
    · rfl
    · split <;> rfl

@[simp] theorem State.tile_sendBeat (s : State) (p n pc i len issue eng addr : Nat) (dst : SndDst) (tag : BitVec 4) (k : Nat) :
    (s.sendBeat p n pc i len issue eng addr dst tag).tile k = s.tile k := by
  rw [State.tile, sendBeat_tiles, State.tile]

/-- The tile of a SND after its issue: its engine is taken, and the reads of its later beats are planned (R159). -/
def Tile.startSnd (t : Tile) (i : Issue) (eng : Fin 2) (pc a len : Nat) (dst : SndDst) (tag : BitVec 4) : Tile :=
  (List.range (ceilDiv len 512 - 1)).foldl (fun y k => y.later (pc + k + 1) (5 + eng.val) pc (2 + eng.val) i
    (.rdSnd (a + 512 * (k + 1)) (k + 1) len dst tag)) (t.takeUnit (5 + eng.val) (2 + eng.val) pc (ceilDiv len 512))

theorem Tile.store_startSnd (t : Tile) (i : Issue) (eng : Fin 2) (pc a len : Nat) (dst : SndDst) (tag : BitVec 4) :
    (t.startSnd i eng pc a len dst tag).store = t.store := by
  rw [startSnd, foldl_later, scheduled, takeUnit_eq]

/-- A SND whose first read passes leaves its first beat, and nothing else of it but its tile (R159). -/
theorem exec_snd_of_passes {s : State} {i : Issue} {p : Nat} {eng : Fin 2} (h : CanIssue s i p (2 + eng.val)) (a : Opnd) (n : Nat)
    (dst : SndDst) (tag : BitVec 4) (cm : Bool)
    (hr : ReadPasses (s.readLs i (2 + eng.val) (s.part p).plan.pc (lsAddr ((s.tile i.tile).opnd a) 512) (min (n + 1) 512) cm
      false)) :
    let pc := (s.part p).plan.pc
    let src := lsAddr ((s.tile i.tile).opnd a) 512
    let r := s.readLs i (2 + eng.val) pc src (min (n + 1) 512) cm false
    exec (.snd i eng a n dst tag cm) s = .next (((((r.st.cutSend i.tile pc eng).updTile i.tile fun t =>
      t.startSnd i eng pc src (n + 1) dst tag)).sendBeat p i.tile pc 0 (n + 1) pc eng src dst tag).slotUsed i (2 + eng.val)) := by
  intro pc src r
  refine issue_answers h ?_
  obtain ⟨hf, hw⟩ := hr
  simp only [hw]
  rw [hf]
  rfl

/-- A read of local store has no part in which beats its SND cuts off. -/
theorem State.cutSend_readLs (s : State) (i : Issue) (slot pc a n : Nat) (consume keep : Bool) (eng : Nat) :
    (s.readLs i slot pc a n consume keep).st.cutSend i.tile pc eng =
      { s.cutSend i.tile pc eng with tiles := (s.readLs i slot pc a n consume keep).st.tiles } := by
  obtain ⟨only, -⟩ := (s.readLs_st i slot pc a n consume keep).1
  have hu : ((s.readLs i slot pc a n consume keep).st.tile i.tile).units = (s.tile i.tile).units := by
    rw [s.tile_readLs i slot pc a n consume keep]
  rw [← s.cutSend_set_tiles _ _ _ _ hu, ← only]

section
variable {s : State} {p n pc len eng addr : Nat} {tag : BitVec 4} {bytes : List Byte}

section
variable {u : TileId} {l : Fin 512} {path : Path}

theorem State.sendBeat_tile_of_none {i issue : Nat} (h : tileClaims n u pc path = none) :
    s.sendBeat p n pc i len issue eng addr (.tile u l path) tag = s := by
  simp only [sendBeat, h]

theorem State.sendBeat_tile_of_some {cs : List Claim} (h : tileClaims n u pc path = some cs)
    (hb : (s.tile n).rdLs addr (min 512 len) = bytes) :
    s.sendBeat p n pc 0 len pc eng addr (.tile u l path) tag = { s with beats := s.beats ++ [{
      part := p, circuit := false, due := pc + travelTile n u, tile := u, landing := l, total := ceilDiv len 512
      tag := tag, src := { tile := n, module := s.moduleId }, off := 0, bytes := bytes
      xfer := (pc * 192 + n) * 2 + eng, claims := cs }] } := by
  subst hb
  simp only [sendBeat, h]
  rfl

end

section
variable {c : CordId} {route : BitVec 16} {deps : List Nat} {path : Path}

theorem State.sendBeat_cord_of_none {i issue : Nat} (h : cordClaims n c pc path = none) :
    s.sendBeat p n pc i len issue eng addr (.cord c route deps path) tag = s := by
  simp only [sendBeat, h]

theorem State.sendBeat_cord_of_some {cs : List Claim} (h : cordClaims n c pc path = some cs)
    (hb : (s.tile n).rdLs addr (min 512 len) = bytes) :
    s.sendBeat p n pc 0 len pc eng addr (.cord c route deps path) tag = { s with egBeats := s.egBeats ++ [{
      part := p, cord := c, due := pc + travelCord n c, route := route.toNat, tag := tag, tile := n
      issue := pc, eng := eng, index := 0, last := 1 = ceilDiv len 512, deps := deps, bytes := bytes, claims := cs }] } := by
  subst hb
  simp only [sendBeat, h]
  rfl

end

section
variable {core : CoreId} {m : Byte}

theorem State.sendBeat_mailbox_of_reaches {issue : Nat} (hd : tileDie n = core.val / 32) (ho : s.owns p (core.val / 4) = true)
    (hb : (s.tile n).rdLs addr (min 512 len) = bytes) :
    s.sendBeat p n pc 0 len issue eng addr (.mailbox core m) tag = { s with mail := s.mail ++ [{
      part := p, core := core, due := pc + travelMbx n core
      bytes := bytes.take 8 ++ leBytes 1 n ++ [m] ++ leBytes 2 (s.part p).plan.step ++ leBytes 4 pc }] } := by
  subst hb
  simp only [sendBeat, hd, ho]
  rfl

theorem State.sendBeat_mailbox_of_not_reaches {issue : Nat}
    (h : ¬ (tileDie n = core.val / 32 ∧ s.owns p (core.val / 4) = true)) :
    s.sendBeat p n pc 0 len issue eng addr (.mailbox core m) tag = s.cinderTile n cFence := by
  simp only [sendBeat, if_neg h]
  rfl

end

end

/-- Settles O18: a SND by where it goes, and a plan tick on the tracks by what a beat claims. -/
theorem beatsTravelTheirTracks : Obligations.BeatsTravelTheirTracks := by
  unfold Obligations.BeatsTravelTheirTracks
  refine ⟨fun s i p eng a n tag cm dst h => ?_, fun s p pc => ?_⟩
  · intro pc x len addr r bytes z hr
    obtain ⟨u, hu⟩ : ∃ u, u = (r.st.cutSend i.tile pc eng).updTile i.tile fun t =>
      t.startSnd i eng pc addr len dst tag := ⟨_, rfl⟩
    have hexec : exec (.snd i eng a n dst tag cm) s =
        .next ((u.sendBeat p i.tile pc 0 len pc eng addr dst tag).slotUsed i (2 + eng.val)) := by
      rw [hu]
      exact exec_snd_of_passes h a n dst tag cm hr
    have hcut : r.st.cutSend i.tile pc eng = { z with tiles := r.st.tiles } := s.cutSend_readLs i _ _ _ _ _ _ _
    have hz : z = { s with beats := z.beats, egBeats := z.egBeats } := s.cutSend_eq _ _ _
    generalize z.beats = B at hz
    generalize z.egBeats = E at hz
    rw [hz] at hcut
    obtain ⟨only, store⟩ := s.readLs_st i (2 + eng.val) pc addr (min len 512) cm false
    have htile : u.tile i.tile = (r.st.tile i.tile).startSnd i eng pc addr len dst tag := by
      rw [hu, tile_updTile_self, hcut]
      rfl
    have hother : TilesBut i.tile s u := by
      rw [hu, hcut]
      exact fun j hj => (tile_updTile_ne _ _ hj).trans (only.2 j hj)
    have hbytes : (u.tile i.tile).rdLs addr (min 512 len) = bytes :=
      Tile.rdLs_congr (by rw [htile, Tile.store_startSnd]; exact store) _ _
    have hset : u = { s with tiles := u.tiles, beats := B, egBeats := E } := by
      rw [hu, hcut]
      rfl
    refine ⟨_, hexec, fun j hj => ?_, ?_, ?_⟩
    · exact (tile_updTile_ne _ _ hj).trans ((tile_sendBeat _ _ _ _ _ _ _ _ _ _ _ _).trans (hother j hj))
    · rw [slotUsed_tile, tile_sendBeat, htile]
      rfl
    · clear_value z
      subst hz
      generalize u.tiles = T at hset
      cases dst with
      | tile k l path =>
        refine ⟨fun hc => ?_, fun cs hc => ?_⟩
        · rw [sendBeat_tile_of_none hc, hset]
          rfl
        · rw [sendBeat_tile_of_some hc hbytes, hset]
          rfl
      | cord c route deps path =>
        refine ⟨fun hc => ?_, fun cs hc => ?_⟩
        · rw [sendBeat_cord_of_none hc, hset]
          rfl
        · rw [sendBeat_cord_of_some hc hbytes, hset]
          rfl
      | mailbox core m =>
        have howns : u.owns p (core.val / 4) = s.owns p (core.val / 4) := by rw [hset]; rfl
        refine ⟨fun hd ho => ?_, fun hn => ?_⟩
        · rw [sendBeat_mailbox_of_reaches hd (howns.trans ho) hbytes, hset]
          rfl
        · rw [sendBeat_mailbox_of_not_reaches, hset]
          · rfl
          · rw [howns]
            rintro ⟨hd, ho⟩
            rcases hn with hn | hn
            · exact hn hd
            · simp [ho] at hn
  · refine ⟨rfl, fun b hb => (List.mem_filter.mp hb).1, fun b hb => (List.mem_filter.mp hb).1,
      fun b hb hp => mem_beats_trackTick_of_part_ne hb hp, fun b hb hp => mem_egBeats_trackTick_of_part_ne hb hp,
      fun b k hk hh => not_mem_beats_trackTick hk (.inr hh), fun b c k hb hc hne hbk hck => ?_, fun b e k hb he hbk hp hk => ?_,
      fun b hb hp hc hk => (mem_beats_trackTick_iff hb hp hc).mpr fun k hu => absurd hu (hk k)⟩
    · have hl := trackLost_of_two_beats hb hc hne hbk hck
      exact ⟨not_mem_beats_trackTick hbk hl, not_mem_beats_trackTick hck hl⟩
    · have hl := trackLost_of_beat_and_egBeat hb he hbk hp hk
      exact ⟨not_mem_beats_trackTick hbk hl, not_mem_egBeats_trackTick hp hk hl⟩

end Sys2Proof.Machine
end

section
/-! PROOFS. The memory access of a flue entry at the end of its tick (O11): what logging and a write of bytes leave of memory,
and an entry that reaches memory. -/

namespace Sys2Proof.Machine

open State

/-! ### What logging touches -/

/-- The parts of State that an entry of the fault log touches (R480 to R482). -/
def logParts : List Fld := [.parts, .cinder, .log, .outbox]

section
variable {s t : State}

theorem Signals.same {p : Nat} (h : Signals p s t) : Same logParts s t := by
  intro f hf
  rw [h.1]
  cases f <;> simp_all [Fld.same, logParts]

theorem State.same_ringPut (s : State) (e : LogEntry) (p : Nat) : Same logParts s (s.ringPut e p) :=
  Signals.same (p := p) (.raiseEv <| .updPart <| .refl _ _)

theorem State.same_logPut (s : State) (e : LogEntry) (affects : List Nat) : Same logParts s (s.logPut e affects) :=
  .fold' (by rw [same_set_log_logSeq (by decide)]; exact .refl _ _) fun _ _ => same_ringPut _ _ _

theorem State.same_joinWindow (s : State) (e : LogEntry) : Same logParts s (s.joinWindow e) :=
  (same_set_coalesce (by decide) _ _ _).mpr (.foldl _ (fun _ _ => same_logPut _ _ _) _ _)

theorem State.same_logTile (s : State) (n : Nat) (e : LogEntry) : Same logParts s (s.logTile n e) := by
  have hc (a b c : Nat) : Same logParts s (s.cinderInc a b c) := (same_set_cinder (by decide) _ _ _).mpr (.refl _ _)
  unfold logTile logEv
  dsimp only
  split
  · exact (hc _ _ _).trans (same_joinWindow _ _)
  · exact (hc _ _ _).trans (same_logPut _ _ _)

theorem State.same_digItem (s : State) (p n : Nat) (desc data : List Byte) : Same logParts s (s.digItem p n desc data) := by
  unfold digItem
  split
  · exact .refl _ _
  · exact (same_set_parts (by decide) _ _ _).mpr (.refl _ _)

theorem Same.tile (h : Same logParts s t) (k : Nat) : t.tile k = s.tile k := by
  rw [State.tile, h .tiles (by decide), State.tile]

/-- What a write makes of memory and turf depends on them alone. -/
theorem State.wrMems_congr (hm : t.mem = s.mem) (ht : t.turf = s.turf) (a : Nat) (l : List Byte) :
    (t.wrMems a l).mem = (s.wrMems a l).mem ∧ (t.wrMems a l).turf = (s.wrMems a l).turf := by
  induction l generalizing s t a with
  | nil => exact ⟨hm, ht⟩
  | cons b l ih =>
    refine ih ?_ ?_ (a + 1) <;> unfold wrMem <;> split <;> simp [hm, ht]

end

/-! ### An entry reaches memory -/

/-- A flue entry as it stands once it has reached memory: a draw in range holds the bytes that it read (R175). -/
def FlueEntry.take (e : FlueEntry) (s : State) : FlueEntry :=
  { e with taken := true, data := if e.draw ∧ e.inRange then s.memBytes e.addr e.n else e.data }

theorem FlueEntry.take_of_draw {e : FlueEntry} (s : State) (hd : e.draw = true) (hr : e.inRange = true) :
    e.take s = { e with taken := true, data := s.memBytes e.addr e.n } := by
  simp [take, hd, hr]

theorem FlueEntry.take_of_not {e : FlueEntry} (s : State) (h : ¬ (e.draw = true ∧ e.inRange = true)) :
    e.take s = { e with taken := true } := by
  simp only [take, if_neg h]

/-- The tile of an entry that has reached memory; the destination of a draw is open (R174). -/
def Tile.take (t : Tile) (k : Nat) (e : FlueEntry) (serial : Nat) : Tile :=
  let t := { t with flue := tabSet {} t.flue k e }
  if e.draw then t.wrLs e.ls ((List.range e.n).map (Config.drawByte serial)) else t

theorem Tile.slotEntry_take (t : Tile) (k : Nat) (e : FlueEntry) (serial : Nat) : (t.take k e serial).slotEntry k = e := by
  dsimp only [Tile.take]
  split
  · exact tabGet_tabSet_self _ _ _ _
  · exact tabGet_tabSet_self _ _ _ _

theorem Tile.store_take_of_lay (t : Tile) (k : Nat) {e : FlueEntry} (serial : Nat) (h : e.draw = false) :
    (t.take k e serial).store = t.store := by
  simp [Tile.take, h]

/-- The open destination of a draw is all that it touches of local store (R171, R174). -/
theorem Tile.rdByte_take_out (t : Tile) (k : Nat) {e : FlueEntry} (serial : Nat) (h : e.ls + e.n ≤ 2 ^ 22) {a : Nat}
    (ha : a < e.ls ∨ e.ls + e.n ≤ a) : rdByte (t.take k e serial).store a = rdByte t.store a := by
  dsimp only [Tile.take]
  split
  · by_cases hn : e.n = 0
    · simp [Tile.wrLs, wrBytes, hn]
    · refine Tile.rdByte_wrLs_out _ (by omega) (by simp; omega) a fun j hj => ?_
      simp only [List.length_map, List.length_range] at hj
      omega
  · rfl

/-- The state with the entry of a slot taken, before what its kind adds. -/
def State.takeSlot (s : State) (n k : Nat) : State :=
  s.fresh.updTile n fun t => t.take k (((s.tile n).slotEntry k).take s) s.fresh.serial

theorem State.tile_takeSlot_self (s : State) (n k : Nat) :
    (s.takeSlot n k).tile n = (s.tile n).take k (((s.tile n).slotEntry k).take s) s.fresh.serial := tile_updTile_self _ _ _

theorem State.tilesBut_takeSlot (s : State) (n k : Nat) : TilesBut n s (s.takeSlot n k) := fun _ hj => tile_updTile_ne _ _ hj

section
variable {s : State} {p n k : Nat}

theorem State.takeEntry_eq (hu : ((s.tile n).slotEntry k).used = true) (ht : ((s.tile n).slotEntry k).taken = false) :
    s.takeEntry p n k =
      let e := ((s.tile n).slotEntry k).take s
      if ¬ e.inRange then
        (s.takeSlot n k).logTile n { cls := cFence, part := p, cause := 1, addr := e.addr, tick := e.issue }
      else if e.draw then s.takeSlot n k
      else
        let step := ((s.takeSlot n k).part p).plan.step
        ((s.takeSlot n k).wrMems e.addr e.data).digItem p step
          (leBytes 8 2 ++ leBytes 8 step ++ leBytes 8 e.issue ++ leBytes 1 n ++ leBytes 7 e.addr) e.data := by
  have h : ¬ (¬ ((s.tile n).slotEntry k).used = true ∨ ((s.tile n).slotEntry k).taken = true) := by simp [hu, ht]
  exact if_neg h

variable (hu : ((s.tile n).slotEntry k).used = true) (ht : ((s.tile n).slotEntry k).taken = false)
include hu ht

/-- An entry out of range, or a draw, leaves memory; either touches of the tiles what a taken slot does. -/
theorem State.takeEntry_of_no_write (h : ((s.tile n).slotEntry k).inRange = false ∨ ((s.tile n).slotEntry k).draw = true) :
    Same logParts (s.takeSlot n k) (s.takeEntry p n k) := by
  rw [takeEntry_eq hu ht]
  dsimp only
  split
  · exact same_logTile _ _ _
  · next hi =>
    rw [if_pos (show (((s.tile n).slotEntry k).take s).draw = true from h.resolve_left (by simpa [FlueEntry.take] using hi))]
    exact .refl _ _

/-- A lay in range writes its bytes in memory (R175). -/
theorem State.takeEntry_of_lay (hi : ((s.tile n).slotEntry k).inRange = true) (hd : ((s.tile n).slotEntry k).draw = false) :
    Same logParts ((s.takeSlot n k).wrMems ((s.tile n).slotEntry k).addr ((s.tile n).slotEntry k).data) (s.takeEntry p n k) := by
  have he : ((s.tile n).slotEntry k).take s = { (s.tile n).slotEntry k with taken := true } :=
    FlueEntry.take_of_not s (by simp [hd])
  rw [takeEntry_eq hu ht]
  simp only [he, hi, hd]
  exact same_digItem _ _ _ _ _

theorem State.tile_takeEntry (j : Nat) : (s.takeEntry p n k).tile j = (s.takeSlot n k).tile j := by
  by_cases h : ((s.tile n).slotEntry k).inRange = false ∨ ((s.tile n).slotEntry k).draw = true
  · exact (takeEntry_of_no_write hu ht h).tile j
  · simp only [not_or, Bool.not_eq_false, Bool.not_eq_true] at h
    refine ((takeEntry_of_lay hu ht h.1 h.2).tile j).trans ?_
    rw [State.tile, (Aside.wrMems (Aside.refl _)).tiles, State.tile]

theorem State.memory_takeEntry_of_no_write
    (h : ((s.tile n).slotEntry k).inRange = false ∨ ((s.tile n).slotEntry k).draw = true) :
    (s.takeEntry p n k).mem = s.mem ∧ (s.takeEntry p n k).turf = s.turf := by
  have hs := takeEntry_of_no_write (p := p) hu ht h
  exact ⟨hs .mem (by decide), (hs .turf (by decide)).1⟩

theorem State.memory_takeEntry_of_lay (hi : ((s.tile n).slotEntry k).inRange = true) (hd : ((s.tile n).slotEntry k).draw = false) :
    (s.takeEntry p n k).mem = (s.wrMems ((s.tile n).slotEntry k).addr ((s.tile n).slotEntry k).data).mem ∧
      (s.takeEntry p n k).turf = (s.wrMems ((s.tile n).slotEntry k).addr ((s.tile n).slotEntry k).data).turf := by
  have hs := takeEntry_of_lay (p := p) hu ht hi hd
  obtain ⟨hmem, hturf⟩ := wrMems_congr (s := s) (t := s.takeSlot n k) rfl rfl ((s.tile n).slotEntry k).addr
    ((s.tile n).slotEntry k).data
  exact ⟨(hs .mem (by decide)).trans hmem, (hs .turf (by decide)).1.trans hturf⟩

end

theorem State.applyAct_flueGo {s : State} {p n k : Nat} {w : Work} (h : w.act = .flueGo k) :
    s.applyAct p n w = s.takeEntry p n k := by
  simp only [applyAct, h]

end Sys2Proof.Machine
end

section
/-! PROOFS. The issue of DRAW and LAY within the budget window, and a new window (O11). -/

namespace Sys2Proof.Machine

open State

/-! ### The issue of an entry -/

/-- What a read of local store makes of its state: accesses and work of its tile (R48 to R53). -/
def ReadOf (n : Nat) (s r : State) : Prop :=
  OnlyTile n s r ∧ r.tile n = { s.tile n with accs := (r.tile n).accs, work := (r.tile n).work }

theorem ReadOf.refl (n : Nat) (s : State) : ReadOf n s s := ⟨.refl _ _, rfl⟩

theorem readOf_readLs (s : State) (i : Issue) (slot pc a n : Nat) (consume keep : Bool) :
    ReadOf i.tile s (s.readLs i slot pc a n consume keep).st :=
  ⟨(s.readLs_st i slot pc a n consume keep).1, s.tile_readLs i _ _ _ _ _ _⟩

/-- A tile with entry `e` in the slot of plan tick `pc`, its memory access planned for the end of the tick (R172, R175). -/
def Tile.enqueue (t : Tile) (i : Issue) (pc : Nat) (e : FlueEntry) : Tile :=
  { t with flue := tabSet {} t.flue (pc % 2048) e }.later pc uNone pc sFlu i (.flueGo (pc % 2048))

/-- Entry `e` has been issued in plan tick `pc`: it has its slot and its memory access is planned; of the tile's local store
nothing has changed, and of other tiles and partitions nothing at all (R172, R175). -/
def FlueIssued (s : State) (n p pc : Nat) (t : State) (e : FlueEntry) : Prop :=
  t = { s with tiles := t.tiles, parts := t.parts } ∧ TilesBut n s t ∧ PartsBut p s t ∧
    (t.tile n).slotEntry (pc % 2048) = e ∧ (t.tile n).store = (s.tile n).store ∧ (t.tile n).slots = 4 :: (s.tile n).slots ∧
    ∃ w ∈ (t.tile n).work, w.tick = pc ∧ w.act = .flueGo (pc % 2048)

/-- A state that takes an entry after the read and the charge of its operation has issued it. -/
theorem flueIssued_enqueue {s v : State} {i : Issue} {p : Nat} (pc : Nat) (e : FlueEntry)
    (hv : v = { s with tiles := v.tiles, parts := v.parts }) (ht : TilesBut i.tile s v) (hp : PartsBut p s v)
    (hstore : (v.tile i.tile).store = (s.tile i.tile).store) (hslots : (v.tile i.tile).slots = (s.tile i.tile).slots) :
    FlueIssued s i.tile p pc ((v.updTile i.tile fun t => t.enqueue i pc e).slotUsed i 4) e := by
  obtain ⟨u, hu⟩ : ∃ u, u = (v.updTile i.tile fun t => t.enqueue i pc e).slotUsed i 4 := ⟨_, rfl⟩
  have htile : u.tile i.tile = ((v.tile i.tile).enqueue i pc e).used 4 := by rw [hu, slotUsed_tile, tile_updTile_self]
  rw [← hu]
  refine ⟨?_, fun j hj => ?_, fun q hq => ?_, ?_, ?_, ?_, ?_⟩
  · rw [hu, hv]
    rfl
  · rw [hu, ← ht j hj]
    exact (tile_updTile_ne _ _ hj).trans (tile_updTile_ne _ _ hj)
  · rw [hu, part_slotUsed, part_updTile]
    exact hp q hq
  · rw [htile]
    exact tabGet_tabSet_self _ _ _ _
  · rw [htile]
    exact hstore
  · rw [htile]
    exact congrArg (4 :: ·) hslots
  · rw [htile]
    exact ⟨_, List.mem_append_right _ List.mem_cons_self, rfl, rfl⟩

/-- The memory a flue entry targets depends on the groups and the host windows, not on tiles. -/
theorem State.flueTarget_of_readOf {s r : State} {n : Nat} (h : ReadOf n s r) (p die a len : Nat) :
    r.flueTarget p die a len = s.flueTarget p die a len := by
  rw [h.1.1]
  rfl

/-- A group's count of a budget window set: of turf, or of near memory (R177). -/
def Plan.charge (x : Plan) (turf : Bool) (g w cnt : Nat) : Plan :=
  if turf then { x with turf := tabSet (0, 0) x.turf g (w, cnt) } else { x with near := tabSet (0, 0) x.near g (w, cnt) }

/-- The slot of the tick is free, or holds an entry that has been awaited: no issue waits for it (R173). -/
def Tile.slotFree (t : Tile) (k : Nat) : Prop := (t.slotEntry k).used = false ∨ (t.slotEntry k).awaited = true

/-- A flue entry as it is issued (R170 to R172). -/
def issuedEntry (draw : Bool) (pc ls n mem : Nat) (inRange : Bool) (data : List Byte) : FlueEntry :=
  { used := true, draw := draw, issue := pc, ls := ls, n := n, addr := mem, inRange := inRange, data := data }

theorem Tile.slotFree.not_waiting {t : Tile} {k : Nat} (h : t.slotFree k) :
    ¬ ((t.slotEntry k).used = true ∧ ¬ (t.slotEntry k).awaited = true) := by
  rcases h with h | h <;> simp [h]

theorem Tile.slotFree.not_waiting_and {t : Tile} {k : Nat} (h : t.slotFree k) (c : Prop) :
    ¬ ((t.slotEntry k).used = true ∧ ¬ (t.slotEntry k).awaited = true ∧ c) :=
  fun ⟨hu, ha, _⟩ => h.not_waiting ⟨hu, ha⟩

/-- The count of a group's budget window with an entry of `n` bytes at `mem` in it (R177). -/
def Plan.windowCount (x : Plan) (turf : Bool) (g pc mem n : Nat) : Nat :=
  winCount (if turf then x.turf else x.near) g (pc / 256) + flueCount mem n

/-- The budget of a group for turf or near memory (R177). -/
def Plan.flueBudget (x : Plan) (turf : Bool) (g : Nat) : Nat :=
  let budget := tabGet (0, 0) (x.loaded.getD {}).budgets g
  if turf then budget.2 else budget.1

section
variable {r : State} {i : Issue} {p pc mem ls n : Nat} {draw : Bool} (hf : (r.tile i.tile).slotFree (pc % 2048))
include hf

theorem flueEntry_of_no_target (ht : r.flueTarget p (tileDie i.tile) mem n = none) :
    r.flueEntry i p pc mem ls n draw = ⟨(r.takeFlue i.tile pc).updTile i.tile fun t =>
      t.enqueue i pc (issuedEntry draw pc ls n mem false (List.replicate n 0)), [], none⟩ := by
  have ht' : (r.updTile i.tile fun t => t.takeUnit uFlue sFlu pc 1).flueTarget p (tileDie i.tile) mem n = none := ht
  simp only [State.flueEntry, if_neg hf.not_waiting, if_neg (hf.not_waiting_and _), ht']
  rfl

theorem flueEntry_of_room {g : Nat} {turf : Bool} (ht : r.flueTarget p (tileDie i.tile) mem n = some (g, turf))
    (hroom : (r.part p).plan.windowCount turf g pc mem n ≤ (r.part p).plan.flueBudget turf g) :
    r.flueEntry i p pc mem ls n draw =
      ⟨((r.takeFlue i.tile pc).updPlan p fun x => x.charge turf g (pc / 256)
        ((r.part p).plan.windowCount turf g pc mem n)).updTile i.tile fun t => t.enqueue i pc (issuedEntry draw pc ls n mem true
          (if draw then [] else ((r.takeFlue i.tile pc).tile i.tile).rdLs ls n)), [], none⟩ := by
  have ht' : (r.updTile i.tile fun t => t.takeUnit uFlue sFlu pc 1).flueTarget p (tileDie i.tile) mem n = some (g, turf) := ht
  simp only [State.flueEntry, if_neg hf.not_waiting, if_neg (hf.not_waiting_and _), ht']
  exact if_neg (Nat.not_lt.mpr hroom)

end

section
variable {s r : State} {i : Issue} {p : Nat} (hr : ReadOf i.tile s r) {pc mem ls n : Nat} {draw : Bool}
include hr

/-- A read and the taking of the flue unit leave the tile's store, its flue and its slots, and all but the tile. -/
theorem ReadOf.takeFlue (pc : Nat) : OnlyTile i.tile s (r.takeFlue i.tile pc) ∧
    ((r.takeFlue i.tile pc).tile i.tile).store = (s.tile i.tile).store ∧
    ((r.takeFlue i.tile pc).tile i.tile).slots = (s.tile i.tile).slots := by
  rw [tile_takeFlue_self, Tile.store_takeUnit, Tile.slots_takeUnit, hr.2]
  exact ⟨hr.1.trans (onlyTile_takeFlue _ _ _), rfl, rfl⟩

theorem ReadOf.slotFree {k : Nat} (h : (s.tile i.tile).slotFree k) : (r.tile i.tile).slotFree k := by
  rw [hr.2]
  exact h

theorem ReadOf.part (q : Nat) : r.part q = s.part q := by
  rw [hr.1.1]
  rfl

variable (hfree : (s.tile i.tile).slotFree (pc % 2048))
include hfree

/-- An entry out of range counts in no budget and draws zeros (R185). -/
theorem flueEntry_out_of_range (ht : s.flueTarget p (tileDie i.tile) mem n = none) : ∃ u : State,
    r.flueEntry i p pc mem ls n draw = ⟨u, [], none⟩ ∧
    FlueIssued s i.tile p pc (u.slotUsed i 4) (issuedEntry draw pc ls n mem false (List.replicate n 0)) ∧
    (u.slotUsed i 4).part p = s.part p := by
  obtain ⟨only, store, slots⟩ := hr.takeFlue pc
  have hpart (q : Nat) : (r.takeFlue i.tile pc).part q = s.part q := hr.part q
  refine ⟨_, flueEntry_of_no_target (hr.slotFree hfree) ((flueTarget_of_readOf hr _ _ _ _).trans ht),
    flueIssued_enqueue pc _ ?_ only.2 (fun q _ => hpart q) store slots, ?_⟩
  · exact only.1.trans (by rw [only.1])
  · rw [part_slotUsed, part_updTile, hpart]

/-- An entry in range whose group's window has room counts in it (R177). -/
theorem flueEntry_in_budget {g : Nat} {turf : Bool} (ht : s.flueTarget p (tileDie i.tile) mem n = some (g, turf))
    (hroom : (s.part p).plan.windowCount turf g pc mem n ≤ (s.part p).plan.flueBudget turf g) : ∃ u : State,
      r.flueEntry i p pc mem ls n draw = ⟨u, [], none⟩ ∧ FlueIssued s i.tile p pc (u.slotUsed i 4)
        (issuedEntry draw pc ls n mem true (if draw then [] else (s.tile i.tile).rdLs ls n)) ∧
      (u.slotUsed i 4).part p = { s.part p with
        plan := (s.part p).plan.charge turf g (pc / 256) ((s.part p).plan.windowCount turf g pc mem n) } := by
  obtain ⟨only, store, slots⟩ := hr.takeFlue pc
  have hpart (q : Nat) : (r.takeFlue i.tile pc).part q = s.part q := hr.part q
  have he := flueEntry_of_room (ls := ls) (draw := draw) (hr.slotFree hfree) ((flueTarget_of_readOf hr _ _ _ _).trans ht)
    (by rw [hr.part]; exact hroom)
  rw [Tile.rdLs_congr store, hr.part] at he
  refine ⟨_, he, flueIssued_enqueue pc _ ?_ only.2 (fun q hq => (part_updPlan_ne _ _ hq).trans (hpart q)) store slots, ?_⟩
  · rw [only.1]
    rfl
  · rw [part_slotUsed, part_updTile, part_updPlan_self, hpart]

end

/-! ### DRAW and LAY -/

section
variable {s : State} {i : Issue} {p : Nat} (h : CanIssue s i p 4) (m b : Opnd) (n : Fin 4096)
include h

/-- A DRAW leaves what its entry does. -/
theorem exec_draw_of_entry {u : State}
    (hu : s.flueEntry i p (s.part p).plan.pc (((s.tile i.tile).opnd m).toNat % 2 ^ 52) (lsAddr ((s.tile i.tile).opnd b) 512)
      (n.val + 1) true = ⟨u, [], none⟩) :
    exec (.draw i m b n) s = .next (u.slotUsed i 4) := issue_answers h hu

/-- A LAY that finds its slot free and whose read passes leaves what its entry does. -/
theorem exec_lay_of_entry {u : State} {cm : Bool} (hf : (s.tile i.tile).slotFree ((s.part p).plan.pc % 2048))
    (hr : ReadPasses (s.readLs i 4 (s.part p).plan.pc (lsAddr ((s.tile i.tile).opnd b) 512) (n.val + 1) cm false))
    (hu : (s.readLs i 4 (s.part p).plan.pc (lsAddr ((s.tile i.tile).opnd b) 512) (n.val + 1) cm false).st.flueEntry i p
      (s.part p).plan.pc (((s.tile i.tile).opnd m).toNat % 2 ^ 52) (lsAddr ((s.tile i.tile).opnd b) 512) (n.val + 1) false =
      ⟨u, [], none⟩) :
    exec (.lay i b m n cm) s = .next (u.slotUsed i 4) := by
  obtain ⟨hfails, hwait⟩ := hr
  refine issue_answers h ((if_neg (hf.not_waiting_and _)).trans ?_)
  simp only [sFlu, hfails, hwait, hu, List.nil_append]

end

/-! ### A new budget window -/

theorem tabGet_of_forall_ne {α : Type} (d : α) (t : Tab α) (k : Nat) (h : ∀ e ∈ t, e.1 ≠ k) : tabGet d t k = d := by
  induction t with
  | nil => rfl
  | cons x t ih =>
    rw [tabGet, if_neg (h x List.mem_cons_self)]
    exact ih fun e he => h e (List.mem_cons_of_mem _ he)

theorem tabGet_of_mem {α : Type} [DecidableEq α] (d : α) (t : Tab α) {lo k : Nat} {v : α} (hw : tabWfFrom d lo t = true)
    (h : (k, v) ∈ t) : tabGet d t k = v ∧ lo ≤ k := by
  induction t generalizing lo with
  | nil => cases h
  | cons x t ih =>
    obtain ⟨j, y⟩ := x
    simp only [tabWfFrom, Bool.and_eq_true, decide_eq_true_eq] at hw
    obtain ⟨⟨hlo, -⟩, hw⟩ := hw
    rcases List.mem_cons.mp h with e | h
    · cases e
      exact ⟨if_pos rfl, hlo⟩
    · obtain ⟨hv, hj⟩ := ih hw h
      exact ⟨by rw [tabGet, if_neg (by omega), hv], by omega⟩

/-- A group none of whose counts is of the window counts from 0 in it (R177). -/
theorem winCount_filter {t : Tab (Nat × Nat)} {g w : Nat} (hw : tabWf (0, 0) t = true) (hg : (tabGet (0, 0) t g).1 ≠ w) :
    winCount (t.filter fun e => e.2.1 = w) g w = 0 := by
  have hnone : tabGet (0, 0) (t.filter fun e => e.2.1 = w) g = (0, 0) := by
    refine tabGet_of_forall_ne _ _ _ ?_
    rintro ⟨k, v⟩ he rfl
    obtain ⟨hm, hv⟩ := List.mem_filter.mp he
    rw [(tabGet_of_mem (0, 0) t hw hm).1] at hg
    exact hg (of_decide_eq_true hv)
  rw [winCount, hnone]
  exact ite_self 0

/-- Settles O11: the entry of a DRAW or a LAY by its target, its access at the end of the tick by its kind, and the counts that a
new window drops. -/
theorem flueEntriesIssueInTheirBudget : Obligations.FlueEntriesIssueInTheirBudget := by
  unfold Obligations.FlueEntriesIssueInTheirBudget
  refine ⟨fun s i p m b n h => ?_, fun s p => ?_⟩
  · intro pl len slot x mem ls issued drawn laid
    refine ⟨fun hfree => ⟨fun g turf ht => ?_, fun ht => ?_⟩, fun w k hw => ?_⟩
    · intro cnt budget counted hroom
      refine ⟨?_, fun cm hr => ?_⟩
      · obtain ⟨u, hu, hissued, hpart⟩ := flueEntry_in_budget (ls := ls) (draw := true) (.refl _ s) hfree ht hroom
        exact ⟨_, exec_draw_of_entry h m b n hu, hissued, hpart.trans (by cases turf <;> rfl)⟩
      · obtain ⟨u, hu, hissued, hpart⟩ := flueEntry_in_budget (ls := ls) (draw := false)
          (readOf_readLs s i 4 pl.pc ls len cm false) hfree ht hroom
        exact ⟨_, exec_lay_of_entry h m b n hfree hr hu, hissued, hpart.trans (by cases turf <;> rfl)⟩
    · refine ⟨?_, fun cm hr => ?_⟩
      · obtain ⟨u, hu, hissued, hpart⟩ := flueEntry_out_of_range (ls := ls) (draw := true) (.refl _ s) hfree ht
        exact ⟨_, exec_draw_of_entry h m b n hu, hissued, hpart⟩
      · obtain ⟨u, hu, hissued, hpart⟩ := flueEntry_out_of_range (ls := ls) (draw := false)
          (readOf_readLs s i 4 pl.pc ls len cm false) hfree ht
        exact ⟨_, exec_lay_of_entry h m b n hfree hr hu, hissued, hpart⟩
    · intro e hu ht _ t
      have hact : t = s.takeEntry p i.tile k := applyAct_flueGo hw
      have htile : t.tile i.tile = x.take k (e.take s) s.fresh.serial := by
        rw [hact, tile_takeEntry hu ht, tile_takeSlot_self]
      have hentry : (t.tile i.tile).slotEntry k = e.take s := by rw [htile, Tile.slotEntry_take]
      refine ⟨fun j hj => ?_, fun hi => ⟨?_, ?_⟩, fun hd => ⟨?_, ?_, fun hi => ?_, fun hls a ha => ?_⟩,
        fun hd => ⟨?_, fun hi => ?_⟩⟩
      · rw [hact, tile_takeEntry hu ht]
        exact s.tilesBut_takeSlot _ k j hj
      · rw [hentry, FlueEntry.take_of_not s (by simp [hi])]
      · rw [hact]
        exact memory_takeEntry_of_no_write hu ht (.inl hi)
      · rw [hact]
        exact (memory_takeEntry_of_no_write hu ht (.inr hd)).1
      · rw [hact]
        exact (memory_takeEntry_of_no_write hu ht (.inr hd)).2
      · rw [hentry, FlueEntry.take_of_draw s hd hi]
      · rw [htile]
        exact Tile.rdByte_take_out x k (e := e.take s) _ hls ha
      · rw [htile]
        exact Tile.store_take_of_lay x k (e := e.take s) _ hd
      · rw [hentry, FlueEntry.take_of_not s (by simp [hd]), hact]
        exact ⟨rfl, memory_takeEntry_of_lay hu ht hi hd⟩
  · intro pl
    refine ⟨_, rfl, onlyPart_updPlan _ _ _, part_updPlan_self _ _ _, fun g hg hw => ?_⟩
    rw [part_updPlan_self]
    exact winCount_filter hw hg

end Sys2Proof.Machine
end

section
/-! PROOFS. The serving block and the halt of a core (O25). -/

namespace Sys2Proof.Machine

open State

/-! ### What a write of memory touches -/

/-- The parts of State that a write at a partition address touches: memory, or the host through a window (R391 to R393). -/
def memParts : List Fld := [.mem, .turf, .badWords, .outbox]

theorem State.same_wrMem (s : State) (a : Nat) (b : Byte) : Same memParts s (s.wrMem a b) := by
  have hbad := (same_set_badWords (l := memParts) (by decide) s s (s.badWords.filter fun w => w ≠ a / 32 * 32)).mpr (.refl _ _)
  unfold wrMem
  dsimp only
  split
  · exact (same_set_turf (by decide) s { s with badWords := _ } _).mpr hbad
  · exact (same_set_mem (by decide) s { s with badWords := _ } _).mpr hbad

theorem State.same_wrMems (s : State) (a : Nat) (l : List Byte) : Same memParts s (s.wrMems a l) := by
  induction l generalizing s a with
  | nil => exact .refl _ _
  | cons b l ih => exact (same_wrMem s a b).trans (ih _ _)

theorem State.same_send (s : State) (o : Out) : Same memParts s (s.send o) := (same_set_outbox (by decide) _ _ _).mpr (.refl _ _)

theorem State.same_putBlock (s : State) (p a : Nat) (l : List Byte) (rec : Bool) : Same memParts s (s.putBlock p a l rec) := by
  unfold putBlock
  split
  · exact same_wrMems _ _ _
  · exact same_wrMems _ _ _
  · exact same_wrMems _ _ _
  · rw [same_ite, same_ite]
    exact ⟨fun _ => .refl _ _, fun _ => ⟨fun _ => same_send _ _, fun _ => same_send _ _⟩⟩
  · exact .refl _ _

theorem State.same_putMem (s : State) (p a : Nat) (l : List Byte) (rec : Bool) : Same memParts s (s.putMem p a l rec) :=
  .foldl _ (fun _ _ => same_putBlock _ _ _ _ _) _ _

section
variable {l : List Fld} {s t : State}

theorem Same.part (h : Same l s t) (hf : Fld.parts ∉ l) (q : Nat) : t.part q = s.part q := by
  rw [State.part, h .parts hf, State.part]

theorem Same.core (h : Same l s t) (hf : Fld.cores ∉ l) (k : Nat) : t.core k = s.core k := by
  rw [State.core, h .cores hf, State.core]

theorem State.coresOf_congr (h : t.groups = s.groups) (p : Nat) : t.coresOf p = s.coresOf p := by
  unfold State.coresOf State.groupsOf State.owns State.group
  rw [h]

theorem State.coreOff_congr (h : t.groups = s.groups) (c : Nat) : t.coreOff c = s.coreOff c := by
  rw [State.coreOff, State.group, h, State.coreOff, State.group]

end

/-! ### Events of a partition -/

theorem Signals.core {p : Nat} {s t : State} (h : Signals p s t) (k : Nat) : t.core k = s.core k := h.same.core (by decide) k

theorem State.exists_fn_sendMsix (s : State) (p v : Nat) : ∃ f, (s.sendMsix p v).part p = { s.part p with fn := f } := by
  unfold sendMsix
  dsimp only
  split
  · exact ⟨_, part_updFn_self _ _ _⟩
  · exact ⟨_, rfl⟩

/-- An event changes the function of its partition alone (R437). -/
theorem State.exists_fn_raiseEv (s : State) (p b : Nat) : ∃ f, (s.raiseEv p b).part p = { s.part p with fn := f } := by
  unfold raiseEv
  dsimp only
  split
  · exact ⟨_, rfl⟩
  · split
    · obtain ⟨f, hf⟩ := exists_fn_sendMsix
        (s.updFn p fun f => { f with evStatus := f.evStatus ||| BitVec.ofNat 16 (2 ^ b) }) p (tabGet 0 (s.part p).fn.evVec b)
      exact ⟨f, by rw [hf, part_updFn_self]⟩
    · exact ⟨_, part_updFn_self _ _ _⟩

theorem State.signals_setSrv (s : State) (p v : Nat) : Signals p s (s.setSrv p v) :=
  .ite (.refl _ _) (.raiseEv <| .updPart <| .refl _ _)

theorem State.part_setSrv_self (s : State) (p v : Nat) : ∃ f, (s.setSrv p v).part p =
    { s.part p with fn := f, serving := { (s.part p).serving with srvState := v } } := by
  unfold setSrv
  split
  · next h => exact ⟨_, by rw [← h]⟩
  · obtain ⟨f, hf⟩ := exists_fn_raiseEv (s.updServing p fun x => { x with srvState := v }) p evServing
    exact ⟨f, by rw [hf, updServing, part_updPart_self]⟩

/-! ### The cores of a partition -/

/-- Each core of a list changed, by its index. -/
def State.onCores (s : State) (l : List Nat) (f : Nat → Core → Core) : State := l.foldl (fun s c => s.updCore c (f c)) s

theorem State.onCores_eq (s : State) (l : List Nat) (f : Nat → Core → Core) :
    s.onCores l f = { s with cores := (s.onCores l f).cores } := by
  unfold onCores
  induction l generalizing s with
  | nil => rfl
  | cons c l ih => exact ih (s.updCore c (f c))

theorem State.core_onCores (s : State) {l : List Nat} (f : Nat → Core → Core) (h : l.Nodup) (k : Nat) :
    (s.onCores l f).core k = if k ∈ l then f k (s.core k) else s.core k := by
  unfold onCores
  induction l generalizing s with
  | nil => simp
  | cons c l ih =>
    obtain ⟨hc, hl⟩ := List.nodup_cons.mp h
    rw [List.foldl_cons, ih _ hl, core_updCore]
    by_cases e : k = c
    · subst e
      simp [hc]
    · simp [e]

@[simp] theorem State.part_onCores (s : State) (l : List Nat) (f : Nat → Core → Core) (q : Nat) :
    (s.onCores l f).part q = s.part q := by
  rw [onCores_eq]
  rfl

theorem State.core_onCores_of_mem (s : State) {p k : Nat} (f : Nat → Core → Core) (h : k ∈ s.coresOf p) :
    (s.onCores (s.coresOf p) f).core k = f k (s.core k) := by
  rw [core_onCores _ _ (s.nodup_coresOf p), if_pos h]

theorem State.core_onCores_of_not_mem (s : State) {p k : Nat} (f : Nat → Core → Core) (h : k ∉ s.coresOf p) :
    (s.onCores (s.coresOf p) f).core k = s.core k := by
  rw [core_onCores _ _ (s.nodup_coresOf p), if_neg h]

/-- The cores of partition `p` each changed, then its serving block, and SRV_STATUS.STATE set last (R227, R437). -/
def State.serve (s : State) (p : Nat) (f : Nat → Core → Core) (g : Serving → Serving) (v : Nat) : State :=
  ((s.onCores (s.coresOf p) f).updServing p g).setSrv p v

section
variable (s : State) (p : Nat) (f : Nat → Core → Core) (g : Serving → Serving) (v : Nat)

theorem State.signals_serve : Signals p (s.onCores (s.coresOf p) f) (s.serve p f g v) :=
  (Signals.updPart <| .refl _ _).trans (signals_setSrv _ _ _)

theorem State.partsBut_serve : PartsBut p s (s.serve p f g v) := fun q hq =>
  ((signals_serve s p f g v).2 q hq).trans (part_onCores _ _ _ _)

theorem State.part_serve_self : ∃ n, (s.serve p f g v).part p =
    { s.part p with fn := n, serving := { g (s.part p).serving with srvState := v } } := by
  obtain ⟨n, hn⟩ := part_setSrv_self ((s.onCores (s.coresOf p) f).updServing p g) p v
  exact ⟨n, by rw [serve, hn, updServing, part_updPart_self, part_onCores]⟩

theorem State.mem_serve : (s.serve p f g v).mem = s.mem := by
  rw [(signals_serve s p f g v).mem, onCores_eq]

theorem State.core_serve_of_mem {k : Nat} (h : k ∈ s.coresOf p) : (s.serve p f g v).core k = f k (s.core k) := by
  rw [(signals_serve s p f g v).core, core_onCores_of_mem s f h]

theorem State.core_serve_of_not_mem {k : Nat} (h : k ∉ s.coresOf p) : (s.serve p f g v).core k = s.core k := by
  rw [(signals_serve s p f g v).core, core_onCores_of_not_mem s f h]

end

end Sys2Proof.Machine
end

section
/-! PROOFS. The inbound mailbox ring of an Ember core (O23). -/

namespace Sys2Proof.Machine

open State

/-! ### An entry at the ring -/

/-- A core after an entry that it dropped (R193, R472). -/
def Core.dropMail (x : Core) : Core := { x with mbDropped := satInc 32 x.mbDropped, event := x.event ||| 4#6 }

/-- A core after an entry that its ring took (R193). -/
def Core.enterMail (x : Core) (bytes : List Byte) : Core :=
  { x with ring := tabSet [] x.ring (x.mbHead % 64) bytes, mbHead := (x.mbHead + 1) % 128, event := x.event ||| 2#6 }

section
variable {s : State} {c : Nat} (bytes : List Byte)

theorem State.core_raiseCore_self (s : State) (c b : Nat) : (s.raiseCore c b).core c =
    { s.core c with event := (s.core c).event ||| BitVec.ofNat 6 (2 ^ b) } := core_updCore_self _ _ _

theorem onlyCore_raiseCore (s : State) (c b : Nat) : OnlyCore c s (s.raiseCore c b) := onlyCore_updCore _ _ _

theorem State.mbPut_of_drop (h : (s.core c).mbCount = 64 ∨ s.coreOff c = true) :
    OnlyCore c s (s.mbPut c bytes) ∧ (s.mbPut c bytes).core c = (s.core c).dropMail := by
  rw [mbPut, if_pos h, core_raiseCore_self, core_updCore_self]
  exact ⟨(onlyCore_updCore _ _ _).trans (onlyCore_raiseCore _ _ _), rfl⟩

theorem State.mbPut_of_room (hn : (s.core c).mbCount ≠ 64) (ho : s.coreOff c = false) :
    OnlyCore c s (s.mbPut c bytes) ∧ (s.mbPut c bytes).core c = (s.core c).enterMail bytes := by
  rw [mbPut, if_neg (by simp [hn, ho]), core_raiseCore_self, core_updCore_self]
  exact ⟨(onlyCore_updCore _ _ _).trans (onlyCore_raiseCore _ _ _), rfl⟩

/-- Whatever the ring, an arrival changes its core alone. -/
theorem onlyCore_mbPut : OnlyCore c s (s.mbPut c bytes) := by
  by_cases h : (s.core c).mbCount = 64 ∨ s.coreOff c = true
  · exact (mbPut_of_drop bytes h).1
  · obtain ⟨hn, ho⟩ := not_or.mp h
    exact (mbPut_of_room bytes hn (Bool.eq_false_iff.mpr ho)).1

end

theorem exec_mailboxEntryArrival_of_some {s : State} {c : CoreId} {b : MbEntry} {rest : List MbEntry}
    (h : takeMail (fun e => e.core = c.val ∧ e.due ≤ (s.part e.part).plan.pc) s.mail = some (b, rest)) :
    exec (.mailboxEntryArrival c) s = .next (({ s with mail := rest } : State).mbPut c b.bytes) := by
  show execMailboxEntryArrival c s = _
  rw [execMailboxEntryArrival, h]

theorem exec_mailboxEntryArrival_of_none {s : State} {c : CoreId}
    (h : takeMail (fun e => e.core = c.val ∧ e.due ≤ (s.part e.part).plan.pc) s.mail = none) :
    exec (.mailboxEntryArrival c) s = .next s := by
  show execMailboxEntryArrival c s = _
  rw [execMailboxEntryArrival, h]

/-! ### TAIL -/

section
variable {s : State} {c : CoreId} {p : Nat} (hc : CoreActs s c p) {tail : Fin 128}
include hc

theorem exec_mbTailWrite_of_le (h : ((s.core c).mbHead + 128 - tail) % 128 ≤ 64) :
    exec (.mbTailWrite c tail) s = .next (s.updCore c fun x => { x with mbTail := tail }) :=
  congrArg Host.Outcome.next ((byCore_of_acts s c p _ hc).trans (if_pos h))

theorem exec_mbTailWrite_of_lt (h : 64 < ((s.core c).mbHead + 128 - tail) % 128) : exec (.mbTailWrite c tail) s = .next s :=
  congrArg Host.Outcome.next ((byCore_of_acts s c p _ hc).trans (if_neg (by omega)))

end

/-- Settles O23: an arrival by whether the ring takes it, and a write of TAIL by the count that it would leave. -/
theorem mailboxRingFillsAndDrops : Obligations.MailboxRingFillsAndDrops := by
  unfold Obligations.MailboxRingFillsAndDrops
  intro s c x
  refine ⟨fun b rest hb => ?_, exec_mailboxEntryArrival_of_none, fun p tail hc => ⟨fun h => ?_, exec_mbTailWrite_of_lt hc⟩⟩
  · obtain ⟨hset, hbut⟩ := onlyCore_mbPut (s := { s with mail := rest }) (c := c) b.bytes
    exact ⟨_, exec_mailboxEntryArrival_of_some hb, hset, hbut, fun h => (mbPut_of_drop (s := { s with mail := rest }) b.bytes h).2,
      fun hn ho => (mbPut_of_room (s := { s with mail := rest }) b.bytes hn ho).2⟩
  · exact ⟨_, exec_mbTailWrite_of_le hc h, onlyCore_updCore _ _ _, core_updCore_self _ _ _⟩

end Sys2Proof.Machine
end

section
/-! PROOFS. Words written into a tile's inbound mailbox, and the steal queues (O24). -/

namespace Sys2Proof.Machine

open State

/-! ### A count of an ignored access -/

/-- An access that is ignored and counted leaves all but its unit's counter of PARTITION_FENCE (R19). -/
theorem fenceInc_counts (s : State) (kind index : Nat) : let t := s.fenceInc kind index
    t = { s with cinder := t.cinder } ∧
    (∀ j, j ≠ cinderKey kind index cFence → tabGet 0 t.cinder j = tabGet 0 s.cinder j) ∧
    tabGet 0 t.cinder (cinderKey kind index cFence) = satInc 16 (tabGet 0 s.cinder (cinderKey kind index cFence)) :=
  ⟨rfl, fun _ hj => tabGet_tabUpd_ne _ _ _ hj, tabGet_tabUpd_self _ _ _ _⟩

/-! ### Words of a tile's mailbox -/

theorem toNat_half (x : BitVec 64) (k : Nat) : (x.extractLsb' k 32).toNat = x.toNat / 2 ^ k % 2 ^ 32 := by
  rw [BitVec.extractLsb'_toNat, Nat.shiftRight_eq_div_pow]

section
variable (k : Nat) (v old : BitVec 64) (h : Nat)

theorem MboxWrite.toNat_onto_low : (MboxWrite.onto ⟨k, some 0, v, h⟩ old).toNat =
    (old.toNat / 2 ^ 32 * 2 ^ 32 + v.toNat % 2 ^ 32) % 2 ^ 64 := BitVec.toNat_ofNat _ _

theorem MboxWrite.toNat_onto_high : (MboxWrite.onto ⟨k, some 1, v, h⟩ old).toNat =
    (old.toNat % 2 ^ 32 + v.toNat % 2 ^ 32 * 2 ^ 32) % 2 ^ 64 := BitVec.toNat_ofNat _ _

/-- A write of the low half leaves the high half as it stood. -/
theorem MboxWrite.onto_low : let new := MboxWrite.onto ⟨k, some 0, v, h⟩ old
    new.extractLsb' 0 32 = v.extractLsb' 0 32 ∧ new.extractLsb' 32 32 = old.extractLsb' 32 32 := by
  have ho := old.isLt
  constructor <;> apply BitVec.eq_of_toNat_eq <;> rw [toNat_half, toNat_half, toNat_onto_low] <;> omega

/-- A write of the high half leaves the low half as it stood. -/
theorem MboxWrite.onto_high : let new := MboxWrite.onto ⟨k, some 1, v, h⟩ old
    new.extractLsb' 0 32 = old.extractLsb' 0 32 ∧ new.extractLsb' 32 32 = v.extractLsb' 0 32 := by
  constructor <;> apply BitVec.eq_of_toNat_eq <;> rw [toNat_half, toNat_half, toNat_onto_high] <;> omega

end

/-- A copy made after every pending write applies them all, in order (R98). -/
theorem mbox_mboxCopy_of_lt {h : Nat} {x : Tile} (hx : ∀ e ∈ x.mboxIn, e.hall < h) :
    (mboxCopy h x).mbox = x.mboxIn.foldl (fun m w => tabUpd 0 m w.word w.onto) x.mbox := by
  have hall : x.mboxIn.filter (fun w => w.hall < h) = x.mboxIn := List.filter_eq_self.mpr fun e he => by simpa using hx e he
  rw [mboxCopy, hall]

/-- A tile one write of whose mailbox is pending (R194). -/
def Tile.pendMbox (x : Tile) (w : MboxWrite) : Tile := { x with mboxIn := x.mboxIn ++ [w] }

/-- The last pending write is applied to what the ones before it make of its word. -/
theorem mboxCopy_pendMbox {h : Nat} {x : Tile} {w : MboxWrite} (hw : w.hall < h) (hx : ∀ e ∈ x.mboxIn, e.hall < h) :
    tabGet 0 (mboxCopy h (x.pendMbox w)).mbox w.word = w.onto (tabGet 0 (mboxCopy h x).mbox w.word) := by
  have hall : ∀ e ∈ (x.pendMbox w).mboxIn, e.hall < h := by
    intro e he
    obtain he | he := List.mem_append.mp he
    · exact hx e he
    · exact List.mem_singleton.mp he ▸ hw
  rw [mbox_mboxCopy_of_lt hall, mbox_mboxCopy_of_lt hx]
  simp only [Tile.pendMbox, List.foldl_append, List.foldl_cons, List.foldl_nil]
  exact tabGet_tabUpd_self _ _ _ _

section
variable {s : State} {c : CoreId} {p : Nat} (hc : CoreActs s c p) (k : TileId) (w : Fin 16) (half : Option (Fin 2)) (v : BitVec 64)
include hc

theorem exec_tmbxWrite_of_reaches (hp : s.tilePart k = some p) (hd : k.val / 96 = c.val / 32) : exec (.tmbxWrite c k w half v) s =
    .next (s.updTile k fun x => x.pendMbox ⟨w, half.map (·.val), v, s.hall⟩) :=
  congrArg Host.Outcome.next ((byCore_of_acts s c p _ hc).trans (if_pos ⟨hp, hd⟩))

theorem exec_tmbxWrite_of_not_reaches (h : s.tilePart k ≠ some p ∨ k.val / 96 ≠ c.val / 32) :
    exec (.tmbxWrite c k w half v) s = .next (s.fenceInc kCore c) :=
  congrArg Host.Outcome.next ((byCore_of_acts s c p _ hc).trans (if_neg fun hr => h.elim (· hr.1) (· hr.2)))

end

/-! ### The victim of a steal -/

/-- What a steal by core `c` may take from among the cores of a list: none when no other of them has an entry, else one whose
queue is as long as any (R198). -/
def State.Fullest (s : State) (c : Nat) (l : List Nat) : Option Nat → Prop
  | none => ∀ e ∈ l, e = c ∨ (s.core e).sq = []
  | some u => u ∈ l ∧ u ≠ c ∧ (s.core u).sq ≠ [] ∧ ∀ e ∈ l, e ≠ c → (s.core e).sq.length ≤ (s.core u).sq.length

/-- One more core looked at for the victim. -/
def State.fuller (s : State) (c : Nat) (b : Option Nat) (e : Nat) : Option Nat :=
  if e = c ∨ (s.core e).sq = [] then b
  else match b with
    | none => some e
    | some v => if (s.core v).sq.length < (s.core e).sq.length then some e else b

theorem State.Fullest.fuller {s : State} {c : Nat} {l : List Nat} {b : Option Nat} (h : s.Fullest c l b) (e : Nat) :
    s.Fullest c (l ++ [e]) (s.fuller c b e) := by
  unfold State.fuller
  split
  · next hskip =>
    cases b with
    | none => simpa [Fullest, or_imp, forall_and, hskip] using h
    | some u =>
      obtain ⟨hu, hne, hsq, hmax⟩ := h
      refine ⟨List.mem_append_left _ hu, hne, hsq, fun d hd hdc => ?_⟩
      obtain hd | hd := List.mem_append.mp hd
      · exact hmax d hd hdc
      · obtain rfl := List.mem_singleton.mp hd
        simp [hskip.resolve_left hdc]
  · next htake =>
    obtain ⟨hne, hsq⟩ := not_or.mp htake
    cases b with
    | none =>
      refine ⟨by simp, hne, hsq, fun d hd hdc => ?_⟩
      obtain hd | hd := List.mem_append.mp hd
      · simp [(h d hd).resolve_left hdc]
      · obtain rfl := List.mem_singleton.mp hd
        exact Nat.le_refl _
    | some u =>
      obtain ⟨hu, huc, husq, hmax⟩ := h
      dsimp only
      split
      · next hlt =>
        refine ⟨by simp, hne, hsq, fun d hd hdc => ?_⟩
        obtain hd | hd := List.mem_append.mp hd
        · exact (hmax d hd hdc).trans hlt.le
        · obtain rfl := List.mem_singleton.mp hd
          exact Nat.le_refl _
      · next hge =>
        refine ⟨List.mem_append_left _ hu, huc, husq, fun d hd hdc => ?_⟩
        obtain hd | hd := List.mem_append.mp hd
        · exact hmax d hd hdc
        · obtain rfl := List.mem_singleton.mp hd
          exact Nat.le_of_not_lt hge

theorem State.fullest_victim (s : State) (p c : Nat) : s.Fullest c (s.coresOf p) (s.victim p c) := by
  show s.Fullest c (s.coresOf p) ((s.coresOf p).foldl (s.fuller c) none)
  induction s.coresOf p using List.reverseRecOn with
  | nil => exact fun _ he => absurd he List.not_mem_nil
  | append_singleton l e ih =>
    rw [List.foldl_append]
    exact ih.fuller e

/-! ### Steal queues -/

section
variable {s : State} {c : CoreId} {p : Nat} (hc : CoreActs s c p)
include hc

theorem exec_sqPush_of_refused (v : BitVec 64) (h : (s.core c).sq.length = 256 ∨ (s.core c).sqWord0 = 0) :
    ∃ t, exec (.sqPush c v) s = .next t ∧ OnlyCore c s t ∧ t.core c = { s.core c with sqRefused := true } :=
  ⟨_, congrArg Host.Outcome.next (byCore_of_acts s c p _ hc), onlyCore_updCore _ _ _, (core_updCore_self _ _ _).trans (if_pos h)⟩

theorem exec_sqPush_of_taken (v : BitVec 64) (hn : (s.core c).sq.length ≠ 256) (hw : (s.core c).sqWord0 ≠ 0) :
    ∃ t, exec (.sqPush c v) s = .next t ∧ OnlyCore c s t ∧
      t.core c = { s.core c with sq := (s.core c).sq ++ [((s.core c).sqWord0, v)], sqRefused := false } :=
  ⟨_, congrArg Host.Outcome.next (byCore_of_acts s c p _ hc), onlyCore_updCore _ _ _,
    (core_updCore_self _ _ _).trans (if_neg (not_or.mpr ⟨hn, hw⟩))⟩

theorem exec_sqPop_of_cons {e : BitVec 64 × BitVec 64} {r : List (BitVec 64 × BitVec 64)} (h : (s.core c).sq = e :: r) :
    exec (.sqPop c) s = .next ((s.updCore c fun x => { x with sq := r, sqLatch := e.2 }).send (.coreRead c e.1.toNat)) := by
  refine congrArg Host.Outcome.next ((byCore_of_acts s c p _ hc).trans ?_)
  rw [h]

theorem exec_sqPop_of_nil (h : (s.core c).sq = []) :
    exec (.sqPop c) s = .next ((s.updCore c fun x => { x with sqLatch := 0 }).send (.coreRead c 0)) := by
  refine congrArg Host.Outcome.next ((byCore_of_acts s c p _ hc).trans ?_)
  rw [h]

/-- The state after core `c` has taken the oldest entry of core `u` (R198). -/
def State.stealFrom (s : State) (p c u : Nat) : State :=
  let e := (s.core u).sq.headD (0, 0)
  let s := s.updCore u fun x => { x with sq := x.sq.tail }
  let s := s.updCore c fun x => { x with sqLatch := e.2, sqVictim := u }
  (s.updCnt p fun n => { n with steals := satInc 64 n.steals }).send (.coreRead c e.1.toNat)

theorem exec_sqSteal_of_some {u : Nat} (h : s.victim p c = some u) : exec (.sqSteal c) s = .next (s.stealFrom p c u) := by
  refine congrArg Host.Outcome.next ((byCore_of_acts s c p _ hc).trans ?_)
  rw [h]
  rfl

theorem exec_sqSteal_of_none (h : s.victim p c = none) :
    exec (.sqSteal c) s = .next ((s.updCore c fun x => { x with sqLatch := 0 }).send (.coreRead c 0)) := by
  refine congrArg Host.Outcome.next ((byCore_of_acts s c p _ hc).trans ?_)
  rw [h]

end

section
variable (s : State) (p : Nat) {c u : Nat}

theorem State.stealFrom_eq : s.stealFrom p c u = { s with
    cores := (s.stealFrom p c u).cores, parts := (s.stealFrom p c u).parts
    outbox := s.outbox ++ [.coreRead c ((s.core u).sq.headD (0, 0)).1.toNat] } := by
  simp only [stealFrom, send, updCnt, updClock, updPart, updCore]

theorem State.core_stealFrom (j : Nat) : (s.stealFrom p c u).core j =
    ((s.updCore u fun x => { x with sq := x.sq.tail }).updCore c fun x =>
      { x with sqLatch := ((s.core u).sq.headD (0, 0)).2, sqVictim := u }).core j := rfl

theorem State.part_stealFrom (q : Nat) : (s.stealFrom p c u).part q =
    (s.updCnt p fun n => { n with steals := satInc 64 n.steals }).part q := rfl

end

/-- Settles O24: a write of a word by whether the tile is reached, and each steal queue command by the queue it finds. -/
theorem mailboxWordsAndStealQueues : Obligations.MailboxWordsAndStealQueues := by
  unfold Obligations.MailboxWordsAndStealQueues
  refine ⟨fun s c k w v half p hc => ⟨fun hp hd => ?_, fun h => ?_⟩, fun s c p v hc => ⟨exec_sqPush_of_refused hc v,
    exec_sqPush_of_taken hc v, fun e r hq => ?_, fun hq => ?_, fun u hu => ?_, fun hu => ?_⟩⟩
  · refine ⟨_, exec_tmbxWrite_of_reaches hc k w half v hp hd, onlyTile_updTile _ _ _, tile_updTile_self _ _ _, fun h hh hx => ?_⟩
    have hnew := mboxCopy_pendMbox (w := ⟨w, half.map (·.val), v, s.hall⟩) hh hx
    rw [tile_updTile_self]
    dsimp only at hnew ⊢
    rw [hnew]
    refine ⟨?_, ?_, ?_⟩
    · rintro rfl
      rfl
    · rintro rfl
      exact MboxWrite.onto_low _ _ _ _
    · rintro rfl
      exact MboxWrite.onto_high _ _ _ _
  · exact ⟨_, exec_tmbxWrite_of_not_reaches hc k w half v h, fenceInc_counts s kCore c⟩
  · exact ⟨_, exec_sqPop_of_cons hc hq, fun j hj => (core_send _ _ _).trans (core_updCore_ne _ _ hj), rfl,
      (core_send _ _ _).trans (core_updCore_self _ _ _)⟩
  · exact ⟨_, exec_sqPop_of_nil hc hq, fun j hj => (core_send _ _ _).trans (core_updCore_ne _ _ hj), rfl,
      (core_send _ _ _).trans (core_updCore_self _ _ _)⟩
  · have hf := s.fullest_victim p c
    rw [hu] at hf
    obtain ⟨hmem, hne, hsq, hmax⟩ := hf
    refine ⟨hmem, hne, hsq, hmax, _, exec_sqSteal_of_some hc hu, fun j hj hju => ?_, fun q hq => ?_, ?_, ?_, ?_, ?_,
      stealFrom_eq s p⟩
    · rw [core_stealFrom, core_updCore_ne _ _ hj, core_updCore_ne _ _ hju]
    · rw [part_stealFrom]
      exact part_updClock_ne _ _ hq
    · rw [core_stealFrom, core_updCore_ne _ _ hne, core_updCore_self]
    · rw [core_stealFrom, core_updCore_self, core_updCore_ne _ _ hne.symm]
    · rw [part_stealFrom, part_updCnt_self]
    · rw [part_stealFrom, part_updCnt_self]
  · exact ⟨_, exec_sqSteal_of_none hc hu, fun j hj => (core_send _ _ _).trans (core_updCore_ne _ _ hj), rfl,
      (core_send _ _ _).trans (core_updCore_self _ _ _)⟩

end Sys2Proof.Machine
end

section
/-! PROOFS. The serving block (O25): what its commands reset, and the start of the cores on an image. -/

namespace Sys2Proof.Machine

open State

/-! ### The reset of the assists -/

/-- A core whose steal queue has been emptied (R196). -/
def Core.emptied (x : Core) : Core := { x with sq := [], sqWord0 := 0, sqLatch := 0, sqRefused := false, sqVictim := 0 }

theorem State.core_abandonSeal_ne (s : State) {p k : Nat} (h : k ≠ (s.part p).frame.sealer) :
    (s.abandonSeal p).core k = s.core k := by
  unfold abandonSeal
  dsimp only
  split
  · exact core_updCore_ne _ _ h
  · rfl

/-- Its EVENT register is all that a core can lose to an abandoned seal (R192). -/
theorem State.sq_abandonSeal (s : State) (p k : Nat) : ((s.abandonSeal p).core k).sq = (s.core k).sq := by
  unfold abandonSeal
  dsimp only
  split
  · rw [raiseCore, core_updCore]
    split
    · next e => rw [e]; rfl
    · rfl
  · rfl

/-- What HALT, START and START_IMAGE reset of the assists, and what they leave (R196, R199). -/
structure ServingReset (p : Nat) (s t : State) : Prop where
  rest : Same [.parts, .cores] s t
  parts : PartsBut p s t
  part : ∃ f, t.part p = { s.part p with frame := f }
  sq : ∀ k ∈ s.coresOf p, (t.core k).sq = []
  cores : ∀ k, k ∉ s.coresOf p → k ≠ (s.part p).frame.sealer → t.core k = s.core k

theorem same_onCores (s : State) (l : List Nat) (f : Nat → Core → Core) : Same [.parts, .cores] s (s.onCores l f) := by
  rw [s.onCores_eq l f]
  exact (same_set_cores (by decide) _ _ _).mpr (.refl _ _)

theorem same_abandonSeal (s : State) (p : Nat) : Same [.parts, .cores] s (s.abandonSeal p) := by
  intro f hf
  rw [s.abandonSeal_eq p]
  cases f <;> simp_all [Fld.same]

theorem servingReset_resetServing (s : State) (p : Nat) : ServingReset p s (s.resetServing p) := by
  have hfold : s.resetServing p = let u := s.onCores (s.coresOf p) fun _ x => x.emptied
      if (u.part p).frame.shadow = .sealing then u.abandonSeal p else u := rfl
  have hsq (k : Nat) (hk : k ∈ s.coresOf p) : ((s.onCores (s.coresOf p) fun _ x => x.emptied).core k).sq = [] := by
    rw [core_onCores_of_mem _ _ hk]
    rfl
  rw [hfold]
  dsimp only
  split
  · refine ⟨(same_onCores _ _ _).trans (same_abandonSeal _ _), fun q hq => ?_,
      ⟨{ (s.part p).frame with shadow := .open_ }, ?_⟩, fun k hk => ?_, fun k hk hne => ?_⟩
    · rw [part_abandonSeal_ne _ hq, part_onCores]
    · rw [part_abandonSeal_self, part_onCores]
    · rw [sq_abandonSeal, hsq k hk]
    · rw [core_abandonSeal_ne _ (by rwa [part_onCores]), core_onCores_of_not_mem _ _ hk]
  · refine ⟨same_onCores _ _ _, fun q _ => part_onCores _ _ _ _, ⟨_, part_onCores _ _ _ _⟩, hsq, fun k hk _ => ?_⟩
    exact core_onCores_of_not_mem _ _ hk

/-! ### The keys -/

/-- What a change of a shard context touches (R257). -/
def ctxParts : List Fld := .parts :: memParts

theorem same_setCtx (s : State) (p c : Nat) (x : ShardCtx) : Same ctxParts s (s.setCtx p c x) := by
  have hset : Same ctxParts s (s.updWts p fun w => { w with ctxs := tabSet {} w.ctxs c x }) :=
    (same_set_parts (by decide) _ _ _).mpr (.refl _ _)
  have hput (u : State) (a : Nat) (b : List Byte) : Same ctxParts u (u.putMem p a b) :=
    (same_putMem u p a b false).mono (List.subset_cons_self _ _)
  exact (hset.trans (hput _ _ _)).trans (hput _ _ _)

theorem part_setCtx (s : State) (p c q : Nat) (x : ShardCtx) : (s.setCtx p c x).part q =
    (s.updWts p fun w => { w with ctxs := tabSet {} w.ctxs c x }).part q :=
  ((same_putMem _ _ _ _ _).part (by decide) q).trans ((same_putMem _ _ _ _ _).part (by decide) q)

/-- Contexts of partition `p` have been aborted, and one of its keys perhaps erased: its contexts and keys are all that differs
of it, and the keys of the slots `l` are erased. -/
structure KeysErased (p : Nat) (l : List Nat) (s t : State) : Prop where
  rest : Same ctxParts s t
  parts : PartsBut p s t
  part : ∃ w, t.part p = { s.part p with
    wts := w, sec := { (s.part p).sec with slots := l.foldl (fun m k => tabSet {} m k {}) (s.part p).sec.slots } }

theorem KeysErased.trans {p : Nat} {l m : List Nat} {s t u : State} (h : KeysErased p l s t) (k : KeysErased p m t u) :
    KeysErased p (l ++ m) s u := by
  obtain ⟨w, hw⟩ := h.part
  obtain ⟨v, hv⟩ := k.part
  exact ⟨h.rest.trans k.rest, fun q hq => (k.parts q hq).trans (h.parts q hq), v, by rw [hv, hw, List.foldl_append]⟩

theorem keysErased_setCtx (s : State) (p c : Nat) (x : ShardCtx) : KeysErased p [] s (s.setCtx p c x) := by
  refine ⟨same_setCtx _ _ _ _, fun q hq => ?_, _, (part_setCtx _ _ _ _ _).trans (part_updPart_self _ _ _)⟩
  rw [part_setCtx]
  exact part_updPart_ne _ _ hq

theorem KeysErased.foldl {α : Type} {p : Nat} {g : α → List Nat} {f : State → α → State}
    (hf : ∀ s a, KeysErased p (g a) s (f s a)) (l : List α) (s : State) : KeysErased p (l.flatMap g) s (l.foldl f s) := by
  induction l generalizing s with
  | nil => exact ⟨.refl _ _, fun _ _ => rfl, _, rfl⟩
  | cons a l ih =>
    rw [List.flatMap_cons]
    exact (hf s a).trans (ih _)

theorem keysErased_abortCtxs (s : State) (p : Nat) (f : ShardCtx → Bool) : KeysErased p [] s (s.abortCtxs p f) := by
  have h := KeysErased.foldl (g := fun _ => [])
    (fun s (e : Nat × ShardCtx) => keysErased_setCtx s p e.1 { e.2 with st := cxAborted })
    ((s.part p).wts.ctxs.filter fun e => f e.2) s
  rwa [List.flatMap_eq_nil_iff.mpr fun _ _ => rfl] at h

theorem keysErased_eraseSlot (s : State) (p k : Nat) : KeysErased p [k] s (s.eraseSlot p k) := by
  have h : KeysErased p [k] s (s.updSec p fun x => { x with slots := tabSet {} x.slots k {} }) :=
    ⟨(same_set_parts (by decide) _ _ _).mpr (.refl _ _), fun _ hq => part_updPart_ne _ _ hq, _, part_updPart_self _ _ _⟩
  unfold eraseSlot
  exact h.trans (keysErased_abortCtxs _ _ _)

theorem tabGet_foldl_erase (l : List Nat) (m : Tab KeySlot) (k : Nat) (h : k ∈ l ∨ tabGet {} m k = {}) :
    tabGet {} (l.foldl (fun m k => tabSet {} m k {}) m) k = {} := by
  induction l generalizing m with
  | nil => exact h.resolve_left List.not_mem_nil
  | cons j l ih =>
    refine ih _ ?_
    by_cases e : k = j
    · exact .inr (e ▸ tabGet_tabSet_self _ _ _ _)
    · rw [tabGet_tabSet_ne _ _ _ e]
      exact h.imp_left fun hk => (List.mem_cons.mp hk).resolve_left e

/-- What the key actions before a start leave of a partition: its contexts and its keys differ, every installed key is erased
and WRAP_GEN is new (R403). -/
structure KeysRestarted (p : Nat) (s t : State) : Prop where
  groups : t.groups = s.groups
  cores : t.cores = s.cores
  parts : PartsBut p s t
  part : ∃ w k, t.part p = { s.part p with wts := w, sec := k }
  slots : ∀ k, 2 ≤ k → k < 32 → t.keySlot p k = {}
  wrapGen : (t.part p).sec.wrapGen ≠ (s.part p).sec.wrapGen

/-- A generation that differs from the last, from a random one (R403). -/
def newWrapGen (g last : Nat) : Nat := if g = last then (g + 1) % 2 ^ 32 else g

theorem newWrapGen_ne (n last : Nat) : newWrapGen (n % 2 ^ 32) last ≠ last := by
  unfold newWrapGen
  split <;> omega

theorem part_redrawPairs_self (s : State) (p : Nat) : (s.redrawPairs p).part p = { s.part p with
    sec := { (s.part p).sec with
      wrapPair := s.serial + 1, attPair := s.serial + 2
      wrapGen := newWrapGen ((Config.random (s.serial + 1)).toNat % 2 ^ 32) (s.part p).sec.wrapGen } } := part_updPart_self _ _ _

theorem part_redrawPairs_ne (s : State) {p q : Nat} (h : q ≠ p) : (s.redrawPairs p).part q = s.part q := part_updPart_ne _ _ h

theorem keysRestarted_restartKeys (s : State) (p : Nat) : KeysRestarted p s (s.restartKeys p) := by
  have he := KeysErased.foldl (fun s k => keysErased_eraseSlot s p (k + 2)) (List.range 30) s
  have hmem (k : Nat) (h2 : 2 ≤ k) (h32 : k < 32) : k ∈ (List.range 30).flatMap fun k => [k + 2] :=
    List.mem_flatMap.mpr ⟨k - 2, List.mem_range.mpr (by omega), List.mem_singleton.mpr (by omega)⟩
  rw [restartKeys]
  generalize (List.range 30).flatMap (fun k => [k + 2]) = l at he hmem
  generalize (List.range 30).foldl (fun s k => s.eraseSlot p (k + 2)) s = u at he ⊢
  obtain ⟨hrest, hparts, w, hw⟩ := he
  refine ⟨hrest .groups (by decide), hrest .cores (by decide), fun q hq => ?_,
    ⟨w, ((u.redrawPairs p).part p).sec, ?_⟩, fun k h2 h32 => ?_, ?_⟩
  · exact (part_redrawPairs_ne _ hq).trans (hparts q hq)
  · rw [part_redrawPairs_self, hw]
  · rw [keySlot, part_redrawPairs_self, hw]
    exact tabGet_foldl_erase _ _ _ (.inl (hmem k h2 h32))
  · rw [part_redrawPairs_self, hw]
    exact newWrapGen_ne _ _

end Sys2Proof.Machine
end

section
/-! PROOFS. The commands of the serving block and the halt of a core (O25). -/

namespace Sys2Proof.Machine

open State

/-! ### The start of the cores -/

/-- A core that a start of its partition's cores reaches (R195, R472). -/
def Core.startAt (x : Core) (off : Bool) (info : Nat) (entry : BitVec 64) : Core :=
  if off then { x with run := .held }
  else { x with run := .running, mode := .machine, pc := entry, xs := tabSet 0 x.xs 10 (BitVec.ofNat 64 info), fault := none }

theorem Core.sq_startAt (x : Core) (off : Bool) (info : Nat) (entry : BitVec 64) : (x.startAt off info entry).sq = x.sq := by
  unfold startAt
  split <;> rfl

theorem foldl_startCore (s : State) (p : Nat) (entry : BitVec 64) (l : List Nat) :
    l.foldl (fun s c => s.startCore p c entry) s = s.onCores l fun c x => x.startAt (s.coreOff c) (coreInfo c p) entry := by
  induction l generalizing s with
  | nil => rfl
  | cons c l ih => exact ih (s.startCore p c entry)

/-- What a start of partition `p` on an image does to a core (R195). -/
def CoreStarted (p : Nat) (entry : BitVec 64) (c : Nat) (x : Core) : Prop :=
  x.run = .running ∧ x.mode = .machine ∧ x.pc = entry ∧ tabGet 0 x.xs 10 = BitVec.ofNat 64 (coreInfo c p)

/-- What a start of partition `p` on an image does, and what it leaves as it was (R195, R196, R227, R403, R472). -/
structure Started (p : Nat) (elvune : Bool) (entry : BitVec 64) (s t : State) : Prop where
  parts : PartsBut p s t
  plan : (t.part p).plan = (s.part p).plan
  serving : (t.part p).serving =
    { (s.part p).serving with error := 0, held := false, elvune := elvune, srvState := if elvune then 1 else 2 }
  own : ∀ c ∈ s.coresOf p, (t.core c).sq = [] ∧ (s.coreOff c = true → (t.core c).run = .held) ∧
    (s.coreOff c = false → CoreStarted p entry c (t.core c))
  cores : ∀ c, c ∉ s.coresOf p → c ≠ (s.part p).frame.sealer → t.core c = s.core c
  slots : ∀ k, 2 ≤ k → k < 32 → t.keySlot p k = {}
  wrapGen : (t.part p).sec.wrapGen ≠ (s.part p).sec.wrapGen

/-- The address at which a start enters an image (R195). -/
def State.entryOf (s : State) (p : Nat) (elvune : Bool) : BitVec 64 :=
  if elvune then Config.elvuneEntry else BitVec.ofNat 64 (emberWindow + (s.part p).serving.imgBase)

/-- What a start resets before it runs the cores: the assists and the keys. -/
def State.startReset (s : State) (p : Nat) : State := ((s.srvErr p 0).resetServing p).restartKeys p

theorem startCores_eq (s : State) (p : Nat) (elvune : Bool) : s.startCores p elvune = (s.startReset p).serve p
    (fun c x => x.startAt ((s.startReset p).coreOff c) (coreInfo c p) (s.entryOf p elvune))
    (fun v => { v with held := false, elvune := elvune }) (if elvune then 1 else 2) := by
  rw [serve, ← foldl_startCore]
  rfl

/-- What the resets before a start do, and what they leave as it was. -/
structure StartReset (p : Nat) (s t : State) : Prop where
  groups : t.groups = s.groups
  parts : PartsBut p s t
  part : ∃ f w k, t.part p =
    { s.part p with frame := f, wts := w, sec := k, serving := { (s.part p).serving with error := 0 } }
  sq : ∀ c ∈ s.coresOf p, (t.core c).sq = []
  cores : ∀ c, c ∉ s.coresOf p → c ≠ (s.part p).frame.sealer → t.core c = s.core c
  slots : ∀ k, 2 ≤ k → k < 32 → t.keySlot p k = {}
  wrapGen : (t.part p).sec.wrapGen ≠ (s.part p).sec.wrapGen

theorem part_srvErr_self (s : State) (p e : Nat) :
    (s.srvErr p e).part p = { s.part p with serving := { (s.part p).serving with error := e } } := part_updPart_self _ _ _

theorem onlyPart_srvErr (s : State) (p e : Nat) : OnlyPart p s (s.srvErr p e) := onlyPart_updPart _ _ _

theorem startReset_startReset (s : State) (p : Nat) : StartReset p s (s.startReset p) := by
  have hr := servingReset_resetServing (s.srvErr p 0) p
  have hk := keysRestarted_restartKeys ((s.srvErr p 0).resetServing p) p
  obtain ⟨f, hf⟩ := hr.part
  obtain ⟨w, k, hw⟩ := hk.part
  have hcore (c : Nat) : (s.startReset p).core c = ((s.srvErr p 0).resetServing p).core c := by
    rw [startReset, State.core, hk.cores, State.core]
  refine ⟨hk.groups.trans (hr.rest .groups (by decide)), fun q hq => ?_, ⟨f, w, k, ?_⟩, fun c hc => ?_, fun c hc hs => ?_,
    hk.slots, ?_⟩
  · exact (hk.parts q hq).trans ((hr.parts q hq).trans ((onlyPart_srvErr s p 0).2 q hq))
  · rw [startReset, hw, hf, part_srvErr_self]
  · rw [hcore, hr.sq c hc]
  · rw [hcore, hr.cores c hc (by rwa [part_srvErr_self])]
    rfl
  · have h := hk.wrapGen
    rw [hf, part_srvErr_self] at h
    rw [startReset]
    exact h

theorem started_startCores (s : State) (p : Nat) (elvune : Bool) : Started p elvune (s.entryOf p elvune) s (s.startCores p elvune) := by
  have hr := startReset_startReset s p
  rw [startCores_eq]
  generalize s.startReset p = r at hr ⊢
  simp only [coreOff_congr hr.groups]
  have hcores : r.coresOf p = s.coresOf p := coresOf_congr hr.groups p
  have hmem (c : Nat) (hc : c ∈ s.coresOf p) := core_serve_of_mem r p
    (fun c x => x.startAt (s.coreOff c) (coreInfo c p) (s.entryOf p elvune))
    (fun v => { v with held := false, elvune := elvune }) (if elvune then 1 else 2) (hcores ▸ hc)
  obtain ⟨f, w, k, hp⟩ := hr.part
  obtain ⟨n, hn⟩ := part_serve_self r p (fun c x => x.startAt (s.coreOff c) (coreInfo c p) (s.entryOf p elvune))
    (fun v => { v with held := false, elvune := elvune }) (if elvune then 1 else 2)
  refine ⟨fun q hq => (partsBut_serve _ _ _ _ _ q hq).trans (hr.parts q hq), ?_, ?_,
    fun c hc => ⟨?_, fun ho => ?_, fun ho => ?_⟩, fun c hc hne => ?_, fun k h2 h32 => ?_, ?_⟩
  · rw [hn, hp]
  · rw [hn, hp]
  · rw [hmem c hc, Core.sq_startAt, hr.sq c hc]
  · rw [hmem c hc, ho]
    rfl
  · rw [hmem c hc, ho]
    exact ⟨rfl, rfl, rfl, tabGet_tabSet_self _ _ _ _⟩
  · rw [core_serve_of_not_mem _ _ _ _ _ (hcores ▸ hc), hr.cores c hc hne]
  · have h := hr.slots k h2 h32
    rw [keySlot] at h ⊢
    rwa [hn]
  · have h := hr.wrapGen
    rwa [hn]

end Sys2Proof.Machine
end

section
/-! PROOFS. The commands of the serving block, and the halt of a core on a trap (O25). -/

namespace Sys2Proof.Machine

open State

/-! ### HALT -/

/-- A core held in reset (R195). -/
def Core.holdReset (x : Core) : Core := { x with run := .held }

/-- What an accepted HALT does (R227). -/
def State.haltNow (s : State) (p : Nat) : State :=
  ((s.srvErr p 0).resetServing p).serve p (fun _ => Core.holdReset) (fun v => { v with held := true }) 0

/-- What HALT does, and what it leaves as it was (R227). -/
structure Halted (p : Nat) (s t : State) : Prop where
  parts : PartsBut p s t
  plan : (t.part p).plan = (s.part p).plan
  serving : (t.part p).serving = { (s.part p).serving with error := 0, held := true, srvState := 0 }
  held : ∀ c ∈ s.coresOf p, (t.core c).run = .held ∧ (t.core c).sq = []
  cores : ∀ c, c ∉ s.coresOf p → c ≠ (s.part p).frame.sealer → t.core c = s.core c
  mem : t.mem = s.mem

theorem halted_haltNow (s : State) (p : Nat) : Halted p s (s.haltNow p) := by
  have hr := servingReset_resetServing (s.srvErr p 0) p
  unfold haltNow
  generalize (s.srvErr p 0).resetServing p = r at hr ⊢
  have hcores : r.coresOf p = s.coresOf p := coresOf_congr (hr.rest .groups (by decide)) p
  have hmem (c : Nat) (hc : c ∈ s.coresOf p) := core_serve_of_mem r p (fun _ => Core.holdReset)
    (fun v => { v with held := true }) 0 (hcores ▸ hc)
  obtain ⟨f, hf⟩ := hr.part
  obtain ⟨n, hn⟩ := part_serve_self r p (fun _ => Core.holdReset) (fun v => { v with held := true }) 0
  rw [hf, part_srvErr_self] at hn
  refine ⟨fun q hq => ?_, ?_, ?_, fun c hc => ⟨?_, ?_⟩, fun c hc hne => ?_, ?_⟩
  · rw [partsBut_serve _ _ _ _ _ q hq, hr.parts q hq, (onlyPart_srvErr s p 0).2 q hq]
  · rw [hn]
  · rw [hn]
  · rw [hmem c hc]
    rfl
  · rw [hmem c hc]
    exact hr.sq c hc
  · rw [core_serve_of_not_mem _ _ _ _ _ (hcores ▸ hc), hr.cores c hc (by rwa [part_srvErr_self])]
    rfl
  · exact (mem_serve _ _ _ _ _).trans (hr.rest .mem (by decide))

/-! ### Commands of the serving block -/

theorem srvAccepts_iff (s : State) (p : Nat) : s.srvAccepts p = true ↔
    (s.part p).plan.st = .empty ∨ (s.part p).plan.st = .loaded ∨ (s.part p).plan.st = .stopped ∨ (s.part p).plan.st = .faulted := by
  unfold srvAccepts
  cases (s.part p).plan.st <;> simp

/-- The state with the measurement of the image about to start (R195). -/
def State.measured (s : State) (p : Nat) : State :=
  let image := s.memBytes (s.part p).serving.imgBase (s.part p).serving.imgLen
  s.updServing p fun v => { v with measure := Config.sha384 image }

section
variable {s : State} {p : PartId} (hf : s.fnReady p = true)
include hf

theorem exec_serving_of_busy (ha : ¬ s.srvAccepts p = true) {c : Instr} (hc : c = .halt p ∨ c = .start p ∨ c = .startImage p) :
    exec c s = .next (s.srvErr p 1) := by
  obtain rfl | rfl | rfl := hc
  · exact congrArg Host.Outcome.next ((if_neg (not_not.mpr hf)).trans (if_neg ha))
  · exact congrArg Host.Outcome.next ((if_neg (not_not.mpr hf)).trans (if_neg ha))
  · exact congrArg Host.Outcome.next ((if_neg (not_not.mpr hf)).trans (if_pos ha))

variable (ha : s.srvAccepts p = true)
include ha

theorem exec_halt_of_accepts : exec (.halt p) s = .next (s.haltNow p) :=
  congrArg Host.Outcome.next ((if_neg (not_not.mpr hf)).trans (if_pos ha))

theorem exec_start_of_accepts : exec (.start p) s = .next (s.startCores p true) :=
  congrArg Host.Outcome.next ((if_neg (not_not.mpr hf)).trans (if_pos ha))

theorem exec_startImage_of_empty (hl : (s.part p).serving.imgLen = 0) : exec (.startImage p) s = .next (s.srvErr p 3) :=
  congrArg Host.Outcome.next ((if_neg (not_not.mpr hf)).trans ((if_neg (not_not.mpr ha)).trans (if_pos hl)))

variable (hl : (s.part p).serving.imgLen ≠ 0)
include hl

theorem exec_startImage_of_outside (hr : s.storeRange p (s.part p).serving.imgBase (s.part p).serving.imgLen = false) :
    exec (.startImage p) s = .next (s.srvErr p 2) :=
  congrArg Host.Outcome.next ((if_neg (not_not.mpr hf)).trans ((if_neg (not_not.mpr ha)).trans
    ((if_neg hl).trans (if_pos (by simp [hr])))))

theorem exec_startImage_of_inside (hr : s.storeRange p (s.part p).serving.imgBase (s.part p).serving.imgLen = true) :
    exec (.startImage p) s = .next ((s.measured p).startCores p false) :=
  congrArg Host.Outcome.next ((if_neg (not_not.mpr hf)).trans ((if_neg (not_not.mpr ha)).trans
    ((if_neg hl).trans (if_neg (not_not.mpr hr)))))

end

theorem srvErr_does (s : State) (p e : Nat) : OnlyPart p s (s.srvErr p e) ∧
    (s.srvErr p e).part p = { s.part p with serving := { (s.part p).serving with error := e } } :=
  ⟨onlyPart_srvErr _ _ _, part_srvErr_self _ _ _⟩

theorem part_measured_self (s : State) (p : Nat) : (s.measured p).part p = { s.part p with serving := { (s.part p).serving with
    measure := Config.sha384 (s.memBytes (s.part p).serving.imgBase (s.part p).serving.imgLen) } } := part_updPart_self _ _ _

/-! ### The halt of a core -/

/-- The fault log entry of a trap that halts a core (R197). -/
def trapEntry (c p : Nat) (mcause mepc mtval : BitVec 64) : LogEntry :=
  { cls := 0x40, kind := kCore, index := c, part := p, addr := mepc.toNat, detail := leBytes 8 mcause.toNat ++ leBytes 8 mtval.toNat }

/-- An entry that is not coalesced is written at once, into the module ring and its partition's (R480, R482). -/
theorem logEv_of_not_coalesces {s : State} {e : LogEntry} (hc : coalesces { e with hall := s.hall } = false) (hp : e.part < 16) :
    s.logEv e = State.ringPut { s.cinderInc e.kind e.index e.cls with
      log := ringKeep 16384 (s.log ++ [{ e with hall := s.hall, seq := s.logSeq }]), logSeq := s.logSeq + 1 }
      { e with hall := s.hall, seq := s.logSeq } e.part := by
  unfold State.logEv
  dsimp only
  rw [if_neg (by simp [hc]), State.logPut]
  dsimp only
  rw [if_pos hp]
  rfl

/-- The state after a trap that core `c` of partition `p` cannot handle (R197). -/
def State.haltCore (s : State) (c p : Nat) (mcause mepc mtval : BitVec 64) : State :=
  let s := s.updCore c fun x => { x with run := .halted, mcause := mcause, mepc := mepc, mtval := mtval }
  (s.logEv (trapEntry c p mcause mepc mtval)).setSrv p 3

theorem exec_emberHalt {s : State} {c : CoreId} {p : Nat} (hc : CoreActs s c p) (mcause mepc mtval : BitVec 64) :
    exec (.emberHalt c mcause mepc mtval) s = .next (s.haltCore c p mcause mepc mtval) :=
  congrArg Host.Outcome.next (byCore_of_acts s c p _ hc)

/-- The core halted, and its entry in the module ring. -/
def State.trapLogged (s : State) (c p : Nat) (mcause mepc mtval : BitVec 64) : State :=
  { (s.updCore c fun x => { x with run := .halted, mcause := mcause, mepc := mepc, mtval := mtval }).cinderInc kCore c 0x40 with
    log := ringKeep 16384 (s.log ++ [{ trapEntry c p mcause mepc mtval with hall := s.hall, seq := s.logSeq }])
    logSeq := s.logSeq + 1 }

theorem core_trapLogged (s : State) (c p k : Nat) (mcause mepc mtval : BitVec 64) : (s.trapLogged c p mcause mepc mtval).core k =
    (s.updCore c fun x => { x with run := .halted, mcause := mcause, mepc := mepc, mtval := mtval }).core k := rfl

theorem log_trapLogged (s : State) (c p : Nat) (mcause mepc mtval : BitVec 64) : (s.trapLogged c p mcause mepc mtval).log =
    ringKeep 16384 (s.log ++ [{ trapEntry c p mcause mepc mtval with hall := s.hall, seq := s.logSeq }]) := by
  rw [trapLogged]

section
variable (s : State) (c : Nat) {p : Nat} (hp : p < 16) (mcause mepc mtval : BitVec 64)
include hp

theorem haltCore_eq : s.haltCore c p mcause mepc mtval = ((s.trapLogged c p mcause mepc mtval).ringPut
    { trapEntry c p mcause mepc mtval with hall := s.hall, seq := s.logSeq } p).setSrv p 3 :=
  congrArg (State.setSrv · p 3) (logEv_of_not_coalesces (e := trapEntry c p mcause mepc mtval) rfl hp)

theorem signals_haltCore : Signals p (s.trapLogged c p mcause mepc mtval) (s.haltCore c p mcause mepc mtval) := by
  rw [haltCore_eq s c hp]
  exact (Signals.raiseEv <| .updPart <| .refl _ _).trans (signals_setSrv _ _ _)

theorem part_haltCore : ((s.haltCore c p mcause mepc mtval).part p).serving.srvState = 3 ∧
    ((s.haltCore c p mcause mepc mtval).part p).plan = (s.part p).plan := by
  rw [haltCore_eq s c hp]
  obtain ⟨f, hf⟩ := part_setSrv_self ((s.trapLogged c p mcause mepc mtval).ringPut
    { trapEntry c p mcause mepc mtval with hall := s.hall, seq := s.logSeq } p) p 3
  rw [hf]
  exact ⟨rfl, ((Aside.refl _).ringPut.part p).plan⟩

end

/-! ### STE_COUNT -/

theorem exec_steCount (s : State) (p : PartId) : exec (.steCount p) s = .next (s.countSte p) := rfl

theorem onlyPart_countSte (s : State) (p : Nat) : OnlyPart p s (s.countSte p) := by
  rw [countSte]
  exact onlyPart_updPart _ _ _

theorem part_countSte_self (s : State) (p : Nat) : (s.countSte p).part p = { s.part p with serving := { (s.part p).serving with
    inUse := if (s.part p).frame.ste = 0 then 0 else ((List.range 16384).filter fun i => s.steState p i ≠ 0).length } } := by
  rw [countSte, updServing, part_updPart_self]

/-- Settles O25: each command of the serving block by the plan state and the image, a halt on a trap, and the count of STEs. -/
theorem servingBlockAndTrapsStopCores : Obligations.ServingBlockAndTrapsStopCores := by
  unfold Obligations.ServingBlockAndTrapsStopCores
  refine ⟨fun s p hf => ?_, fun s c p mcause mepc mtval => ⟨fun hc => ?_, ?_⟩⟩
  · intro v st started
    refine ⟨fun hst => ?_, fun hst c hc => ?_⟩
    · have ha := (srvAccepts_iff s p).mpr hst
      refine ⟨?_, ?_, fun hl => ?_, fun hl hr => ?_, fun hl hr => ?_⟩
      · have h := halted_haltNow s p
        exact ⟨_, exec_halt_of_accepts hf ha, by rw [h.serving], by rw [h.serving], by rw [h.serving], h.held, h.cores, h.plan,
          h.mem, h.parts⟩
      · have h := started_startCores s p true
        exact ⟨_, exec_start_of_accepts hf ha, by rw [h.serving]; rfl, by rw [h.serving], by rw [h.serving], by rw [h.serving],
          h.own, h.cores, h.slots, h.wrapGen, h.plan, h.parts⟩
      · exact ⟨_, exec_startImage_of_empty hf ha hl, srvErr_does s p 3⟩
      · exact ⟨_, exec_startImage_of_outside hf ha hl hr, srvErr_does s p 2⟩
      · have h := started_startCores (s.measured p) p false
        have hentry : (s.measured p).entryOf p false = BitVec.ofNat 64 (0x400000000000 + v.imgBase) := by
          rw [entryOf, part_measured_self]
          rfl
        rw [hentry] at h
        refine ⟨_, exec_startImage_of_inside hf ha hl hr, by rw [h.serving]; rfl, by rw [h.serving], by rw [h.serving], ?_, h.own,
          fun c hc hne => h.cores c hc ?_, fun q hq => (h.parts q hq).trans (part_updPart_ne _ _ hq)⟩
        · rw [h.serving, part_measured_self]
        · rwa [part_measured_self]
    · have ha : ¬ s.srvAccepts p = true := by
        rw [srvAccepts_iff]
        obtain h | h | h := hst <;> simp [st] at h <;> simp [h]
      exact ⟨_, exec_serving_of_busy hf ha hc, srvErr_does s p 1⟩
  · have hs := signals_haltCore s c p.isLt mcause mepc mtval
    obtain ⟨hst, hplan⟩ := part_haltCore s c p.isLt mcause mepc mtval
    refine ⟨_, exec_emberHalt hc mcause mepc mtval, fun j hj => ?_, ?_, hst, hplan, hs.2, hs.mem, ?_,
      { trapEntry c p mcause mepc mtval with hall := s.hall, seq := s.logSeq }, ?_, rfl, rfl, rfl, rfl, rfl⟩
    · rw [hs.core, core_trapLogged, core_updCore_ne _ _ hj]
    · rw [hs.core, core_trapLogged, core_updCore_self]
    · rw [hs.1]
      exact tabGet_tabUpd_self _ _ _ _
    · rw [hs.1, log_trapLogged]
  · exact ⟨_, exec_steCount s p, onlyPart_countSte s p, part_countSte_self s p⟩

end Sys2Proof.Machine
end

section
/-! PROOFS. The commands of the page allocator and of the frame builder that log an unmapped access (O26, O27, O28). The entry
closes an older coalescing window of the assists of the same partition, and that window's entry goes to the ring of the partition
that the window names (R481, R482). -/

namespace Sys2Proof.Machine

open State

/-- Unmapped accesses of a unit whose window is old close that window. -/
theorem flLog_unmappedAll {s : State} {kind index p : Nat} {l : List Nat} {c : Coalesce} (hl : l ≠ []) (hc : c ∈ s.coalesce)
    (he : c.closedBy { cls := cFence, kind := kind, index := index, hall := s.hall } = true) (hp : c.entry.part < 16) :
    ((s.unmappedAll kind index p l).part c.entry.part).flLog ≠ [] := by
  obtain ⟨a, l, rfl⟩ := List.exists_cons_of_ne_nil hl
  have h : Aside (s.unmapped kind index p a) (s.unmappedAll kind index p (a :: l)) :=
    (Aside.refl (s.unmapped kind index p a)).unmappedAll
  exact (h.part _).flLog (flLog_unmapped hc he hp)

/-- A window of the assists of partition 0 that is open since hall count 0, with an entry of partition `q`. -/
def oldWindow (q : Nat) : Coalesce := ⟨{ cls := cFence, kind := kAssist, index := 0, part := q, cause := 1 }, 1⟩

/-! ### PAGE_POOL_ENABLE -/

/-- What is unmapped of the pool and the header array of a group: their addresses (R211, R392). -/
def State.poolGaps (s : State) (p g : Nat) : List Nat :=
  let a := (s.part p).alloc
  let ranges := [((a.pool g).base, (a.pool g).pages * a.size), ((a.pool g).hdr, (a.pool g).pages * 512)]
  (ranges.filter fun r => !s.anyRange p r.1 r.2).map (·.1)

theorem exec_pagePoolEnable_of_bad {s : State} {p : PartId} {g : Nat} (he : (s.part p).alloc.enable = false)
    (hg : (s.groupsOf p).find? (fun k => ¬ s.poolOk p k) = some g) : exec (.pagePoolEnable p) s =
    .next ((s.unmappedAll kAssist p p (s.poolGaps p g)).updAlloc p fun a => { a with cfgBad := true, badGroup := g }) := by
  show execPagePoolEnable p s = _
  rw [execPagePoolEnable, if_neg (by simp [he]), hg]
  rfl

/-- Partition 0 has one page in group 0, at an unmapped address; a window of its assists, older than 1 s, is open. -/
def poolUnmapped : State where
  hall := 600000000
  groups := [(0, { st := .assigned, owner := 0 })]
  coalesce := [oldWindow 0]
  parts := [(0, { alloc := { pools := [(0, { base := 0x20000000000, pages := 1 })] } })]

/-- Refutes O26: PAGE_POOL_ENABLE of partition 0 in `poolUnmapped` sets CFG_BAD and writes an entry into the partition's fault log
ring. -/
theorem not_pagesAreAllocatedAndCounted : ¬ Obligations.PagesAreAllocatedAndCounted := by
  unfold Obligations.PagesAreAllocatedAndCounted
  intro h
  have hbad : (poolUnmapped.groupsOf 0).find? (fun k => ¬ poolUnmapped.poolOk 0 k) = some 0 := by decide +kernel
  obtain ⟨-, hpool⟩ := h.2 poolUnmapped 0 0 0
  obtain ⟨t, he, -, -, -, -, -, hpart⟩ := (hpool (by decide +kernel)).1 0 hbad
  rw [exec_pagePoolEnable_of_bad (by decide +kernel) hbad] at he
  have hlog : (((poolUnmapped.unmappedAll kAssist 0 0 (poolUnmapped.poolGaps 0 0)).updAlloc 0 fun a =>
      { a with cfgBad := true, badGroup := 0 }).part 0).flLog ≠ [] :=
    ((Aside.refl _).updPart.part 0).flLog
      (flLog_unmappedAll (c := oldWindow 0) (by decide +kernel) (by decide +kernel) (by decide +kernel) (by decide))
  have hnone : (t.part 0).flLog = [] := congrArg Part.flLog hpart
  exact hlog (Host.Outcome.next.inj he ▸ hnone)

/-! ### SEAL -/

/-- A seal as it begins (R216). -/
def State.sealBegun (s : State) (p c : Nat) : State :=
  s.updFrame p fun f => { f with shadow := .sealing, sealer := c, voidLast := 0, latched := [] }

/-- A seal of a frame with one occupied slot checks that slot (R216). -/
theorem exec_seal_of_one {s : State} {c : CoreId} {p i : Nat} (hc : CoreActs s c p) (hst : (s.part p).plan.st ≠ .empty)
    (hf : (s.part p).frame.shadow = .open_) (hi : (s.sealBegun p c).occupied p ((s.sealBegun p c).shadowBase p) = [i]) :
    exec (.seal c) s = .next ((s.sealBegun p c).sealSlot p i) := by
  have hfold : ((s.sealBegun p c).occupied p ((s.sealBegun p c).shadowBase p)).foldl (fun s i => s.sealSlot p i) (s.sealBegun p c) =
      (s.sealBegun p c).sealSlot p i := by rw [hi, List.foldl_cons, List.foldl_nil]
  exact congrArg Host.Outcome.next ((byCore_of_acts s c p _ hc).trans
    ((if_neg hst).trans ((if_neg (not_not.mpr hf)).trans hfold)))

theorem Aside.voidSlot {s t : State} {a : Nat} (h : Aside s t) : Aside s (t.voidSlot a) := h.wrLe.wrLe.wrLe

/-- A slot whose STE is unmapped is logged first (R216, R392). -/
theorem aside_sealSlot {s : State} {p i : Nat} (hm : s.steMapped p (s.slotSte (slotAt (s.shadowBase p) i)) = false) :
    Aside (s.unmapped kAssist p p (s.steAddr p (s.slotSte (slotAt (s.shadowBase p) i)))) (s.sealSlot p i) := by
  unfold State.sealSlot
  simp only [hm, Bool.false_eq_true, if_false]
  exact .ite (.updPart (.voidSlot (.refl _))) (.refl _)

/-- Partition 0 has a plan with one slot and an OPEN shadow whose slot is occupied; its STE table is unmapped; a window of its
assists, older than 1 s, is open with an entry of partition 1. -/
def sealUnmapped : State where
  hall := 600000000
  groups := [(0, { st := .assigned, owner := 0 })]
  mem := [(0x24, 1)]
  coalesce := [oldWindow 1]
  parts := [(0, { plan := { st := .loaded, loaded := some { slotCeil := 1, classes := [⟨0, 1, 0, 0, 0⟩] } }
                  frame := { ste := 0x20000000000, slotCeil := 1 } })]

/-- Refutes O27: a SEAL of partition 0 in `sealUnmapped` writes an entry into the fault log ring of partition 1. -/
theorem not_sealsMoveTheShadow : ¬ Obligations.SealsMoveTheShadow := by
  unfold Obligations.SealsMoveTheShadow
  intro h
  have hc : CoreActs sealUnmapped 0 0 := ⟨by decide +kernel, by decide +kernel⟩
  have hst : (sealUnmapped.part 0).plan.st ≠ .empty := by decide +kernel
  have hf : (sealUnmapped.part 0).frame.shadow = .open_ := by decide +kernel
  obtain ⟨t, he, -, -, -, -, -, hbut, -⟩ := (h sealUnmapped 0 0).1 hc hst hf
  rw [exec_seal_of_one (i := 0) hc hst hf (by decide +kernel)] at he
  have hlog : (((sealUnmapped.sealBegun 0 0).sealSlot 0 0).part 1).flLog ≠ [] :=
    ((aside_sealSlot (by decide +kernel)).part 1).flLog
      (flLog_unmapped (c := oldWindow 1) (by decide +kernel) (by decide +kernel) (by decide))
  have hnone : (t.part 1).flLog = [] := congrArg Part.flLog (hbut 1 (by decide))
  exact hlog (Host.Outcome.next.inj he ▸ hnone)

/-! ### RELEASE_WALK_END -/

theorem Aside.walkEntry {s t : State} {p a : Nat} (h : Aside s t) : Aside s (t.walkEntry p a) := by
  unfold State.walkEntry
  dsimp only
  split
  · exact h.refDec
  · exact h.freeTurf
  · exact h.updPart
  · exact h

/-- What the end of a walk does once the unmapped blocks of the page table are logged (R217). -/
def State.walkDone (s : State) (p i : Nat) (rest : List Nat) : State :=
  let s := (s.pteAddrs p i).foldl (fun s a => s.walkEntry p a) s
  let s := (s.steToFree p i).updBank p fun b => { b with order := b.order.filter fun x => x ≠ i }
  (s.updFrame p fun f => { f with walks := rest }).raiseCores p 4

theorem exec_releaseWalkEnd_of_cons {s : State} {p : PartId} {i : Nat} {rest : List Nat} (hw : (s.part p).frame.walks = i :: rest) :
    exec (.releaseWalkEnd p) s =
      .next ((s.unmappedAll kAssist p p (s.tableGaps p (s.stePdir p i) (s.tableSize p i))).walkDone p i rest) := by
  show execReleaseWalkEnd p s = _
  rw [execReleaseWalkEnd, hw]
  rfl

theorem aside_walkDone (s : State) (p i : Nat) (rest : List Nat) : Aside s (s.walkDone p i rest) :=
  .raiseCores <| .updPart <| .updPart <| .pWrLe <| (Aside.refl s).foldl (·.walkEntry)

/-- A walk of sequence 0 of partition 0 is in progress, whose root (one block, at 2^48) is unmapped; a window of the partition's
assists, older than 1 s, is open with an entry of partition 1. -/
def walkUnmapped : State where
  hall := 600000000
  groups := [(0, { st := .assigned, owner := 0 })]
  mem := [(0, 7), (0x1E, 1), (0x26, 1)]
  coalesce := [oldWindow 1]
  parts := [(0, { frame := { walks := [0] } })]

/-- Refutes O28: the end of the walk of partition 0 in `walkUnmapped` writes an entry into the fault log ring of partition 1. -/
theorem not_sequencesAreReleasedAtTheBoundary : ¬ Obligations.SequencesAreReleasedAtTheBoundary := by
  unfold Obligations.SequencesAreReleasedAtTheBoundary
  intro h
  have hw : (walkUnmapped.part 0).frame.walks = 0 :: [] := by decide +kernel
  obtain ⟨t, he, -, -, -, -, -, hbut, -⟩ := h.2 walkUnmapped 0 0 [] hw (by decide +kernel)
  rw [exec_releaseWalkEnd_of_cons hw] at he
  have hlog := ((aside_walkDone (walkUnmapped.unmappedAll kAssist 0 0
    (walkUnmapped.tableGaps 0 (walkUnmapped.stePdir 0 0) (walkUnmapped.tableSize 0 0))) 0 0 []).part 1).flLog
      (flLog_unmappedAll (c := oldWindow 1) (by decide +kernel) (by decide +kernel) (by decide +kernel) (by decide))
  have hnone : (t.part 1).flLog = [] := congrArg Part.flLog (hbut 1 (by decide))
  exact hlog (Host.Outcome.next.inj he ▸ hnone)

end Sys2Proof.Machine
end

section
/-! PROOFS. Reads and additions of a budget entry (O29). -/

namespace Sys2Proof.Machine

open State

/-! ### Budget entries -/

@[simp] theorem State.budget_updBudget_self (s : State) (i : Nat) (f : Budget → Budget) :
    (s.updBudget i f).budget i = f (s.budget i) := tabGet_tabUpd_self _ _ _ _

theorem State.budget_updBudget_ne (s : State) {i k : Nat} (f : Budget → Budget) (h : k ≠ i) :
    (s.updBudget i f).budget k = s.budget k := tabGet_tabUpd_ne _ _ _ h

@[simp] theorem State.budget_reply (s : State) (a : Agent) (v k : Nat) : (s.reply a v).budget k = s.budget k := by
  cases a <;> rfl

/-- What an agent reads is the one thing that an answer sends. -/
theorem State.reply_eq (s : State) (a : Agent) (v : Nat) : s.reply a v = { s with
    outbox := s.outbox ++ [match a with | .core c => .coreRead c v | .host p => .hostRead p v] } := by
  cases a <;> rfl

/-! ### The commands -/

/-- A budget after an addition (R221). -/
def Budget.add (b : Budget) (h : Nat) (d : BitVec 32) : Budget :=
  { b.refillAt h with balance := satBalance ((b.refillAt h).balance + d.toInt) }

section
variable {s : State} {a : Agent} (h : s.agentOk a = true)
include h

theorem exec_btBalanceRead_of_some {e : Nat} (he : s.btEntry a = some e) : exec (.btBalanceRead a) s =
    .next ((s.updBudget e fun b => b.refillAt s.hall).reply a (((s.budget e).refillAt s.hall).balance % 2 ^ 32).toNat) := by
  show execBtBalanceRead a s = _
  simp only [execBtBalanceRead, h, he, not_true_eq_false, if_false, budget_updBudget_self]

theorem exec_btBalanceRead_of_none (he : s.btEntry a = none) : exec (.btBalanceRead a) s = .next (s.reply a 0) := by
  show execBtBalanceRead a s = _
  simp only [execBtBalanceRead, h, he, not_true_eq_false, if_false]

theorem exec_btAdd_of_some {e : Nat} (he : s.btEntry a = some e) (d : BitVec 32) :
    exec (.btAdd a d) s = .next (s.updBudget e fun b => b.add s.hall d) := by
  show execBtAdd a d s = _
  simp only [execBtAdd, h, he, not_true_eq_false, if_false, Budget.add]

theorem exec_btAdd_of_none (he : s.btEntry a = none) (d : BitVec 32) : exec (.btAdd a d) s = .next s := by
  show execBtAdd a d s = _
  simp only [execBtAdd, h, he, not_true_eq_false, if_false]

end

/-- Settles O29: one equation of each command for an entry in the range and one for none. -/
theorem budgetsRefillBeforeUse : Obligations.BudgetsRefillBeforeUse := by
  unfold Obligations.BudgetsRefillBeforeUse
  intro s a d h
  refine ⟨fun e he => ⟨⟨_, exec_btBalanceRead_of_some h he, ?_, ?_, fun k hk => ?_, ?_⟩,
    ⟨_, exec_btAdd_of_some h he d, rfl, budget_updBudget_self _ _ _, fun k hk => budget_updBudget_ne _ _ hk⟩⟩,
    fun he => ⟨exec_btAdd_of_none h he d, exec_btBalanceRead_of_none h he⟩⟩
  · rw [reply_eq]
    rfl
  · rw [budget_reply, budget_updBudget_self]
  · rw [budget_reply, budget_updBudget_ne _ _ hk]
  · cases a <;> rfl

end Sys2Proof.Machine
end

section
/-! PROOFS. Bytes of module memory and of a partition's address map: a read after a write (R16, R391). A write at a partition
address stores each of its bytes that the partition's memory holds, at the same module physical address. -/

namespace Sys2Proof.Machine

open State

/-! ### Bytes of numbers -/

theorem leNat_leBytes_mod (n v : Nat) : leNat (leBytes n v) = v % 256 ^ n := by
  induction n generalizing v with
  | zero => simp [leBytes, leNat, Nat.mod_one]
  | succ n ih =>
    rw [leBytes, leNat, ih, BitVec.toNat_ofNat, pow_succ' 256, Nat.mod_mul]

theorem leNat_lt (l : List Byte) : leNat l < 256 ^ l.length := by
  induction l with
  | nil => decide
  | cons b l ih =>
    have hb := b.isLt
    rw [leNat, List.length_cons, pow_succ']
    omega

/-! ### Module memory -/

theorem find?_tabInsert (t : Cells) {a x : Nat} (v : Byte) (h : ∀ e ∈ t, e.1 ≠ a) :
    (tabInsert t a v).find? (fun c => c.1 = x) = if x = a then some (a, v) else t.find? fun c => c.1 = x := by
  induction t with
  | nil => by_cases hx : a = x <;> simp [tabInsert, hx, eq_comm]
  | cons e t ih =>
    have ha : e.1 ≠ a := h e List.mem_cons_self
    rw [tabInsert]
    split
    · by_cases hx : a = x
      · simp [hx]
      · simp [hx, Ne.symm hx]
    · rw [List.find?_cons, ih fun y hy => h y (List.mem_cons_of_mem _ hy), List.find?_cons]
      by_cases he : e.1 = x
      · subst he
        simp [ha]
      · simp [he]

theorem find?_tabErase (t : Cells) {a x : Nat} (h : x ≠ a) :
    (tabErase t a).find? (fun c => c.1 = x) = t.find? fun c => c.1 = x := by
  induction t with
  | nil => rfl
  | cons e t ih =>
    rw [tabErase]
    split
    · next he => rw [ih, List.find?_cons, decide_eq_false (he ▸ h.symm)]
    · rw [List.find?_cons, ih, List.find?_cons]

theorem State.memByte_wrMem (s : State) (a : Nat) (b : Byte) (x : Nat) :
    (s.wrMem a b).memByte x = if x = a then b else s.memByte x := by
  by_cases hx : x = a
  · subst hx
    by_cases ht : 0x10000000000 ≤ x ∧ x < 0x20000000000
    · simp [wrMem, memByte, ht, find?_tabInsert _ _ (tabErase_ne _ _)]
    · simp [wrMem, memByte, ht]
  · by_cases ha : 0x10000000000 ≤ a ∧ a < 0x20000000000 <;> by_cases ht : 0x10000000000 ≤ x ∧ x < 0x20000000000 <;>
      simp [wrMem, memByte, ha, ht, hx, find?_tabInsert _ _ (tabErase_ne _ _), find?_tabErase _ hx]

theorem State.memByte_wrMems (s : State) (a : Nat) (l : List Byte) (x : Nat) :
    (s.wrMems a l).memByte x = if a ≤ x ∧ x < a + l.length then l.getD (x - a) 0#8 else s.memByte x := by
  induction l generalizing s a with
  | nil => rw [if_neg (by simp), wrMems]
  | cons b l ih =>
    rw [wrMems, ih, memByte_wrMem, List.length_cons]
    by_cases hx : x = a
    · simp [hx]
    · by_cases hr : a + 1 ≤ x ∧ x < a + 1 + l.length
      · rw [if_pos hr, if_pos (by omega), show x - a = (x - (a + 1)) + 1 by omega, List.getD_cons_succ]
      · rw [if_neg hr, if_neg hx, if_neg (by omega)]

@[simp] theorem State.memBytes_length (s : State) (a n : Nat) : (s.memBytes a n).length = n := by simp [memBytes]

theorem State.memBytes_append (s : State) (a m n : Nat) : s.memBytes a m ++ s.memBytes (a + m) n = s.memBytes a (m + n) := by
  simp only [memBytes, List.range_add, List.map_append, List.map_map, Function.comp_def, Nat.add_assoc]

theorem State.memBytes_congr {s t : State} {a n : Nat} (h : ∀ x, a ≤ x → x < a + n → t.memByte x = s.memByte x) :
    t.memBytes a n = s.memBytes a n :=
  List.map_congr_left fun i hi => h _ (by omega) (by have := List.mem_range.mp hi; omega)

/-! ### The memory of a partition -/

/-- The module physical address of what a partition address reaches, where that is memory of the module. -/
def Reach.mpa : Reach → Option Nat
  | .near _ m | .turf _ m | .store _ m => some m
  | _ => none

@[simp] theorem Reach.mpa_near (g m : Nat) : (Reach.near g m).mpa = some m := rfl
@[simp] theorem Reach.mpa_turf (g m : Nat) : (Reach.turf g m).mpa = some m := rfl
@[simp] theorem Reach.mpa_store (g m : Nat) : (Reach.store g m).mpa = some m := rfl
@[simp] theorem Reach.mpa_unmapped : Reach.unmapped.mpa = none := rfl

theorem State.mapped_eq_isSome (s : State) (p a : Nat) : s.mapped p a = (s.reach p a).mpa.isSome := by
  unfold mapped
  cases s.reach p a <;> rfl

/-- The group whose near memory, turf or Ember store a partition address is (R391). -/
def memGroup (a : Nat) : Option Nat :=
  if a < 0x10000000000 then if a % 0x1000000000 < 0xC00000000 then some (a / 0x1000000000) else none
  else if a < 0x20000000000 then some ((a - 0x10000000000) / 0x1000000000)
  else if 0x30000000000 ≤ a ∧ a < 0x30200000000 then
    if (a - 0x30000000000) % 0x100000000 < 0x2000000 then
      some (8 * ((a - 0x30000000000) / 0x100000000) + (a - 0x30000000000) % 0x100000000 / 0x400000)
    else none
  else none

/-- Memory of a partition is at the module physical address that is the partition address (R391). -/
theorem State.mpa_reach (s : State) (p a : Nat) :
    (s.reach p a).mpa = if (memGroup a).any (s.owns p) then some a else none := by
  have hg : 48 * gib = 0xC00000000 := by norm_num [gib]
  have hs : 32 * mib = 0x2000000 := by norm_num [mib]
  have hm : 4 * mib = 0x400000 := by norm_num [mib]
  unfold reach
  rw [hg, hs, hm]
  dsimp only
  by_cases h1 : a < 0x10000000000
  · rw [if_pos h1]
    by_cases h : a % 0x1000000000 < 0xC00000000
    · have ha : memGroup a = some (a / 0x1000000000) := by rw [memGroup, if_pos h1, if_pos h]
      simp only [ha, h, and_true, Option.any_some, apply_ite Reach.mpa, Reach.mpa_near, Reach.mpa_unmapped]
    · have ha : memGroup a = none := by rw [memGroup, if_pos h1, if_neg h]
      rw [ha, if_neg fun k => h k.2]
      rfl
  rw [if_neg h1]
  by_cases h2 : a < 0x20000000000
  · have ha : memGroup a = some ((a - 0x10000000000) / 0x1000000000) := by rw [memGroup, if_neg h1, if_pos h2]
    simp only [ha, h2, if_true, Option.any_some, apply_ite Reach.mpa, Reach.mpa_turf, Reach.mpa_unmapped]
  rw [if_neg h2]
  by_cases h3 : 0x30000000000 ≤ a ∧ a < 0x30200000000
  · rw [if_pos h3]
    by_cases h : (a - 0x30000000000) % 0x100000000 < 0x2000000
    · have ha : memGroup a = some (8 * ((a - 0x30000000000) / 0x100000000) +
          (a - 0x30000000000) % 0x100000000 / 0x400000) := by
        rw [memGroup, if_neg h1, if_neg h2, if_pos h3, if_pos h]
      simp only [ha, h, true_and, Option.any_some, apply_ite Reach.mpa, Reach.mpa_store, Reach.mpa_unmapped]
    · have ha : memGroup a = none := by rw [memGroup, if_neg h1, if_neg h2, if_pos h3, if_neg h]
      rw [ha, if_neg fun k => h k.1]
      rfl
  · have ha : memGroup a = none := by rw [memGroup, if_neg h1, if_neg h2, if_neg h3]
    rw [if_neg h3, ha]
    by_cases h4 : 0x40000000000 ≤ a ∧ a < 0x41000000000
    · rw [if_pos h4]
      rfl
    · rw [if_neg h4]
      cases s.hostWin p a <;> rfl

theorem State.mapped_eq (s : State) (p a : Nat) : s.mapped p a = (memGroup a).any (s.owns p) := by
  rw [mapped_eq_isSome, mpa_reach]
  cases (memGroup a).any (s.owns p) <;> rfl

theorem State.mpa_reach_of_mapped {s : State} {p a : Nat} (h : s.mapped p a = true) : (s.reach p a).mpa = some a := by
  rw [mapped_eq] at h
  rw [mpa_reach, if_pos h]

/-- A block of 2 MiB is memory of one group, or none of it is. -/
theorem memGroup_congr {a b : Nat} (h : a / mapBlock = b / mapBlock) : memGroup a = memGroup b := by
  have hB : mapBlock = 0x200000 := by norm_num [mapBlock, mib]
  rw [hB] at h
  unfold memGroup
  by_cases h1 : a < 0x10000000000
  · have hdiv : a / 0x1000000000 = b / 0x1000000000 := by omega
    by_cases h2 : a % 0x1000000000 < 0xC00000000
    · rw [if_pos h1, if_pos h2, if_pos (by omega), if_pos (by omega), hdiv]
    · rw [if_pos h1, if_neg h2, if_pos (by omega), if_neg (by omega)]
  rw [if_neg h1, if_neg (show ¬ b < 0x10000000000 by omega)]
  by_cases h2 : a < 0x20000000000
  · rw [if_pos h2, if_pos (show b < 0x20000000000 by omega)]
    obtain ⟨c, rfl⟩ := Nat.exists_eq_add_of_le (Nat.not_lt.mp h1)
    obtain ⟨d, rfl⟩ := Nat.exists_eq_add_of_le (show 0x10000000000 ≤ b by omega)
    have hdiv : c / 0x1000000000 = d / 0x1000000000 := by omega
    rw [Nat.add_sub_cancel_left, Nat.add_sub_cancel_left, hdiv]
  rw [if_neg h2, if_neg (show ¬ b < 0x20000000000 by omega)]
  by_cases h3 : 0x30000000000 ≤ a ∧ a < 0x30200000000
  · rw [if_pos h3, if_pos (show 0x30000000000 ≤ b ∧ b < 0x30200000000 by omega)]
    obtain ⟨c, rfl⟩ := Nat.exists_eq_add_of_le h3.1
    obtain ⟨d, rfl⟩ := Nat.exists_eq_add_of_le (show 0x30000000000 ≤ b by omega)
    have hdiv : c / 0x100000000 = d / 0x100000000 := by omega
    have hmod : c % 0x100000000 / 0x400000 = d % 0x100000000 / 0x400000 := by omega
    have hlt : c % 0x100000000 < 0x2000000 ↔ d % 0x100000000 < 0x2000000 := by omega
    simp only [Nat.add_sub_cancel_left, hdiv, hmod, hlt]
  · rw [if_neg h3, if_neg (show ¬ (0x30000000000 ≤ b ∧ b < 0x30200000000) by omega)]

theorem State.mapped_congr (s : State) (p : Nat) {a b : Nat} (h : a / Machine.mapBlock = b / Machine.mapBlock) :
    s.mapped p a = s.mapped p b := by
  rw [mapped_eq, mapped_eq, memGroup_congr h]

/-! ### Ranges -/

theorem mapBlock_eq : mapBlock = 0x200000 := by norm_num [mapBlock, mib]

theorem mem_blocksOf {a n : Nat} {b : Nat × Nat} : b ∈ blocksOf a n ↔
    0 < n ∧ ∃ i ≤ (a + n - 1) / mapBlock - a / mapBlock, (max a ((a / mapBlock + i) * mapBlock),
      min (a + n) ((a / mapBlock + i + 1) * mapBlock) - max a ((a / mapBlock + i) * mapBlock)) = b := by
  unfold blocksOf
  by_cases hn : n = 0
  · simp [hn]
  · simp [hn, Nat.pos_of_ne_zero hn]

/-- A part of a range lies in the range, and in one block of 2 MiB. -/
theorem bounds_of_mem_blocksOf {a n : Nat} {b : Nat × Nat} (hb : b ∈ blocksOf a n) : a ≤ b.1 ∧ b.1 + b.2 ≤ a + n ∧
    b.1 < a + n ∧ ∀ x, b.1 ≤ x → x < b.1 + b.2 → x / mapBlock = b.1 / mapBlock := by
  obtain ⟨hn, i, hi, rfl⟩ := mem_blocksOf.mp hb
  rw [mapBlock_eq] at *
  dsimp only
  refine ⟨by omega, by omega, by omega, fun x hx hn => by omega⟩

theorem exists_mem_blocksOf {a n x : Nat} (h : a ≤ x) (hx : x < a + n) : ∃ b ∈ blocksOf a n, b.1 ≤ x ∧ x < b.1 + b.2 := by
  refine ⟨_, mem_blocksOf.mpr ⟨by omega, x / mapBlock - a / mapBlock, ?_, rfl⟩, ?_⟩
  · exact Nat.sub_le_sub_right (Nat.div_le_div_right (by omega)) _
  · rw [mapBlock_eq]
    dsimp only
    omega

/-- A range is mapped when each of its addresses is. -/
theorem State.mappedRange_iff (s : State) (p a n : Nat) :
    s.mappedRange p a n = true ↔ ∀ x, a ≤ x → x < a + n → s.mapped p x = true := by
  unfold mappedRange
  rw [List.all_eq_true]
  constructor
  · intro h x hx hn
    obtain ⟨b, hb, hbx, hxb⟩ := exists_mem_blocksOf hx hn
    obtain ⟨-, -, -, hblock⟩ := bounds_of_mem_blocksOf hb
    rw [mapped_congr s p (hblock x hbx hxb)]
    exact h b hb
  · intro h b hb
    obtain ⟨ha, -, hn, -⟩ := bounds_of_mem_blocksOf hb
    exact h _ ha hn

theorem State.mappedRange_of_nearRange {s : State} {p a n : Nat} (h : s.nearRange p a n = true) : s.mappedRange p a n = true := by
  unfold nearRange at h
  unfold mappedRange
  rw [List.all_eq_true] at h ⊢
  intro b hb
  have hr := h b hb
  unfold mapped
  split at hr
  · next g m hm => rw [hm]
  · exact absurd hr Bool.false_ne_true

theorem State.mappedRange_sub {s : State} {p a n b m : Nat} (h : s.mappedRange p a n = true) (hb : a ≤ b) (hm : b + m ≤ a + n) :
    s.mappedRange p b m = true :=
  (mappedRange_iff _ _ _ _).mpr fun x hx hn => (mappedRange_iff _ _ _ _).mp h x (by omega) (by omega)

theorem State.mapped_of_groups {s t : State} (h : t.groups = s.groups) (p a : Nat) : t.mapped p a = s.mapped p a := by
  rw [mapped_eq, mapped_eq]
  unfold owns group
  rw [h]

theorem State.mappedRange_of_groups {s t : State} (h : t.groups = s.groups) (p a n : Nat) :
    t.mappedRange p a n = s.mappedRange p a n := by
  unfold mappedRange
  simp only [mapped_of_groups h]

/-! ### Writes at a partition address -/

theorem State.putBlock_of_mapped {s : State} {p a : Nat} (h : s.mapped p a = true) (l : List Byte) (rec : Bool) :
    s.putBlock p a l rec = s.wrMems a l := by
  have hm := mpa_reach_of_mapped h
  unfold putBlock
  cases hr : s.reach p a <;> rw [hr] at hm <;> cases hm <;> rfl

theorem State.memByte_putBlock_of_not_mapped {s : State} {p a : Nat} (h : s.mapped p a = false) (l : List Byte) (rec : Bool)
    (x : Nat) : (s.putBlock p a l rec).memByte x = s.memByte x := by
  rw [mapped_eq_isSome] at h
  unfold putBlock
  split
  · next hr => rw [hr] at h; cases h
  · next hr => rw [hr] at h; cases h
  · next hr => rw [hr] at h; cases h
  · split_ifs <;> rfl
  · rfl

theorem State.groups_putBlock (s : State) (p a : Nat) (l : List Byte) (rec : Bool) :
    (s.putBlock p a l rec).groups = s.groups := same_putBlock s p a l rec .groups (by decide)

theorem State.groups_putMem (s : State) (p a : Nat) (l : List Byte) (rec : Bool) : (s.putMem p a l rec).groups = s.groups :=
  same_putMem s p a l rec .groups (by decide)

/-- Parts of a range written in turn. -/
theorem State.memByte_foldl_putBlock (s : State) (p a : Nat) (l : List Byte) (rec : Bool) (bs : List (Nat × Nat))
    (hbs : ∀ b ∈ bs, b ∈ blocksOf a l.length) (x : Nat) :
    (bs.foldl (fun s b => s.putBlock p b.1 ((l.drop (b.1 - a)).take b.2) rec) s).memByte x =
      if (∃ b ∈ bs, b.1 ≤ x ∧ x < b.1 + b.2) ∧ s.mapped p x = true then l.getD (x - a) 0#8 else s.memByte x := by
  induction bs generalizing s with
  | nil => simp
  | cons b bs ih =>
    obtain ⟨ha, hn, -, hblock⟩ := bounds_of_mem_blocksOf (hbs b List.mem_cons_self)
    rw [List.foldl_cons, ih _ fun c hc => hbs c (List.mem_cons_of_mem _ hc), mapped_of_groups (groups_putBlock _ _ _ _ _)]
    have hlen : ((l.drop (b.1 - a)).take b.2).length = b.2 := by
      rw [List.length_take, List.length_drop]
      omega
    have hb : (s.putBlock p b.1 ((l.drop (b.1 - a)).take b.2) rec).memByte x =
        if (b.1 ≤ x ∧ x < b.1 + b.2) ∧ s.mapped p x = true then l.getD (x - a) 0#8 else s.memByte x := by
      by_cases hx : b.1 ≤ x ∧ x < b.1 + b.2
      · have hm := mapped_congr s p (hblock x hx.1 hx.2)
        cases hmap : s.mapped p b.1 with
        | true =>
          have hidx : b.1 - a + (x - b.1) = x - a := by omega
          have hlt : x - b.1 < b.2 := by omega
          rw [putBlock_of_mapped hmap, memByte_wrMems, hlen, if_pos hx, if_pos ⟨hx, hm.trans hmap⟩, List.getD_eq_getElem?_getD,
            List.getD_eq_getElem?_getD, List.getElem?_take_of_lt hlt, List.getElem?_drop, hidx]
        | false => rw [memByte_putBlock_of_not_mapped hmap, if_neg (by simp [hm, hmap])]
      · rw [if_neg fun k => hx k.1]
        cases hmap : s.mapped p b.1 with
        | true => rw [putBlock_of_mapped hmap, memByte_wrMems, hlen, if_neg hx]
        | false => rw [memByte_putBlock_of_not_mapped hmap]
    rw [hb]
    by_cases hm : s.mapped p x = true
    · by_cases h1 : b.1 ≤ x ∧ x < b.1 + b.2 <;> by_cases h2 : ∃ c ∈ bs, c.1 ≤ x ∧ x < c.1 + c.2 <;> simp [hm, h1, h2]
    · simp [hm]

/-- A write at a partition address stores each byte that lies in the partition's memory, and no other (R391 to R393). -/
theorem State.memByte_putMem (s : State) (p a : Nat) (l : List Byte) (rec : Bool) (x : Nat) : (s.putMem p a l rec).memByte x =
    if (a ≤ x ∧ x < a + l.length) ∧ s.mapped p x = true then l.getD (x - a) 0#8 else s.memByte x := by
  have hr : (∃ b ∈ blocksOf a l.length, b.1 ≤ x ∧ x < b.1 + b.2) ↔ a ≤ x ∧ x < a + l.length := by
    constructor
    · rintro ⟨b, hb, hx, hxb⟩
      obtain ⟨ha, hn, -, -⟩ := bounds_of_mem_blocksOf hb
      omega
    · exact fun h => exists_mem_blocksOf h.1 h.2
  rw [putMem, memByte_foldl_putBlock _ _ _ _ _ _ fun _ h => h]
  simp only [hr]

theorem State.memByte_putMem_out {s : State} {p a x : Nat} {l : List Byte} {rec : Bool} (h : x < a ∨ a + l.length ≤ x) :
    (s.putMem p a l rec).memByte x = s.memByte x := by
  rw [memByte_putMem, if_neg (by omega)]

theorem State.memBytes_putMem_out {s : State} {p a x n : Nat} {l : List Byte} {rec : Bool} (h : x + n ≤ a ∨ a + l.length ≤ x) :
    (s.putMem p a l rec).memBytes x n = s.memBytes x n :=
  memBytes_congr fun _ _ _ => memByte_putMem_out (by omega)

/-- A field of a record that was written reads back. -/
theorem State.memBytes_putMem {s : State} {p a o n : Nat} {l : List Byte} {rec : Bool} (h : s.mappedRange p (a + o) n = true)
    (hn : o + n ≤ l.length) : (s.putMem p a l rec).memBytes (a + o) n = (l.drop o).take n := by
  refine List.ext_getElem (by simp; omega) fun i hi _ => ?_
  have hi' : i < n := by simpa using hi
  have hm := (mappedRange_iff _ _ _ _).mp h (a + o + i) (by omega) (by omega)
  have hidx : a + o + i - a = o + i := by omega
  have hlt : o + i < l.length := by omega
  simp [memBytes, memByte_putMem, hm, hidx, hlt, show a ≤ a + o + i by omega, show a + o + i < a + l.length by omega]

/-! ### Reads at a partition address -/

theorem State.pBytes_block {s : State} {p a n : Nat} (h : s.mappedRange p a n = true) {b : Nat × Nat} (hb : b ∈ blocksOf a n) :
    (match s.reach p b.1 with
      | .near _ m | .turf _ m | .store _ m => s.memBytes m b.2
      | .host h => (List.range b.2).map fun i => Config.hostByte (h + i) s.serial
      | _ => List.replicate b.2 0#8) = s.memBytes b.1 b.2 := by
  have hm := mpa_reach_of_mapped (List.all_eq_true.mp h b hb)
  cases hr : s.reach p b.1 <;> rw [hr] at hm <;> cases hm <;> rfl

/-- The first parts of a range, read in turn. -/
theorem State.flatMap_memBytes (s : State) (a n m : Nat) (hm : m ≤ (a + n - 1) / Machine.mapBlock - a / Machine.mapBlock + 1)
    (hn : 0 < n) :
    ((List.range m).flatMap fun i => s.memBytes (max a ((a / Machine.mapBlock + i) * Machine.mapBlock))
      (min (a + n) ((a / Machine.mapBlock + i + 1) * Machine.mapBlock) - max a ((a / Machine.mapBlock + i) * Machine.mapBlock))) =
      s.memBytes a (min (a + n) ((a / Machine.mapBlock + m) * Machine.mapBlock) - a) := by
  rw [mapBlock_eq] at *
  induction m with
  | zero =>
    have h0 : min (a + n) ((a / 0x200000 + 0) * 0x200000) - a = 0 := by omega
    rw [h0]
    rfl
  | succ m ih =>
    have hstart : max a ((a / 0x200000 + m) * 0x200000) = a + (min (a + n) ((a / 0x200000 + m) * 0x200000) - a) := by omega
    have hlen : min (a + n) ((a / 0x200000 + (m + 1)) * 0x200000) - a = min (a + n) ((a / 0x200000 + m) * 0x200000) - a +
        (min (a + n) ((a / 0x200000 + m + 1) * 0x200000) - max a ((a / 0x200000 + m) * 0x200000)) := by omega
    rw [List.range_succ, List.flatMap_append, ih (by omega), hlen, ← memBytes_append, ← hstart, List.flatMap_singleton]

/-- Memory of the partition is read as it stands. -/
theorem State.pBytes_of_mapped {s : State} {p a n : Nat} (h : s.mappedRange p a n = true) : s.pBytes p a n = s.memBytes a n := by
  rcases Nat.eq_zero_or_pos n with rfl | hn
  · rfl
  have hread : s.pBytes p a n = (blocksOf a n).flatMap fun b => s.memBytes b.1 b.2 :=
    List.flatMap_congr fun b hb => pBytes_block h hb
  have hend : min (a + n) ((a / Machine.mapBlock + ((a + n - 1) / Machine.mapBlock - a / Machine.mapBlock + 1)) *
      Machine.mapBlock) - a = n := by
    rw [mapBlock_eq]
    omega
  rw [hread, blocksOf, if_neg hn.ne', List.flatMap_map, flatMap_memBytes _ _ _ _ le_rfl hn, hend]

theorem State.pLe_of_mapped {s : State} {p a n : Nat} (h : s.mappedRange p a n = true) : s.pLe p a n = s.memLe a n := by
  rw [pLe, pBytes_of_mapped h, memLe]

/-- A number that was stored reads back. -/
theorem State.memLe_pWrLe {s : State} {p a n : Nat} (h : s.mappedRange p a n = true) (v : Nat) :
    (s.pWrLe p a n v).memLe a n = v % 256 ^ n := by
  have hb := memBytes_putMem (rec := false) (o := 0) (l := leBytes n v) h (by simp)
  have hall : (leBytes n v).take n = leBytes n v := List.take_of_length_le (by simp)
  rw [Nat.add_zero, List.drop_zero, hall] at hb
  rw [memLe, pWrLe, hb, leNat_leBytes_mod]

theorem State.pLe_pWrLe {s : State} {p a n : Nat} (h : s.mappedRange p a n = true) (v : Nat) :
    (s.pWrLe p a n v).pLe p a n = v % 256 ^ n := by
  have ht : (s.pWrLe p a n v).mappedRange p a n = true := (mappedRange_of_groups (groups_putMem _ _ _ _ _) _ _ _).trans h
  rw [pLe_of_mapped ht, memLe_pWrLe h]

/-- A write leaves a number of the partition's memory that lies beside it. -/
theorem State.pLe_putMem_out {s : State} {p a x n : Nat} {l : List Byte} {rec : Bool} (h : s.mappedRange p x n = true)
    (ho : x + n ≤ a ∨ a + l.length ≤ x) : (s.putMem p a l rec).pLe p x n = s.pLe p x n := by
  rw [pLe_of_mapped ((mappedRange_of_groups (groups_putMem _ _ _ _ _) _ _ _).trans h), pLe_of_mapped h, memLe, memLe,
    memBytes_putMem_out ho]

theorem State.pLe_pWrLe_out {s : State} {p a m x n v : Nat} (h : s.mappedRange p x n = true) (ho : x + n ≤ a ∨ a + m ≤ x) :
    (s.pWrLe p a m v).pLe p x n = s.pLe p x n := pLe_putMem_out h (by rwa [leBytes_length])

theorem State.memByte_pWrLe_out {s : State} {p a m x v : Nat} (h : x < a ∨ a + m ≤ x) :
    (s.pWrLe p a m v).memByte x = s.memByte x := memByte_putMem_out (by rwa [leBytes_length])

/-- A field of a record that was written reads back as the number that its bytes are. -/
theorem State.pLe_putMem {s : State} {p a o n : Nat} {l : List Byte} {rec : Bool} (h : s.mappedRange p (a + o) n = true)
    (hn : o + n ≤ l.length) : (s.putMem p a l rec).pLe p (a + o) n = leNat ((l.drop o).take n) := by
  rw [pLe_of_mapped ((mappedRange_of_groups (groups_putMem _ _ _ _ _) _ _ _).trans h), memLe, memBytes_putMem h hn]

theorem State.pLe_lt {s : State} {p a n : Nat} (h : s.mappedRange p a n = true) : s.pLe p a n < 256 ^ n := by
  have hl := leNat_lt (s.memBytes a n)
  rw [memBytes_length] at hl
  rwa [pLe_of_mapped h]

end Sys2Proof.Machine
end

section
/-! PROOFS. What the hash unit and the page allocator of a partition leave as it was (`Within p s t`), and the two of its writes
that change nothing the unit reads: the cache of keys and the count of failed candidates (`Reads p s t`). The lemma about a
function of the model takes what it is applied to from `Within p s t` to `Within p s` of its value. -/

namespace Sys2Proof.Machine

open State

/-! ### Writes within a partition -/

/-- The units of partition `p` have acted: other partitions, groups and tiles are as they were, and `p` keeps its frame builder's
tables and the place and size of its directory. -/
structure Within (p : Nat) (s t : State) : Prop where
  groups : t.groups = s.groups
  tiles : t.tiles = s.tiles
  parts : PartsBut p s t
  frame : (t.part p).frame = (s.part p).frame
  base : (t.part p).phu.base = (s.part p).phu.base
  bits : (t.part p).phu.bits = (s.part p).phu.bits

section
variable {p : Nat} {s t : State}

theorem Within.refl (p : Nat) (s : State) : Within p s s := ⟨rfl, rfl, fun _ _ => rfl, rfl, rfl, rfl⟩

theorem Within.trans {u : State} (h : Within p s t) (k : Within p t u) : Within p s u :=
  ⟨k.groups.trans h.groups, k.tiles.trans h.tiles, fun q hq => (k.parts q hq).trans (h.parts q hq), k.frame.trans h.frame,
    k.base.trans h.base, k.bits.trans h.bits⟩

theorem Within.of_same (h : Same memParts s t) : Within p s t :=
  have hp := h.part (by decide)
  ⟨h .groups (by decide), h .tiles (by decide), fun q _ => hp q, by rw [hp], by rw [hp], by rw [hp]⟩

theorem Within.foldl {α : Type} {f : State → α → State} {l : List α} (h : Within p s t)
    (hf : ∀ {u x}, Within p s u → Within p s (f u x)) : Within p s (l.foldl f t) := by
  induction l generalizing t with
  | nil => exact h
  | cons x l ih => exact ih (hf h)

theorem Within.ite {c : Prop} {_ : Decidable c} {a b : State} (ha : Within p s a) (hb : Within p s b) :
    Within p s (if c then a else b) := by
  split
  · exact ha
  · exact hb

theorem Within.updPart {f} (h : Within p s t)
    (hf : ∀ P, (f P).frame = P.frame ∧ (f P).phu.base = P.phu.base ∧ (f P).phu.bits = P.phu.bits := by
      exact fun _ => ⟨rfl, rfl, rfl⟩) : Within p s (t.updPart p f) := by
  obtain ⟨hframe, hbase, hbits⟩ := hf (t.part p)
  refine h.trans ⟨rfl, rfl, fun q hq => part_updPart_ne _ _ hq, ?_, ?_, ?_⟩ <;> rw [part_updPart_self] <;> assumption

theorem Within.cores {x} (h : Within p s t) : Within p s { t with cores := x } :=
  ⟨h.groups, h.tiles, h.parts, h.frame, h.base, h.bits⟩

theorem Within.updPh {c f} (h : Within p s t) : Within p s (t.updPh c f) := h.cores

theorem Within.fresh (h : Within p s t) : Within p s t.fresh := ⟨h.groups, h.tiles, h.parts, h.frame, h.base, h.bits⟩

theorem Within.putMem {a l rec} (h : Within p s t) : Within p s (t.putMem p a l rec) := h.trans (.of_same (same_putMem _ _ _ _ _))

theorem Within.pWrLe {a n v} (h : Within p s t) : Within p s (t.pWrLe p a n v) := h.putMem

theorem Within.wrLe {a n v} (h : Within p s t) : Within p s (t.wrLe a n v) := h.trans (.of_same (same_wrMems _ _ _))

theorem Within.wrPte {a loc ro handle target} (h : Within p s t) : Within p s (t.wrPte p a loc ro handle target) := h.putMem

theorem Within.setPage {g x} (h : Within p s t) : Within p s (t.setPage p g x) := by
  refine .ite ?_ h.updPart
  rw [raiseCores_eq]
  exact h.updPart.cores

theorem Within.refInc {g} (h : Within p s t) : Within p s (t.refInc p g) := .ite h h.setPage

theorem Within.refDec {g atOnce} (h : Within p s t) : Within p s (t.refDec p g atOnce) := .ite (.ite h.setPage h.setPage) h

theorem Within.confirmFails {n} (h : Within p s t) : Within p s (t.confirmFails p n) := h.updPart

theorem Within.phKey {i} (h : Within p s t) : Within p s (t.phKey p i).1 := by
  unfold State.phKey
  split
  · exact h
  · exact h.updPart

theorem Within.mapBlock {ste a j} (h : Within p s t) : Within p s (t.mapBlock p ste a j) := by
  unfold State.mapBlock
  refine .pWrLe <| .pWrLe <| h.foldl fun h => ?_
  dsimp only
  split
  · exact .wrPte h.refInc
  · exact h.refInc

theorem Within.putEntry {a key sg block kind prev nl list} (h : Within p s t) :
    Within p s (t.putEntry p a key sg block kind prev nl list) := by
  unfold State.putEntry
  exact h.fresh.putMem

theorem Within.putChain {ste j key} (h : Within p s t) : Within p s (t.putChain p ste j key) := by
  refine .foldl h.pWrLe fun h => ?_
  split
  · exact h
  · exact .ite h.wrLe h

theorem Within.mapped (h : Within p s t) (q a : Nat) : t.mapped q a = s.mapped q a := mapped_of_groups h.groups q a

theorem Within.mappedRange (h : Within p s t) (q a n : Nat) : t.mappedRange q a n = s.mappedRange q a n :=
  mappedRange_of_groups h.groups q a n

theorem Within.steAddr (h : Within p s t) (i : Nat) : t.steAddr p i = s.steAddr p i := by
  rw [State.steAddr, h.frame, State.steAddr]

theorem Within.steMapped (h : Within p s t) (i : Nat) : t.steMapped p i = s.steMapped p i := by
  rw [State.steMapped, h.steAddr, h.mappedRange, State.steMapped]

theorem Within.dirAt (h : Within p s t) (d : Nat) : t.dirAt p d = s.dirAt p d := by
  rw [State.dirAt, h.base, State.dirAt]

end

/-! ### What the unit reads -/

/-- A command of a core accepted in this hall tick (R242). -/
def State.phTake (s : State) (c : Nat) : State := s.updPh c fun x => { x with taken := some s.hall }

/-- `t` differs from `s` in nothing that the hash unit of partition `p` reads. -/
structure Reads (p : Nat) (s t : State) : Prop extends Within p s t where
  mem : t.mem = s.mem
  turf : t.turf = s.turf
  turfKey : t.turfKey = s.turfKey
  serial : t.serial = s.serial
  sec : (t.part p).sec = (s.part p).sec
  alloc : (t.part p).alloc = (s.part p).alloc

theorem Reads.trans {p : Nat} {s t u : State} (h : Reads p s t) (k : Reads p t u) : Reads p s u :=
  ⟨h.toWithin.trans k.toWithin, k.mem.trans h.mem, k.turf.trans h.turf, k.turfKey.trans h.turfKey, k.serial.trans h.serial,
    k.sec.trans h.sec, k.alloc.trans h.alloc⟩

theorem State.reads_updPh (s : State) (p c : Nat) (f : PhRegs → PhRegs) : Reads p s (s.updPh c f) :=
  ⟨(Within.refl p s).updPh, rfl, rfl, rfl, rfl, rfl, rfl⟩

theorem State.reads_phEnd (s : State) (p c code : Nat) : Reads p s (s.phEnd c code) := reads_updPh _ _ _ _

theorem State.reads_phTake (s : State) (p c : Nat) : Reads p s (s.phTake c) := reads_updPh _ _ _ _

theorem State.reads_updPhu (s : State) (p : Nat) (f : PrefixUnit → PrefixUnit)
    (hf : ∀ u, (f u).base = u.base ∧ (f u).bits = u.bits := by exact fun _ => ⟨rfl, rfl⟩) : Reads p s (s.updPhu p f) :=
  ⟨(Within.refl p s).updPart fun P => ⟨rfl, hf P.phu⟩, rfl, rfl, rfl, rfl, by rw [updPhu, part_updPart_self],
    by rw [updPhu, part_updPart_self]⟩

theorem State.reads_confirmFails (s : State) (p n : Nat) : Reads p s (s.confirmFails p n) := reads_updPhu _ _ _

theorem State.reads_phKey (s : State) (p i : Nat) : Reads p s (s.phKey p i).1 := by
  unfold phKey
  split
  · exact ⟨.refl p s, rfl, rfl, rfl, rfl, rfl, rfl⟩
  · dsimp only
    exact reads_updPhu s p _ fun _ => ⟨rfl, rfl⟩

section
variable {p : Nat} {s t : State} (h : Reads p s t)
include h

theorem Reads.owns (q g : Nat) : t.owns q g = s.owns q g := by
  rw [State.owns, State.group, h.groups, State.owns, State.group]

theorem Reads.reach (a : Nat) : t.reach p a = s.reach p a := by simp only [State.reach, State.hostWin, h.owns, h.sec]

theorem Reads.memByte (a : Nat) : t.memByte a = s.memByte a := by simp only [State.memByte, h.mem, h.turf, h.turfKey]

theorem Reads.memBytes (a n : Nat) : t.memBytes a n = s.memBytes a n := by simp only [State.memBytes, h.memByte]

theorem Reads.anyRange (a n : Nat) : t.anyRange p a n = s.anyRange p a n := by simp only [State.anyRange, h.reach]

theorem Reads.pBytes (a n : Nat) : t.pBytes p a n = s.pBytes p a n := by
  simp only [State.pBytes, h.reach, h.memBytes, h.serial]

theorem Reads.pLe (a n : Nat) : t.pLe p a n = s.pLe p a n := by rw [State.pLe, h.pBytes, State.pLe]

theorem Reads.handleOk (g : Nat) : t.handleOk p g = s.handleOk p g := by simp only [State.handleOk, h.alloc, h.owns]

theorem Reads.steLayers (i : Nat) : t.steLayers p i = s.steLayers p i := by
  simp only [State.steLayers, h.steAddr, h.pLe]

theorem Reads.stePdir (i : Nat) : t.stePdir p i = s.stePdir p i := by rw [State.stePdir, h.steAddr, h.pLe, State.stePdir]

theorem Reads.pteAddr (a i : Nat) : t.pteAddr p a i = s.pteAddr p a i := by rw [State.pteAddr, h.pLe, State.pteAddr]

theorem Reads.blockPtes (i j : Nat) : t.blockPtes p i j = s.blockPtes p i j := by
  simp only [State.blockPtes, h.steLayers, h.stePdir, h.pteAddr]

theorem Reads.tableGaps (a n : Nat) : t.tableGaps p a n = s.tableGaps p a n := by
  simp only [State.tableGaps, h.anyRange, h.pLe]

theorem Reads.pteLoc (a : Nat) : t.pteLoc p a = s.pteLoc p a := by simp only [State.pteLoc, h.pLe]

theorem Reads.pteHandle (a : Nat) : t.pteHandle p a = s.pteHandle p a := by simp only [State.pteHandle, h.pLe]

theorem Reads.hdrAddr (g : Nat) : t.hdrAddr p g = s.hdrAddr p g := by simp only [State.hdrAddr, h.alloc]

theorem Reads.blockPrivate (i j : Nat) : t.blockPrivate p i j = s.blockPrivate p i j := by
  simp only [State.blockPrivate, h.blockPtes, h.pteLoc, h.pteHandle, h.pLe, h.handleOk, h.alloc]

theorem Reads.bucket (key : Nat) : t.bucket p key = s.bucket p key := by simp only [State.bucket, h.bits]

theorem Reads.deWord (a : Nat) : t.deWord p a = s.deWord p a := by simp only [State.deWord, h.pLe]

theorem Reads.deBlock (a : Nat) : t.deBlock p a = s.deBlock p a := by simp only [State.deBlock, h.deWord]

theorem Reads.deValid (a : Nat) : t.deValid p a = s.deValid p a := by simp only [State.deValid, h.deWord]

theorem Reads.deKind (a : Nat) : t.deKind p a = s.deKind p a := by rw [State.deKind, h.deWord, State.deKind]

theorem Reads.deSg (a : Nat) : t.deSg p a = s.deSg p a := h.pLe _ _

theorem Reads.deList (a : Nat) : t.deList p a = s.deList p a := h.pLe _ _

theorem Reads.dePrev (a : Nat) : t.dePrev p a = s.dePrev p a := h.pLe _ _

theorem Reads.dePins (a : Nat) : t.dePins p a = s.dePins p a := h.pLe _ _

theorem Reads.freeWay (key : Nat) : t.freeWay p key = s.freeWay p key := by
  simp only [State.freeWay, h.bucket, h.deValid, h.dirAt]

theorem Reads.findHandle (sg key x : Nat) : t.findHandle p sg key x = s.findHandle p sg key x := by
  simp only [State.findHandle, h.bucket, h.dirAt, h.deValid, h.deKind, h.deSg, h.deList]

theorem Reads.blockFull (a nl : Nat) : t.blockFull p a nl = s.blockFull p a nl := by
  simp only [State.blockFull, State.dePages, State.deHandle, h.deList, h.pLe, h.alloc]

end

/-! ### Commands of the unit -/

theorem State.phKey_updPh (s : State) (c p i : Nat) (f : PhRegs → PhRegs) :
    (s.updPh c f).phKey p i = ((s.phKey p i).1.updPh c f, (s.phKey p i).2) := by
  unfold phKey
  have hp : (s.updPh c f).part p = s.part p := rfl
  rw [hp]
  cases (s.part p).phu.keys.find? fun e => e.1 = i <;> rfl

section
variable {s : State} {c : CoreId} {p : Nat} (hc : CoreActs s c p)
include hc

theorem State.phCommand_of_busy (h : (s.core c).ph.taken = some s.hall) (needs : Bool) (f : Nat → PhRegs → State → State) :
    s.phCommand c needs f = s.coreFence c := by
  rw [phCommand, byCore_of_acts s c p _ hc]
  exact if_pos h

variable (ht : (s.core c).ph.taken ≠ some s.hall)
include ht

theorem State.phCommand_of_disabled (he : (s.part p).phu.enable = false) (needs : Bool) (f : Nat → PhRegs → State → State) :
    s.phCommand c needs f = s.phEnd c phDisabled := by
  rw [phCommand, byCore_of_acts s c p _ hc]
  exact (if_neg ht).trans (if_pos (by rw [he]; exact Bool.false_ne_true))

variable (he : (s.part p).phu.enable = true)
include he

theorem State.phCommand_of_accepts {needs : Bool} (hm : needs = true → s.steMapped p (s.core c).ph.ste = true)
    (f : Nat → PhRegs → State → State) : s.phCommand c needs f = f p (s.core c).ph (s.phTake c) := by
  have hmap : ¬ (needs = true ∧ ¬ (s.phTake c).steMapped p (s.core c).ph.ste = true) := fun h => h.2 (hm h.1)
  rw [phCommand, byCore_of_acts s c p _ hc]
  exact (if_neg ht).trans ((if_neg (not_not.mpr he)).trans (if_neg hmap))

end

@[simp] theorem State.ph_updPh_self (s : State) (c : Nat) (f : PhRegs → PhRegs) :
    ((s.updPh c f).core c).ph = f (s.core c).ph := by rw [updPh, core_updCore_self]

theorem State.coresBut_updPh (s : State) (c : Nat) (f : PhRegs → PhRegs) : CoresBut c s (s.updPh c f) :=
  fun _ hk => core_updCore_ne _ _ hk

theorem CoresBut.trans {c : Nat} {s t u : State} (h : CoresBut c s t) (k : CoresBut c t u) : CoresBut c s u :=
  fun q hq => (k q hq).trans (h q hq)

theorem CoresBut.of_same {c : Nat} {s t : State} (h : Same memParts s t) : CoresBut c s t := fun k _ => h.core (by decide) k

/-- A command that was accepted and ends with a code changes nothing else (R242). -/
theorem State.onlyCore_phTake_phEnd (s : State) (c code : Nat) : OnlyCore c s ((s.phTake c).phEnd c code) ∧
    ((s.phTake c).phEnd c code).core c =
      { s.core c with ph := { (s.core c).ph with taken := some s.hall, code := code } } :=
  ⟨(onlyCore_updCore _ _ _).trans (onlyCore_updCore _ _ _), by
    rw [phEnd, updPh, core_updCore_self, phTake, updPh, core_updCore_self]⟩

/-! ### Entries of the directory -/

theorem State.dirAt_add (s : State) (p d : Nat) : s.dirAt p d = (s.part p).phu.base + 64 * d := rfl

/-- An entry of a directory in near memory is memory of the partition (R242). -/
theorem State.mappedRange_dirAt {s : State} {p d : Nat}
    (h : s.nearRange p (s.part p).phu.base (2 ^ (s.part p).phu.bits * 256) = true) (hd : d < 4 * 2 ^ (s.part p).phu.bits) :
    s.mappedRange p (s.dirAt p d) 64 = true :=
  mappedRange_sub (mappedRange_of_nearRange h) (by rw [dirAt_add]; omega) (by rw [dirAt_add]; omega)

theorem State.lt_of_mem_bucket {s : State} {p key d : Nat} (h : d ∈ s.bucket p key) : d < 4 * 2 ^ (s.part p).phu.bits := by
  obtain ⟨w, hw, rfl⟩ := List.mem_map.mp h
  have hk : key % 2 ^ (s.part p).phu.bits < 2 ^ (s.part p).phu.bits := Nat.mod_lt _ (Nat.two_pow_pos _)
  have hw4 := List.mem_range.mp hw
  omega

theorem State.freeWay_spec {s : State} {p key d : Nat} (h : s.freeWay p key = some d) :
    d < 4 * 2 ^ (s.part p).phu.bits ∧ s.deValid p (s.dirAt p d) = false :=
  ⟨lt_of_mem_bucket (List.mem_of_find?_eq_some h), by simpa using List.find?_some h⟩

theorem bitsOf_sub (w : Nat) : bitsOf ((w - bitsOf w 26 25 * 2 ^ 25) % 256 ^ 4) 26 25 = 0 := by
  simp only [bitsOf]
  norm_num
  omega

/-- The entry is EMPTY (R233). -/
theorem State.deValid_emptyEntry {s : State} {p a : Nat} (h : s.mappedRange p (a + 0x14) 4 = true) :
    (s.emptyEntry p a).deValid p a = false := by
  have hw : (s.emptyEntry p a).deWord p a = (s.deWord p a - bitsOf (s.deWord p a) 26 25 * 2 ^ 25) % 256 ^ 4 := pLe_pWrLe h _
  rw [deValid, hw, bitsOf_sub]
  rfl

theorem Within.emptyEntry {p : Nat} {s t : State} {a} (h : Within p s t) : Within p s (t.emptyEntry p a) := by
  unfold State.emptyEntry
  exact h.pWrLe

/-- The bytes of an entry that has just become VALID; `word` holds BLOCK, KIND and STATE. -/
def dirEntryBytes (key sg word prev nl list serial : Nat) : List Byte :=
  leBytes 16 key ++ leBytes 4 sg ++ leBytes 4 word ++ leBytes 4 prev ++ leBytes 2 0 ++ leBytes 1 nl ++ leBytes 1 0 ++
    leBytes 8 list ++ leBytes 8 (Config.openField serial) ++ leBytes 4 0 ++ leBytes 4 0 ++ leBytes 8 0

/-- BLOCK, KIND and STATE VALID of an entry (R233). -/
def dirWord (block kind : Nat) : Nat := block + kind * 2 ^ 24 + 2 ^ 25

theorem State.putEntry_eq (s : State) (p a key sg block kind prev nl list : Nat) :
    s.putEntry p a key sg block kind prev nl list =
      s.fresh.putMem p a (dirEntryBytes key sg (dirWord block kind) prev nl list (s.serial + 1)) := rfl

theorem length_dirEntryBytes (key sg word prev nl list serial : Nat) :
    (dirEntryBytes key sg word prev nl list serial).length = 64 := by simp [dirEntryBytes]

section
variable {s : State} {p a : Nat} (h : s.mappedRange p a 64 = true) (key sg block kind prev nl list : Nat)
include h

theorem State.pLe_putEntry (o n : Nat) (hn : o + n ≤ 64) : (s.putEntry p a key sg block kind prev nl list).pLe p (a + o) n =
    leNat (((dirEntryBytes key sg (dirWord block kind) prev nl list (s.serial + 1)).drop o).take n) := by
  have hm : s.fresh.mappedRange p (a + o) n = true := mappedRange_sub h (by omega) (by omega)
  rw [putEntry_eq, pLe_putMem hm (by rw [length_dirEntryBytes]; exact hn)]

theorem State.deKey_putEntry : (s.putEntry p a key sg block kind prev nl list).deKey p a = key % 256 ^ 16 := by
  have hb : ∀ w n, ((dirEntryBytes key sg w prev nl list n).drop 0).take 16 = leBytes 16 key := fun w n => by
    simp [dirEntryBytes]
  rw [← leNat_leBytes_mod, ← hb]
  exact pLe_putEntry h key sg block kind prev nl list 0 16 (by decide)

theorem State.deWord_putEntry :
    (s.putEntry p a key sg block kind prev nl list).deWord p a = dirWord block kind % 256 ^ 4 := by
  have hb : ∀ w n, ((dirEntryBytes key sg w prev nl list n).drop 0x14).take 4 = leBytes 4 w := fun w n => by
    simp [dirEntryBytes, List.drop_append, List.drop_eq_nil_of_le]
  rw [← leNat_leBytes_mod, ← hb]
  exact pLe_putEntry h key sg block kind prev nl list 0x14 4 (by decide)

theorem State.dePrev_putEntry : (s.putEntry p a key sg block kind prev nl list).dePrev p a = prev % 256 ^ 4 := by
  have hb : ∀ w n, ((dirEntryBytes key sg w prev nl list n).drop 0x18).take 4 = leBytes 4 prev := fun w n => by
    simp [dirEntryBytes, List.drop_append, List.drop_eq_nil_of_le]
  rw [← leNat_leBytes_mod, ← hb]
  exact pLe_putEntry h key sg block kind prev nl list 0x18 4 (by decide)

theorem State.deList_putEntry : (s.putEntry p a key sg block kind prev nl list).deList p a = list % 256 ^ 8 := by
  have hb : ∀ w n, ((dirEntryBytes key sg w prev nl list n).drop 0x20).take 8 = leBytes 8 list := fun w n => by
    simp [dirEntryBytes, List.drop_append, List.drop_eq_nil_of_le]
  rw [← leNat_leBytes_mod, ← hb]
  exact pLe_putEntry h key sg block kind prev nl list 0x20 8 (by decide)

end

end Sys2Proof.Machine
end

section
/-! PROOFS. REMOVE, REGISTER, PREFIX_ENABLE and PH_SG_INVAL (O31). -/

namespace Sys2Proof.Machine

open State

/-! ### An entry that has just become VALID -/

section
variable {block kind : Nat} (hb : block < 0x1000000) (hk : kind < 2)
include hb hk

theorem bitsOf_dirWord : bitsOf (dirWord block kind % 256 ^ 4) 26 25 = 1 ∧ bitsOf (dirWord block kind % 256 ^ 4) 24 24 = kind ∧
    dirWord block kind % 256 ^ 4 % 2 ^ 24 = block := by
  simp only [bitsOf, dirWord]
  norm_num
  omega

variable {s : State} {p a : Nat} (h : s.mappedRange p a 64 = true) (key sg prev nl list : Nat)
include h

theorem State.deValid_putEntry : (s.putEntry p a key sg block kind prev nl list).deValid p a = true := by
  rw [deValid, deWord_putEntry h, (bitsOf_dirWord hb hk).1]
  rfl

theorem State.deKind_putEntry : (s.putEntry p a key sg block kind prev nl list).deKind p a = kind := by
  rw [deKind, deWord_putEntry h, (bitsOf_dirWord hb hk).2.1]

theorem State.deBlock_putEntry : (s.putEntry p a key sg block kind prev nl list).deBlock p a = block := by
  rw [deBlock, deWord_putEntry h, (bitsOf_dirWord hb hk).2.2]

end

theorem State.code_phEnd (s : State) (c code : Nat) : ((s.phEnd c code).core c).ph.code = code :=
  congrArg PhRegs.code (ph_updPh_self _ _ _)

/-! ### REMOVE -/

/-- What a REMOVE of the handle entry at `a` leaves (R240). -/
def State.removeHandle (s : State) (p a : Nat) : State :=
  (s.pWrLe p (s.dirAt p (s.dePrev p a) + 0x34) 4 (s.dePins p (s.dirAt p (s.dePrev p a)) - 1)).emptyEntry p a

/-- The pages of a block entry after a REMOVE of it (R240). -/
def State.dropPages (s : State) (p a : Nat) : State := (s.dePages p a (s.deLayers p a)).foldl (fun s h => s.refDec p h false) s

/-- One child less of the parent of a block entry (R240). -/
def State.dropChild (s : State) (p a : Nat) : State :=
  if s.dePrev p a = noEntry then s
  else s.pWrLe p (s.dirAt p (s.dePrev p a) + 0x1C) 2 (s.deChildren p (s.dirAt p (s.dePrev p a)) - 1)

/-- REMOVE of the VALID entry at `a` (R240). -/
def State.removeEntry (s : State) (c p a : Nat) : State :=
  if s.deKind p a = 1 then (s.removeHandle p a).phEnd c phOk
  else if s.deChildren p a ≠ 0 ∨ s.dePins p a ≠ 0 then s.phEnd c phBusy
  else s.phReach c p (if s.anyRange p (s.deList p a) (4 * s.deLayers p a) then [] else [s.deList p a])
    ((((s.dropPages p a).dropChild p a).emptyEntry p a).phEnd c phOk)

theorem exec_remove_eq {s : State} {c : CoreId} {p : Nat} (hc : CoreActs s c p) (ht : (s.core c).ph.taken ≠ some s.hall)
    (he : (s.part p).phu.enable = true) (hd : (s.core c).ph.entry < 4 * 2 ^ (s.part p).phu.bits)
    (hv : s.deValid p (s.dirAt p (s.core c).ph.entry) = true) :
    exec (.remove c) s = .next ((s.phTake c).removeEntry c p (s.dirAt p (s.core c).ph.entry)) := by
  have hr : ¬ (4 * 2 ^ ((s.phTake c).part p).phu.bits ≤ (s.core c).ph.entry ∨
      ¬ (s.phTake c).deValid p ((s.phTake c).dirAt p (s.core c).ph.entry) = true) :=
    fun h => h.elim (Nat.not_le.mpr hd) (not_not.mpr hv)
  show execRemove c s = _
  rw [execRemove, phCommand_of_accepts hc ht he fun h => absurd h Bool.false_ne_true]
  exact congrArg Host.Outcome.next (if_neg hr)

section
variable {s : State} {c p a : Nat}

theorem State.removeEntry_of_handle (h : s.deKind p a = 1) : s.removeEntry c p a = (s.removeHandle p a).phEnd c phOk := if_pos h

theorem State.removeEntry_of_busy (h : s.deKind p a = 0) (hb : s.deChildren p a ≠ 0 ∨ s.dePins p a ≠ 0) :
    s.removeEntry c p a = s.phEnd c phBusy := by
  rw [removeEntry, if_neg (by omega), if_pos hb]

theorem State.removeEntry_of_block (h : s.deKind p a = 0) (hch : s.deChildren p a = 0) (hp : s.dePins p a = 0)
    (hl : s.anyRange p (s.deList p a) (4 * s.deLayers p a) = true) :
    s.removeEntry c p a = (((s.dropPages p a).dropChild p a).emptyEntry p a).phEnd c phOk := by
  rw [removeEntry, if_neg (by omega), if_neg (by omega), if_pos hl, phReach]

theorem State.same_emptyEntry (s : State) (p a : Nat) : Same memParts s (s.emptyEntry p a) := by
  unfold emptyEntry
  exact same_putMem _ _ _ _ _

theorem State.same_removeHandle (s : State) (p a : Nat) : Same memParts s (s.removeHandle p a) :=
  (same_putMem _ _ _ _ _).trans (same_emptyEntry _ _ _)

theorem State.memByte_emptyEntry_out {b : Nat} (h : b < a + 0x14 ∨ a + 0x18 ≤ b) : (s.emptyEntry p a).memByte b = s.memByte b := by
  unfold emptyEntry
  exact memByte_pWrLe_out h

theorem State.memByte_removeHandle_out {b : Nat} (hp : b < s.dirAt p (s.dePrev p a) + 0x34 ∨ s.dirAt p (s.dePrev p a) + 0x38 ≤ b)
    (ha : b < a + 0x14 ∨ a + 0x18 ≤ b) : (s.removeHandle p a).memByte b = s.memByte b :=
  (memByte_emptyEntry_out ha).trans (memByte_pWrLe_out hp)

theorem State.deValid_removeHandle (h : s.mappedRange p a 64 = true) : (s.removeHandle p a).deValid p a = false :=
  deValid_emptyEntry (((Within.refl p s).pWrLe.mappedRange _ _ _).trans (mappedRange_sub h (by omega) (by omega)))

/-- A handle entry that is removed lowers PINS of its block entry (R240). -/
theorem State.dePins_removeHandle (h : s.mappedRange p (s.dirAt p (s.dePrev p a)) 64 = true)
    (hd : s.dirAt p (s.dePrev p a) + 64 ≤ a ∨ a + 64 ≤ s.dirAt p (s.dePrev p a)) :
    (s.removeHandle p a).dePins p (s.dirAt p (s.dePrev p a)) = s.dePins p (s.dirAt p (s.dePrev p a)) - 1 := by
  have hm : s.mappedRange p (s.dirAt p (s.dePrev p a) + 0x34) 4 = true := mappedRange_sub h (by omega) (by omega)
  have hlt : s.dePins p (s.dirAt p (s.dePrev p a)) < 256 ^ 4 := pLe_lt hm
  unfold removeHandle emptyEntry
  exact (pLe_pWrLe_out (((Within.refl p s).pWrLe.mappedRange _ _ _).trans hm) (by omega)).trans
    ((pLe_pWrLe hm _).trans (Nat.mod_eq_of_lt (by omega)))

theorem Within.dropPages {t : State} (h : Within p s t) : Within p s (t.dropPages p a) := h.foldl (·.refDec)

theorem Within.dropChild {t : State} (h : Within p s t) : Within p s (t.dropChild p a) := .ite h h.pWrLe

end

/-! ### REGISTER -/

/-- A handle entry at `h` naming the block entry at `a`, and its pin (R240). -/
def State.pinHandle (s : State) (p h a key sg block entry handle pins : Nat) : State :=
  (s.putEntry p h key sg block 1 entry 0 handle).pWrLe p (a + 0x34) 4 (pins + 1)

/-- A command was accepted and the key of its share group is at hand. -/
def State.phKeyed (s : State) (c p sg : Nat) : State := (s.phKey p sg).1.updPh c fun x => { x with taken := some s.hall }

theorem State.phKey_phTake (s : State) (c p sg : Nat) :
    (s.phTake c).phKey p sg = (s.phKeyed c p sg, (s.phKey p sg).2) := phKey_updPh _ _ _ _ _

theorem State.reads_phKeyed (s : State) (c p sg : Nat) : Reads p s (s.phKeyed c p sg) :=
  (reads_phKey s p sg).trans (reads_updPh _ _ _ _)

theorem State.coresBut_phKeyed (s : State) (c p sg : Nat) : CoresBut c s (s.phKeyed c p sg) := by
  have hkey : (s.phKey p sg).1.cores = s.cores := by
    unfold phKey
    split <;> rfl
  refine CoresBut.trans (fun k _ => ?_) (coresBut_updPh (s.phKey p sg).1 c _)
  rw [State.core, hkey, State.core]

theorem exec_register_eq {s : State} {c : CoreId} {p d : Nat} (hc : CoreActs s c p) (ht : (s.core c).ph.taken ≠ some s.hall)
    (he : (s.part p).phu.enable = true) (hd : (s.core c).ph.entry < 4 * 2 ^ (s.part p).phu.bits)
    (hv : s.deValid p (s.dirAt p (s.core c).ph.entry) = true) (hk : s.deKind p (s.dirAt p (s.core c).ph.entry) = 0)
    (hg : (s.core c).ph.sg < (s.part p).phu.sgCount) (hsg : s.deSg p (s.dirAt p (s.core c).ph.entry) = (s.core c).ph.sg)
    (hp : s.dePins p (s.dirAt p (s.core c).ph.entry) < 65535)
    (hf : (s.findHandle p (s.core c).ph.sg (handleKey (s.phKey p (s.core c).ph.sg).2 (s.core c).ph.handle)
      (s.core c).ph.handle).isSome = false)
    (hw : s.freeWay p (handleKey (s.phKey p (s.core c).ph.sg).2 (s.core c).ph.handle) = some d) :
    exec (.register c) s = .next (((s.phKeyed c p (s.core c).ph.sg).pinHandle p (s.dirAt p d)
      (s.dirAt p (s.core c).ph.entry) (handleKey (s.phKey p (s.core c).ph.sg).2 (s.core c).ph.handle) (s.core c).ph.sg
      (s.deBlock p (s.dirAt p (s.core c).ph.entry)) (s.core c).ph.entry (s.core c).ph.handle
      (s.dePins p (s.dirAt p (s.core c).ph.entry))).phEnd c phOk) := by
  have hr : ¬ (4 * 2 ^ ((s.phTake c).part p).phu.bits ≤ (s.core c).ph.entry ∨
      ¬ (s.phTake c).deValid p ((s.phTake c).dirAt p (s.core c).ph.entry) = true ∨
      (s.phTake c).deKind p ((s.phTake c).dirAt p (s.core c).ph.entry) ≠ 0) :=
    fun h => h.elim (Nat.not_le.mpr hd) fun h => h.elim (not_not.mpr hv) (not_not.mpr hk)
  have hn : ¬ ((s.phTake c).part p).phu.sgCount ≤ (s.core c).ph.sg := Nat.not_le.mpr hg
  have hs : ¬ (s.phTake c).deSg p ((s.phTake c).dirAt p (s.core c).ph.entry) ≠ (s.core c).ph.sg := not_not.mpr hsg
  have h := reads_phKeyed s c p (s.core c).ph.sg
  show execRegister c s = _
  rw [execRegister, phCommand_of_accepts hc ht he fun h => absurd h Bool.false_ne_true]
  dsimp only
  rw [if_neg hn, if_neg hr, if_neg hs, phKey_phTake]
  dsimp only
  rw [h.findHandle, hf, if_neg Bool.false_ne_true, h.freeWay, hw]
  dsimp only
  rw [h.dePins, h.deBlock, h.dirAt]
  exact congrArg Host.Outcome.next (if_neg (Nat.not_le.mpr hp))

section
variable {s : State} {p h a : Nat} (key sg block entry handle pins : Nat)

theorem Within.pinHandle {t : State} (w : Within p s t) : Within p s (t.pinHandle p h a key sg block entry handle pins) :=
  .pWrLe w.putEntry

theorem State.coresBut_pinHandle (c : Nat) : CoresBut c s (s.pinHandle p h a key sg block entry handle pins) :=
  .trans (.trans (t := s.fresh) (fun _ _ => rfl) (.of_same (same_putMem _ _ _ _ _))) (.of_same (same_putMem _ _ _ _ _))

theorem State.memByte_pinHandle_out {b : Nat} (hh : b < h ∨ h + 64 ≤ b) (ha : b < a + 0x34 ∨ a + 0x38 ≤ b) :
    (s.pinHandle p h a key sg block entry handle pins).memByte b = s.memByte b := by
  rw [pinHandle, memByte_pWrLe_out ha, putEntry_eq, memByte_putMem_out (by rwa [length_dirEntryBytes])]
  rfl

theorem State.dePins_pinHandle (hm : s.mappedRange p a 64 = true) (hp : pins < 65535) :
    (s.pinHandle p h a key sg block entry handle pins).dePins p a = pins + 1 :=
  (pLe_pWrLe (((Within.refl p s).putEntry.mappedRange _ _ _).trans (mappedRange_sub hm (by omega) (by omega))) _).trans
    (Nat.mod_eq_of_lt (by norm_num; omega))

/-- The pin changes no field of the handle entry but, were it the same entry, PINS. -/
theorem State.pLe_pinHandle (hm : s.mappedRange p h 64 = true) (hd : h + 64 ≤ a ∨ a + 64 ≤ h) {o n : Nat} (hn : o + n ≤ 64) :
    (s.pinHandle p h a key sg block entry handle pins).pLe p (h + o) n =
      (s.putEntry p h key sg block 1 entry 0 handle).pLe p (h + o) n :=
  pLe_pWrLe_out (((Within.refl p s).putEntry.mappedRange _ _ _).trans (mappedRange_sub hm (by omega) (by omega))) (by omega)

/-- The entry that a REGISTER writes (R240). -/
theorem State.pinHandle_entry (hm : s.mappedRange p h 64 = true) (hd : h + 64 ≤ a ∨ a + 64 ≤ h) (hb : block < 0x1000000) :
    let t := s.pinHandle p h a key sg block entry handle pins
    t.deValid p h = true ∧ t.deKind p h = 1 ∧ t.dePrev p h = entry % 256 ^ 4 ∧ t.deBlock p h = block ∧
      t.deList p h = handle % 256 ^ 8 := by
  have hword : (s.pinHandle p h a key sg block entry handle pins).deWord p h =
      (s.putEntry p h key sg block 1 entry 0 handle).deWord p h := pLe_pinHandle _ _ _ _ _ _ hm hd (by decide)
  refine ⟨?_, ?_, ?_, ?_, ?_⟩
  · rw [deValid, hword, ← deValid, deValid_putEntry hb (by decide) hm]
  · rw [deKind, hword, ← deKind, deKind_putEntry hb (by decide) hm]
  · exact (pLe_pinHandle _ _ _ _ _ _ hm hd (by decide)).trans (dePrev_putEntry hm _ _ _ _ _ _ _)
  · rw [deBlock, hword, ← deBlock, deBlock_putEntry hb (by decide) hm]
  · exact (pLe_pinHandle _ _ _ _ _ _ hm hd (by decide)).trans (deList_putEntry hm _ _ _ _ _ _ _)

end

/-! ### Unmapped accesses logged (R392, R480 to R482) -/

section
variable {s t : State}

theorem OnlyLogged.trans {u : State} (h : OnlyLogged s t) (k : OnlyLogged t u) : OnlyLogged s u := by
  refine ⟨?_, fun q => (k.2 q).trans (by rw [h.2 q])⟩
  have h1 := h.1
  have k1 := k.1
  rw [h1] at k1
  exact k1

theorem OnlyLogged.refl (s : State) : OnlyLogged s s := ⟨rfl, fun _ => rfl⟩

theorem OnlyLogged.foldl {α : Type} {f : State → α → State} (h : ∀ s a, OnlyLogged s (f s a)) (l : List α) (s : State) :
    OnlyLogged s (l.foldl f s) := by
  induction l generalizing s with
  | nil => exact .refl s
  | cons a l ih => exact (h s a).trans (ih _)

theorem State.onlyLogged_setRing_raiseEv {s : State} {p n b : Nat} {l : List LogEntry} {f : Part → Part}
    (hf : f (s.part p) = (s.part p).setRing l n) : OnlyLogged s ((s.updPart p f).raiseEv p b) := by
  have hsig : Signals p s ((s.updPart p f).raiseEv p b) := .raiseEv <| .updPart <| .refl _ _
  obtain ⟨x, hx⟩ := exists_fn_raiseEv (s.updPart p f) p b
  rw [part_updPart_self, hf] at hx
  refine ⟨?_, fun q => ?_⟩
  · obtain ⟨P, O, hPO⟩ : ∃ P O, (s.updPart p f).raiseEv p b = { s with parts := P, outbox := O } := ⟨_, _, hsig.1⟩
    rw [hPO]
  · by_cases hq : q = p
    · rw [hq, hx]
      rfl
    · rw [hsig.2 q hq]

theorem State.onlyLogged_ringPut (s : State) (e : LogEntry) (p : Nat) : OnlyLogged s (s.ringPut e p) := by
  rw [ringPut_eq]
  exact onlyLogged_setRing_raiseEv rfl

theorem State.onlyLogged_log (s : State) (l : List LogEntry) (n : Nat) : OnlyLogged s { s with log := l, logSeq := n } :=
  ⟨rfl, fun _ => rfl⟩

theorem State.onlyLogged_logPut (s : State) (e : LogEntry) (l : List Nat) : OnlyLogged s (s.logPut e l) := by
  unfold logPut
  exact (onlyLogged_log s _ _).trans (.foldl (fun _ _ => onlyLogged_ringPut _ _ _) _ _)

theorem State.onlyLogged_joinWindow (s : State) (e : LogEntry) : OnlyLogged s (s.joinWindow e) :=
  .trans (.foldl (fun _ _ => onlyLogged_logPut _ _ _) _ s) ⟨rfl, fun _ => rfl⟩

theorem State.onlyLogged_logEv (s : State) (e : LogEntry) (l : List Nat) : OnlyLogged s (s.logEv e l) := by
  have hc (a b c : Nat) : OnlyLogged s (s.cinderInc a b c) := ⟨rfl, fun _ => rfl⟩
  unfold logEv
  dsimp only
  split
  · exact (hc _ _ _).trans (onlyLogged_joinWindow _ _)
  · exact (hc _ _ _).trans (onlyLogged_logPut _ _ _)

theorem State.onlyLogged_unmappedAll (s : State) (kind index p : Nat) (l : List Nat) :
    OnlyLogged s (s.unmappedAll kind index p l) := .foldl (fun _ _ => onlyLogged_logEv _ _ _) _ _

/-- A write of a partition's record beside its fault log ring and its function, before and after logging. -/
theorem OnlyLogged.updPart {p : Nat} {f : Part → Part} (h : OnlyLogged s t)
    (hf : ∀ P l n x, f { P with flLog := l, flHead := n, fn := x } =
      { f P with flLog := l, flHead := n, fn := x } := by exact fun _ _ _ _ => rfl) :
    OnlyLogged (s.updPart p f) (t.updPart p f) := by
  refine ⟨?_, fun q => ?_⟩
  · obtain ⟨P, a, b, c, d, o, ht⟩ : ∃ P a b c d o,
        t = { s with parts := P, cinder := a, coalesce := b, log := c, logSeq := d, outbox := o } := ⟨_, _, _, _, _, _, h.1⟩
    rw [ht]
    rfl
  · rw [part_updPart, part_updPart]
    split
    · rw [h.2 p, hf]
    · exact h.2 q

end

/-! ### PREFIX_ENABLE -/

/-- What a PREFIX_ENABLE requires of the directory and the share-group table (R242). -/
def State.prefixGood (s : State) (p : Nat) : Prop :=
  8 ≤ (s.part p).phu.bits ∧ (s.part p).phu.bits ≤ 22 ∧ s.nearRange p (s.part p).phu.base (2 ^ (s.part p).phu.bits * 256) = true ∧
    s.nearRange p (s.part p).phu.sgBase (64 * (s.part p).phu.sgCount) = true

section
variable {s : State} {p : PartId} (he : (s.part p).phu.enable = false)
include he

theorem exec_prefixEnable_of_good (hg : s.prefixGood p) : exec (.prefixEnable p) s =
    .next (s.updPhu p fun u => { u with enable := true, cfgBad := false }) := by
  show execPrefixEnable p s = _
  rw [execPrefixEnable, if_neg (by rw [he]; exact Bool.false_ne_true)]
  exact congrArg Host.Outcome.next (if_pos hg)

theorem exec_prefixEnable_of_bad (hg : ¬ s.prefixGood p) : exec (.prefixEnable p) s =
    .next ((s.unmappedAll kAssist p p (([((s.part p).phu.base, 2 ^ (s.part p).phu.bits * 256),
      ((s.part p).phu.sgBase, 64 * (s.part p).phu.sgCount)].filter fun r => !s.anyRange p r.1 r.2).map (·.1))).updPhu p
        fun u => { u with cfgBad := true }) := by
  show execPrefixEnable p s = _
  rw [execPrefixEnable, if_neg (by rw [he]; exact Bool.false_ne_true)]
  exact congrArg Host.Outcome.next (if_neg hg)

end

theorem exec_phSgInval_eq {s : State} {c : CoreId} {p : Nat} (hc : CoreActs s c p) (g : Fin 65536) :
    exec (.phSgInval c g) s = .next (s.updPhu p fun u => { u with keys := u.keys.filter fun e => e.1 ≠ g.val }) :=
  congrArg Host.Outcome.next (byCore_of_acts s c p _ hc)

/-! ### The obligation -/

/-- Entries of different indices lie apart. -/
theorem State.dirAt_disjoint (s : State) (p : Nat) {d e : Nat} (h : d ≠ e) :
    s.dirAt p d + 64 ≤ s.dirAt p e ∨ s.dirAt p e + 64 ≤ s.dirAt p d := by
  rw [dirAt_add, dirAt_add]
  omega

/-- Settles O31: what each command leaves, read back entry by entry. -/
theorem prefixDirectoryComesAndGoes : Obligations.PrefixDirectoryComesAndGoes := by
  unfold Obligations.PrefixDirectoryComesAndGoes
  refine ⟨fun s c p hc => ?_, fun s p => ⟨fun he => ⟨fun hg => ?_, fun hg => ?_⟩, fun c g hc => ?_⟩⟩
  · intro x u a ht he hbits hn hd hv
    have hx := exec_remove_eq hc ht he hd hv
    have ha : s.mappedRange p a 64 = true := mappedRange_dirAt hn hd
    refine ⟨fun hk hprev => ?_, fun hk hb => ?_, fun hk hch hp hl => ?_, fun hk hg hsg hp => ?_⟩
    · have hha : (s.phTake c).mappedRange p (s.dirAt p (s.dePrev p a)) 64 = true := mappedRange_dirAt (s := s) hn hprev
      rw [removeEntry_of_handle (s := s.phTake c) hk] at hx
      have hend := reads_phEnd ((s.phTake c).removeHandle p a) p c phOk
      refine ⟨_, hx, code_phEnd _ _ _, ?_, ?_, ?_, fun b h1 h2 => ?_, fun hne => ?_⟩
      · exact (hend.deValid a).trans (deValid_removeHandle (s := s.phTake c) ha)
      · exact .trans (coresBut_updPh _ _ _) (.trans (.of_same (same_removeHandle _ _ _)) (coresBut_updPh _ _ _))
      · exact same_removeHandle (s.phTake c) p a .parts (by decide)
      · exact (hend.memByte b).trans (memByte_removeHandle_out (s := s.phTake c) h1 h2)
      · exact (hend.dePins _).trans
          (dePins_removeHandle (s := s.phTake c) hha (dirAt_disjoint s p fun h => hne (congrArg _ h)))
    · rw [removeEntry_of_busy (s := s.phTake c) hk hb] at hx
      exact ⟨_, hx, onlyCore_phTake_phEnd s c phBusy⟩
    · rw [removeEntry_of_block (s := s.phTake c) hk hch hp hl] at hx
      have hw : Within p s (((s.phTake c).dropPages p a).dropChild p a) := .dropChild <| .dropPages (Within.refl p s).updPh
      have hm : (((s.phTake c).dropPages p a).dropChild p a).mappedRange p (a + 0x14) 4 = true :=
        (hw.mappedRange _ _ _).trans (mappedRange_sub ha (by omega) (by omega))
      refine ⟨_, hx, code_phEnd _ _ _, ?_, hw.emptyEntry.parts, hw.emptyEntry.tiles⟩
      exact ((reads_phEnd _ p c phOk).deValid a).trans (deValid_emptyEntry hm)
    · intro k key hf d hw
      have hx := exec_register_eq hc ht he hd hv hk hg hsg hp hf hw
      have hr := reads_phKeyed s c p x.sg
      obtain ⟨hlt, hfree⟩ := freeWay_spec hw
      have hne : d ≠ x.entry := by
        rintro rfl
        exact absurd (hfree.symm.trans hv) Bool.false_ne_true
      have hdm : (s.phKeyed c p x.sg).mappedRange p (s.dirAt p d) 64 = true :=
        (hr.mappedRange _ _ _).trans (mappedRange_dirAt hn hlt)
      have ham : (s.phKeyed c p x.sg).mappedRange p a 64 = true := (hr.mappedRange _ _ _).trans ha
      have hblock : s.deBlock p a < 0x1000000 := Nat.mod_lt _ (by norm_num)
      have hpow : 2 ^ u.bits ≤ 2 ^ 22 := Nat.pow_le_pow_right (by decide) hbits
      obtain ⟨hvalid, hkind, hprev, hblk, hlist⟩ := pinHandle_entry key x.sg (s.deBlock p a) x.entry x.handle (s.dePins p a) hdm
        (dirAt_disjoint s p hne) hblock
      have hend := reads_phEnd ((s.phKeyed c p x.sg).pinHandle p (s.dirAt p d) a key x.sg (s.deBlock p a) x.entry x.handle
        (s.dePins p a)) p c phOk
      refine ⟨_, hx, code_phEnd _ _ _, ?_, (hr.toWithin.pinHandle ..).updPh.parts, hne, (hend.deValid _).trans hvalid,
        (hend.deKind _).trans hkind, (hend.dePrev _).trans (hprev.trans (Nat.mod_eq_of_lt ?_)), (hend.deBlock _).trans hblk,
        (hend.deList _).trans (hlist.trans (by norm_num)), (hend.dePins _).trans (dePins_pinHandle _ _ _ _ _ _ ham hp),
        fun b h1 h2 => ?_⟩
      · exact .trans (coresBut_phKeyed _ _ _ _) (.trans (coresBut_pinHandle _ _ _ _ _ _ _) (coresBut_updPh _ _ _))
      · norm_num at hpow ⊢
        omega
      · exact (hend.memByte b).trans ((memByte_pinHandle_out _ _ _ _ _ _ h1 h2).trans (hr.memByte b))
  · exact ⟨_, exec_prefixEnable_of_good he hg, onlyPart_updPart _ _ _, part_updPart_self _ _ _⟩
  · exact ⟨_, exec_prefixEnable_of_bad he hg, (onlyLogged_unmappedAll s kAssist p p _).updPart⟩
  · exact ⟨_, exec_phSgInval_eq hc g, onlyPart_updPart _ _ _, part_updPart_self _ _ _⟩

end Sys2Proof.Machine
end

section
/-! PROOFS. LOOKUP of the hash unit, by tokens and by handle (O30). -/

namespace Sys2Proof.Machine

open State

/-! ### The end of a lookup -/

/-- A length of an STE is that of `n` blocks, the rest of its word as it was (R200). -/
def State.setLen (s : State) (p a n : Nat) : State := s.pWrLe p a 4 (s.pLe p a 4 / 2 ^ 24 * 2 ^ 24 + 64 * n % 2 ^ 24)

/-- SHARED_LEN, COMMITTED, TENTATIVE and CHAIN of an STE after a lookup of `n` blocks (R237). -/
def State.steLook (s : State) (p i n chain : Nat) : State :=
  (((s.setLen p (s.steAddr p i + 0x04) n).setLen p (s.steAddr p i + 0x08) n).setLen p (s.steAddr p i + 0x0C) n).pWrLe p
    (s.steAddr p i + 0x40) 16 chain

/-- The registers of a core after a lookup (R242). -/
def PhRegs.looked (x : PhRegs) (r : Look) : PhRegs :=
  { x with code := r.code, hit := r.hit, existing := 0, entry := r.entry, chain := BitVec.ofNat 128 r.chain }

theorem State.lookEnd_eq (s : State) (c p i : Nat) (r : Look) :
    s.lookEnd c p i r = (s.steLook p i r.hit r.chain).updPh c fun x => x.looked r := rfl

section
variable {s : State} {p a n : Nat}

theorem State.pLe_setLen (h : s.mappedRange p a 4 = true) : (s.setLen p a n).pLe p a 4 % 2 ^ 24 = 64 * n % 2 ^ 24 := by
  rw [setLen, pLe_pWrLe h]
  norm_num

theorem State.pLe_setLen_out {x m : Nat} (h : s.mappedRange p x m = true) (ho : x + m ≤ a ∨ a + 4 ≤ x) :
    (s.setLen p a n).pLe p x m = s.pLe p x m := pLe_pWrLe_out h ho

theorem State.mappedRange_setLen (x m : Nat) : (s.setLen p a n).mappedRange p x m = s.mappedRange p x m :=
  (Within.refl p s).pWrLe.mappedRange _ _ _

end

section
variable (s : State) (c p i : Nat) (r : Look)

theorem State.same_steLook (n chain : Nat) : Same memParts s (s.steLook p i n chain) :=
  .trans (.trans (.trans (same_putMem _ _ _ _ _) (same_putMem _ _ _ _ _)) (same_putMem _ _ _ _ _)) (same_putMem _ _ _ _ _)

theorem State.ph_lookEnd : ((s.lookEnd c p i r).core c).ph = (s.core c).ph.looked r := by
  rw [lookEnd_eq, ph_updPh_self, (same_steLook s p i r.hit r.chain).core (by decide)]

theorem State.part_lookEnd (q : Nat) : (s.lookEnd c p i r).part q = s.part q :=
  (same_steLook s p i r.hit r.chain).part (t := s.steLook p i r.hit r.chain) (by decide) q

theorem State.coresBut_lookEnd : CoresBut c s (s.lookEnd c p i r) :=
  .trans (.of_same (same_steLook _ _ _ _ _)) (coresBut_updPh _ _ _)

theorem Within.lookEnd {t u : State} (h : Within p u t) : Within p u (t.lookEnd c p i r) :=
  (h.trans (.of_same (same_steLook t p i r.hit r.chain))).updPh (f := fun x => x.looked r)

theorem State.memByte_lookEnd_out {b : Nat} (h : b < s.steAddr p i + 4 ∨ s.steAddr p i + 0x50 ≤ b) :
    (s.lookEnd c p i r).memByte b = s.memByte b := by
  have hmem : (s.lookEnd c p i r).memByte b = (s.steLook p i r.hit r.chain).memByte b := (reads_updPh _ p c _).memByte b
  rw [hmem, steLook, memByte_pWrLe_out (by omega), setLen, memByte_pWrLe_out (by omega), setLen, memByte_pWrLe_out (by omega),
    setLen, memByte_pWrLe_out (by omega)]

variable (h : s.steMapped p i = true)
include h

/-- A field of the STE lies in memory of the partition. -/
theorem State.mappedRange_ste {o n : Nat} (ho : o + n ≤ 128) : s.mappedRange p (s.steAddr p i + o) n = true :=
  mappedRange_sub h (by omega) (by omega)

theorem State.steCommitted_lookEnd : (s.lookEnd c p i r).steCommitted p i = 64 * r.hit % 2 ^ 24 := by
  have hm4 := mappedRange_ste s p i h (o := 4) (n := 4) (by decide)
  have hread : (s.lookEnd c p i r).pLe p (s.steAddr p i + 4) 4 = (s.setLen p (s.steAddr p i + 4) r.hit).pLe p (s.steAddr p i + 4) 4 := by
    rw [lookEnd_eq, (reads_updPh _ p c _).pLe, steLook, pLe_pWrLe_out (by simpa only [mappedRange_setLen] using hm4) (by omega),
      pLe_setLen_out (by simpa only [mappedRange_setLen] using hm4) (by omega),
      pLe_setLen_out (by simpa only [mappedRange_setLen] using hm4) (by omega)]
  rw [steCommitted, ((Within.refl p s).lookEnd c p i r).steAddr, hread, pLe_setLen hm4]

theorem State.steTentative_lookEnd : (s.lookEnd c p i r).steTentative p i = 64 * r.hit % 2 ^ 24 := by
  have hm8 := mappedRange_ste s p i h (o := 8) (n := 4) (by decide)
  have hread : (s.lookEnd c p i r).pLe p (s.steAddr p i + 8) 4 =
      ((s.setLen p (s.steAddr p i + 4) r.hit).setLen p (s.steAddr p i + 8) r.hit).pLe p (s.steAddr p i + 8) 4 := by
    rw [lookEnd_eq, (reads_updPh _ p c _).pLe, steLook, pLe_pWrLe_out (by simpa only [mappedRange_setLen] using hm8) (by omega),
      pLe_setLen_out (by simpa only [mappedRange_setLen] using hm8) (by omega)]
  rw [steTentative, ((Within.refl p s).lookEnd c p i r).steAddr, hread, pLe_setLen (by rwa [mappedRange_setLen])]

theorem State.chain_lookEnd : (s.lookEnd c p i r).memLe (s.steAddr p i + 0x40) 16 = r.chain % 256 ^ 16 := by
  have hm := mappedRange_ste s p i h (o := 0x40) (n := 16) (by decide)
  rw [lookEnd_eq, memLe, (reads_updPh _ p c _).memBytes, ← memLe, steLook, memLe_pWrLe (by simpa only [mappedRange_setLen] using hm)]

end

/-! ### The blocks of a lookup -/

section
variable {s : State} {p sg i tok j key n : Nat} {k : BitVec 256} {r : Look} {t : List Byte} (hr : s.anyRange p tok 256 = true)
  (ht : s.pBytes p tok 256 = t) (hkey : chainOf k r.chain t = key)
include hr ht hkey

/-- No candidate confirms: the lookup ends with the blocks before (R237). -/
theorem State.lookBlocks_of_miss (m : Nat) (hz : s.firstGood p sg key j t r.entry = (none, n)) :
    s.lookBlocks p sg i k (m + 1) j tok r = (s.confirmFails p n, r) := by
  subst ht hkey
  rw [lookBlocks, if_neg (not_not.mpr hr)]
  dsimp only
  rw [hz]

/-- The last block, confirmed and with room for one more reference on each page (R237, R241). -/
theorem State.lookBlocks_of_hit {d : Nat} (hz : s.firstGood p sg key j t r.entry = (some d, n))
    (hf : s.blockFull p (s.dirAt p d) (s.steLayers p i) = false) : s.lookBlocks p sg i k 1 j tok r =
      ((s.confirmFails p n).mapBlock p i (s.dirAt p d) j, { r with hit := j + 1, chain := key, entry := d }) := by
  have h := reads_confirmFails s p n
  subst ht hkey
  rw [lookBlocks, if_neg (not_not.mpr hr)]
  dsimp only
  rw [hz]
  dsimp only
  rw [h.blockFull, h.dirAt, h.steLayers, hf, if_neg Bool.false_ne_true]
  rfl

end

/-! ### The chain of a handle -/

/-- The blocks of a chain mapped, head first, and the hit of its handle entry counted (R238). -/
def State.mapChain (s : State) (p i a : Nat) (ds : List Nat) : State :=
  let s := ds.foldl (fun s d => s.mapBlock p i (s.dirAt p d) (s.deBlock p (s.dirAt p d))) s
  (s.pWrLe p (a + 0x30) 4 (satInc 32 (s.pLe p (a + 0x30) 4))).pWrLe p (a + 0x28) 8 s.hall

/-- Where a lookup stands that has mapped a chain (R238). -/
def State.chainLook (s : State) (p : Nat) (ds : List Nat) : Look :=
  match ds with
  | [] => {}
  | d :: _ => { hit := ds.length, chain := s.deKey p (s.dirAt p d), entry := d }

/-- The blocks `ds` of a chain that ends at block `b`, whose handle entry is at `a`, mapped whole or not at all (R238). -/
def State.lookChain (s : State) (c p : Nat) (x : PhRegs) (k : BitVec 256) (a b : Nat) (ds : List Nat) : State :=
  if ds.any fun d => s.blockFull p (s.dirAt p d) (s.steLayers p x.ste) then s.lookEnd c p x.ste { code := phSaturated }
  else if x.blocks ≤ b then (s.mapChain p x.ste a ds).lookEnd c p x.ste ((s.mapChain p x.ste a ds).chainLook p ds)
  else
    let z := ((s.mapChain p x.ste a ds).updPh c fun y => { y with first := b + 1 }).lookBlocks p x.sg x.ste k
      (x.blocks - (b + 1)) (b + 1) x.tokens ((s.mapChain p x.ste a ds).chainLook p ds)
    z.1.lookEnd c p x.ste z.2

/-- LOOKUP with USE_HANDLE that was accepted (R238). -/
def State.lookHandle (s : State) (c p : Nat) (x : PhRegs) (k : BitVec 256) : State :=
  match s.findHandle p x.sg (handleKey k x.handle) x.handle with
  | none => s.lookEnd c p x.ste { code := phHandle }
  | some h =>
    match s.walkChain p x.sg x.blocks (s.deBlock p (s.dirAt p h)) (s.dePrev p (s.dirAt p h)) with
    | none => s.lookEnd c p x.ste { code := phHandle }
    | some ch => s.lookChain c p x k (s.dirAt p h) (s.deBlock p (s.dirAt p h)) (ch.drop (s.deBlock p (s.dirAt p h) + 1 - x.blocks))

theorem Within.mapChain {p i a : Nat} {s t : State} {ds : List Nat} (h : Within p s t) : Within p s (t.mapChain p i a ds) :=
  .pWrLe <| .pWrLe <| h.foldl (·.mapBlock)

section
variable {s : State} {c p : Nat} {x : PhRegs} {k : BitVec 256}

theorem State.lookHandle_of_none (h : s.findHandle p x.sg (handleKey k x.handle) x.handle = none) :
    s.lookHandle c p x k = s.lookEnd c p x.ste { code := phHandle } := by
  rw [lookHandle, h]

theorem State.lookHandle_of_some {h : Nat} {ch : List Nat} (hf : s.findHandle p x.sg (handleKey k x.handle) x.handle = some h)
    (hw : s.walkChain p x.sg x.blocks (s.deBlock p (s.dirAt p h)) (s.dePrev p (s.dirAt p h)) = some ch) :
    s.lookHandle c p x k =
      s.lookChain c p x k (s.dirAt p h) (s.deBlock p (s.dirAt p h)) (ch.drop (s.deBlock p (s.dirAt p h) + 1 - x.blocks)) := by
  rw [lookHandle, hf]
  dsimp only
  rw [hw]

/-- A chain that covers the blocks asked for is mapped whole, and no block is hashed (R238). -/
theorem State.lookChain_of_covers {a b d : Nat} {r : List Nat} (hn : x.blocks ≤ b + 1)
    (hf : ((d :: r).any fun d => s.blockFull p (s.dirAt p d) (s.steLayers p x.ste)) = false) : ∃ w n,
      s.lookChain c p x k a b (d :: r) = State.lookEnd w c p x.ste { hit := r.length + 1, chain := n, entry := d } ∧ Within p s w := by
  rw [lookChain, hf, if_neg Bool.false_ne_true]
  by_cases hb : x.blocks ≤ b
  · exact ⟨_, _, if_pos hb, (Within.refl p s).mapChain⟩
  · have h0 : x.blocks - (b + 1) = 0 := by omega
    rw [if_neg hb, h0]
    dsimp only
    rw [lookBlocks]
    have hw : Within p s ((s.mapChain p x.ste a (d :: r)).updPh c fun y => { y with first := b + 1 }) :=
      (Within.refl p s).mapChain.updPh
    exact ⟨_, _, rfl, hw⟩

end

/-! ### LOOKUP -/

theorem State.lookRefuse_phTake (s : State) (c p sg i n : Nat) : (s.phTake c).lookRefuse p sg i n = s.lookRefuse p sg i n := rfl

section
variable {s : State} {c : CoreId} {p : Nat} (hc : CoreActs s c p) (ht : (s.core c).ph.taken ≠ some s.hall)
  (he : (s.part p).phu.enable = true) (hm : s.steMapped p (s.core c).ph.ste = true)
include hc ht he hm

theorem exec_lookup_of_refused
    (h : s.lookRefuse p (s.core c).ph.sg (s.core c).ph.ste (s.core c).ph.blocks ≠ phOk) : exec (.lookup c) s =
      .next ((s.phTake c).phEnd c (s.lookRefuse p (s.core c).ph.sg (s.core c).ph.ste (s.core c).ph.blocks)) := by
  show execLookup c s = _
  rw [execLookup, phCommand_of_accepts hc ht he fun _ => hm]
  dsimp only
  rw [lookRefuse_phTake, if_pos h]

theorem exec_lookupHandle_of_refused
    (h : s.lookRefuse p (s.core c).ph.sg (s.core c).ph.ste (s.core c).ph.blocks ≠ phOk) : exec (.lookupHandle c) s =
      .next ((s.phTake c).phEnd c (s.lookRefuse p (s.core c).ph.sg (s.core c).ph.ste (s.core c).ph.blocks)) := by
  show execLookupHandle c s = _
  rw [execLookupHandle, phCommand_of_accepts hc ht he fun _ => hm]
  dsimp only
  rw [lookRefuse_phTake, if_pos h]

variable (hl : s.lookRefuse p (s.core c).ph.sg (s.core c).ph.ste (s.core c).ph.blocks = phOk)
  (hg : s.tableGaps p (s.stePdir p (s.core c).ph.ste) ((s.core c).ph.blocks * s.steLayers p (s.core c).ph.ste) = [])
include hl hg

theorem exec_lookup_eq {w : State} {r : Look} {n : Nat} (hn : (s.core c).ph.blocks = n)
    (hz : (s.phKeyed c p (s.core c).ph.sg).lookBlocks p (s.core c).ph.sg (s.core c).ph.ste
    (s.phKey p (s.core c).ph.sg).2 n 0 (s.core c).ph.tokens {} = (w, r)) :
    exec (.lookup c) s = .next (w.lookEnd c p (s.core c).ph.ste r) := by
  have h := reads_phTake s p c
  show execLookup c s = _
  rw [execLookup, phCommand_of_accepts hc ht he fun _ => hm]
  dsimp only
  rw [lookRefuse_phTake, if_neg (not_not.mpr hl), h.tableGaps, h.stePdir, h.steLayers, hg, phReach, phKey_phTake, hn, hz]

theorem exec_lookupHandle_eq : exec (.lookupHandle c) s =
    .next ((s.phKeyed c p (s.core c).ph.sg).lookHandle c p (s.core c).ph (s.phKey p (s.core c).ph.sg).2) := by
  have h := reads_phTake s p c
  show execLookupHandle c s = _
  rw [execLookupHandle, phCommand_of_accepts hc ht he fun _ => hm]
  dsimp only
  rw [lookRefuse_phTake, if_neg (not_not.mpr hl), h.tableGaps, h.stePdir, h.steLayers, hg, phReach, phKey_phTake]
  rfl

end

end Sys2Proof.Machine
end

section
/-! PROOFS. INSERT of one block whose pages no other sequence shares (O30). -/

namespace Sys2Proof.Machine

open State

/-! ### A block entered -/

/-- The pages of block `j` of a sequence become SHARED and go to the list of its entry (R239 step 3). -/
def State.sharePages (s : State) (p i j plist : Nat) : State :=
  (s.blockPtes p i j).zipIdx.foldl (fun s e => match e.1 with
    | none => s
    | some a =>
      let h := s.pteHandle p a
      let s := s.setPage p h { st := .shared, refs := ((s.part p).alloc.page h).refs + 1 }
      (s.pWrLe p a 1 (s.pLe p a 1 + 8)).putMem p (plist + 4 * e.2) (leBytes 4 h)) s

theorem Within.sharePages {p i j plist : Nat} {s t : State} (h : Within p s t) : Within p s (t.sharePages p i j plist) := by
  refine .foldl h fun h => ?_
  split
  · exact h
  · exact .putMem <| .pWrLe h.setPage

/-- Block 0 has no parent whose children to count (R239). -/
theorem State.enterBlock_zero (s : State) (p sg i key prev d plist : Nat) : ∃ nl,
    s.enterBlock p sg i 0 key prev d plist =
      (s.sharePages p i 0 plist).putEntry p ((s.sharePages p i 0 plist).dirAt p d) key sg 0 0 prev nl plist := ⟨_, rfl⟩

section
variable {s : State} {p sg i e key d plist : Nat} {k : BitVec 256} {t : List Byte}

/-- A block of unshared pages that no entry confirms is entered in a free way (R239). -/
theorem State.insBlocks_of_private (he : (s.blockPtes p i 0).headD none = some e) (hl : s.pteLoc p e = 1)
    (ho : s.handleOk p (s.pteHandle p e) = true) (ht : s.memBytes (s.hdrAddr p (s.pteHandle p e) + 0x40) 256 = t)
    (hk : chainOf k 0 t = key) (hz : (s.firstGood p sg key 0 t noEntry).1 = none)
    (hr : s.anyRange p plist (4 * s.steLayers p i) = true) (hb : s.blockPrivate p i 0 = true) (hw : s.freeWay p key = some d) :
    s.insBlocks p sg i k 1 0 plist {} =
      (((s.confirmFails p (s.firstGood p sg key 0 t noEntry).2).putChain p i 0 key).enterBlock p sg i 0 key noEntry d plist,
        { entered := 1, chain := key, wrote := true, entry := d }) := by
  have h := reads_confirmFails s p (s.firstGood p sg key 0 t noEntry).2
  subst ht
  subst hk
  rw [insBlocks, he]
  dsimp only
  rw [if_pos ⟨hl, ho⟩]
  dsimp only
  rw [hz, Option.isSome_none, if_neg Bool.false_ne_true, h.anyRange, if_neg (not_not.mpr hr), h.blockPrivate,
    if_neg (not_not.mpr hb), h.freeWay, hw]
  rfl

end

/-! ### INSERT -/

/-- The registers of a core after an INSERT that entered one block (R242). -/
def PhRegs.entered (x : PhRegs) (key d : Nat) : PhRegs :=
  { x with code := phOk, hit := 1, existing := 0, entry := d, chain := BitVec.ofNat 128 key }

section
variable {s : State} {c : CoreId} {p : Nat} (hc : CoreActs s c p) (ht : (s.core c).ph.taken ≠ some s.hall)
  (he : (s.part p).phu.enable = true) (hm : s.steMapped p (s.core c).ph.ste = true)
  (hsg : (s.core c).ph.sg < (s.part p).phu.sgCount)
  (hst : s.steState p (s.core c).ph.ste = 2 ∨ s.steState p (s.core c).ph.ste = 3)
  (hcom : 64 ≤ s.steCommitted p (s.core c).ph.ste) (h0 : (s.core c).ph.first = 0) (h1 : (s.core c).ph.blocks = 1)
  (hg : s.tableGaps p (s.stePdir p (s.core c).ph.ste) (s.steLayers p (s.core c).ph.ste) = [])
include hc ht he hm hsg hst hcom h0 h1 hg

/-- An INSERT of one block, block 0, that enters it. -/
theorem exec_insert_of_entered {w : State} {key d : Nat}
    (hw : (s.phKeyed c p (s.core c).ph.sg).insBlocks p (s.core c).ph.sg (s.core c).ph.ste (s.phKey p (s.core c).ph.sg).2 1 0
      (s.core c).ph.plist {} = (w, { entered := 1, chain := key, wrote := true, entry := d })) :
    exec (.insert c) s = .next (w.updPh c fun x => x.entered key d) := by
  have h := reads_phTake s p c
  have hn : ¬ ((s.phTake c).part p).phu.sgCount ≤ (s.core c).ph.sg := Nat.not_le.mpr hsg
  have hs : ¬ ((s.phTake c).steState p (s.core c).ph.ste ≠ steActive ∧ (s.phTake c).steState p (s.core c).ph.ste ≠ stePaused) :=
    fun k => hst.elim k.1 k.2
  have hl : ¬ (s.phTake c).steCommitted p (s.core c).ph.ste < 64 * (0 + 1) := Nat.not_lt.mpr hcom
  show execInsert c s = _
  rw [execInsert, phCommand_of_accepts hc ht he fun _ => hm]
  dsimp only
  rw [if_neg hn, if_neg hs, h0, h1, if_neg hl, h.tableGaps, h.stePdir, h.steLayers, Nat.zero_add, Nat.one_mul, hg, phReach,
    if_pos rfl]
  dsimp only
  rw [phKey_phTake, hw]
  rfl

end

/-! ### What the search of the directory reads -/

section
variable {p : Nat} {s t : State} (h : Reads p s t)
include h

theorem Reads.memLe (a n : Nat) : t.memLe a n = s.memLe a n := by rw [State.memLe, h.memBytes, State.memLe]

theorem Reads.deKey (a : Nat) : t.deKey p a = s.deKey p a := h.pLe _ _

theorem Reads.deHandle (a l : Nat) : t.deHandle p a l = s.deHandle p a l := by
  rw [State.deHandle, h.deList, h.pLe, State.deHandle]

theorem Reads.candidates (sg key j : Nat) : t.candidates p sg key j = s.candidates p sg key j := by
  simp only [State.candidates, h.bucket, h.dirAt, h.deValid, h.deKind, h.deKey, h.deSg, h.deBlock]

variable {sg : Nat} (hg : t.sgAddr p sg = s.sgAddr p sg)
include hg

theorem Reads.headerOk (a j : Nat) : t.headerOk p sg a j = s.headerOk p sg a j := by
  simp only [State.headerOk, h.deHandle, h.memLe, h.hdrAddr, h.handleOk, hg]

theorem Reads.confirm (d j : Nat) (tok : List Byte) (prev : Nat) : t.confirm p sg d j tok prev = s.confirm p sg d j tok prev := by
  simp only [State.confirm, h.headerOk hg, h.deHandle, h.dirAt, h.hdrAddr, h.dePrev, h.memBytes]

theorem Reads.firstGood (key j : Nat) (tok : List Byte) (prev : Nat) :
    t.firstGood p sg key j tok prev = s.firstGood p sg key j tok prev := by
  simp only [State.firstGood, h.candidates, h.confirm hg]

theorem Reads.walkChain (n j d : Nat) : t.walkChain p sg n j d = s.walkChain p sg n j d := by
  induction j generalizing d with
  | zero => simp only [State.walkChain, h.headerOk hg, h.bits, h.dirAt, h.deValid, h.deKind, h.deSg, h.deBlock]
  | succ j ih => simp only [State.walkChain, h.headerOk hg, h.bits, h.dirAt, h.deValid, h.deKind, h.deSg, h.deBlock, h.dePrev, ih]

end

end Sys2Proof.Machine
end

section
/-! PROOFS. The clauses of LOOKUP, LOOKUP with USE_HANDLE and INSERT, and the obligation (O30). -/

namespace Sys2Proof.Machine

open State

/-! ### A command of the unit refused (R242) -/

section
variable {s : State} {c : CoreId} {p : Nat}

/-- The five instructions that are commands of the unit. -/
theorem exec_of_phCommand {i : Instr} (h : i = .lookup c ∨ i = .lookupHandle c ∨ i = .insert c ∨ i = .remove c ∨ i = .register c) :
    ∃ needs f, exec i s = .next (s.phCommand c needs f) := by
  obtain rfl | rfl | rfl | rfl | rfl := h
  all_goals exact ⟨_, _, rfl⟩

variable {i : Instr} (h : i = .lookup c ∨ i = .lookupHandle c ∨ i = .insert c ∨ i = .remove c ∨ i = .register c)
  (hc : CoreActs s c p)
include h hc

theorem exec_phCommand_of_busy (ht : (s.core c).ph.taken = some s.hall) : exec i s = .next (s.coreFence c) := by
  obtain ⟨needs, f, hx⟩ := exec_of_phCommand (s := s) h
  rw [hx, phCommand_of_busy hc ht]

theorem exec_phCommand_of_disabled (ht : (s.core c).ph.taken ≠ some s.hall) (he : (s.part p).phu.enable = false) :
    exec i s = .next (s.phEnd c phDisabled) := by
  obtain ⟨needs, f, hx⟩ := exec_of_phCommand (s := s) h
  rw [hx, phCommand_of_disabled hc ht he]

end

/-! ### Fields of the hash unit -/

theorem State.confirmFail_phKeyed (s : State) (c p sg : Nat) :
    ((s.phKeyed c p sg).part p).phu.confirmFail = (s.part p).phu.confirmFail := by
  show ((s.phKey p sg).1.part p).phu.confirmFail = _
  unfold phKey
  split
  · rfl
  · exact congrArg (fun P => P.phu.confirmFail) (part_updPart_self _ _ _)

theorem State.confirmFail_confirmFails (s : State) (p n : Nat) :
    ((s.confirmFails p n).part p).phu.confirmFail = min (2 ^ 32 - 1) ((s.part p).phu.confirmFail + n) :=
  congrArg (fun P => P.phu.confirmFail) (part_updPart_self _ _ _)

/-- The registers that a lookup leaves, once it ran on a state in which the STE lies where it lay. -/
theorem Within.steCommitted_lookEnd {s w : State} {c p i : Nat} (h : Within p s w) (hm : s.steMapped p i = true) (r : Look) :
    (w.lookEnd c p i r).steCommitted p i = 64 * r.hit % 2 ^ 24 :=
  State.steCommitted_lookEnd w c p i r ((h.steMapped i).trans hm)

/-- What a lookup leaves that mapped no block (R237, R238). -/
theorem Reads.lookEnd_of_none {s w : State} {c p i : Nat} (h : Reads p s w) (hcores : CoresBut c s w)
    (hm : s.steMapped p i = true) (r : Look) (hr : r.hit = 0) : let t := w.lookEnd c p i r
    CoresBut c s t ∧ (t.part p).alloc = (s.part p).alloc ∧ PartsBut p s t ∧ t.steCommitted p i = 0 ∧
      ∀ a, a < s.steAddr p i + 4 ∨ s.steAddr p i + 0x50 ≤ a → t.memByte a = s.memByte a := by
  refine ⟨hcores.trans (coresBut_lookEnd w c p i r), ?_, (h.toWithin.lookEnd c p i r).parts, ?_, fun a ha => ?_⟩
  · rw [part_lookEnd, h.alloc]
  · rw [h.toWithin.steCommitted_lookEnd hm, hr, Nat.mul_zero, Nat.zero_mod]
  · rw [← h.steAddr] at ha
    exact (memByte_lookEnd_out w c p i r ha).trans (h.memByte a)

/-- What a LOOKUP leaves whose first block no candidate confirms, `n` having failed (R237). -/
theorem State.lookEnd_missed (s : State) (c : CoreId) (p sg i n : Nat) (hm : s.steMapped p i = true) :
    let t := ((s.phKeyed c p sg).confirmFails p n).lookEnd c p i {}
    CoresBut c s t ∧ (t.core c).ph.code = 0 ∧ (t.core c).ph.hit = 0 ∧ (t.core c).ph.entry = noEntry ∧
      (t.part p).phu.confirmFail = min (2 ^ 32 - 1) ((s.part p).phu.confirmFail + n) ∧
      (t.part p).alloc = (s.part p).alloc ∧ PartsBut p s t ∧ t.steCommitted p i = 0 ∧
      ∀ a, a < s.steAddr p i + 4 ∨ s.steAddr p i + 0x50 ≤ a → t.memByte a = s.memByte a := by
  have h : Reads p s ((s.phKeyed c p sg).confirmFails p n) := (reads_phKeyed s c p sg).trans (reads_confirmFails _ _ _)
  have hcores : CoresBut c s ((s.phKeyed c p sg).confirmFails p n) := coresBut_phKeyed s c p sg
  have hph := ph_lookEnd ((s.phKeyed c p sg).confirmFails p n) c p i {}
  obtain ⟨hcore, hrest⟩ := h.lookEnd_of_none hcores hm {} rfl
  refine ⟨hcore, congrArg PhRegs.code hph, congrArg PhRegs.hit hph, congrArg PhRegs.entry hph, ?_, hrest⟩
  rw [part_lookEnd, confirmFail_confirmFails, confirmFail_phKeyed]

/-- What a LOOKUP leaves that mapped block 0 (R237). -/
theorem Within.lookEnd_mapped {s w : State} {c : CoreId} {p i key d : Nat} (h : Within p s w) (hm : s.steMapped p i = true) :
    let t := w.lookEnd c p i { hit := 1, chain := key, entry := d }
    (t.core c).ph.code = 0 ∧ (t.core c).ph.hit = 1 ∧ (t.core c).ph.entry = d ∧ (t.core c).ph.chain.toNat = key % 2 ^ 128 ∧
      t.steCommitted p i = 64 ∧ t.steTentative p i = 64 ∧ t.memLe (s.steAddr p i + 0x40) 16 = key % 2 ^ 128 ∧
      PartsBut p s t ∧ t.tiles = s.tiles := by
  have hph := ph_lookEnd w c p i { hit := 1, chain := key, entry := d }
  have hmw := (h.steMapped i).trans hm
  have hin := h.lookEnd c p i { hit := 1, chain := key, entry := d }
  have hpow : 256 ^ 16 = 2 ^ 128 := by norm_num
  refine ⟨congrArg PhRegs.code hph, congrArg PhRegs.hit hph, congrArg PhRegs.entry hph,
    (congrArg (fun x => x.chain.toNat) hph).trans (BitVec.toNat_ofNat _ _), State.steCommitted_lookEnd w c p i _ hmw,
    steTentative_lookEnd w c p i _ hmw, ?_, hin.parts, hin.tiles⟩
  rw [← h.steAddr, chain_lookEnd w c p i _ hmw, hpow]

/-- The entry that an INSERT of block 0 writes (R239). -/
theorem Within.putEntry_entry {s u : State} {p d key sg prev nl list : Nat} (h : Within p s u)
    (hm : s.mappedRange p (s.dirAt p d) 64 = true) (hk : key < 256 ^ 16) :
    (u.putEntry p (u.dirAt p d) key sg 0 0 prev nl list).deValid p (s.dirAt p d) = true ∧
      (u.putEntry p (u.dirAt p d) key sg 0 0 prev nl list).deKey p (s.dirAt p d) = key ∧
      (u.putEntry p (u.dirAt p d) key sg 0 0 prev nl list).deKind p (s.dirAt p d) = 0 := by
  rw [h.dirAt]
  rw [← h.mappedRange] at hm
  exact ⟨deValid_putEntry (by decide) (by decide) hm _ _ _ _ _, (deKey_putEntry hm _ _ _ _ _ _ _).trans (Nat.mod_eq_of_lt hk),
    deKind_putEntry (by decide) (by decide) hm _ _ _ _ _⟩

/-- The answer of an INSERT of block 0 beside the entry that it wrote (R242). -/
theorem Within.updPh_entered {s v : State} {c : CoreId} {p d key : Nat} (h : Within p s v)
    (hv : v.deValid p (s.dirAt p d) = true ∧ v.deKey p (s.dirAt p d) = key ∧ v.deKind p (s.dirAt p d) = 0) :
    let t := v.updPh c fun x => x.entered key d
    (t.core c).ph.code = 0 ∧ (t.core c).ph.hit = 1 ∧ (t.core c).ph.existing = 0 ∧ (t.core c).ph.entry = d ∧
      t.deValid p (t.dirAt p d) = true ∧ t.deKey p (t.dirAt p d) = key ∧ t.deKind p (t.dirAt p d) = 0 ∧ PartsBut p s t := by
  have ht := reads_updPh v p c fun x => x.entered key d
  have hph := ph_updPh_self v c fun x => x.entered key d
  obtain ⟨hvalid, hkey, hkind⟩ := hv
  rw [← h.dirAt, ← ht.dirAt] at hvalid hkey hkind
  exact ⟨congrArg PhRegs.code hph, congrArg PhRegs.hit hph, congrArg PhRegs.existing hph, congrArg PhRegs.entry hph,
    (ht.deValid _).trans hvalid, (ht.deKey _).trans hkey, (ht.deKind _).trans hkind, h.updPh.parts⟩

theorem chainOf_lt (k : BitVec 256) (prev : Nat) (t : List Byte) : chainOf k prev t < 256 ^ 16 :=
  (Nat.mod_lt _ (Nat.two_pow_pos _)).trans_eq (by norm_num)

/-! ### The clauses -/

section
variable {s : State} {c : CoreId} {p : Nat} (hc : CoreActs s c p) (ht : (s.core c).ph.taken ≠ some s.hall)
  (he : (s.part p).phu.enable = true) (hm : s.steMapped p (s.core c).ph.ste = true)
include hc ht he hm

section
variable (hl : s.lookRefuse p (s.core c).ph.sg (s.core c).ph.ste (s.core c).ph.blocks = 0)
  (hg : s.tableGaps p (s.stePdir p (s.core c).ph.ste) ((s.core c).ph.blocks * s.steLayers p (s.core c).ph.ste) = [])
include hl hg

section
variable {key n : Nat} (hr : s.anyRange p (s.core c).ph.tokens 256 = true)
  (hkey : chainOf (s.phKey p (s.core c).ph.sg).2 0 (s.pBytes p (s.core c).ph.tokens 256) = key)
include hr hkey

/-- The first block finds no entry (R237). -/
theorem exec_lookup_of_miss (hn : 0 < (s.core c).ph.blocks)
    (hz : (s.phKey p (s.core c).ph.sg).1.firstGood p (s.core c).ph.sg key 0 (s.pBytes p (s.core c).ph.tokens 256) noEntry =
      (none, n)) : exec (.lookup c) s =
    .next (((s.phKeyed c p (s.core c).ph.sg).confirmFails p n).lookEnd c p (s.core c).ph.ste {}) := by
  have h := reads_phKeyed s c p (s.core c).ph.sg
  have hk : Reads p (s.phKey p (s.core c).ph.sg).1 (s.phKeyed c p (s.core c).ph.sg) := reads_updPh _ _ _ _
  have hb := lookBlocks_of_miss (i := (s.core c).ph.ste) (r := {}) ((h.anyRange _ _).trans hr) (h.pBytes _ _) hkey
    ((s.core c).ph.blocks - 1) ((hk.firstGood rfl _ _ _ _).trans hz)
  exact exec_lookup_eq hc ht he hm hl hg (Nat.sub_add_cancel hn).symm hb

/-- The one block asked for is confirmed by entry `d` (R237). -/
theorem exec_lookup_of_hit {d : Nat} (hn : (s.core c).ph.blocks = 1)
    (hz : (s.phKey p (s.core c).ph.sg).1.firstGood p (s.core c).ph.sg key 0 (s.pBytes p (s.core c).ph.tokens 256) noEntry =
      (some d, n))
    (hf : (s.phKey p (s.core c).ph.sg).1.blockFull p ((s.phKey p (s.core c).ph.sg).1.dirAt p d)
      (s.steLayers p (s.core c).ph.ste) = false) :
    ∃ w, exec (.lookup c) s = .next (State.lookEnd w c p (s.core c).ph.ste { hit := 1, chain := key, entry := d }) ∧ Within p s w := by
  have h := reads_phKeyed s c p (s.core c).ph.sg
  have hk : Reads p (s.phKey p (s.core c).ph.sg).1 (s.phKeyed c p (s.core c).ph.sg) := reads_updPh _ _ _ _
  rw [← hk.blockFull, ← hk.dirAt, ← h.steLayers] at hf
  have hb := lookBlocks_of_hit (i := (s.core c).ph.ste) (r := {}) ((h.anyRange _ _).trans hr) (h.pBytes _ _) hkey
    ((hk.firstGood rfl _ _ _ _).trans hz) hf
  exact ⟨_, exec_lookup_eq hc ht he hm hl hg hn hb, h.toWithin.confirmFails.mapBlock⟩

end

/-- The handle is not in the directory (R238). -/
theorem exec_lookupHandle_of_none (hf : (s.phKey p (s.core c).ph.sg).1.findHandle p (s.core c).ph.sg
      (handleKey (s.phKey p (s.core c).ph.sg).2 (s.core c).ph.handle) (s.core c).ph.handle = none) :
    exec (.lookupHandle c) s =
      .next ((s.phKeyed c p (s.core c).ph.sg).lookEnd c p (s.core c).ph.ste { code := phHandle }) := by
  have hk : Reads p (s.phKey p (s.core c).ph.sg).1 (s.phKeyed c p (s.core c).ph.sg) := reads_updPh _ _ _ _
  rw [← hk.findHandle] at hf
  rw [exec_lookupHandle_eq hc ht he hm hl hg, lookHandle_of_none hf]

/-- The chain of the handle covers the blocks asked for (R238). -/
theorem exec_lookupHandle_of_covers {h b d : Nat} {ch r : List Nat} (hf : (s.phKey p (s.core c).ph.sg).1.findHandle p (s.core c).ph.sg
      (handleKey (s.phKey p (s.core c).ph.sg).2 (s.core c).ph.handle) (s.core c).ph.handle = some h)
    (hb : (s.phKey p (s.core c).ph.sg).1.deBlock p ((s.phKey p (s.core c).ph.sg).1.dirAt p h) = b)
    (hw : (s.phKey p (s.core c).ph.sg).1.walkChain p (s.core c).ph.sg (s.core c).ph.blocks b
      ((s.phKey p (s.core c).ph.sg).1.dePrev p ((s.phKey p (s.core c).ph.sg).1.dirAt p h)) = some ch)
    (hd : ch.drop (b + 1 - (s.core c).ph.blocks) = d :: r) (hn : (s.core c).ph.blocks ≤ b + 1)
    (hfull : ((d :: r).any fun d => (s.phKey p (s.core c).ph.sg).1.blockFull p ((s.phKey p (s.core c).ph.sg).1.dirAt p d)
      (s.steLayers p (s.core c).ph.ste)) = false) :
    ∃ w n, exec (.lookupHandle c) s =
      .next (State.lookEnd w c p (s.core c).ph.ste { hit := r.length + 1, chain := n, entry := d }) ∧ Within p s w := by
  subst hb
  have hr := reads_phKeyed s c p (s.core c).ph.sg
  have hk : Reads p (s.phKey p (s.core c).ph.sg).1 (s.phKeyed c p (s.core c).ph.sg) := reads_updPh _ _ _ _
  rw [← hk.findHandle] at hf
  rw [← hk.walkChain rfl, ← hk.dirAt, ← hk.deBlock, ← hk.dePrev] at hw
  rw [← hk.dirAt, ← hk.deBlock] at hd hn
  simp only [← hk.dirAt, ← hk.blockFull, ← hr.steLayers] at hfull
  obtain ⟨w, n, hx, hin⟩ := lookChain_of_covers (c := c) (k := (s.phKey p (s.core c).ph.sg).2)
    (a := (s.phKeyed c p (s.core c).ph.sg).dirAt p h) hn hfull
  refine ⟨w, n, ?_, hr.toWithin.trans hin⟩
  rw [exec_lookupHandle_eq hc ht he hm hl hg, lookHandle_of_some hf hw, hd, hx]

end

/-- An INSERT of a block 0 of unshared pages that no entry confirms (R239). -/
theorem exec_insert_of_private {e key d : Nat} {tok : List Byte} (hsg : (s.core c).ph.sg < (s.part p).phu.sgCount)
    (hst : s.steState p (s.core c).ph.ste = 2 ∨ s.steState p (s.core c).ph.ste = 3)
    (hcom : 64 ≤ s.steCommitted p (s.core c).ph.ste) (h0 : (s.core c).ph.first = 0) (h1 : (s.core c).ph.blocks = 1)
    (hg : s.tableGaps p (s.stePdir p (s.core c).ph.ste) (s.steLayers p (s.core c).ph.ste) = [])
    (hpte : (s.blockPtes p (s.core c).ph.ste 0).headD none = some e) (hloc : s.pteLoc p e = 1)
    (ho : s.handleOk p (s.pteHandle p e) = true) (hr : s.anyRange p (s.core c).ph.plist (4 * s.steLayers p (s.core c).ph.ste) = true)
    (htok : s.memBytes (s.hdrAddr p (s.pteHandle p e) + 0x40) 256 = tok)
    (hkey : chainOf (s.phKey p (s.core c).ph.sg).2 0 tok = key)
    (hz : ((s.phKey p (s.core c).ph.sg).1.firstGood p (s.core c).ph.sg key 0 tok noEntry).1 = none)
    (hb : s.blockPrivate p (s.core c).ph.ste 0 = true) (hw : s.freeWay p key = some d) :
    ∃ u nl, exec (.insert c) s = .next ((State.putEntry u p (u.dirAt p d) key (s.core c).ph.sg 0 0 noEntry nl
      (s.core c).ph.plist).updPh c fun x => x.entered key d) ∧ Within p s u := by
  have h := reads_phKeyed s c p (s.core c).ph.sg
  have hk : Reads p (s.phKey p (s.core c).ph.sg).1 (s.phKeyed c p (s.core c).ph.sg) := reads_updPh _ _ _ _
  rw [← hk.firstGood rfl] at hz
  rw [← h.blockPtes] at hpte
  rw [← h.pteLoc] at hloc
  rw [← h.pteHandle, ← h.handleOk] at ho
  rw [← h.pteHandle, ← h.hdrAddr, ← h.memBytes] at htok
  rw [← h.anyRange, ← h.steLayers] at hr
  rw [← h.blockPrivate] at hb
  rw [← h.freeWay] at hw
  have hins := insBlocks_of_private hpte hloc ho htok hkey hz hr hb hw
  obtain ⟨nl, hnl⟩ := enterBlock_zero _ p (s.core c).ph.sg (s.core c).ph.ste key noEntry d (s.core c).ph.plist
  rw [hnl] at hins
  exact ⟨_, nl, exec_insert_of_entered hc ht he hm hsg hst hcom h0 h1 hg hins, h.toWithin.confirmFails.putChain.sharePages⟩

end

end Sys2Proof.Machine
end

section
/-! PROOFS. The obligation on LOOKUP and INSERT (O30). -/

namespace Sys2Proof.Machine

open State

/-- Settles O30: for each command the state it ends with is an end of a lookup or the write of one entry, whose fields are
read back. -/
theorem prefixLookupsMapConfirmedBlocks : Obligations.PrefixLookupsMapConfirmedBlocks := by
  unfold Obligations.PrefixLookupsMapConfirmedBlocks
  refine ⟨fun s c p hc => ⟨fun i hi => ⟨fun ht => ?_, fun ht he => ?_⟩, fun ht he hm => ⟨fun hl i hi => ?_, fun hl hr hg =>
    ⟨fun hn hz => ?_, fun d hn hz hf => ?_⟩⟩⟩, fun s c p hc ht he hm => ⟨fun hl hg => ⟨fun hf => ?_,
      fun hd hf ch hw d r hd hn hfull => ?_⟩, fun hsg hst hcom h0 h1 hg e hpte hloc ho hr hnear hz hb d hw => ?_⟩⟩
  · obtain ⟨hsame, -, hcount⟩ := fenceInc_counts s kCore c
    exact ⟨_, exec_phCommand_of_busy hi hc ht, hsame, hcount⟩
  · exact ⟨_, exec_phCommand_of_disabled hi hc ht he, onlyCore_updCore _ _ _, core_updCore_self _ _ _⟩
  · obtain rfl | rfl := hi
    · exact ⟨_, exec_lookup_of_refused hc ht he hm hl, onlyCore_phTake_phEnd s c _⟩
    · exact ⟨_, exec_lookupHandle_of_refused hc ht he hm hl, onlyCore_phTake_phEnd s c _⟩
  · exact ⟨_, exec_lookup_of_miss hc ht he hm hl hg hr rfl hn (Prod.ext hz rfl), lookEnd_missed s c p _ _ _ hm⟩
  · obtain ⟨w, hx, hin⟩ := exec_lookup_of_hit hc ht he hm hl hg hr rfl hn (Prod.ext hz rfl) hf
    exact ⟨_, hx, hin.lookEnd_mapped hm⟩
  · have hph := ph_lookEnd (s.phKeyed c p (s.core c).ph.sg) c p (s.core c).ph.ste { code := phHandle }
    obtain ⟨hcore, halloc, hparts, hcom, -⟩ := (reads_phKeyed s c p (s.core c).ph.sg).lookEnd_of_none
      (coresBut_phKeyed s c p _) hm { code := phHandle } rfl
    exact ⟨_, exec_lookupHandle_of_none hc ht he hm hl hg hf, congrArg PhRegs.code hph, congrArg PhRegs.hit hph, hcom, halloc,
      hcore, hparts⟩
  · obtain ⟨w, n, hx, hin⟩ := exec_lookupHandle_of_covers hc ht he hm hl hg hf rfl hw hd hn hfull
    have hph := ph_lookEnd w c p (s.core c).ph.ste { hit := r.length + 1, chain := n, entry := d }
    exact ⟨_, hx, congrArg PhRegs.code hph, congrArg PhRegs.hit hph, congrArg PhRegs.entry hph,
      hin.steCommitted_lookEnd hm _, (hin.lookEnd c p _ _).parts⟩
  · obtain ⟨u, nl, hx, hin⟩ := exec_insert_of_private hc ht he hm hsg hst hcom h0 h1 hg hpte hloc ho hr rfl rfl hz hb hw
    exact ⟨_, hx, hin.putEntry.updPh_entered
      (hin.putEntry_entry (mappedRange_dirAt hnear (freeWay_spec hw).1) (chainOf_lt _ _ _))⟩

end Sys2Proof.Machine
end

section
/-! PROOFS. REKINDLE on a group whose pool has more pages than its handles name (O32). A handle holds 22 bits of page (R209), and
the count of FREE pages of a group is over the handles of the group, so that page 2^22 of its pool is never counted as taken. -/

namespace Sys2Proof.Machine

open State

/-! ### Pools with no FREE page -/

theorem Alloc.findFree_eq_none {a : Alloc} {g : Nat} (hp : 0 < (a.pool g).pages)
    (h : ∀ k < (a.pool g).pages, (a.page (pageKey g k)).st ≠ .free) (k n : Nat) : a.findFree g k n = none := by
  induction n generalizing k with
  | zero => rfl
  | succ n ih =>
    rw [findFree, if_neg (h _ (Nat.mod_lt k hp))]
    exact ih _

theorem State.pickPage_eq_none {s : State} {p g : Nat} (hp : 0 < ((s.part p).alloc.pool g).pages)
    (h : ∀ k < ((s.part p).alloc.pool g).pages, ((s.part p).alloc.page (pageKey g k)).st ≠ .free) : s.pickPage p g = none := by
  unfold pickPage
  dsimp only
  rw [Alloc.findFree_eq_none hp h, ite_self]

theorem State.takePages_eq_nil {s : State} {p g : Nat} (h : s.pickPage p g = none) (n : Nat) : s.takePages p g n = (s, []) := by
  cases n with
  | zero => rfl
  | succ n => rw [takePages, h]

/-- The first `n` handles, each of a page that is OWNED. -/
def ownedPages (n : Nat) : Tab Page := (List.range n).map fun k => (k, { st := .owned, refs := 1 })

theorem tabGet_map_range' (x : Page) {n k a : Nat} (ha : a ≤ k) (h : k < a + n) :
    tabGet {} ((List.range' a n).map fun k => (k, x)) k = x := by
  induction n generalizing a with
  | zero => omega
  | succ n ih =>
    rw [List.range'_succ, List.map_cons, tabGet]
    split
    · rfl
    · exact ih (by omega) (by omega)

theorem tabGet_ownedPages {n k : Nat} (h : k < n) : tabGet {} (ownedPages n) k = { st := .owned, refs := 1 } := by
  rw [ownedPages, List.range_eq_range']
  exact tabGet_map_range' _ (Nat.zero_le k) (by omega)

/-- More than 2^22 handles are not all of one group. -/
theorem length_filter_ownedPages {n : Nat} (h : 2 ^ 22 < n) :
    ((ownedPages n).filter fun e => e.1 / 2 ^ 22 = 0 ∧ e.2.st ≠ .free).length < n := by
  have hlen : (ownedPages n).length = n := by rw [ownedPages, List.length_map, List.length_range]
  have hmem : (2 ^ 22, ({ st := .owned, refs := 1 } : Page)) ∈ ownedPages n :=
    List.mem_map.mpr ⟨2 ^ 22, List.mem_range.mpr h, rfl⟩
  refine lt_of_lt_of_eq (List.length_filter_lt_length_iff_exists.mpr ⟨_, hmem, ?_⟩) hlen
  simp

/-! ### REKINDLE -/

/-- What a REKINDLE leaves that the engine takes up on a group with no FREE page to pick (R248). -/
def State.rekindledBare (s : State) (c p ste g : Nat) : State :=
  ((s.bkResult c bkAccepted).setSteState p ste steRekindling).updBank p fun b =>
    { b with order := b.order.filter (fun x => x ≠ ste), jobs := b.jobs ++
      [{ ste := ste, bank := false, pages := [], retort := ((s.bkResult c bkAccepted).setSteState p ste steRekindling).servingRetort p g }] }

theorem State.rekindleStart_of_no_pick {s : State} {c p ste g : Nat} (ho : s.owns p g = true) (hst : s.steState p ste = steBanked)
    (hg : s.tableGaps p (s.stePdir p ste) (s.tableSize p ste) = [])
    (hf : (s.banked p ste).length ≤ (s.part p).alloc.freeCount g) (hn : s.pickPage p g = none) :
    s.rekindleStart c p ste g = s.rekindledBare c p ste g := by
  have hcore : ∀ n, (s.bkResult c bkAccepted).takePages p g n = (s.bkResult c bkAccepted, []) := takePages_eq_nil hn
  have hfree : ¬ ((s.bkResult c bkAccepted).part p).alloc.freeCount g < ((s.bkResult c bkAccepted).banked p ste).length :=
    Nat.not_lt.mpr hf
  unfold rekindleStart bankGaps
  rw [if_neg (not_not.mpr ho), if_neg (not_not.mpr hst), hg]
  dsimp only
  rw [if_neg hfree, hcore, rekindledBare]

theorem exec_rekindle_eq {s : State} {c : CoreId} {p : Nat} (hc : CoreActs s c p) (he : (s.part p).bank.enable = true)
    (hm : s.steMapped p (s.core c).reg.bkSte = true) (hr : (s.part p).bank.canRun = true) :
    exec (.rekindle c) s = .next (s.rekindleStart c p (s.core c).reg.bkSte (s.core c).reg.bkGroup) := by
  show execRekindle c s = _
  rw [execRekindle, bankCommand, byCore_of_acts s c p _ hc]
  dsimp only
  rw [if_neg (not_not.mpr he), if_neg (not_not.mpr hm), if_neg (not_not.mpr hr), if_neg Bool.false_ne_true]

theorem State.jobs_rekindledBare (s : State) (c p ste g : Nat) : ∃ j : BankJob,
    ((s.rekindledBare c p ste g).part p).bank.jobs = (s.part p).bank.jobs ++ [j] ∧ j.pages = [] := by
  unfold rekindledBare updBank
  rw [part_updPart_self, setSteState, pWrLe, (same_putMem _ _ _ _ _).part (by decide)]
  exact ⟨_, rfl, rfl⟩

/-- Partition 0 owns group 0, whose pool has `n` pages and none FREE. Sequence 0 is BANKED, one of its pages in turf. -/
def crowded (n : Nat) : State where
  groups := [(0, { st := .assigned, owner := 0 })]
  mem := [(0, 5), (0x1E, 1), (0x22, 8), (0x80002, 9), (0x90000, 2)]
  parts := [(0, { bank := { enable := true }
                  alloc := { enable := true, pools := [(0, { pages := n })], pages := ownedPages n } })]

theorem crowded_pickPage {n : Nat} (hn : 0 < n) : (crowded n).pickPage 0 0 = none := by
  refine pickPage_eq_none hn fun k hk => ?_
  have hkey : pageKey 0 k = k := by rw [pageKey, Nat.zero_mul, Nat.zero_add]
  have hpage : ((crowded n).part 0).alloc.page k = { st := .owned, refs := 1 } := tabGet_ownedPages hk
  rw [hkey, hpage]
  exact PageSt.noConfusion

theorem crowded_freeCount {n : Nat} (hn : 2 ^ 22 < n) : 1 ≤ ((crowded n).part 0).alloc.freeCount 0 :=
  Nat.le_sub_of_add_le (by rw [Nat.add_comm]; exact length_filter_ownedPages hn)

/-- Refutes O32: in `crowded`, with one page more than a group has handles, one FREE page is counted and none is there to
allocate, and a REKINDLE of the one page in turf is taken up with no page. -/
theorem not_bankingMovesSequences : ¬ Obligations.BankingMovesSequences := by
  unfold Obligations.BankingMovesSequences
  intro h
  have hm : (crowded (2 ^ 22 + 1)).steMapped 0 0 = true := by decide +kernel
  have hr : ((crowded (2 ^ 22 + 1)).part 0).bank.canRun = true := by decide +kernel
  have hst : (crowded (2 ^ 22 + 1)).steState 0 0 = 5 := by decide +kernel
  have hg : (crowded (2 ^ 22 + 1)).tableGaps 0 ((crowded (2 ^ 22 + 1)).stePdir 0 0)
    ((crowded (2 ^ 22 + 1)).tableSize 0 0) = [] := by decide +kernel
  have hone : ((crowded (2 ^ 22 + 1)).banked 0 0).length = 1 := by decide +kernel
  have hlt : 2 ^ 22 < 2 ^ 22 + 1 := Nat.lt_succ_self _
  generalize 2 ^ 22 + 1 = n at *
  have hc : CoreActs (crowded n) 0 0 := ⟨rfl, rfl⟩
  have he : ((crowded n).part 0).bank.enable = true := rfl
  have ho : (crowded n).owns 0 0 = true := rfl
  have hf := hone.le.trans (crowded_freeCount hlt)
  have hn := crowded_pickPage (Nat.zero_lt_of_lt hlt)
  obtain ⟨-, -, -, htable⟩ := (h.1 (crowded n) 0 0 hc).2 he hm hr
  obtain ⟨-, -, hrek⟩ := htable hg
  obtain ⟨t, hs, hx, -, -, -, hlen, -, hbank, -⟩ := hrek ho hst hf
  have ht : (crowded n).rekindledBare 0 0 0 0 = t := Host.Outcome.next.inj
    ((congrArg Host.Outcome.next (rekindleStart_of_no_pick ho hst hg hf hn)).symm.trans
      ((exec_rekindle_eq hc he hm hr).symm.trans hx))
  obtain ⟨j, hjobs, hj⟩ := jobs_rekindledBare (crowded n) 0 0 0 0
  rw [ht] at hjobs
  have hpages : hs = [] :=
    (congrArg BankJob.pages (List.cons.inj ((congrArg Banking.jobs hbank).symm.trans hjobs)).1).trans hj
  have hlen1 : hs.length = 1 := hlen.trans hone
  rw [hpages] at hlen1
  exact absurd hlen1 Nat.zero_ne_one

end Sys2Proof.Machine
end

section
/-! PROOFS. What an entry of the fault log leaves as it was (R480 to R482), and the rules of a shard context (R257): what a
change of one leaves, and the checks of an ARM (R258). -/

namespace Sys2Proof.Machine

open State

/-! ### Entries of the fault log -/

section
variable (s : State) (e : LogEntry) (l : List Nat)

theorem State.cinder_logPut : (s.logPut e l).cinder = s.cinder :=
  List.foldlRecOn (motive := fun t : State => t.cinder = s.cinder) _ _ rfl fun t ht q _ => by
    have h : Signals q t (t.ringPut { e with seq := s.logSeq } q) := .raiseEv <| .updPart <| .refl _ _
    rw [h.1]
    exact ht

theorem State.cinder_joinWindow : (s.joinWindow e).cinder = s.cinder :=
  List.foldlRecOn (motive := fun t : State => t.cinder = s.cinder) _ _ rfl fun t ht c _ => (cinder_logPut t c.close []).trans ht

theorem State.cinder_logEv : (s.logEv e l).cinder = (s.cinderInc e.kind e.index e.cls).cinder := by
  unfold logEv
  dsimp only
  split
  · exact cinder_joinWindow _ _
  · exact cinder_logPut _ _ _

theorem State.same_logEv : Same logParts s (s.logEv e l) := by
  have hc : Same logParts s (s.cinderInc e.kind e.index e.cls) := (same_set_cinder (by decide) _ _ _).mpr (.refl _ _)
  unfold logEv
  dsimp only
  split
  · exact hc.trans (same_joinWindow _ _)
  · exact hc.trans (same_logPut _ _ _)

theorem State.wts_logEv (q : Nat) : ((s.logEv e l).part q).wts = (s.part q).wts := by rw [(onlyLogged_logEv s e l).2 q]

end

/-- An unmapped access is counted for its unit (R392). -/
theorem State.cinder_unmapped (s : State) (kind index p a : Nat) : tabGet 0 (s.unmapped kind index p a).cinder
    (cinderKey kind index cFence) = satInc 16 (tabGet 0 s.cinder (cinderKey kind index cFence)) := by
  rw [unmapped, cinder_logEv]
  exact tabGet_tabUpd_self _ _ _ _

section
variable {s : State} {e : LogEntry} (hc : coalesces { e with hall := s.hall } = false) (hp : e.part < 16)
include hc hp

theorem State.signals_logEv : Signals e.part { s.cinderInc e.kind e.index e.cls with
    log := ringKeep 16384 (s.log ++ [{ e with hall := s.hall, seq := s.logSeq }]), logSeq := s.logSeq + 1 } (s.logEv e) := by
  rw [logEv_of_not_coalesces hc hp]
  exact .raiseEv <| .updPart <| .refl _ _

theorem State.partsBut_logEv : PartsBut e.part s (s.logEv e) := (signals_logEv hc hp).2

theorem State.log_logEv : (s.logEv e).log = ringKeep 16384 (s.log ++ [{ e with hall := s.hall, seq := s.logSeq }]) := by
  rw [(signals_logEv hc hp).1]

end

/-! ### A context changed -/

/-- Context `k` of partition `p` has become `x`: other contexts, the layers, other partitions and the cores are as they were. -/
structure CtxBecame (p k : Nat) (x : ShardCtx) (s t : State) : Prop where
  ctx : (t.part p).wts.ctx k = x
  others : ∀ j, j ≠ k → (t.part p).wts.ctx j = (s.part p).wts.ctx j
  layers : (t.part p).wts.layers = (s.part p).wts.layers
  parts : PartsBut p s t
  cores : t.cores = s.cores

section
variable {p k : Nat} {x : ShardCtx} {s t : State}

theorem ctxBecame_setCtx (s : State) (p k : Nat) (x : ShardCtx) : CtxBecame p k x s (s.setCtx p k x) := by
  have hpart : (s.setCtx p k x).part p =
      { s.part p with wts := { (s.part p).wts with ctxs := tabSet {} (s.part p).wts.ctxs k x } } :=
    (part_setCtx _ _ _ _ _).trans (part_updPart_self _ _ _)
  refine ⟨?_, fun j hj => ?_, ?_, (keysErased_setCtx _ _ _ _).parts, same_setCtx _ _ _ _ .cores (by decide)⟩ <;> rw [hpart]
  · exact tabGet_tabSet_self _ _ _ _
  · exact tabGet_tabSet_ne _ _ _ hj

theorem CtxBecame.layer (h : CtxBecame p k x s t) (l : Nat) : (t.part p).wts.layer l = (s.part p).wts.layer l := by
  rw [Weights.layer, h.layers, Weights.layer]

theorem CtxBecame.after {u : State} (h : CtxBecame p k x t u) (hs : Same memParts s t) : CtxBecame p k x s u := by
  have hp := hs.part (by decide)
  exact ⟨h.ctx, fun j hj => (h.others j hj).trans (by rw [hp]), h.layers.trans (by rw [hp]), fun q hq =>
    (h.parts q hq).trans (hp q), h.cores.trans (hs .cores (by decide))⟩

theorem CtxBecame.before {u : State} (h : CtxBecame p k x s t) (hu : Same memParts t u) : CtxBecame p k x s u := by
  have hp := hu.part (by decide)
  exact ⟨by rw [hp, h.ctx], fun j hj => by rw [hp, h.others j hj], by rw [hp, h.layers], fun q hq =>
    (hp q).trans (h.parts q hq), (hu .cores (by decide)).trans h.cores⟩

/-- A context that becomes `x` with an entry of the fault log about it. -/
theorem CtxBecame.logEv {p k : Nat} {x : ShardCtx} {s t : State} (h : CtxBecame p k x s t) (hp : p < 16) {cls : Nat} (y : ShardCtx)
    (hc : cls = cShardTag ∨ cls = cShardMissing) : CtxBecame p k x s (t.logEv (shardEntry cls p k y)) := by
  have hco : coalesces { shardEntry cls p k y with hall := t.hall } = false := by
    obtain rfl | rfl := hc <;> rfl
  have hw := wts_logEv t (shardEntry cls p k y) [] p
  exact ⟨by rw [hw, h.ctx], fun j hj => by rw [hw, h.others j hj], by rw [hw, h.layers], fun q hq =>
    (partsBut_logEv hco hp q hq).trans (h.parts q hq), (same_logEv _ _ _ .cores (by decide)).trans h.cores⟩

theorem log_setCtx (s : State) (p k : Nat) (x : ShardCtx) : (s.setCtx p k x).log = s.log :=
  (same_setCtx s p k x .log (by decide)).1

theorem cinder_setCtx (s : State) (p k : Nat) (x : ShardCtx) : (s.setCtx p k x).cinder = s.cinder :=
  same_setCtx s p k x .cinder (by decide)

/-- A context is changed in its record, in bytes 0 to 15 of it (R257). -/
theorem memByte_setCtx_out {s : State} {p k b : Nat} (x : ShardCtx) (h : b < s.ctxAddr p k ∨ s.ctxAddr p k + 16 ≤ b) :
    (s.setCtx p k x).memByte b = s.memByte b := by
  have ha : (s.updWts p fun w => { w with ctxs := tabSet {} w.ctxs k x }).ctxAddr p k = s.ctxAddr p k := by
    rw [ctxAddr, updWts, part_updPart_self]
    rfl
  rw [setCtx, memByte_putMem_out (by rw [leBytes_length, ha]; omega), memByte_putMem_out (by rw [leBytes_length, ha]; omega)]
  rfl

end

/-! ### The checks of an ARM -/

/-- An unmapped record makes RANGE (R258). -/
theorem State.st_armCheck_of_unmapped {s : State} {p k : Nat} (h : s.mappedRange p (s.ctxAddr p k) 128 = false) :
    (s.armCheck p k).st = cxRange := by
  unfold armCheck
  dsimp only
  rw [h]
  exact if_pos Bool.false_ne_true

/-- The range of a context that is ARMED is near memory (R258). -/
theorem State.mappedRange_of_armCheck {s : State} {p k : Nat} (h : (s.armCheck p k).st = cxArmed) :
    s.mappedRange p (s.armCheck p k).addr (s.armCheck p k).len = true := by
  refine mappedRange_of_nearRange ?_
  by_contra hn
  refine absurd h ?_
  unfold armCheck at hn ⊢
  dsimp only at hn ⊢
  rw [if_pos (by simp [hn])]
  decide

end Sys2Proof.Machine
end

section
/-! PROOFS. The commands of the shard contexts: ARM, DISARM and the verifying pass (O33). -/

namespace Sys2Proof.Machine

open State

theorem State.onlyCore_wlResult (s : State) (c v : Nat) : OnlyCore c s (s.wlResult c v) := onlyCore_updCore _ _ _

theorem State.core_wlResult_self (s : State) (c v : Nat) :
    (s.wlResult c v).core c = { s.core c with reg := { (s.core c).reg with wlRes := v } } := core_updCore_self _ _ _

theorem CoresBut.wlResult {s t : State} (h : t.cores = s.cores) (c v : Nat) : CoresBut c s (t.wlResult c v) := fun j hj =>
  (core_updCore_ne _ _ hj).trans (by rw [State.core, h, State.core])

/-! ### ARM -/

/-- Context `k` becomes `x`, and the address of its window goes to its record (R257, R258). -/
def State.ctxArmed (s : State) (p k : Nat) (x : ShardCtx) : State :=
  (s.setCtx p k x).putMem p ((s.setCtx p k x).ctxAddr p k + 0x50) (leBytes 8 (0x40000000000 + p * 0x1000000000 + k * 0x10000000))

section
variable {s : State} {c : CoreId} {p : Nat} {k : Fin 256} (hc : CoreActs s c p)
include hc

theorem exec_contextArm_of_busy (h : ((s.part p).wts.ctx k).st = cxArmed ∨ ((s.part p).wts.ctx k).st = cxReady) :
    exec (.contextArm c k) s = .next (s.wlResult c ((s.part p).wts.ctx k).st) :=
  congrArg Host.Outcome.next ((byCore_of_acts s c p _ hc).trans (if_pos h))

variable (h : ¬ (((s.part p).wts.ctx k).st = cxArmed ∨ ((s.part p).wts.ctx k).st = cxReady))
include h

theorem exec_contextArm_of_armed (hm : s.mappedRange p (s.ctxAddr p k) 128 = true) (hs : (s.armCheck p k).st = cxArmed) :
    exec (.contextArm c k) s = .next ((s.ctxArmed p k (s.armCheck p k)).wlResult c cxArmed) := by
  refine congrArg Host.Outcome.next ((byCore_of_acts s c p _ hc).trans ((if_neg h).trans ?_))
  dsimp only
  rw [if_neg (not_not.mpr hm), if_neg (not_not.mpr (mappedRange_of_armCheck hs)), if_pos hs, if_pos hs, hs]
  rfl

theorem exec_contextArm_of_refused (hm : s.mappedRange p (s.ctxAddr p k) 128 = true)
    (hr : s.mappedRange p (s.armCheck p k).addr (s.armCheck p k).len = true) (hs : (s.armCheck p k).st ≠ cxArmed) :
    exec (.contextArm c k) s = .next ((s.setCtx p k { s.armCheck p k with count := ((s.part p).wts.ctx k).count }).wlResult c
      (s.armCheck p k).st) := by
  refine congrArg Host.Outcome.next ((byCore_of_acts s c p _ hc).trans ((if_neg h).trans ?_))
  dsimp only
  rw [if_neg (not_not.mpr hm), if_neg (not_not.mpr hr), if_neg hs, if_neg hs]

theorem exec_contextArm_of_unmapped (hm : s.mappedRange p (s.ctxAddr p k) 128 = false) : exec (.contextArm c k) s =
    .next (((s.unmapped kRetort (s.armCheck p k).retort p (s.ctxAddr p k)).setCtx p k
      { s.armCheck p k with count := ((s.part p).wts.ctx k).count }).wlResult c cxRange) := by
  have hs := st_armCheck_of_unmapped hm
  have hne : (s.armCheck p k).st ≠ cxArmed := by
    rw [hs]
    decide
  refine congrArg Host.Outcome.next ((byCore_of_acts s c p _ hc).trans ((if_neg h).trans ?_))
  dsimp only
  rw [hm, if_pos Bool.false_ne_true, if_neg hne, if_neg hne, hs]

/-! ### DISARM -/

theorem exec_contextDisarm_of_ended : exec (.contextDisarm c k) s = .next (s.wlResult c ((s.part p).wts.ctx k).st) :=
  congrArg Host.Outcome.next ((byCore_of_acts s c p _ hc).trans (if_neg h))

end

section
variable {s : State} {c : CoreId} {p : Nat} {k : Fin 256} (hc : CoreActs s c p)
  (h : ((s.part p).wts.ctx k).st = cxArmed ∨ ((s.part p).wts.ctx k).st = cxReady)
include hc h

theorem exec_contextDisarm_of_reseal (ho : ((s.part p).wts.ctx k).opened = false) : exec (.contextDisarm c k) s =
    .next ((s.setCtx p k { (s.part p).wts.ctx k with st := cxAborted }).wlResult c cxAborted) := by
  refine congrArg Host.Outcome.next ((byCore_of_acts s c p _ hc).trans ((if_pos h).trans ?_))
  dsimp only
  rw [ho, if_neg Bool.false_ne_true]

theorem exec_contextDisarm_of_opened (ho : ((s.part p).wts.ctx k).opened = true) : exec (.contextDisarm c k) s =
    .next (((s.setCtx p k { (s.part p).wts.ctx k with st := cxAborted }).logEv
      (shardEntry cShardMissing p k ((s.part p).wts.ctx k))).wlResult c cxAborted) := by
  refine congrArg Host.Outcome.next ((byCore_of_acts s c p _ hc).trans ((if_pos h).trans ?_))
  dsimp only
  rw [if_pos ho]

end

/-! ### The verifying pass -/

section
variable {s : State} {p : PartId} {k : Fin 256} (h : ((s.part p).wts.ctx k).st = cxArmed)
  (ho : ((s.part p).wts.ctx k).opened = false)
include h ho

theorem exec_resealVerifyDone_of_match (ht : (s.shardSeal p ((s.part p).wts.ctx k) (s.memBytes ((s.part p).wts.ctx k).addr
    ((s.part p).wts.ctx k).len)).2 = ((s.part p).wts.ctx k).tag) :
    exec (.resealVerifyDone p k) s = .next (s.setCtx p k { (s.part p).wts.ctx k with st := cxReady }) :=
  congrArg Host.Outcome.next ((if_neg (by simp [h, ho])).trans (if_pos ht))

theorem exec_resealVerifyDone_of_mismatch (ht : (s.shardSeal p ((s.part p).wts.ctx k) (s.memBytes ((s.part p).wts.ctx k).addr
    ((s.part p).wts.ctx k).len)).2 ≠ ((s.part p).wts.ctx k).tag) : exec (.resealVerifyDone p k) s =
    .next ((s.setCtx p k { (s.part p).wts.ctx k with st := cxTagFail }).logEv
      (shardEntry cShardTag p k { (s.part p).wts.ctx k with source := s.moduleId })) :=
  congrArg Host.Outcome.next ((if_neg (by simp [h, ho])).trans (if_neg ht))

end

end Sys2Proof.Machine
end

section
/-! PROOFS. The shard windows (R259, R260), and the obligation on shard contexts (O33). -/

namespace Sys2Proof.Machine

open State

/-! ### Verified indices -/

section
variable (s : State) (p l i : Nat)

theorem State.partsBut_verified : PartsBut p s (s.verified p l i) := fun _ hq => part_updPart_ne _ _ hq

theorem State.ctx_verified (k : Nat) : ((s.verified p l i).part p).wts.ctx k = (s.part p).wts.ctx k := by
  rw [verified, updWts, part_updPart_self]
  rfl

theorem State.layer_verified : ((s.verified p l i).part p).wts.layer l = if ((s.part p).wts.layer l).verified.contains i then
    (s.part p).wts.layer l else { (s.part p).wts.layer l with
      verified := ((s.part p).wts.layer l).verified ++ [i], pending := ((s.part p).wts.layer l).pending - 1 } := by
  rw [verified, updWts, part_updPart_self, Weights.layer]
  dsimp only
  rw [tabGet_tabUpd_self]
  rfl

end

/-! ### Writes -/

/-- Bytes have reached an ARMED OPEN context (R259). -/
def ShardCtx.received (x : ShardCtx) (off : Nat) (bytes : List Byte) (m : Option (BitVec 15)) : ShardCtx :=
  { x with
    cipher := wrBytes x.cipher off bytes, got := x.got ++ [(off, bytes.length)], count := x.count + bytes.length
    storage := m.isNone, source := (m.map (·.toNat)).getD 0 }

/-- The plaintext of bytes of a shard at offset `off` (R259). -/
def State.shardPlain (s : State) (p : Nat) (x : ShardCtx) (off : Nat) (bytes : List Byte) : List Byte :=
  Config.gcmStream ((s.modelKey p x.keySlot).getD 0) x.nonce off bytes

/-- The plaintext of bytes of a shard stored at its place (R259). -/
def State.shardStored (s : State) (p : Nat) (x : ShardCtx) (off : Nat) (bytes : List Byte) : State :=
  s.wrMems (x.addr + off) (s.shardPlain p x off bytes)

theorem State.same_shardStored (s : State) (p : Nat) (x : ShardCtx) (off : Nat) (bytes : List Byte) :
    Same memParts s (s.shardStored p x off bytes) := same_wrMems _ _ _

theorem ctxBecame_shardStored (s : State) (p k : Nat) (x : ShardCtx) (off : Nat) (bytes : List Byte) (y : ShardCtx) :
    CtxBecame p k y s ((s.shardStored p x off bytes).setCtx p k y) :=
  (ctxBecame_setCtx _ _ _ _).after (same_shardStored _ _ _ _ _)

theorem State.openTagOk_congr {s t : State} {p : Nat} (h : t.part p = s.part p) (x : ShardCtx) :
    t.openTagOk p x = s.openTagOk p x := by
  unfold openTagOk shardSeal modelKey keySlot
  rw [h]

/-- The last byte of a shard whose tag matches: the context is OK and its index verified (R259). -/
def State.shardVerified (s : State) (p k : Nat) (x : ShardCtx) (off : Nat) (bytes : List Byte) (m : Option (BitVec 15)) : State :=
  ((s.shardStored p x off bytes).setCtx p k { x.received off bytes m with st := cxOk }).verified p x.layer x.index

section
variable (s : State) (p k : Nat) (x : ShardCtx) (off : Nat) (bytes : List Byte) (m : Option (BitVec 15))

theorem State.ctx_shardVerified :
    ((s.shardVerified p k x off bytes m).part p).wts.ctx k = { x.received off bytes m with st := cxOk } :=
  (ctx_verified _ _ _ _ _).trans (ctxBecame_shardStored _ _ _ _ _ _ _).ctx

theorem State.partsBut_shardVerified : PartsBut p s (s.shardVerified p k x off bytes m) := fun q hq =>
  (partsBut_verified _ _ _ _ q hq).trans ((ctxBecame_shardStored _ _ _ _ _ _ _).parts q hq)

theorem State.layer_shardVerified : ((s.shardVerified p k x off bytes m).part p).wts.layer x.layer =
    if ((s.part p).wts.layer x.layer).verified.contains x.index then (s.part p).wts.layer x.layer
    else { (s.part p).wts.layer x.layer with
      verified := ((s.part p).wts.layer x.layer).verified ++ [x.index], pending := ((s.part p).wts.layer x.layer).pending - 1 } := by
  rw [shardVerified, layer_verified, (ctxBecame_shardStored _ _ _ _ _ _ _).layer]

end

section
variable {s : State} {p : Nat} {k : Fin 256} {off : Nat} {bytes : List Byte} {m : Option (BitVec 15)}
  {x : ShardCtx}
  (hx : (s.part p).wts.ctx k = x)
include hx

theorem State.shardWrite_of_dropped (h : x.st ≠ cxArmed ∨ x.opened = false ∨ x.len < off + bytes.length) :
    s.shardWrite p k off bytes (m.map (·.toNat)) = s.updWts p fun w => { w with dropped := satInc 32 w.dropped } := by
  subst hx
  exact if_pos (by simpa using h)

variable (hs : x.st = cxArmed) (ho : x.opened = true) (hl : off + bytes.length ≤ x.len) (hb : bytes ≠ [])
include hs ho hl hb

/-- A write that is accepted stores its plaintext, and what follows is the context's (R259). -/
theorem State.shardWrite_of_accepted : s.shardWrite p k off bytes (m.map (·.toNat)) =
    let u := s.shardStored p x off bytes
    let y := x.received off bytes m
    if y.count < x.len then u.setCtx p k y
    else if s.openTagOk p y then (u.setCtx p k { y with st := cxOk }).verified p x.layer x.index
    else (u.setCtx p k { y with st := cxTagFail }).logEv (shardEntry cShardTag p k y) := by
  have hu := openTagOk_congr ((same_shardStored s p x off bytes).part (by decide) p) (x.received off bytes m)
  subst hx
  dsimp only
  rw [← hu, shardWrite, if_neg (by simp [hs, ho, hl]), if_neg hb, Option.isNone_map]
  rfl

theorem State.shardWrite_of_short (hn : x.count + bytes.length < x.len) :
    s.shardWrite p k off bytes (m.map (·.toNat)) = (s.shardStored p x off bytes).setCtx p k (x.received off bytes m) :=
  (shardWrite_of_accepted hx hs ho hl hb).trans (if_pos hn)

theorem State.shardWrite_of_verified (hn : x.len ≤ x.count + bytes.length)
    (ht : s.openTagOk p (x.received off bytes m) = true) : s.shardWrite p k off bytes (m.map (·.toNat)) =
    s.shardVerified p k x off bytes m :=
  (shardWrite_of_accepted hx hs ho hl hb).trans ((if_neg (Nat.not_lt.mpr hn)).trans (if_pos ht))

theorem State.shardWrite_of_failed (hn : x.len ≤ x.count + bytes.length)
    (ht : s.openTagOk p (x.received off bytes m) = false) : s.shardWrite p k off bytes (m.map (·.toNat)) =
    ((s.shardStored p x off bytes).setCtx p k { x.received off bytes m with st := cxTagFail }).logEv
      (shardEntry cShardTag p k (x.received off bytes m)) :=
  (shardWrite_of_accepted hx hs ho hl hb).trans ((if_neg (Nat.not_lt.mpr hn)).trans (if_neg (by rw [ht]; exact Bool.false_ne_true)))

end

/-! ### Reads -/

section
variable {s : State} {p : PartId} {k : Fin 256} {off n : Nat}

theorem exec_shardWindowRead_of_ready (h : ((s.part p).wts.ctx k).st = cxReady) (hn : off + n ≤ ((s.part p).wts.ctx k).len) :
    let x := (s.part p).wts.ctx k
    exec (.shardWindowRead p k off n) s = .next ((s.setCtx p k { x with count := (x.count + n) % 2 ^ 32 }).send
      (.shardRead p k (some (((s.shardSeal p x (s.memBytes x.addr x.len)).1.drop off).take n)))) := by
  show execShardWindowRead p k off n s = _
  rw [execShardWindowRead, shardRead, if_neg (by simp [h, hn])]

theorem exec_shardWindowRead_of_refused (h : ((s.part p).wts.ctx k).st ≠ cxReady ∨ ((s.part p).wts.ctx k).len < off + n) :
    exec (.shardWindowRead p k off n) s = .next (s.send (.shardRead p k none)) := by
  show execShardWindowRead p k off n s = _
  rw [execShardWindowRead, shardRead, if_pos h]

end

/-! ### The obligation -/

/-- The plaintext of a shard stays at its place beside the record of its context. -/
theorem memByte_setCtx_shardStored {s : State} {p k off i : Nat} {x y : ShardCtx} {bytes : List Byte}
    (h : i < (s.shardPlain p x off bytes).length)
    (ho : x.addr + off + i < s.ctxAddr p k ∨ s.ctxAddr p k + 16 ≤ x.addr + off + i) :
    ((s.shardStored p x off bytes).setCtx p k y).memByte (x.addr + off + i) = (s.shardPlain p x off bytes)[i] := by
  have ha : (s.shardStored p x off bytes).ctxAddr p k = s.ctxAddr p k := by
    rw [ctxAddr, (same_shardStored s p x off bytes).part (by decide), ctxAddr]
  rw [memByte_setCtx_out y (by rwa [ha]), shardStored, memByte_wrMems, if_pos (by omega), Nat.add_sub_cancel_left,
    List.getD_eq_getElem _ _ h]

/-- Settles O33: each command ends with one context changed, in memory that its record and its shard occupy. -/
theorem shardsArmOpenAndReseal : Obligations.ShardsArmOpenAndReseal := by
  unfold Obligations.ShardsArmOpenAndReseal
  refine ⟨fun s c p k => ⟨fun hc => ⟨fun h => ?_, fun h1 h2 hm hs => ?_, fun h1 h2 hm hr hs => ?_, fun h1 h2 hm => ?_,
    fun h1 h2 => ?_, fun h => ?_⟩, fun h ho => ⟨fun ht => ?_, fun ht => ?_⟩⟩, fun s p k off bytes m =>
    ⟨fun h => ?_, fun hs ho hl hb => ⟨fun hn => ?_, fun hn ht => ?_, fun hn ht => ?_⟩, fun n => ⟨fun h hn => ?_, fun h => ?_⟩⟩⟩
  · exact ⟨_, exec_contextArm_of_busy hc h, onlyCore_wlResult _ _ _, core_wlResult_self _ _ _⟩
  · have hb : CtxBecame p k (s.armCheck p k) s (s.ctxArmed p k (s.armCheck p k)) :=
      (ctxBecame_setCtx _ _ _ _).before (same_putMem _ _ _ _ _)
    refine ⟨_, exec_contextArm_of_armed hc (not_or.mpr ⟨h1, h2⟩) hm hs, hb.ctx, .wlResult hb.cores _ _, hb.parts, ?_, hb.others,
      hb.layers⟩
    rw [core_wlResult_self]
    rfl
  · have hb := ctxBecame_setCtx s p k { s.armCheck p k with count := ((s.part p).wts.ctx k).count }
    refine ⟨_, exec_contextArm_of_refused hc (not_or.mpr ⟨h1, h2⟩) hm hr hs, hb.ctx, .wlResult hb.cores _ _, hb.parts, ?_,
      log_setCtx _ _ _ _⟩
    rw [core_wlResult_self]
  · have hb := ctxBecame_setCtx (s.unmapped kRetort (s.armCheck p k).retort p (s.ctxAddr p k)) p k
      { s.armCheck p k with count := ((s.part p).wts.ctx k).count }
    have hcores := hb.cores.trans (same_logEv _ _ _ .cores (by decide))
    refine ⟨_, exec_contextArm_of_unmapped hc (not_or.mpr ⟨h1, h2⟩) hm, .wlResult hcores _ _, ?_, ?_, ?_⟩
    · rw [core_wlResult_self]
      rfl
    · exact (congrArg ShardCtx.st hb.ctx).trans (st_armCheck_of_unmapped hm)
    · exact (congrArg (tabGet 0 · _) (cinder_setCtx _ _ _ _)).trans (cinder_unmapped _ _ _ _ _)
  · exact ⟨_, exec_contextDisarm_of_ended hc (not_or.mpr ⟨h1, h2⟩), onlyCore_wlResult _ _ _, core_wlResult_self _ _ _⟩
  · have hb := ctxBecame_setCtx s p k { (s.part p).wts.ctx k with st := cxAborted }
    obtain ho | ho := ((s.part p).wts.ctx k).opened.eq_false_or_eq_true.symm
    · refine ⟨_, exec_contextDisarm_of_reseal hc h ho, hb.ctx, ?_, hb.parts, .wlResult hb.cores _ _,
        fun _ => log_setCtx _ _ _ _, fun h => absurd (ho.symm.trans h) Bool.false_ne_true⟩
      rw [core_wlResult_self]
      rfl
    · have hl := hb.logEv p.isLt ((s.part p).wts.ctx k) (.inr rfl)
      refine ⟨_, exec_contextDisarm_of_opened hc h ho, hl.ctx, ?_, hl.parts, .wlResult hl.cores _ _,
        fun h => absurd (h.symm.trans ho) Bool.false_ne_true, fun _ => ⟨_,
        (log_logEv rfl p.isLt).trans (by rw [log_setCtx]), rfl, rfl⟩⟩
      rw [core_wlResult_self]
      rfl
  · have hb := ctxBecame_setCtx s p k { (s.part p).wts.ctx k with st := cxReady }
    exact ⟨_, exec_resealVerifyDone_of_match h ho ht, hb.ctx, hb.parts, hb.cores, log_setCtx _ _ _ _⟩
  · have hb := (ctxBecame_setCtx s p k { (s.part p).wts.ctx k with st := cxTagFail }).logEv p.isLt
      { (s.part p).wts.ctx k with source := s.moduleId } (.inl rfl)
    exact ⟨_, exec_resealVerifyDone_of_mismatch h ho ht, hb.ctx, hb.parts, hb.cores⟩
  · exact ⟨_, congrArg Host.Outcome.next (shardWrite_of_dropped rfl h), onlyPart_updPart _ _ _, part_updPart_self _ _ _⟩
  · have hy := ctxBecame_shardStored s p k ((s.part p).wts.ctx k) off bytes (((s.part p).wts.ctx k).received off bytes m)
    exact ⟨_, congrArg Host.Outcome.next (shardWrite_of_short rfl hs ho hl hb hn), hy.ctx, hy.parts, hy.layers, hy.cores,
      fun i hi hout => memByte_setCtx_shardStored hi hout⟩
  · have hlayer := layer_shardVerified s p k ((s.part p).wts.ctx k) off bytes m
    refine ⟨_, congrArg Host.Outcome.next (shardWrite_of_verified rfl hs ho hl hb hn ht), ctx_shardVerified _ _ _ _ _ _ _,
      partsBut_shardVerified _ _ _ _ _ _ _, fun hv => ?_, fun hv => hlayer.trans (if_pos hv)⟩
    rw [hlayer, if_neg (by rw [hv]; exact Bool.false_ne_true)]
    exact ⟨rfl, rfl⟩
  · have hy := (ctxBecame_shardStored s p k ((s.part p).wts.ctx k) off bytes
      { ((s.part p).wts.ctx k).received off bytes m with st := cxTagFail }).logEv p.isLt
      (((s.part p).wts.ctx k).received off bytes m) (.inl rfl)
    exact ⟨_, congrArg Host.Outcome.next (shardWrite_of_failed rfl hs ho hl hb hn ht), hy.ctx, hy.parts, hy.layers⟩
  · have hb := ctxBecame_setCtx s p k { (s.part p).wts.ctx k with count := (((s.part p).wts.ctx k).count + n) % 2 ^ 32 }
    exact ⟨_, exec_shardWindowRead_of_ready h hn, hb.parts, hb.ctx, List.mem_append_right _ (List.mem_singleton_self _)⟩
  · exact exec_shardWindowRead_of_refused h

end Sys2Proof.Machine
end

section
/-! PROOFS. Layers and the weight epoch (O34): LAYER_OPEN, SET, ARM and DISARM (R261, R263). -/

namespace Sys2Proof.Machine

open State

/-- No context of the partition is ARMED or READY: an ARM, a SET or an opened layer aborts none (R261). -/
def Weights.NoCtxActive (w : Weights) : Prop := ∀ e ∈ w.ctxs, e.2.st ≠ cxArmed ∧ e.2.st ≠ cxReady

theorem State.abortCtxs_of_none {s : State} {p : Nat} {f : ShardCtx → Bool} (h : ∀ e ∈ (s.part p).wts.ctxs, f e.2 = false) :
    s.abortCtxs p f = s := by
  rw [abortCtxs, List.filter_eq_nil_iff.mpr fun e he => by simp [h e he], List.foldl_nil]

theorem State.abortOpens_of_noCtxActive {s : State} {p : Nat} (h : (s.part p).wts.NoCtxActive) : s.abortOpens p = s :=
  abortCtxs_of_none fun e he => by simp [(h e he).1]

theorem part_updWts_self (s : State) (p : Nat) (f : Weights → Weights) :
    (s.updWts p f).part p = { s.part p with wts := f (s.part p).wts } := part_updPart_self _ _ _

theorem onlyPart_updWts (s : State) (p : Nat) (f : Weights → Weights) : OnlyPart p s (s.updWts p f) := onlyPart_updPart _ _ _

/-! ### LAYER_OPEN -/

/-- The PENDING part of a write to WL_LAYER: taken by an OPEN layer, ignored and counted by a CLOSED one (log entry 35). -/
def State.layerPending (s : State) (p l n : Nat) : State :=
  if ((s.part p).wts.layer l).opened then
    s.updWts p fun w => { w with layers := tabUpd {} w.layers l fun x => { x with pending := n } }
  else s.assistFence p

/-- A layer opened by a write to WL_LAYER (R261). -/
def State.layerOpened (s : State) (p l n : Nat) : State := (s.layerPending p l n).updWts p fun w =>
  { w with layers := tabUpd {} w.layers l fun x => { x with opened := true, verified := [] } }

section
variable (s : State) (p l n : Nat)

theorem State.part_layerPending : (s.layerPending p l n).part p = { s.part p with wts := { (s.part p).wts with
    layers := if ((s.part p).wts.layer l).opened then
      tabUpd {} (s.part p).wts.layers l fun x => { x with pending := n } else (s.part p).wts.layers } } := by
  unfold layerPending
  split
  · exact part_updWts_self _ _ _
  · rfl

theorem State.partsBut_layerOpened : PartsBut p s (s.layerOpened p l n) := fun q hq => by
  rw [layerOpened, updWts, part_updPart_ne _ _ hq, layerPending]
  split
  · exact part_updPart_ne _ _ hq
  · rfl

theorem State.mem_layerOpened : (s.layerOpened p l n).mem = s.mem := by
  unfold layerOpened layerPending
  split <;> rfl

theorem State.cores_layerOpened : (s.layerOpened p l n).cores = s.cores := by
  unfold layerOpened layerPending
  split <;> rfl

theorem State.ctxs_layerOpened : ((s.layerOpened p l n).part p).wts.ctxs = (s.part p).wts.ctxs := by
  rw [layerOpened, part_updWts_self, part_layerPending]

theorem State.layer_layerOpened_self : ((s.layerOpened p l n).part p).wts.layer l =
    { pending := if ((s.part p).wts.layer l).opened then n else ((s.part p).wts.layer l).pending, opened := true } := by
  rw [layerOpened, part_updWts_self, part_layerPending, Weights.layer]
  dsimp only
  rw [tabGet_tabUpd_self]
  split
  · rw [tabGet_tabUpd_self]
  · rfl

theorem State.layer_layerOpened_ne {j : Nat} (h : j ≠ l) :
    ((s.layerOpened p l n).part p).wts.layer j = (s.part p).wts.layer j := by
  rw [layerOpened, part_updWts_self, part_layerPending, Weights.layer]
  dsimp only
  rw [tabGet_tabUpd_ne _ _ _ h]
  split
  · exact tabGet_tabUpd_ne _ _ _ h
  · rfl

end

section
variable {s : State} {c : CoreId} {p : Nat} (hc : CoreActs s c p)
include hc

theorem exec_layerOpen_of_armed (l : Fin 256) (v : BitVec 16) (ha : (s.part p).wts.armed = true) :
    exec (.layerOpen c l v) s = .next (s.assistFence p) :=
  congrArg Host.Outcome.next ((byCore_of_acts s c p _ hc).trans (if_pos ha))

theorem exec_layerOpen_of_not_armed (l : Fin 256) (v : BitVec 16) (ha : (s.part p).wts.armed = false)
    (hn : (s.part p).wts.NoCtxActive) : exec (.layerOpen c l v) s = .next (s.layerOpened p l v.toNat) := by
  have habort : (s.layerOpened p l v.toNat).abortCtxs p
      (fun x => !x.opened && x.layer = l.val && (x.st = cxArmed || x.st = cxReady)) = s.layerOpened p l v.toNat := by
    refine abortCtxs_of_none fun e he => ?_
    rw [ctxs_layerOpened] at he
    simp [hn e he]
  exact congrArg Host.Outcome.next ((byCore_of_acts s c p _ hc).trans
    ((if_neg (by rw [ha]; exact Bool.false_ne_true)).trans habort))

end

/-! ### Refusals -/

section
variable (s : State) (p : Nat)

theorem onlyPart_epochRefused (e : Nat) : OnlyPart p s (s.epochRefused p e) := by
  unfold epochRefused
  dsimp only
  split
  · exact (onlyPart_updWts _ _ _).trans (onlyPart_updWts _ _ _)
  · exact onlyPart_updWts _ _ _

theorem part_epochRefused {e : Nat} (h : e ≠ eePending) :
    (s.epochRefused p e).part p = { s.part p with wts := { (s.part p).wts with errCode := e } } := by
  rw [epochRefused, if_neg h]
  exact part_updWts_self _ _ _

theorem part_epochRefused_pending {l : Nat} (h : (s.part p).wts.openPending = some l) : (s.epochRefused p eePending).part p =
    { s.part p with wts := { (s.part p).wts with errCode := eePending, errLayer := l } } := by
  have hl : { (s.part p).wts with errCode := eePending }.openPending = some l := h
  rw [epochRefused, if_pos rfl, part_updWts_self, epochErr, part_updWts_self]
  dsimp only
  rw [hl]
  rfl

end

section
variable {w : Weights} {e : Nat}

theorem Weights.epochRefuse_of_pending (h : w.openPending.isSome = true) (arm : Bool) : w.epochRefuse e arm = eePending := if_pos h

variable (h : w.openPending = none)
include h

theorem Weights.epochRefuse_of_none (arm : Bool) : w.epochRefuse e arm =
    if e = w.active then (if arm then eeNone else eeEpoch) else if e = w.prev then eeEpoch else eeNone :=
  if_neg (by rw [h]; exact Bool.false_ne_true)

theorem Weights.epochRefuse_set_of_active (ha : e = w.active) : w.epochRefuse e false = eeEpoch :=
  (epochRefuse_of_none h _).trans (if_pos ha)

theorem Weights.epochRefuse_of_prev (ha : e ≠ w.active) (hp : e = w.prev) (arm : Bool) : w.epochRefuse e arm = eeEpoch :=
  (epochRefuse_of_none h _).trans ((if_neg ha).trans (if_pos hp))

theorem Weights.epochRefuse_set_of_new (ha : e ≠ w.active) (hp : e ≠ w.prev) : w.epochRefuse e false = eeNone :=
  (epochRefuse_of_none h _).trans ((if_neg ha).trans (if_neg hp))

theorem Weights.epochRefuse_arm_of_ne_prev (hp : e ≠ w.prev) : w.epochRefuse e true = eeNone := by
  rw [epochRefuse_of_none h, if_pos rfl, if_neg hp, ite_self]

end

/-! ### SET, ARM and DISARM -/

/-- FB_EPOCH_CMD.SET as it takes effect (R263). -/
def State.epochTaken (s : State) (p e : Nat) (kv : Bool) : State := (s.updWts p fun w => w.takeEpoch e kv false).epochErr p eeNone

/-- A flip armed for the step in FB_EPOCH_STEP (R263). -/
def State.epochArmed (s : State) (p e : Nat) (kv : Bool) : State := (s.updWts p fun w =>
  { w with armed := true, next := e, nextKv := kv, armStep := w.stepReg, armSame := e = w.active }).epochErr p eeNone

theorem not_srvAccepts_of_planned {s : State} {p : Nat} (h : (s.part p).plan.st = .loading ∨ (s.part p).plan.st = .armed ∨
    (s.part p).plan.st = .running) : ¬ s.srvAccepts p = true := by
  rw [srvAccepts_iff]
  obtain h | h | h := h <;> rw [h] <;> decide

section
variable (s : State) (p e : Nat) (kv : Bool)

theorem onlyPart_epochTaken : OnlyPart p s (s.epochTaken p e kv) := by
  unfold epochTaken epochErr
  exact (onlyPart_updWts _ _ _).trans (onlyPart_updWts _ _ _)

theorem onlyPart_epochArmed : OnlyPart p s (s.epochArmed p e kv) := by
  unfold epochArmed epochErr
  exact (onlyPart_updWts _ _ _).trans (onlyPart_updWts _ _ _)

theorem part_epochTaken : (s.epochTaken p e kv).part p =
    { s.part p with wts := { (s.part p).wts.takeEpoch e kv false with errCode := eeNone } } := by
  rw [epochTaken, epochErr, part_updWts_self, part_updWts_self]

theorem part_epochArmed : (s.epochArmed p e kv).part p = { s.part p with wts := { (s.part p).wts with
    armed := true, next := e, nextKv := kv, armStep := (s.part p).wts.stepReg, armSame := e = (s.part p).wts.active
    errCode := eeNone } } := by
  rw [epochArmed, epochErr, part_updWts_self, part_updWts_self]

/-- An epoch change closes every layer (R263). -/
theorem Weights.opened_takeEpoch (w : Weights) (same : Bool) {l : Nat} (h : l < 256) :
    ((w.takeEpoch e kv same).layer l).opened = false := by
  have hl : (w.takeEpoch e kv same).layers = tabOf {} 256 fun l => { w.layer l with opened := false } := by
    unfold takeEpoch
    cases same <;> rfl
  rw [Weights.layer, hl, tabGet_tabOf, if_pos h]

end

section
variable {s : State} {c : CoreId} {p : Nat} (hc : CoreActs s c p) (e : Byte) (kv : Bool)
include hc

theorem exec_epochSet_of_busy (ha : ¬ s.srvAccepts p = true) : exec (.epochSet c e kv) s = .next (s.epochRefused p eeState) :=
  congrArg Host.Outcome.next ((byCore_of_acts s c p _ hc).trans (if_pos ha))

theorem exec_epochSet_of_refused (ha : s.srvAccepts p = true) {code : Nat}
    (hr : (s.part p).wts.epochRefuse e.toNat false = code) (hn : code ≠ eeNone) :
    exec (.epochSet c e kv) s = .next (s.epochRefused p code) := by
  subst hr
  exact congrArg Host.Outcome.next ((byCore_of_acts s c p _ hc).trans ((if_neg (not_not.mpr ha)).trans (if_pos hn)))

theorem exec_epochSet_of_taken (ha : s.srvAccepts p = true) (hr : (s.part p).wts.epochRefuse e.toNat false = eeNone)
    (hn : (s.part p).wts.NoCtxActive) : exec (.epochSet c e kv) s = .next (s.epochTaken p e.toNat kv) := by
  refine congrArg Host.Outcome.next ((byCore_of_acts s c p _ hc).trans ((if_neg (not_not.mpr ha)).trans
    ((if_neg (not_not.mpr hr)).trans ?_)))
  rw [abortOpens_of_noCtxActive hn, epochTaken]

theorem exec_epochArm_of_armed (ha : (s.part p).wts.armed = true) :
    exec (.epochArm c e kv) s = .next (s.epochRefused p eeState) :=
  congrArg Host.Outcome.next ((byCore_of_acts s c p _ hc).trans (if_pos ha))

variable (ha : (s.part p).wts.armed = false)
include ha

theorem exec_epochArm_of_pending (hp : (s.part p).wts.openPending.isSome = true) :
    exec (.epochArm c e kv) s = .next (s.epochRefused p eePending) :=
  congrArg Host.Outcome.next ((byCore_of_acts s c p _ hc).trans ((if_neg (by rw [ha]; exact Bool.false_ne_true)).trans (if_pos hp)))

variable (hp : (s.part p).wts.openPending = none)
include hp

theorem exec_epochArm_of_early (hs : (s.part p).wts.stepReg < (s.part p).frame.target) :
    exec (.epochArm c e kv) s = .next (s.epochRefused p eeStep) :=
  congrArg Host.Outcome.next ((byCore_of_acts s c p _ hc).trans ((if_neg (by rw [ha]; exact Bool.false_ne_true)).trans
    ((if_neg (by rw [hp]; exact Bool.false_ne_true)).trans (if_pos hs))))

variable (hs : (s.part p).frame.target ≤ (s.part p).wts.stepReg)
include hs

theorem exec_epochArm_of_refused {code : Nat} (hr : (s.part p).wts.epochRefuse e.toNat true = code) (hn : code ≠ eeNone) :
    exec (.epochArm c e kv) s = .next (s.epochRefused p code) := by
  subst hr
  exact congrArg Host.Outcome.next ((byCore_of_acts s c p _ hc).trans ((if_neg (by rw [ha]; exact Bool.false_ne_true)).trans
    ((if_neg (by rw [hp]; exact Bool.false_ne_true)).trans ((if_neg (Nat.not_lt.mpr hs)).trans (if_pos hn)))))

theorem exec_epochArm_of_taken (hr : (s.part p).wts.epochRefuse e.toNat true = eeNone) (hn : (s.part p).wts.NoCtxActive) :
    exec (.epochArm c e kv) s = .next (s.epochArmed p e.toNat kv) := by
  refine congrArg Host.Outcome.next ((byCore_of_acts s c p _ hc).trans ((if_neg (by rw [ha]; exact Bool.false_ne_true)).trans
    ((if_neg (by rw [hp]; exact Bool.false_ne_true)).trans ((if_neg (Nat.not_lt.mpr hs)).trans
      ((if_neg (not_not.mpr hr)).trans ?_)))))
  rw [abortOpens_of_noCtxActive hn, epochArmed]

end

theorem exec_epochDisarm_eq {s : State} {c : CoreId} {p : Nat} (hc : CoreActs s c p) :
    exec (.epochDisarm c) s = .next ((s.cancelFlip p).epochErr p eeNone) :=
  congrArg Host.Outcome.next (byCore_of_acts s c p _ hc)

/-- With no LIVE handle a cancelled flip has no record to return to FREE (R263, R272). -/
theorem State.cancelFlip_of_no_handles {s : State} {p : Nat} (h : (s.part p).wts.handles = []) :
    OnlyPart p s (s.cancelFlip p) ∧
      (s.cancelFlip p).part p = { s.part p with wts := { (s.part p).wts with armed := false } } := by
  cases ha : (s.part p).wts.armed with
  | true =>
    have hu : s.cancelFlip p = s.updWts p fun w => { w with armed := false } := by
      rw [cancelFlip, if_pos ha]
      dsimp only
      rw [part_updWts_self]
      dsimp only
      rw [h, List.foldl_nil]
    rw [hu]
    exact ⟨onlyPart_updWts _ _ _, part_updWts_self _ _ _⟩
  | false =>
    rw [cancelFlip_of_not_armed s p ha, ← ha]
    exact ⟨.refl _ _, rfl⟩

end Sys2Proof.Machine
end

section
/-! PROOFS. The entries of the overlay table (O34): what a command writes in one, and its generation records read back (R270). -/

namespace Sys2Proof.Machine

open State

/-! ### Answers -/

section
variable {s t : State} {c code : Nat}

theorem onlyCore_ovEnd (s : State) (c code : Nat) : OnlyCore c s (s.ovEnd c code) := onlyCore_updCore _ _ _

theorem core_ovEnd_self (s : State) (c code : Nat) :
    (s.ovEnd c code).core c = { s.core c with reg := { (s.core c).reg with ovCode := code } } := core_updCore_self _ _ _

/-- A command that is refused answers its code and changes nothing else (R271). -/
theorem ends_of_ovEnd {i : Instr} (h : exec i s = .next (s.ovEnd c code)) : ∃ t, exec i s = .next t ∧ OnlyCore c s t ∧
    t.core c = { s.core c with reg := { (s.core c).reg with ovCode := code } } :=
  ⟨_, h, onlyCore_ovEnd _ _ _, core_ovEnd_self _ _ _⟩

theorem coresBut_ovDone (h : t.cores = s.cores) (c : Nat) (gen : Option Nat) (pins : Nat) : CoresBut c s (t.ovDone c gen pins) :=
  fun j hj => (core_updCore_ne _ _ hj).trans (by rw [State.core, h, State.core])

theorem core_ovDone_self (h : t.cores = s.cores) (c : Nat) (gen : Option Nat) (pins : Nat) : (t.ovDone c gen pins).core c =
    { s.core c with reg := { (s.core c).reg with
      ovCode := ovOk, ovGen := gen.getD (s.core c).reg.ovGen, ovPins := pins } } := by
  have hcore : t.core c = s.core c := by rw [State.core, h, State.core]
  rw [ovDone, core_updCore_self, hcore]

theorem pLe_ovDone (s : State) (c : Nat) (gen : Option Nat) (pins p a n : Nat) :
    (s.ovDone c gen pins).pLe p a n = s.pLe p a n := rfl

theorem part_ovDone (s : State) (c : Nat) (gen : Option Nat) (pins q : Nat) :
    (s.ovDone c gen pins).part q = s.part q := rfl

theorem memByte_ovDone (s : State) (c : Nat) (gen : Option Nat) (pins x : Nat) :
    (s.ovDone c gen pins).memByte x = s.memByte x := rfl

end

/-- A number in the partition's memory is no part of the partition's registers. -/
theorem State.pLe_updWts {s : State} {p a n : Nat} (h : s.mappedRange p a n = true) (f : Weights → Weights) :
    (s.updWts p f).pLe p a n = s.pLe p a n := by
  have hu : (s.updWts p f).mappedRange p a n = true := (mappedRange_of_groups (s := s) (t := s.updWts p f) rfl _ _ _).trans h
  rw [pLe_of_mapped hu, pLe_of_mapped h]
  rfl

theorem State.anyRange_of_mappedRange {s : State} {p a n : Nat} (h : s.mappedRange p a n = true) : s.anyRange p a n = true := by
  rw [anyRange, List.all_eq_true]
  intro b hb
  have hm := mpa_reach_of_mapped (List.all_eq_true.mp h b hb)
  refine bne_iff_ne.mpr fun hr => ?_
  rw [hr] at hm
  cases hm

/-! ### Pins counted -/

/-- The generation records lie in bytes 8 to 39 of an entry, 16 bytes each (R270). -/
theorem ovRec_bounds (b : Bool) : 8 ≤ ovRec b ∧ ovRec b + 16 ≤ 40 := by cases b <;> decide

theorem ovRec_apart (b : Bool) : ovRec (!b) + 16 ≤ ovRec b ∨ ovRec b + 16 ≤ ovRec (!b) := by cases b <;> decide

/-- PINS of a generation record set (R271). -/
def State.setPins (s : State) (p a : Nat) (b : Bool) (n : Nat) : State := s.pWrLe p (a + ovRec b + 2) 2 n

theorem same_setPins (s : State) (p a : Nat) (b : Bool) (n : Nat) : Same memParts s (s.setPins p a b n) := same_putMem _ _ _ _ _

theorem memByte_setPins_out {s : State} {p a n x : Nat} {b : Bool} (h : x < a + ovRec b + 2 ∨ a + ovRec b + 4 ≤ x) :
    (s.setPins p a b n).memByte x = s.memByte x := memByte_pWrLe_out h

theorem ovPins_setPins {s : State} {p a n : Nat} {b : Bool} (h : s.mappedRange p a 64 = true) (hn : n < 65536) :
    (s.setPins p a b n).ovPins p a b = n := by
  obtain ⟨h8, h16⟩ := ovRec_bounds b
  exact (pLe_pWrLe (mappedRange_sub h (by omega) (by omega)) n).trans (Nat.mod_eq_of_lt hn)

theorem ovPins_lt {s : State} {p a : Nat} {b : Bool} (h : s.mappedRange p a 64 = true) : s.ovPins p a b < 65536 := by
  obtain ⟨h8, h16⟩ := ovRec_bounds b
  exact pLe_lt (mappedRange_sub h (by omega) (by omega))

/-- The record of an entry that an UNPIN of generation `g` finds (R271). -/
def State.ovPinned (s : State) (p a g : Nat) : Option Bool :=
  s.ovFind fun b => s.ovGst p a b ≠ gFree && s.ovGen p a b = g && 0 < s.ovPins p a b

/-! ### A generation installed -/

/-- A generation record with no pins (R270). -/
def genRecord (g gst table : Nat) : List Byte := leBytes 1 g ++ leBytes 1 gst ++ leBytes 2 0 ++ leBytes 4 0 ++ leBytes 8 table

@[simp] theorem length_genRecord (g gst table : Nat) : (genRecord g gst table).length = 16 := by simp [genRecord]

section
variable (g gst table : Nat)

theorem leNat_gen_genRecord : leNat (((genRecord g gst table).drop 0).take 1) = g % 256 := leNat_leBytes_mod 1 g

theorem leNat_gst_genRecord : leNat (((genRecord g gst table).drop 1).take 1) = gst % 256 := leNat_leBytes_mod 1 gst

theorem leNat_pins_genRecord : leNat (((genRecord g gst table).drop 2).take 2) = 0 := rfl

theorem leNat_table_genRecord : leNat (((genRecord g gst table).drop 8).take 8) = table % 2 ^ 64 := leNat_leBytes_mod 8 table

end

/-- What INSTALL writes in an entry: that it is LIVE, its tenant, and a generation record (R270, R271). -/
def State.ovInstalled (s : State) (p a : Nat) (b : Bool) (g gst tenant table : Nat) : State :=
  ((s.pWrLe p a 1 1).pWrLe p (a + 2) 2 tenant).putMem p (a + ovRec b) (genRecord g gst table)

section
variable {s : State} {p a : Nat} (h : s.mappedRange p a 64 = true) (b : Bool) (g gst tenant table : Nat)

theorem same_ovInstalled (s : State) (p a : Nat) (b : Bool) (g gst tenant table : Nat) :
    Same memParts s (s.ovInstalled p a b g gst tenant table) :=
  ((same_putMem _ _ _ _ _).trans (same_putMem _ _ _ _ _)).trans (same_putMem _ _ _ _ _)

theorem memByte_ovInstalled_out {x : Nat} (hx : x < a ∨ a + 64 ≤ x) :
    (s.ovInstalled p a b g gst tenant table).memByte x = s.memByte x := by
  obtain ⟨h8, h16⟩ := ovRec_bounds b
  rw [ovInstalled, memByte_putMem_out (by rw [length_genRecord]; omega), memByte_pWrLe_out (by omega),
    memByte_pWrLe_out (by omega)]

include h

/-- A field of the generation record that INSTALL wrote. -/
theorem pLe_ovInstalled_record {o n : Nat} (hn : o + n ≤ 16) : (s.ovInstalled p a b g gst tenant table).pLe p (a + ovRec b + o) n =
    leNat (((genRecord g gst table).drop o).take n) := by
  obtain ⟨h8, h16⟩ := ovRec_bounds b
  refine pLe_putMem ((Within.refl p s).pWrLe.pWrLe.mappedRange _ _ _ |>.trans (mappedRange_sub h (by omega) (by omega))) ?_
  rwa [length_genRecord]

theorem ovGen_ovInstalled : (s.ovInstalled p a b g gst tenant table).ovGen p a b = g % 256 :=
  (pLe_ovInstalled_record h b g gst tenant table (o := 0) (by decide)).trans (leNat_gen_genRecord _ _ _)

theorem ovGst_ovInstalled : (s.ovInstalled p a b g gst tenant table).ovGst p a b = gst % 256 :=
  (pLe_ovInstalled_record h b g gst tenant table (o := 1) (by decide)).trans (leNat_gst_genRecord _ _ _)

theorem ovPins_ovInstalled : (s.ovInstalled p a b g gst tenant table).ovPins p a b = 0 :=
  (pLe_ovInstalled_record h b g gst tenant table (o := 2) (by decide)).trans (leNat_pins_genRecord _ _ _)

theorem table_ovInstalled : (s.ovInstalled p a b g gst tenant table).pLe p (a + ovRec b + 8) 8 = table % 2 ^ 64 :=
  (pLe_ovInstalled_record h b g gst tenant table (o := 8) (by decide)).trans (leNat_table_genRecord _ _ _)

theorem tenant_ovInstalled : (s.ovInstalled p a b g gst tenant table).pLe p (a + 2) 2 = tenant % 65536 := by
  obtain ⟨h8, h16⟩ := ovRec_bounds b
  have hm := mappedRange_sub h (b := a + 2) (m := 2) (by omega) (by omega)
  exact (pLe_putMem_out ((Within.refl p s).pWrLe.pWrLe.mappedRange _ _ _ |>.trans hm) (.inl (by omega))).trans
    (pLe_pWrLe ((Within.refl p s).pWrLe.mappedRange _ _ _ |>.trans hm) _)

/-- INSTALL leaves the other generation record as it is (R271). -/
theorem pLe_ovInstalled_other {o n : Nat} (hn : o + n ≤ 16) :
    (s.ovInstalled p a b g gst tenant table).pLe p (a + ovRec (!b) + o) n = s.pLe p (a + ovRec (!b) + o) n := by
  obtain ⟨h8, h16⟩ := ovRec_bounds (!b)
  have hap := ovRec_apart b
  have hm := mappedRange_sub h (b := a + ovRec (!b) + o) (m := n) (by omega) (by omega)
  have hm1 := (Within.refl p s).pWrLe (a := a) (n := 1) (v := 1) |>.mappedRange _ _ _ |>.trans hm
  have hm2 := (Within.refl p s).pWrLe (a := a) (n := 1) (v := 1) |>.pWrLe (a := a + 2) (n := 2) (v := tenant)
    |>.mappedRange _ _ _ |>.trans hm
  rw [ovInstalled, pLe_putMem_out hm2 (by rw [length_genRecord]; omega), pLe_pWrLe_out hm1 (by omega),
    pLe_pWrLe_out hm (by omega)]

end

/-! ### An entry made LIVE -/

/-- A free entry is cleared, and its handle becomes LIVE (R271). -/
def State.ovCleared (s : State) (p a h : Nat) : State :=
  (s.putMem p a (List.replicate 64 0#8)).updWts p fun w => { w with handles := w.handles ++ [h] }

section
variable {s : State} {p a : Nat} (h : Nat)

theorem cores_ovCleared : (s.ovCleared p a h).cores = s.cores := same_putMem s p a _ false .cores (by decide)

theorem mappedRange_ovCleared (hm : s.mappedRange p a 64 = true) : (s.ovCleared p a h).mappedRange p a 64 = true := by
  have hg : (s.ovCleared p a h).groups = s.groups := groups_putMem _ _ _ _ _
  rw [mappedRange_of_groups hg, hm]

theorem partsBut_ovCleared : PartsBut p s (s.ovCleared p a h) := fun q hq =>
  (part_updPart_ne _ _ hq).trans ((same_putMem _ _ _ _ _).part (by decide) q)

theorem wts_ovCleared :
    ((s.ovCleared p a h).part p).wts = { (s.part p).wts with handles := (s.part p).wts.handles ++ [h] } := by
  rw [ovCleared, part_updWts_self, (same_putMem _ _ _ _ _).part (by decide)]

theorem memByte_ovCleared_out {x : Nat} (hx : x < a ∨ a + 64 ≤ x) : (s.ovCleared p a h).memByte x = s.memByte x :=
  memByte_putMem_out (by rwa [List.length_replicate])

theorem ovGst_ovCleared (hm : s.mappedRange p a 64 = true) (b : Bool) : (s.ovCleared p a h).ovGst p a b = 0 := by
  obtain ⟨h8, h16⟩ := ovRec_bounds b
  have hgst := mappedRange_sub hm (b := a + (ovRec b + 1)) (m := 1) (by omega) (by omega)
  have hput : (s.putMem p a (List.replicate 64 0#8)).mappedRange p (a + (ovRec b + 1)) 1 = true :=
    (mappedRange_of_groups (groups_putMem _ _ _ _ _) _ _ _).trans hgst
  have hzero : leNat (((List.replicate 64 0#8).drop (ovRec b + 1)).take 1) = 0 := by cases b <;> rfl
  exact (pLe_updWts hput _).trans ((pLe_putMem hgst (by rw [List.length_replicate]; omega)).trans hzero)

end

end Sys2Proof.Machine
end

section
/-! PROOFS. The commands on overlay handles: INSTALL, PIN, UNPIN and WITHDRAW (R270, R271), and the obligation on epochs and
overlays (O34). -/

namespace Sys2Proof.Machine

open State

section
variable {s : State} {c : CoreId} {p : Nat} (hc : CoreActs s c p)
include hc

theorem State.ovCommand_of_unlisted {h : Nat} (hh : h = 0 ∨ (s.part p).wts.ovCount ≤ h) (none_ : Nat) (f : Nat → Nat → State) :
    s.ovCommand c h none_ f = s.ovEnd c none_ :=
  (byCore_of_acts s c p _ hc).trans (if_pos hh)

variable {h : BitVec 24} (h0 : 0 < h.toNat) (hn : h.toNat < (s.part p).wts.ovCount)
  (hm : s.mappedRange p (s.ovAddr p h.toNat) 64 = true)
include h0 hn hm

theorem State.ovCommand_of_listed (none_ : Nat) (f : Nat → Nat → State) :
    s.ovCommand c h.toNat none_ f = f p (s.ovAddr p h.toNat) := by
  have hlisted : ¬ (h.toNat = 0 ∨ (s.part p).wts.ovCount ≤ h.toNat) := by omega
  exact (byCore_of_acts s c p _ hc).trans ((if_neg hlisted).trans (if_neg (not_not.mpr (anyRange_of_mappedRange hm))))

/-! ### INSTALL -/

section
variable {f : Bool} {ten : BitVec 16}

theorem exec_install_of_tenant (hl : (s.part p).wts.handles.contains h.toNat = true)
    (ht : s.pLe p (s.ovAddr p h.toNat + 2) 2 ≠ ten.toNat) : exec (.install c h f ten) s = .next (s.ovEnd c ovTenant) :=
  congrArg Host.Outcome.next ((ovCommand_of_listed hc h0 hn hm _ _).trans (if_pos ⟨hl, ht⟩))

theorem exec_install_of_two_live (hl : (s.part p).wts.handles.contains h.toNat = true)
    (ht : s.pLe p (s.ovAddr p h.toNat + 2) 2 = ten.toNat)
    (hf : s.ovFind (fun b => s.ovGst p (s.ovAddr p h.toNat) b = gFree) = none) :
    exec (.install c h f ten) s = .next (s.ovEnd c ovTwoLive) := by
  refine congrArg Host.Outcome.next ((ovCommand_of_listed hc h0 hn hm _ _).trans ((if_neg fun k => k.2 ht).trans ?_))
  rw [if_pos hl, hf]

theorem exec_install_of_live (hl : (s.part p).wts.handles.contains h.toNat = true)
    (ht : s.pLe p (s.ovAddr p h.toNat + 2) 2 = ten.toNat) {b : Bool}
    (hf : s.ovFind (fun b => s.ovGst p (s.ovAddr p h.toNat) b = gFree) = some b) (ha : f = true → (s.part p).wts.armed = true) :
    let g := nextGen (newerGen (s.ovGen p (s.ovAddr p h.toNat) false) (s.ovGen p (s.ovAddr p h.toNat) true))
    exec (.install c h f ten) s = .next ((s.ovInstalled p (s.ovAddr p h.toNat) b g (if f then gAtFlip else gPending) ten.toNat
      (s.core c).reg.ovArg).ovDone c (some g) 0) := by
  refine congrArg Host.Outcome.next ((ovCommand_of_listed hc h0 hn hm _ _).trans ((if_neg fun k => k.2 ht).trans ?_))
  rw [if_pos hl, hf]
  dsimp only
  rw [if_neg fun k => k.2 (ha k.1), if_pos hl, if_pos hl]
  rfl

section
variable (hl : (s.part p).wts.handles.contains h.toNat = false)
include hl

theorem exec_install_of_not_armed (ha : (s.part p).wts.armed = false) :
    exec (.install c h true ten) s = .next (s.ovEnd c ovState) := by
  refine congrArg Host.Outcome.next ((ovCommand_of_listed hc h0 hn hm _ _).trans
    ((if_neg fun k => absurd (hl.symm.trans k.1) Bool.false_ne_true).trans ?_))
  rw [hl, if_neg Bool.false_ne_true]
  exact if_pos ⟨rfl, by rw [ha]; exact Bool.false_ne_true⟩

theorem exec_install_of_free (ha : f = true → (s.part p).wts.armed = true) : exec (.install c h f ten) s =
    .next (((s.ovCleared p (s.ovAddr p h.toNat) h.toNat).ovInstalled p (s.ovAddr p h.toNat) false 1
      (if f then gAtFlip else gPending) ten.toNat (s.core c).reg.ovArg).ovDone c (some 1) 0) := by
  have hcore : (s.ovCleared p (s.ovAddr p h.toNat) h.toNat).core c = s.core c := by
    rw [State.core, cores_ovCleared, State.core]
  refine congrArg Host.Outcome.next ((ovCommand_of_listed hc h0 hn hm _ _).trans
    ((if_neg fun k => absurd (hl.symm.trans k.1) Bool.false_ne_true).trans ?_))
  rw [hl, if_neg Bool.false_ne_true]
  dsimp only
  rw [if_neg fun k => k.2 (ha k.1), if_neg Bool.false_ne_true, if_neg Bool.false_ne_true, ← hcore]
  rfl

end

/-- What INSTALL of a free handle leaves (R271). -/
theorem install_of_free_does (hl : (s.part p).wts.handles.contains h.toNat = false)
    (hf : f = true → (s.part p).wts.armed = true) : let a := s.ovAddr p h.toNat
    ∃ t, exec (.install c h f ten) s = .next t ∧ PartsBut p s t ∧ CoresBut c s t ∧
      (t.part p).wts = { (s.part p).wts with handles := (s.part p).wts.handles ++ [h.toNat] } ∧
      t.core c = { s.core c with reg := { (s.core c).reg with ovCode := ovOk, ovGen := 1, ovPins := 0 } } ∧
      t.ovGst p a false = (if f then gAtFlip else gPending) ∧ t.ovGen p a false = 1 ∧ t.ovPins p a false = 0 ∧
      t.ovGst p a true = gFree ∧ t.pLe p (a + 2) 2 = ten.toNat ∧ t.pLe p (a + 0x10) 8 = (s.core c).reg.ovArg % 2 ^ 64 ∧
      ∀ x, x < a ∨ a + 64 ≤ x → t.memByte x = s.memByte x := by
  have hu := mappedRange_ovCleared h.toNat hm
  have hs := same_ovInstalled (s.ovCleared p (s.ovAddr p h.toNat) h.toNat) p (s.ovAddr p h.toNat) false 1
    (if f then gAtFlip else gPending) ten.toNat (s.core c).reg.ovArg
  have hcores := (hs .cores (by decide)).trans (cores_ovCleared _)
  refine ⟨_, exec_install_of_free hc h0 hn hm hl hf, fun q hq =>
    (part_ovDone _ _ _ _ _).trans ((hs.part (by decide) q).trans (partsBut_ovCleared _ q hq)), coresBut_ovDone hcores _ _ _,
    (congrArg Part.wts ((part_ovDone _ _ _ _ _).trans (hs.part (by decide) p))).trans (wts_ovCleared _), core_ovDone_self hcores _ _ _,
    (pLe_ovDone _ _ _ _ _ _ _).trans ?_, (pLe_ovDone _ _ _ _ _ _ _).trans ?_,
    (pLe_ovDone _ _ _ _ _ _ _).trans ?_, (pLe_ovDone _ _ _ _ _ _ _).trans ?_, (pLe_ovDone _ _ _ _ _ _ _).trans ?_,
    (pLe_ovDone _ _ _ _ _ _ _).trans ?_, fun x hx => (memByte_ovDone _ _ _ _ _).trans ?_⟩
  · exact (ovGst_ovInstalled hu _ _ _ _ _).trans (by cases f <;> rfl)
  · exact ovGen_ovInstalled hu _ _ _ _ _
  · exact ovPins_ovInstalled hu _ _ _ _ _
  · exact (pLe_ovInstalled_other hu false 1 _ _ _ (o := 1) (by decide)).trans (ovGst_ovCleared _ hm true)
  · exact (tenant_ovInstalled hu _ _ _ _ _).trans (Nat.mod_eq_of_lt ten.isLt)
  · exact table_ovInstalled hu _ _ _ _ _
  · exact (memByte_ovInstalled_out _ _ _ _ _ hx).trans (memByte_ovCleared_out _ hx)

/-- What INSTALL of a LIVE handle leaves (R271). -/
theorem install_of_live_does (hl : (s.part p).wts.handles.contains h.toNat = true)
    (ht : s.pLe p (s.ovAddr p h.toNat + 2) 2 = ten.toNat) {b : Bool}
    (hb : s.ovFind (fun b => s.ovGst p (s.ovAddr p h.toNat) b = gFree) = some b) (hf : f = true → (s.part p).wts.armed = true) :
    let a := s.ovAddr p h.toNat
    let g := nextGen (newerGen (s.ovGen p a false) (s.ovGen p a true))
    ∃ t, exec (.install c h f ten) s = .next t ∧ t.parts = s.parts ∧ CoresBut c s t ∧
      t.core c = { s.core c with reg := { (s.core c).reg with ovCode := ovOk, ovGen := g, ovPins := 0 } } ∧
      t.ovGst p a b = (if f then gAtFlip else gPending) ∧ t.ovGen p a b = g % 256 ∧ t.ovPins p a b = 0 ∧
      t.ovGst p a (!b) = s.ovGst p a (!b) ∧ t.ovPins p a (!b) = s.ovPins p a (!b) := by
  intro a g
  have hs := same_ovInstalled s p (s.ovAddr p h.toNat) b g (if f then gAtFlip else gPending) ten.toNat (s.core c).reg.ovArg
  have hcores := hs .cores (by decide)
  refine ⟨_, exec_install_of_live hc h0 hn hm hl ht hb hf, hs .parts (by decide), coresBut_ovDone hcores _ _ _,
    core_ovDone_self hcores _ _ _, (pLe_ovDone _ _ _ _ _ _ _).trans ?_, (pLe_ovDone _ _ _ _ _ _ _).trans ?_,
    (pLe_ovDone _ _ _ _ _ _ _).trans ?_, (pLe_ovDone _ _ _ _ _ _ _).trans ?_, (pLe_ovDone _ _ _ _ _ _ _).trans ?_⟩
  · exact (ovGst_ovInstalled hm _ _ _ _ _).trans (by cases f <;> rfl)
  · exact ovGen_ovInstalled hm _ _ _ _ _
  · exact ovPins_ovInstalled hm _ _ _ _ _
  · exact pLe_ovInstalled_other hm b g _ _ _ (o := 1) (by decide)
  · exact pLe_ovInstalled_other hm b g _ _ _ (o := 2) (by decide)

end

/-! ### PIN, UNPIN and WITHDRAW -/

section
variable (hf : s.ovCur p h.toNat (s.ovAddr p h.toNat) = none)
include hf

theorem exec_pin_of_none : exec (.pin c h) s = .next (s.ovEnd c ovNone) := by
  refine congrArg Host.Outcome.next ((ovCommand_of_listed hc h0 hn hm _ _).trans ?_)
  rw [hf]

theorem exec_withdraw_of_none : exec (.withdraw c h) s = .next (s.ovEnd c ovNone) := by
  refine congrArg Host.Outcome.next ((ovCommand_of_listed hc h0 hn hm _ _).trans ?_)
  rw [hf]

end

section
variable {b : Bool} (hf : s.ovCur p h.toNat (s.ovAddr p h.toNat) = some b)
include hf

theorem exec_pin_of_saturated (hp : s.ovPins p (s.ovAddr p h.toNat) b = 65535) :
    exec (.pin c h) s = .next (s.ovEnd c ovSaturated) := by
  refine congrArg Host.Outcome.next ((ovCommand_of_listed hc h0 hn hm _ _).trans ?_)
  rw [hf]
  exact if_pos hp.ge

theorem exec_pin_of_lt (hp : s.ovPins p (s.ovAddr p h.toNat) b < 65535) : let a := s.ovAddr p h.toNat
    exec (.pin c h) s = .next ((s.setPins p a b (s.ovPins p a b + 1)).ovDone c (some (s.ovGen p a b)) (s.ovPins p a b + 1)) := by
  refine congrArg Host.Outcome.next ((ovCommand_of_listed hc h0 hn hm _ _).trans ?_)
  rw [hf]
  exact if_neg (Nat.not_le.mpr hp)

theorem exec_withdraw_of_some : exec (.withdraw c h) s =
    .next ((s.updWts p fun w => { w with withdraw := h.toNat :: w.withdraw.filter fun x => x ≠ h.toNat }).ovDone c none
      (s.ovPins p (s.ovAddr p h.toNat) b)) := by
  refine congrArg Host.Outcome.next ((ovCommand_of_listed hc h0 hn hm _ _).trans ?_)
  rw [hf]

end

theorem exec_unpin_of_none {g : Byte} (hf : (s.part p).wts.handles.contains h.toNat = false ∨
    s.ovPinned p (s.ovAddr p h.toNat) g.toNat = none) : exec (.unpin c h g) s = .next (s.ovEnd c ovState) := by
  have hfound : (if (s.part p).wts.handles.contains h.toNat then s.ovPinned p (s.ovAddr p h.toNat) g.toNat else none) = none := by
    obtain hf | hf := hf
    · rw [hf, if_neg Bool.false_ne_true]
    · rw [hf, ite_self]
  refine congrArg Host.Outcome.next ((ovCommand_of_listed hc h0 hn hm _ _).trans ?_)
  unfold ovPinned at hfound
  dsimp only
  rw [hfound]

theorem exec_unpin_of_some {g : Byte} {b : Bool} (hl : (s.part p).wts.handles.contains h.toNat = true)
    (hf : s.ovPinned p (s.ovAddr p h.toNat) g.toNat = some b) : let a := s.ovAddr p h.toNat
    exec (.unpin c h g) s = .next ((s.setPins p a b (s.ovPins p a b - 1)).ovDone c none (s.ovPins p a b - 1)) := by
  refine congrArg Host.Outcome.next ((ovCommand_of_listed hc h0 hn hm _ _).trans ?_)
  unfold ovPinned at hf
  dsimp only
  rw [if_pos hl, hf]
  rfl

end

/-! ### The obligation -/

/-- Settles O34: each command of the epoch registers and of the overlay table ends in a refusal that sets one code, or in one
change whose parts are read back. -/
theorem epochsAndOverlaysFollowTheirCommands : Obligations.EpochsAndOverlaysFollowTheirCommands := by
  unfold Obligations.EpochsAndOverlaysFollowTheirCommands
  refine ⟨fun s c p hc => ⟨fun l v ha hn => ?_, fun e kv ho hp => ⟨fun hst hact hn => ?_, fun ha hs hn => ?_⟩,
    fun l v ha => ?_, fun e kv i hi hset harm => ⟨fun l ho => ?_, fun ho hs hi => ?_, fun ho hs he => ?_⟩,
    fun e kv hst => ?_, fun e kv ha => ?_, fun hh => ?_⟩, fun s c p h hc => ⟨fun hu => ?_, fun h0 hn hm => ⟨fun f ten hf =>
      ⟨fun hl => ?_, fun hl ht b hb => ?_⟩, fun f ten hl ht => ?_, fun f hl h1 h2 => ?_, fun ten hl ha => ?_, fun hcur => ?_,
      fun b hcur => ⟨fun hp => ?_, fun hp => ?_, ?_⟩, fun g => ⟨fun hg => ?_, fun hl b hb => ?_⟩⟩⟩⟩
  · exact ⟨_, exec_layerOpen_of_not_armed hc l v ha hn, partsBut_layerOpened _ _ _ _, layer_layerOpened_self _ _ _ _,
      fun j hj => layer_layerOpened_ne _ _ _ _ hj, cores_layerOpened _ _ _ _, mem_layerOpened _ _ _ _⟩
  · have ht := part_epochTaken s p e.toNat kv
    refine ⟨_, exec_epochSet_of_taken hc e kv ((srvAccepts_iff s p).mpr hst) (Weights.epochRefuse_set_of_new ho hact hp) hn,
      onlyPart_epochTaken _ _ _ _, congrArg (·.wts.active) ht, congrArg (·.wts.prev) ht, congrArg (·.wts.kvCompat) ht,
      congrArg (·.wts.errCode) ht, fun l hl => ?_⟩
    exact (congrArg (fun P : Part => (P.wts.layer l).opened) ht).trans (Weights.opened_takeEpoch _ _ _ _ hl)
  · exact ⟨_, exec_epochArm_of_taken hc e kv ha ho hs (Weights.epochRefuse_arm_of_ne_prev ho hp) hn, onlyPart_epochArmed _ _ _ _,
      part_epochArmed _ _ _ _⟩
  · obtain ⟨hsame, -, hcount⟩ := fenceInc_counts s kAssist p
    exact ⟨_, exec_layerOpen_of_armed hc l v ha, hsame, hcount⟩
  · refine ⟨_, ?_, onlyPart_epochRefused _ _ _, part_epochRefused_pending _ _ ho⟩
    obtain rfl | rfl := hi
    · exact exec_epochArm_of_pending hc e kv (harm.resolve_right nofun) (by rw [ho]; rfl)
    · exact exec_epochSet_of_refused hc e kv (hset.resolve_right nofun)
        (Weights.epochRefuse_of_pending (by rw [ho]; rfl) _) (by decide)
  · subst hi
    exact ⟨_, exec_epochArm_of_early hc e kv (harm.resolve_right nofun) ho hs, onlyPart_epochRefused _ _ _,
      part_epochRefused _ _ (by decide)⟩
  · refine ⟨_, ?_, onlyPart_epochRefused _ _ _, part_epochRefused _ _ (by decide)⟩
    obtain rfl | rfl := hi
    · obtain ⟨hprev, hact⟩ := he.resolve_right fun k => nomatch k.2
      exact exec_epochArm_of_refused hc e kv (harm.resolve_right nofun) ho (hs.resolve_right nofun)
        (Weights.epochRefuse_of_prev ho hact hprev _) (by decide)
    · refine exec_epochSet_of_refused hc e kv (hset.resolve_right nofun) ?_ (by decide)
      obtain ⟨hprev, hact⟩ | ⟨hact, -⟩ := he
      · exact Weights.epochRefuse_of_prev ho hact hprev _
      · exact Weights.epochRefuse_set_of_active ho hact
  · exact ⟨_, exec_epochSet_of_busy hc e kv (not_srvAccepts_of_planned hst), onlyPart_epochRefused _ _ _,
      part_epochRefused _ _ (by decide)⟩
  · exact ⟨_, exec_epochArm_of_armed hc e kv ha, onlyPart_epochRefused _ _ _, part_epochRefused _ _ (by decide)⟩
  · obtain ⟨honly, hpart⟩ := cancelFlip_of_no_handles hh
    refine ⟨_, exec_epochDisarm_eq hc, honly.trans (onlyPart_updWts _ _ _), ?_⟩
    rw [epochErr, part_updWts_self, hpart]
    rfl
  · exact ⟨ends_of_ovEnd (congrArg Host.Outcome.next (ovCommand_of_unlisted hc hu _ _)),
      ends_of_ovEnd (congrArg Host.Outcome.next (ovCommand_of_unlisted hc hu _ _)),
      fun g => ends_of_ovEnd (congrArg Host.Outcome.next (ovCommand_of_unlisted hc hu _ _)),
      fun f t => ends_of_ovEnd (congrArg Host.Outcome.next (ovCommand_of_unlisted hc hu _ _))⟩
  · exact install_of_free_does hc h0 hn hm hl hf
  · exact install_of_live_does hc h0 hn hm hl ht hb hf
  · exact ends_of_ovEnd (exec_install_of_tenant hc h0 hn hm hl ht)
  · have hlt : s.pLe p (s.ovAddr p h.toNat + 2) 2 < 65536 := pLe_lt (mappedRange_sub hm (by omega) (by omega))
    refine ends_of_ovEnd (exec_install_of_two_live hc h0 hn hm hl ?_ ?_)
    · rw [BitVec.toNat_ofNat, Nat.mod_eq_of_lt hlt]
    · exact List.find?_eq_none.mpr fun b _ => by cases b <;> simpa
  · exact ends_of_ovEnd (exec_install_of_not_armed hc h0 hn hm hl ha)
  · exact ⟨ends_of_ovEnd (exec_pin_of_none hc h0 hn hm hcur), ends_of_ovEnd (exec_withdraw_of_none hc h0 hn hm hcur)⟩
  · exact ends_of_ovEnd (exec_pin_of_saturated hc h0 hn hm hcur hp)
  · have hs := same_setPins s p (s.ovAddr p h.toNat) b (s.ovPins p (s.ovAddr p h.toNat) b + 1)
    have hcores := hs .cores (by decide)
    exact ⟨_, exec_pin_of_lt hc h0 hn hm hcur hp, ⟨hs .parts (by decide), coresBut_ovDone hcores _ _ _,
      fun x hx => (memByte_ovDone _ _ _ _ _).trans (memByte_setPins_out hx)⟩,
      (pLe_ovDone _ _ _ _ _ _ _).trans (ovPins_setPins hm (by omega)), core_ovDone_self hcores _ _ _⟩
  · exact ⟨_, exec_withdraw_of_some hc h0 hn hm hcur, rfl, rfl, fun q hq => (part_ovDone _ _ _ _ _).trans (part_updPart_ne _ _ hq),
      coresBut_ovDone rfl _ _ _, (part_ovDone _ _ _ _ _).trans (part_updWts_self _ _ _), core_ovDone_self rfl _ _ _⟩
  · exact ends_of_ovEnd (exec_unpin_of_none hc h0 hn hm hg)
  · have hlt := ovPins_lt (b := b) hm
    have hs := same_setPins s p (s.ovAddr p h.toNat) b (s.ovPins p (s.ovAddr p h.toNat) b - 1)
    have hcores := hs .cores (by decide)
    exact ⟨_, exec_unpin_of_some hc h0 hn hm hl hb, ⟨hs .parts (by decide), coresBut_ovDone hcores _ _ _,
      fun x hx => (memByte_ovDone _ _ _ _ _).trans (memByte_setPins_out hx)⟩,
      (pLe_ovDone _ _ _ _ _ _ _).trans (ovPins_setPins hm (by omega)), core_ovDone_self hcores _ _ _⟩

end Sys2Proof.Machine
end

section
/-! PROOFS. A segment and a packet header read back (O58): the fields of their bits, the check codes, the payload, the markers
(R281 to R284, R314). -/

namespace Sys2Proof.Machine

/-! ### Fields of joined bits

The library's lemmas on the bits of `hi ++ lo` name the width as a sum; a header's width is its value, which `simp` indexes as a
number, so these leave the width out of the index. -/

section
variable {v w start len i : Nat} {hi : BitVec v} {lo : BitVec w}

theorem extractLsb'_append_above (h : w ≤ start) :
    BitVec.extractLsb' (n := no_index (v + w)) start len (HAppend.hAppend (γ := no_index (BitVec (v + w))) hi lo) =
      hi.extractLsb' (start - w) len := BitVec.extractLsb'_append_eq_of_le h

theorem extractLsb'_append_within (h : start + len ≤ w) :
    BitVec.extractLsb' (n := no_index (v + w)) start len (HAppend.hAppend (γ := no_index (BitVec (v + w))) hi lo) =
      lo.extractLsb' start len := BitVec.extractLsb'_append_eq_of_add_le h

theorem getLsbD_append_above (h : w ≤ i) :
    BitVec.getLsbD (w := no_index (v + w)) (HAppend.hAppend (γ := no_index (BitVec (v + w))) hi lo) i = hi.getLsbD (i - w) := by
  rw [BitVec.getLsbD_append, if_neg (Nat.not_lt.mpr h)]

theorem getLsbD_append_within (h : i < w) :
    BitVec.getLsbD (w := no_index (v + w)) (HAppend.hAppend (γ := no_index (BitVec (v + w))) hi lo) i = lo.getLsbD i := by
  rw [BitVec.getLsbD_append, if_pos h]

end

/-! ### Headers -/

theorem pktOfBits_bits (h : PktHdr) : pktOfBits h.bits = h := by
  cases h
  simp [pktOfBits, PktHdr.bits, extractLsb'_append_above, extractLsb'_append_within, getLsbD_append_above,
    getLsbD_append_within, BitVec.extractLsb'_eq_self, -BitVec.getLsbD_eq_getElem]

/-- An optional number's bits say whether it is there. -/
theorem ite_isSome_getD {n : Nat} (o : Option (BitVec n)) : (if o.isSome then some (o.getD 0#n) else none) = o := by
  cases o <;> rfl

theorem hdrOfBits_bits (h : SegHdr) : hdrOfBits h.bits = h := by
  cases h
  simp [hdrOfBits, SegHdr.bits, extractLsb'_append_above, extractLsb'_append_within, getLsbD_append_above,
    getLsbD_append_within, BitVec.extractLsb'_eq_self, ite_isSome_getD, -BitVec.getLsbD_eq_getElem]

/-- A word's bytes read back as the word. -/
theorem ofNat_leNat_leBytes {n k : Nat} (h : n = 8 * k) (x : BitVec n) : BitVec.ofNat n (leNat (leBytes k x.toNat)) = x := by
  subst h
  have hx : x.toNat < 256 ^ k := by
    rw [show (256 : Nat) = 2 ^ 8 from rfl, ← pow_mul]
    exact x.isLt
  rw [leNat_leBytes k _ hx, BitVec.ofNat_toNat, BitVec.setWidth_eq]

theorem SegHdr.length_bytes (h : SegHdr) : h.bytes.length = 16 := by simp [SegHdr.bytes]

theorem hdrOfBytes_bytes (h : SegHdr) : hdrOfBytes h.bytes = some h := by
  have hl : (leBytes 14 h.bits.toNat).length = 14 := leBytes_length _ _
  rw [hdrOfBytes, SegHdr.bytes, List.drop_left' hl, List.take_left' hl, if_pos (leNat_leBytes 2 _ (BitVec.isLt _)),
    ofNat_leNat_leBytes (by rfl), hdrOfBits_bits]

/-! ### Packets -/

section
variable (h : PktHdr) (payload : List Byte)

theorem pktHdr_bytes_append : pktHdr (h.bytes ++ payload) = h := by
  rw [pktHdr, PktHdr.bytes, List.take_left' (leBytes_length _ _), ofNat_leNat_leBytes (by rfl), pktOfBits_bits]

theorem drop_bytes_append : (h.bytes ++ payload).drop 32 = payload := List.drop_left' (leBytes_length _ _)

end

/-! ### Segments -/

theorem markersAt_markers (w : Nat) (gen : Bool) (hw : w = 7 ∨ w = 8) : markersAt w gen (markers w gen) = true := by
  obtain rfl | rfl := hw <;> cases gen <;> decide

section
variable (h : SegHdr) {payload : List Byte} (w : Nat)

/-- What the payload's check code covers: the header and the payload, zeros after it (R281, R284). -/
def SegHdr.covered (h : SegHdr) (payload : List Byte) : List Byte :=
  h.bytes ++ (payload ++ List.replicate (768 - payload.length) 0#8)

variable (hp : payload.length ≤ 768)
include hp

theorem length_covered : (h.covered payload).length = 784 := by
  simp [SegHdr.covered, h.length_bytes]
  omega

theorem segment_eq : segment h payload w =
    h.covered payload ++ (leBytes 8 (crc64 (h.covered payload)).toNat ++ markers w h.gen) := by
  have hl : (payload ++ List.replicate (768 - payload.length) 0#8).length ≤ 768 := by simp; omega
  rw [segment, List.take_of_length_le hl, List.append_assoc]
  rfl

theorem length_segment : (segment h payload w).length = 800 := by
  simp [segment_eq h w hp, length_covered h hp, markers]

theorem take_784_segment : (segment h payload w).take 784 = h.covered payload := by
  rw [segment_eq h w hp, List.take_left' (length_covered h hp)]

theorem take_16_segment : (segment h payload w).take 16 = h.bytes := by
  rw [segment_eq h w hp, SegHdr.covered, List.append_assoc, List.take_left' h.length_bytes]

theorem payload_segment : ((segment h payload w).drop 16).take payload.length = payload := by
  rw [segment_eq h w hp, SegHdr.covered, List.append_assoc, List.append_assoc, List.drop_left' h.length_bytes, List.take_left' rfl]

theorem check_segment : leNat (((segment h payload w).drop 784).take 8) = (crc64 ((segment h payload w).take 784)).toNat := by
  rw [take_784_segment h w hp, segment_eq h w hp, List.drop_left' (length_covered h hp), List.take_left' (leBytes_length _ _),
    leNat_leBytes 8 _ (BitVec.isLt _)]

theorem drop_792_segment : (segment h payload w).drop 792 = markers w h.gen := by
  rw [segment_eq h w hp, ← List.append_assoc, List.drop_left']
  rw [List.length_append, length_covered h hp, leBytes_length]

end

/-- Settles O58: each part of a segment and of a packet header stands where its reader looks. -/
theorem segmentsAndPacketsReadBack : Obligations.SegmentsAndPacketsReadBack := by
  unfold Obligations.SegmentsAndPacketsReadBack
  refine ⟨fun h payload w hp => ⟨length_segment h w hp, hdrOfBits_bits h, ?_, check_segment h w hp, payload_segment h w hp,
    fun hw => ?_⟩, fun h payload => ⟨pktOfBits_bits h, pktHdr_bytes_append h payload, drop_bytes_append h payload⟩⟩
  · rw [take_16_segment h w hp, hdrOfBytes_bytes]
  · rw [drop_792_segment h w hp, markersAt_markers w h.gen hw]

end Sys2Proof.Machine
end

section
/-! PROOFS. A cord's part of the state, the CTL messages that its consumers take, and lane changes (O38). -/

namespace Sys2Proof.Machine

open State

/-! ### One cord changed -/

/-- Nothing of the state differs but cord `c`, which is now `y`. -/
def CordNow (c : Nat) (s t : State) (y : Cord) : Prop := OnlyCord c s t ∧ t.cord c = y

section
variable {s t : State} {c : Nat} {y : Cord}

theorem CordNow.refl (s : State) (c : Nat) : CordNow c s s (s.cord c) := ⟨.refl _ _, rfl⟩

theorem CordNow.updCord (h : CordNow c s t y) (f : Cord → Cord) : CordNow c s (t.updCord c f) (f y) :=
  ⟨h.1.trans (onlyCord_updCord _ _ _), by rw [cord_updCord_self, h.2]⟩

theorem CordNow.sendCtl (h : CordNow c s t y) (m : List Byte) : CordNow c s (t.sendCtl c m) { y with ctlOut := y.ctlOut ++ [m] } :=
  h.updCord _

theorem cordNow_ctlFreed (s : State) (c : Nat) (m : CtlMsg) : CordNow c s (s.ctlFreed c m) ((s.ctlFreed c m).cord c) :=
  ⟨onlyCord_updCord _ _ _, rfl⟩

theorem CordNow.hall (h : CordNow c s t y) : t.hall = s.hall := by rw [h.1.1]

theorem CordNow.congr {z : Cord} (h : CordNow c s t y) (e : y = z) : CordNow c s t z := e ▸ h

end

/-! ### CTL consumers (R294, R295) -/

theorem cord_ctlFreed (s : State) (c : Nat) (m : CtlMsg) : (s.ctlFreed c m).cord c =
    { s.cord c with ctlIn := (s.cord c).ctlIn.erase m, freed := ((s.cord c).freed + 1) % 16 } := cord_updCord_self _ _ _

@[simp] theorem hall_ctlFreed (s : State) (c : Nat) (m : CtlMsg) : (s.ctlFreed c m).hall = s.hall := rfl

@[simp] theorem egGen_ctlFreed (s : State) (c : Nat) (m : CtlMsg) : ((s.ctlFreed c m).cord c).egGen = (s.cord c).egGen := by
  rw [cord_ctlFreed]

@[simp] theorem ctlOut_ctlFreed (s : State) (c : Nat) (m : CtlMsg) : ((s.ctlFreed c m).cord c).ctlOut = (s.cord c).ctlOut := by
  rw [cord_ctlFreed]

@[simp] theorem change_ctlFreed (s : State) (c : Nat) (m : CtlMsg) : ((s.ctlFreed c m).cord c).change = (s.cord c).change := by
  rw [cord_ctlFreed]

/-- A consumer whose message is the oldest of its kind takes it. -/
theorem State.onCtl_of_front {s : State} {c kind : Nat} {m : CtlMsg} (h : CtlFront s c kind m) (f : State → CtlMsg → State) :
    s.onCtl c kind f = f (s.ctlFreed c m) m := by
  unfold onCtl
  rw [show (s.cord c).ctlIn.find? (fun m => fld m.bytes 0 1 = kind) = some m from h]
  rfl

/-! ### Module entries of the fault log (R482) -/

/-- An entry that is not coalesced and names no partition is written into the module ring alone. -/
theorem exists_logEv_of_no_part {s : State} {e : LogEntry} (hc : coalesces { e with hall := s.hall } = false) (hp : 16 ≤ e.part) :
    ∃ a l, s.logEv e = { s with cinder := a, log := l, logSeq := s.logSeq + 1 } := by
  unfold State.logEv
  dsimp only
  rw [if_neg (by simp [hc]), State.logPut]
  dsimp only
  rw [if_neg (Nat.not_lt.mpr hp)]
  exact ⟨_, _, rfl⟩

/-- A change of one cord and an entry in the module ring. -/
theorem CordNow.logEv {s t : State} {c : Nat} {y : Cord} {e : LogEntry} (h : CordNow c s t y)
    (hc : coalesces { e with hall := t.hall } = false) (hp : 16 ≤ e.part) : let u := t.logEv e
    u.cord c = y ∧ CordsBut c s u ∧
      u = { s with cords := u.cords, cinder := u.cinder, log := u.log, logSeq := s.logSeq + 1 } := by
  obtain ⟨⟨ht, hbut⟩, hy⟩ := h
  obtain ⟨a, l, hl⟩ := exists_logEv_of_no_part hc hp
  obtain ⟨x, rfl⟩ : ∃ x, t = { s with cords := x } := ⟨_, ht⟩
  rw [hl]
  exact ⟨hy, hbut, rfl⟩

/-! ### Failing lanes (R279, R280) -/

section
variable (x : Cord) (hall : Nat) (ingress : Bool) (w : Nat)

/-- A declaration enters the wavelength in the lists of R280 alone. -/
theorem exists_declare : ∃ f i e, x.declare hall ingress w = { x with failed := f, retIn := i, retEg := e } := by
  unfold Cord.declare
  dsimp only
  split
  · exact ⟨_, _, _, rfl⟩
  · split <;> exact ⟨_, _, _, rfl⟩

@[simp] theorem ctlOut_declare : (x.declare hall ingress w).ctlOut = x.ctlOut := by
  obtain ⟨f, i, e, h⟩ := exists_declare x hall ingress w
  rw [h]

@[simp] theorem egGen_declare : (x.declare hall ingress w).egGen = x.egGen := by
  obtain ⟨f, i, e, h⟩ := exists_declare x hall ingress w
  rw [h]

end

section
variable {s : State} {c : CordId} {lane : Fin 8} {cond : Fin 3} {fit : Bool} {w : Nat}

theorem exec_laneFailing_of_not (hf : (s.cord c).laneFails s.hall lane cond = false) :
    exec (.laneFailing c lane cond fit) s = .next s := by
  refine congrArg Host.Outcome.next ?_
  split
  · rfl
  · exact if_pos (.inr (by simp [hf]))

theorem exec_laneFailing_of_fails (hst : (s.cord c).st = .up) (hw : (s.cord c).inMap[lane.val]? = some w)
    (hf : (s.cord c).laneFails s.hall lane cond = true) : let good := fit && (s.cord c).inSpare.isSome
    exec (.laneFailing c lane cond fit) s = .next ((s.updCord c fun x =>
      { x.declare s.hall true w with inFit := good, alarm := true, narrow := x.narrow || (!good && x.inWidth = 7) }).sendCtl c
        (msgLaneReq (if good then 1 else 2) lane w (cond + 1))) := by
  refine congrArg Host.Outcome.next ?_
  rw [hw]
  exact if_neg (by simp [hst, hf])

end

/-! ### Wavelengths restored (R280, R300) -/

/-- The record of a wavelength restored. -/
def restoreEntry (c : CordId) (wave lane width : Nat) : LogEntry :=
  { cls := cLaneSwap, kind := kCord, index := c, detail := restoreDetail wave lane width }

section
variable {s : State} {c : CordId} {wave : Fin 9}

theorem exec_wavelengthRestore_of_not
    (ht : ((s.cord c).testIn.any fun e => e.1 = wave.val && e.2 + 5000000000 ≤ s.hall) = false) :
    exec (.wavelengthRestore c wave) s = .next s :=
  congrArg Host.Outcome.next (if_pos (.inr (by simpa only [Bool.decide_and, ht] using Bool.false_ne_true)))

theorem exec_wavelengthRestore_of_tested (hst : (s.cord c).st = .up)
    (ht : ((s.cord c).testIn.any fun e => e.1 = wave.val && e.2 + 5000000000 ≤ s.hall) = true) :
    exec (.wavelengthRestore c wave) s = .next (((s.updCord c fun x =>
      { x with testIn := x.testIn.filter fun e => e.1 ≠ wave.val
               inSpare := if x.inWidth = 7 then x.inSpare else some wave.val
               laneSwaps := if x.inWidth = 7 then x.laneSwaps else satInc 32 x.laneSwaps }).sendCtl c
        (msgLaneReq 3 (s.cord c).inMap.length wave 0)).logEv
        (restoreEntry c wave (s.cord c).inMap.length (s.cord c).inWidth)) :=
  congrArg Host.Outcome.next (if_neg (not_or.mpr ⟨not_not.mpr hst, not_not.mpr (by simpa only [Bool.decide_and] using ht)⟩))

end

/-! ### Lane changes opened (R298 to R300) -/

/-- The change that a sender opens: its next generation, its LANE_CMD not yet sent. -/
def Cord.opened (x : Cord) (action : Nat) (map : List Nat) (cls : Nat) : Cord := { x with
  change := some { action := action, gen := !x.egGen, width := map.length, s := 0, map := map, sentAt := none
                   begun := false, logCls := cls }
  ctlOut := x.ctlOut ++ [msgLaneCmd action (!x.egGen) map.length map] }

theorem Cord.opened_congr {x y : Cord} (hg : y.egGen = x.egGen) (ho : y.ctlOut = x.ctlOut)
    (action : Nat) (map : List Nat) (cls : Nat) :
    y.opened action map cls = { y with
      change := some { action := action, gen := !x.egGen, width := map.length, s := 0, map := map, sentAt := none
                       begun := false, logCls := cls }
      ctlOut := x.ctlOut ++ [msgLaneCmd action (!x.egGen) map.length map] } := by
  rw [opened, hg, ho]

theorem CordNow.openChange {s t : State} {c : Nat} {y : Cord} (h : CordNow c s t y) (action : Nat) (map : List Nat) (cls : Nat) :
    CordNow c s (t.openChange c action map cls) (y.opened action map cls) := by
  unfold State.openChange
  dsimp only
  rw [h.2]
  exact (h.updCord _).sendCtl _

/-! ### LANE_REQ (R299, R300) -/

section
variable {s : State} {c : CordId} {m : CtlMsg} (h : CtlFront s c 1 m)
include h

/-- A request while a change is open is answered by that change. -/
theorem exec_laneReq_of_change (hc : (s.cord c).change.isSome = true) : exec (.laneReq c) s = .next (s.ctlFreed c m) := by
  refine congrArg Host.Outcome.next ((onCtl_of_front h _).trans ?_)
  dsimp only
  rw [cord_ctlFreed, if_pos hc]

variable (hn : (s.cord c).change = none)
include hn

section
variable {wave : Nat} (hw : (s.cord c).txMap[fld m.bytes 2 1]? = some (fld m.bytes 3 1))
include hw

theorem exec_laneReq_of_swap {w : Nat} (ha : fld m.bytes 1 1 = 1) (hs : (s.cord c).spare = some w) :
    exec (.laneReq c) s = .next (((s.ctlFreed c m).updCord c fun x => x.declare s.hall false (fld m.bytes 3 1)).openChange c 1
      ((s.cord c).txMap.map fun v => if v = fld m.bytes 3 1 then w else v) cLaneSwap) := by
  refine congrArg Host.Outcome.next ((onCtl_of_front h _).trans ?_)
  dsimp only
  rw [cord_ctlFreed]
  simp [hn, hw, ha, hs, laRestore, laSwap]

theorem exec_laneReq_of_drop (ha : fld m.bytes 1 1 = 2 ∨ (fld m.bytes 1 1 = 1 ∧ (s.cord c).spare = none))
    (h8 : (s.cord c).egWidth = 8) :
    exec (.laneReq c) s = .next (((s.ctlFreed c m).updCord c fun x => x.declare s.hall false (fld m.bytes 3 1)).openChange c 2
      (inWaveOrder ((s.cord c).txMap.filter fun v => v ≠ fld m.bytes 3 1)) cWidthDrop) := by
  refine congrArg Host.Outcome.next ((onCtl_of_front h _).trans ?_)
  dsimp only
  rw [cord_ctlFreed]
  obtain ha | ⟨ha, hs⟩ := ha
  · cases (s.cord c).spare <;> simp [hn, hw, ha, h8, laRestore, laSwap, laDrop]
  · simp [hn, hw, ha, hs, h8, laRestore, laDrop]

theorem exec_laneReq_of_narrow (ha : fld m.bytes 1 1 = 2) (h7 : (s.cord c).egWidth = 7) :
    exec (.laneReq c) s = .next (((s.ctlFreed c m).updCord c fun x => x.declare s.hall false (fld m.bytes 3 1)).updCord c fun x =>
      { x with narrow := true }) := by
  refine congrArg Host.Outcome.next ((onCtl_of_front h _).trans ?_)
  dsimp only
  rw [cord_ctlFreed]
  cases (s.cord c).spare <;> simp [hn, hw, ha, h7, laRestore, laSwap]

end

theorem exec_laneReq_of_restore_lane (ha : fld m.bytes 1 1 = 3) (h7 : (s.cord c).egWidth = 7) :
    exec (.laneReq c) s = .next (((s.ctlFreed c m).updCord c fun x =>
      { x with testEg := x.testEg.filter fun w => w ≠ fld m.bytes 3 1 }).openChange c 3
        (inWaveOrder ((s.cord c).txMap ++ [fld m.bytes 3 1])) cLaneSwap) := by
  refine congrArg Host.Outcome.next ((onCtl_of_front h _).trans ?_)
  dsimp only
  rw [cord_ctlFreed]
  simp [hn, ha, h7, laRestore]

theorem exec_laneReq_of_restore_spare (ha : fld m.bytes 1 1 = 3) (h8 : (s.cord c).egWidth = 8) :
    exec (.laneReq c) s = .next (((s.ctlFreed c m).updCord c fun x =>
      { x with testEg := x.testEg.filter fun w => w ≠ fld m.bytes 3 1, spare := some (fld m.bytes 3 1), spareSt := 0
               laneSwaps := satInc 32 x.laneSwaps }).logEv
      (restoreEntry c (fld m.bytes 3 1) (s.cord c).txMap.length (s.cord c).egWidth)) := by
  refine congrArg Host.Outcome.next ((onCtl_of_front h _).trans ?_)
  dsimp only
  rw [cord_ctlFreed]
  simp [hn, ha, h8, laRestore, restoreEntry]

end

/-! ### LANE_CMD, LANE_DONE, SYNC (R297 to R300) -/

section
variable {s : State} {c : CordId} {m : CtlMsg}

theorem exec_laneCmd_of_followed (h : CtlFront s c 2 m) (hg : (s.cord c).inGen = decide (fld m.bytes 2 1 % 2 = 1)) :
    exec (.laneCmd c) s =
      .next ((s.ctlFreed c m).sendCtl c (leBytes 1 3 ++ leBytes 1 (fld m.bytes 2 1 % 2) ++ leBytes 1 0)) := by
  refine congrArg Host.Outcome.next ((onCtl_of_front h _).trans ?_)
  dsimp only
  rw [cord_ctlFreed]
  exact if_pos (by simp [hg])

theorem exec_laneCmd_of_new (h : CtlFront s c 2 m) (hg : (s.cord c).inGen ≠ decide (fld m.bytes 2 1 % 2 = 1)) :
    exec (.laneCmd c) s = .next (s.ctlFreed c m) := by
  refine congrArg Host.Outcome.next ((onCtl_of_front h _).trans ?_)
  dsimp only
  rw [cord_ctlFreed]
  refine if_neg fun he => hg ?_
  rw [Bool.eq_iff_iff, ← he, decide_eq_true_iff]

/-- What LANE_DONE does to an end's cord. -/
def Cord.laneDone (x : Cord) (m : CtlMsg) : Cord := match x.change with
  | some ch =>
    if ch.begun ∧ fld m.bytes 2 1 = 0 ∧ (fld m.bytes 1 1 % 2 = 1) = (ch.gen = true) then { x with change := none } else x
  | none => x

theorem exec_laneDone_of_front (h : CtlFront s c 3 m) :
    exec (.laneDone c) s = .next ((s.ctlFreed c m).updCord c fun x => x.laneDone m) :=
  congrArg Host.Outcome.next (onCtl_of_front h _)

theorem Cord.laneDone_of_confirmed {x : Cord} {ch : LaneChange} (hc : x.change = some ch) (hb : ch.begun = true)
    (hr : fld m.bytes 2 1 = 0) (hg : ch.gen = decide (fld m.bytes 1 1 % 2 = 1)) : x.laneDone m = { x with change := none } := by
  unfold laneDone
  rw [hc]
  exact if_pos ⟨hb, hr, by simp [hg]⟩

theorem Cord.laneDone_of_other {x : Cord} {ch : LaneChange} (hc : x.change = some ch)
    (hg : ch.gen ≠ decide (fld m.bytes 1 1 % 2 = 1)) : x.laneDone m = x := by
  unfold laneDone
  rw [hc]
  refine if_neg fun ⟨_, _, he⟩ => hg ?_
  rw [Bool.eq_iff_iff, ← he, decide_eq_true_iff]

theorem exec_sync_of_front (h : CtlFront s c 4 m) : exec (.sync c) s = .next (s.ctlFreed c m) :=
  congrArg Host.Outcome.next (onCtl_of_front h _)

end

/-! ### LANE_CMD_RETRY (R299) -/

section
variable {s : State} {c : CordId} {ch : LaneChange} {h : Nat} (hc : (s.cord c).change = some ch) (hs : ch.sentAt = some h)
include hc hs

theorem exec_laneCmdRetry_of_late (hl : h + 2 * (s.cord c).rtt + 256 ≤ s.hall) :
    exec (.laneCmdRetry c) s = .next ((s.updCord c fun x =>
      { x with change := some { ch with sentAt := some s.hall } }).sendCtl c (msgLaneCmd ch.action ch.gen ch.width ch.map)) := by
  refine congrArg Host.Outcome.next ?_
  rw [hc]
  dsimp only
  rw [hs]
  exact if_pos hl

theorem exec_laneCmdRetry_of_waiting (hl : s.hall < h + 2 * (s.cord c).rtt + 256) : exec (.laneCmdRetry c) s = .next s := by
  refine congrArg Host.Outcome.next ?_
  rw [hc]
  dsimp only
  rw [hs]
  exact if_neg (Nat.not_le.mpr hl)

end

/-! ### The obligation -/

/-- Settles O38: each command of a lane change is a change of its cord alone, or that and one entry in the module ring. -/
theorem laneChangesAreConfirmed : Obligations.LaneChangesAreConfirmed := by
  unfold Obligations.LaneChangesAreConfirmed
  refine fun s c => ⟨fun lane cond fit hf => exec_laneFailing_of_not hf, fun lane cond fit w hst hw hf => ?_,
    fun wave hst ht => ?_, fun wave ht => exec_wavelengthRestore_of_not ht, fun m h => ⟨fun hc => ?_,
      fun hn hw => ⟨fun ha w hs => ?_, fun ha h8 => ?_, fun ha h7 => ?_⟩, fun hn ha => ⟨fun h7 => ?_, fun h8 => ?_⟩⟩,
    fun m h => ⟨fun hg => ?_, exec_laneCmd_of_new h⟩, fun m ch h hc hb hr => ⟨fun hg => ?_, fun hg => ?_⟩,
    fun ch at_ hc hs => ⟨fun hl => ?_, exec_laneCmdRetry_of_waiting hc hs⟩, fun m h => exec_sync_of_front h⟩
  · exact ⟨_, exec_laneFailing_of_fails hst hw hf, (((CordNow.refl s c).updCord _).sendCtl _).congr
      (by dsimp only; rw [ctlOut_declare])⟩
  · exact ⟨_, exec_wavelengthRestore_of_tested hst ht,
      (((CordNow.refl s c).updCord _).sendCtl _).logEv rfl (show 16 ≤ 255 by decide)⟩
  · exact ⟨_, exec_laneReq_of_change h hc, cordNow_ctlFreed s c m⟩
  · exact ⟨_, exec_laneReq_of_swap h hn hw ha hs, (((cordNow_ctlFreed s c m).updCord _).openChange _ _ _).congr
      (Cord.opened_congr (by simp) (by simp) _ _ _)⟩
  · exact ⟨_, exec_laneReq_of_drop h hn hw ha h8, (((cordNow_ctlFreed s c m).updCord _).openChange _ _ _).congr
      (Cord.opened_congr (by simp) (by simp) _ _ _)⟩
  · exact ⟨_, exec_laneReq_of_narrow h hn hw ha h7, ((cordNow_ctlFreed s c m).updCord _).updCord _⟩
  · exact ⟨_, exec_laneReq_of_restore_lane h hn ha h7, (((cordNow_ctlFreed s c m).updCord _).openChange _ _ _).congr
      ((Cord.opened_congr (x := s.cord c) (by simp) (by simp) _ _ _).trans (by rw [cord_ctlFreed]))⟩
  · obtain ⟨hcord, hbut, ht⟩ := ((cordNow_ctlFreed s c m).updCord fun x => { x with
      testEg := x.testEg.filter fun w => w ≠ fld m.bytes 3 1, spare := some (fld m.bytes 3 1), spareSt := 0
      laneSwaps := satInc 32 x.laneSwaps }).logEv (e := restoreEntry c (fld m.bytes 3 1) (s.cord c).txMap.length (s.cord c).egWidth)
      rfl (show 16 ≤ 255 by decide)
    exact ⟨_, exec_laneReq_of_restore_spare h hn ha h8, hbut, ht, hcord.trans (by rw [cord_ctlFreed])⟩
  · exact ⟨_, exec_laneCmd_of_followed h hg, ((cordNow_ctlFreed s c m).sendCtl _).congr (by rw [ctlOut_ctlFreed])⟩
  · exact ⟨_, exec_laneDone_of_front h, ((cordNow_ctlFreed s c m).updCord _).congr
      (Cord.laneDone_of_confirmed ((change_ctlFreed s c m).trans hc) hb hr hg)⟩
  · have hnow := ((cordNow_ctlFreed s c m).updCord fun x => x.laneDone m).congr
      (Cord.laneDone_of_other (m := m) ((change_ctlFreed s c m).trans hc) hg)
    exact ⟨_, exec_laneDone_of_front h, hnow.1, by rw [hnow.2, change_ctlFreed, hc]⟩
  · exact ⟨_, exec_laneCmdRetry_of_late hc hs hl, ((CordNow.refl s c).updCord _).sendCtl _⟩

end Sys2Proof.Machine
end

section
/-! PROOFS. Segments received (O36): what a header says of acknowledgements, a number that has come, and the CTL segments of the
module, in order and early (R284 to R292, R307). -/

namespace Sys2Proof.Machine

open State

/-! ### Acknowledgements (R286 to R289) -/

section
variable (x : Cord) (hall : Nat)

theorem exists_onAck (a : Nat) :
    ∃ b k l q, x.onAck hall a = { x with ackBad := b, kept := k, ackHall := l, retxQ := q } := by
  unfold Cord.onAck
  dsimp only
  split_ifs <;> exact ⟨_, _, _, _, rfl⟩

theorem exists_onNack (n : Nat) : ∃ q, x.onNack hall n = { x with retxQ := q } := by
  unfold Cord.onNack
  split
  · exact ⟨_, rfl⟩
  · split_ifs <;> exact ⟨_, rfl⟩

theorem exists_askAgain (ns : List Nat) : ∃ q, x.askAgain hall ns = { x with nackQ := q } := by
  unfold Cord.askAgain
  induction ns generalizing x with
  | nil => exact ⟨_, rfl⟩
  | cons n ns ih =>
    rw [List.foldl_cons]
    split_ifs
    · obtain ⟨q, hq⟩ := ih { x with nackQ := x.nackQ ++ [(n, hall)] }
      exact ⟨q, hq⟩
    · exact ih x

/-- The NACK of a header field, if it holds one. -/
def Cord.onNackField (x : Cord) (hall : Nat) (o : Option (BitVec 12)) : Cord := match o with
  | some n => x.onNack hall n.toNat
  | none => x

theorem exists_onNackField (o : Option (BitVec 12)) : ∃ q, x.onNackField hall o = { x with retxQ := q } := by
  cases o with
  | none => exact ⟨_, rfl⟩
  | some n => exact exists_onNack x hall n.toNat

/-- The credits of a header, and what it says of the spare (R278, R294). -/
def Cord.credited (x : Cord) (h : SegHdr) : Cord := { x with
  farFreed := h.freed.toNat
  spareSt := if x.spare.isSome then (if h.fit then 0 else 3) else x.spareSt }

/-- What a header tells the sending side: credits, the ACK and the NACKs (R286, R289). -/
def Cord.heard (x : Cord) (h : SegHdr) : Cord :=
  (((x.credited h).onAck hall h.ack.toNat).onNackField hall h.nack0).onNackField hall h.nack1

theorem exists_heard (h : SegHdr) : ∃ sp b k l q, x.heard hall h =
    { x with farFreed := h.freed.toNat, spareSt := sp, ackBad := b, kept := k, ackHall := l, retxQ := q } := by
  obtain ⟨b, k, l, q, ha⟩ := exists_onAck (x.credited h) hall h.ack.toNat
  obtain ⟨q0, h0⟩ := exists_onNackField ((x.credited h).onAck hall h.ack.toNat) hall h.nack0
  obtain ⟨q1, h1⟩ := exists_onNackField (((x.credited h).onAck hall h.ack.toNat).onNackField hall h.nack0) hall h.nack1
  refine ⟨(x.credited h).spareSt, b, k, l, q1, ?_⟩
  rw [Cord.heard, h1, h0, ha]
  rfl

end

/-! ### A checked segment -/

/-- A number that is due has come: it is NACKed no more, and the cumulative point passes what has come (R286). -/
def State.countSeg (s : State) (c cum seq : Nat) : State :=
  let t := s.updCord c fun x => { x with
    elsewhere := x.elsewhere.filter fun e => e.1 ≠ seq
    nackQ := x.nackQ.filter fun e => e.1 ≠ seq
    nackOut := x.nackOut.filter fun e => e.1 ≠ seq }
  let t := t.updCord c fun x => ({ x with got := x.got ++ [seq] } : Cord).advance 2048
  t.updCord c fun y => if y.cum = cum then y else { y with ackLog := y.ackLog ++ [(s.hall, y.cum)] }

/-- A segment whose number is due is counted and accepted. -/
def State.takeSeg (s : State) (c cum : Nat) (h : SegHdr) (payload : List Byte) (waits : List Nat) : State :=
  ((s.countSeg c cum h.seq.toNat).accept c h payload waits).drainHeld c 2048

/-- With no new lane map, a checked segment's header speaks to the sending side, what is missing before it is asked for, and
then its own number counts. -/
theorem checked_of_gen {s : State} {c : Nat} {h : SegHdr} (hg : h.gen = (s.cord c).inGen) (payload mk : List Byte)
    (waves waits : List Nat) : let u := s.updCord c fun x => x.heard s.hall h
    let x := u.cord c
    let v := u.updCord c fun y => y.askAgain s.hall (x.missing h.seq.toNat)
    s.checked c h payload mk waves waits =
      if h.cls.toNat = clFill then v
      else if seqDist x.cum h.seq.toNat < 2048 ∧ ¬ x.got.contains h.seq.toNat then v.takeSeg c x.cum h payload waits
      else v.updCord c fun x => { x with dupDiscard := satInc 32 x.dupDiscard } := by
  have hf : s.followLanes c h.seq.toNat h.width.toNat h.gen waves mk = s := if_neg fun hn => hn.1 hg
  unfold State.checked State.takeSeg State.countSeg Cord.heard Cord.credited Cord.onNackField
  rw [hf]
  cases h.nack0 <;> cases h.nack1 <;> dsimp only [updCord_hall]

theorem exists_checked {s t : State} {c : Nat} {y : Cord} (hnow : CordNow c s t y) {h : SegHdr} (hg : h.gen = y.inGen)
    (payload mk : List Byte) (waves waits : List Nat) :
    ∃ v sp b k l q n, CordNow c s v { y with
        farFreed := h.freed.toNat, spareSt := sp, ackBad := b, kept := k, ackHall := l, retxQ := q, nackQ := n } ∧
      t.checked c h payload mk waves waits =
        if h.cls.toNat = clFill then v
        else if seqDist y.cum h.seq.toNat < 2048 ∧ ¬ y.got.contains h.seq.toNat then v.takeSeg c y.cum h payload waits
        else v.updCord c fun x => { x with dupDiscard := satInc 32 x.dupDiscard } := by
  obtain ⟨sp, b, k, l, q, hh⟩ := exists_heard y t.hall h
  have hu := (hnow.updCord fun x => x.heard t.hall h).congr hh
  obtain ⟨n, ha⟩ := exists_askAgain { y with
    farFreed := h.freed.toNat, spareSt := sp, ackBad := b, kept := k, ackHall := l, retxQ := q } t.hall
      (((t.updCord c fun x => x.heard t.hall h).cord c).missing h.seq.toNat)
  refine ⟨_, sp, b, k, l, q, n, (hu.updCord fun x => x.askAgain t.hall
    (((t.updCord c fun x => x.heard t.hall h).cord c).missing h.seq.toNat)).congr ha, ?_⟩
  rw [checked_of_gen (by rw [hg, hnow.2]), hu.2]

/-! ### CTL segments of the module (R290, R292, R295) -/

theorem seqDist_self (a : Nat) : seqDist a a = 0 := by simp [seqDist]

/-- A number that is due but not next comes within the window after the cumulative point. -/
theorem seqDist_pos {a b : Nat} (ha : a < 4096) (hb : b < 4096) (hne : b ≠ a) : 0 < seqDist a b := by
  unfold seqDist
  omega

/-- The cumulative point has passed a number: it comes last. -/
theorem seqDist_succ {a : Nat} (ha : a < 4096) : seqDist ((a + 1) % 4096) a = 4095 := by
  unfold seqDist
  omega

section
variable {x : Cord}

theorem missing_of_far {n : Nat} (h : 2048 < seqDist x.cum n) : x.missing n = [] := by
  simp [Cord.missing, h]

theorem cum_mem_missing {n : Nat} (hc : x.cum < 4096) (hg : x.cum ∉ x.got) (h0 : 0 < seqDist x.cum n)
    (h : seqDist x.cum n < 2048) : x.cum ∈ x.missing n := by
  unfold Cord.missing
  rw [if_neg (by omega), List.mem_filter]
  exact ⟨List.mem_map.mpr ⟨0, List.mem_range.mpr h0, Nat.mod_eq_of_lt hc⟩, by simpa using hg⟩

theorem advance_of_not_mem {n : Nat} (h : x.cum ∉ x.got) : x.advance n = x := by
  cases n with
  | zero => rfl
  | succ n => exact if_neg (by simpa using h)

theorem advance_of_next {n : Nat} (h : x.got = [x.cum]) :
    x.advance (n + 1) = { x with got := [], cum := (x.cum + 1) % 4096 } := by
  have hmem : x.got.contains x.cum = true := by simp [h]
  have hrest : x.got.filter (fun g => g ≠ x.cum) = [] := by simp [h]
  refine (if_pos hmem).trans ?_
  rw [hrest]
  exact advance_of_not_mem (List.not_mem_nil)

end

/-- What an ingress port holds of a segment until its stream's order lets it pass (R290). -/
def heldOf (x : Cord) (hall : Nat) (h : SegHdr) (payload : List Byte) (waits : List Nat) : Held :=
  { seq := h.seq.toNat, owner := ownModule, cls := h.cls.toNat, retx := h.retx, info := h.info.toNat, payload := payload
    waits := waits.filter fun n => (x.missing h.seq.toNat).contains n, hall := hall }

section
variable {s t : State} {c : Nat} {y : Cord} {h : SegHdr} {payload : List Byte} {waits : List Nat}

/-- A CTL segment of the module is held, and what can pass does. -/
theorem accept_ctl (hcls : h.cls.toNat = clCtl) (ho : h.owner.toNat = ownModule) :
    ∃ o, t.accept c h payload waits = (t.updCord c fun x => { x with
      reorder := x.reorder ++ [heldOf (t.cord c) t.hall h payload waits], elsewhere := x.elsewhere ++ o }).drainHeld c 2048 := by
  unfold State.accept
  dsimp only
  rw [if_pos ho]
  dsimp only
  rw [if_neg (by rw [hcls]; decide), if_pos (.inr (.inr hcls))]
  exact ⟨_, rfl⟩

theorem drainHeld_of_none (hn : (t.cord c).reorder.find? (fun g => (t.cord c).canPass g) = none) (n : Nat) :
    t.drainHeld c n = t := by
  cases n with
  | zero => rfl
  | succ n =>
    rw [State.drainHeld, hn]

theorem drainHeld_of_some {g : Held} (hg : (t.cord c).reorder.find? (fun g => (t.cord c).canPass g) = some g) (n : Nat) :
    t.drainHeld c (n + 1) = ((t.updCord c fun x => { x with reorder := x.reorder.erase g }).passSeg c g).drainHeld c n := by
  rw [State.drainHeld, hg]

theorem passSeg_ctl {g : Held} (hg : g.cls = clCtl) (hl : (t.cord c).ctlIn.length < 8) :
    t.passSeg c g = t.updCord c fun x => { x with ctlIn := x.ctlIn ++ [⟨g.payload.take (g.info % 1024), g.hall⟩] } := by
  have hp : ¬ g.cls = clPlan := by rw [hg]; decide
  unfold State.passSeg
  rw [if_pos (.inl hg), if_pos hl, if_neg hp]

theorem CordNow.drainHeld_nil (hnow : CordNow c s t y) (hr : y.reorder = []) (n : Nat) : t.drainHeld c n = t :=
  drainHeld_of_none (by rw [hnow.2, hr]; rfl) n

/-- The only segment held passes when nothing of its stream is missing before it. -/
theorem CordNow.drainHeld_one (hnow : CordNow c s t y) {g : Held} (hr : y.reorder = [g]) (hw : g.waits = []) (hg : g.cls = clCtl)
    (hl : y.ctlIn.length < 8) (n : Nat) : CordNow c s (t.drainHeld c (n + 1)) { y with
      reorder := [], ctlIn := y.ctlIn ++ [⟨g.payload.take (g.info % 1024), g.hall⟩] } := by
  have hfind : (t.cord c).reorder.find? (fun g => (t.cord c).canPass g) = some g := by
    rw [hnow.2, hr]
    simp [Cord.canPass, hr, hw]
  have herase := (hnow.updCord fun x => { x with reorder := x.reorder.erase g }).congr (z := { y with reorder := [] })
    (by simp [hr])
  have hpass := herase.updCord fun x => { x with ctlIn := x.ctlIn ++ [⟨g.payload.take (g.info % 1024), g.hall⟩] }
  rw [drainHeld_of_some hfind, passSeg_ctl hg (by rw [herase.2]; exact hl), hpass.drainHeld_nil rfl]
  exact hpass

/-- The only segment held waits for a number that has not come. -/
theorem CordNow.drainHeld_waits (hnow : CordNow c s t y) {g : Held} (hr : y.reorder = [g]) (hw : y.cum ∈ g.waits)
    (hc : y.cum ∉ y.got) (n : Nat) : t.drainHeld c n = t := by
  refine drainHeld_of_none ?_ n
  rw [hnow.2, hr]
  have hpass : y.canPass g = false := by
    unfold Cord.canPass
    rw [Bool.and_eq_false_iff]
    exact .inl (List.all_eq_false.mpr ⟨_, hw, by simp [hc, seqDist_self]⟩)
  simp [hpass]

/-- A cumulative point that has moved is shown from two hall ticks on (R288). -/
theorem CordNow.logAck (hnow : CordNow c s t y) (cum hall : Nat) : ∃ l, CordNow c s
    (t.updCord c fun y => if y.cum = cum then y else { y with ackLog := y.ackLog ++ [(hall, y.cum)] }) { y with ackLog := l } := by
  refine ⟨if y.cum = cum then y.ackLog else y.ackLog ++ [(hall, y.cum)], (hnow.updCord _).congr ?_⟩
  split <;> rfl

/-- The number next in order moves the cumulative point by one. -/
theorem CordNow.countSeg_next (hnow : CordNow c s t y) (hg : y.got = []) (cum : Nat) :
    ∃ e q o l, CordNow c s (t.countSeg c cum y.cum) { y with
      elsewhere := e, nackQ := q, nackOut := o, got := [], cum := (y.cum + 1) % 4096, ackLog := l } := by
  have hcome := ((hnow.updCord fun x => { x with
    elsewhere := x.elsewhere.filter fun e => e.1 ≠ y.cum
    nackQ := x.nackQ.filter fun e => e.1 ≠ y.cum
    nackOut := x.nackOut.filter fun e => e.1 ≠ y.cum }).updCord fun x =>
      ({ x with got := x.got ++ [y.cum] } : Cord).advance 2048).congr (advance_of_next (n := 2047) (by simp [hg]))
  obtain ⟨l, hlog⟩ := hcome.logAck cum t.hall
  exact ⟨_, _, _, l, hlog⟩

/-- A number past the cumulative point, which has not come, leaves the point where it is. -/
theorem CordNow.countSeg_early (hnow : CordNow c s t y) {seq cum : Nat} (hy : y.cum = cum) (hg : y.cum ∉ y.got)
    (hne : seq ≠ y.cum) :
    ∃ e q o, CordNow c s (t.countSeg c cum seq) { y with
      elsewhere := e, nackQ := q, nackOut := o, got := y.got ++ [seq] } := by
  have hcome := ((hnow.updCord fun x => { x with
    elsewhere := x.elsewhere.filter fun e => e.1 ≠ seq
    nackQ := x.nackQ.filter fun e => e.1 ≠ seq
    nackOut := x.nackOut.filter fun e => e.1 ≠ seq }).updCord fun x =>
      ({ x with got := x.got ++ [seq] } : Cord).advance 2048).congr (advance_of_not_mem (by simp [hg, hne.symm]))
  exact ⟨_, _, _, (hcome.updCord fun z => if z.cum = cum then z else { z with ackLog := z.ackLog ++ [(t.hall, z.cum)] }).congr
    (if_pos hy)⟩

section
variable (hnow : CordNow c s t y) (hcls : h.cls.toNat = clCtl) (ho : h.owner.toNat = ownModule) (hr : y.reorder = [])
include hnow hcls ho hr

/-- A CTL segment of the module is held alone before what can pass does. -/
theorem CordNow.accept_ctl : ∃ u e, CordNow c s u { y with
      reorder := [heldOf y s.hall h payload waits], elsewhere := e } ∧ t.accept c h payload waits = u.drainHeld c 2048 := by
  obtain ⟨o, ha⟩ := Machine.accept_ctl (t := t) (c := c) (payload := payload) (waits := waits) hcls ho
  refine ⟨_, y.elsewhere ++ o, (hnow.updCord fun x => { x with
    reorder := x.reorder ++ [heldOf (t.cord c) t.hall h payload waits], elsewhere := x.elsewhere ++ o }).congr ?_, ha⟩
  rw [hnow.2, hnow.hall, hr]
  rfl

/-- A CTL segment of the module in order reaches a receive buffer, and the cumulative point passes it. -/
theorem CordNow.takeSeg_next (hseq : h.seq.toNat = y.cum) (hg : y.got = []) (hl : y.ctlIn.length < 8) (cum : Nat) :
    ∃ e q o l, CordNow c s (t.takeSeg c cum h payload waits) { y with
      elsewhere := e, nackQ := q, nackOut := o, ackLog := l, got := [], cum := (y.cum + 1) % 4096, reorder := []
      ctlIn := y.ctlIn ++ [⟨payload.take (h.info.toNat % 1024), s.hall⟩] } := by
  obtain ⟨e, q, o, l, hcount⟩ := hnow.countSeg_next hg cum
  obtain ⟨u, e', hheld, haccept⟩ := hcount.accept_ctl (payload := payload) (waits := waits) hcls ho hr
  have hfar := missing_of_far (x := { y with
    elsewhere := e, nackQ := q, nackOut := o, got := [], cum := (y.cum + 1) % 4096, ackLog := l }) (n := h.seq.toNat)
    (by rw [hseq, seqDist_succ (hseq ▸ h.seq.isLt)]; decide)
  have hpass := hheld.drainHeld_one (n := 2047) rfl (by simp [heldOf, hfar]) hcls hl
  refine ⟨e', q, o, l, ?_⟩
  unfold State.takeSeg
  rw [hseq, haccept, hpass.drainHeld_nil rfl]
  exact hpass

/-- A CTL segment of the module that an earlier number of its stream is missing for is held. -/
theorem CordNow.takeSeg_early {cum : Nat} (hy : y.cum = cum) (hc : y.cum < 4096) (hg : y.cum ∉ y.got)
    (hne : h.seq.toNat ≠ y.cum) (hd : seqDist y.cum h.seq.toNat < 2048) (hw : y.cum ∈ waits) :
    ∃ e q o r, CordNow c s (t.takeSeg c cum h payload waits) { y with
      elsewhere := e, nackQ := q, nackOut := o, got := y.got ++ [h.seq.toNat], reorder := [r] } ∧ r.seq = h.seq.toNat := by
  obtain ⟨e, q, o, hcount⟩ := hnow.countSeg_early hy hg hne
  obtain ⟨u, e', hheld, haccept⟩ := hcount.accept_ctl (payload := payload) (waits := waits) hcls ho hr
  have hcum : y.cum ∉ y.got ++ [h.seq.toNat] := by simp [hg, hne.symm]
  have hmiss := cum_mem_missing (x := { y with elsewhere := e, nackQ := q, nackOut := o, got := y.got ++ [h.seq.toNat] })
    hc hcum (seqDist_pos hc h.seq.isLt hne) hd
  have hwait := hheld.drainHeld_waits rfl (List.mem_filter.mpr ⟨hw, List.contains_iff_mem.mpr hmiss⟩) hcum
  have htake : t.takeSeg c cum h payload waits = u := by
    unfold State.takeSeg
    rw [haccept, hwait, hwait]
  rw [htake]
  exact ⟨e', q, o, _, hheld, rfl⟩

end

end

/-! ### SEGMENT_RECEIVE -/

section
variable {s : State} {c : CordId} {b : List Byte} {waves waits : List Nat} {fec : LaneReport}

theorem exec_segmentReceive_of_none (hn : b.length ≠ 800 ∨ (s.cord c).active = false) :
    exec (.segmentReceive c b waves waits fec) s = .next s :=
  congrArg Host.Outcome.next (if_pos (hn.symm.imp_left fun h => by simp [h]))

variable (hl : b.length = 800) (ha : (s.cord c).active = true)
include hl ha

theorem exec_segmentReceive_of_bad_header (hh : hdrOfBytes (b.take 16) = none) :
    exec (.segmentReceive c b waves waits fec) s = .next ((s.updCord c fun x => x.fecSeen s.hall fec).updCord c fun x =>
      { x with hdrErr := satInc 32 x.hdrErr }) := by
  refine congrArg Host.Outcome.next ((if_neg (by simp [hl, ha])).trans ?_)
  rw [hh]

variable {h : SegHdr} (hh : hdrOfBytes (b.take 16) = some h)
include hh

/-- What a payload that fails its check does (R287): it counts, and a number that is due is asked for. -/
def Cord.damaged (x : Cord) (hall seq : Nat) : Cord :=
  let x := { x with crcErr := satInc 32 x.crcErr }
  if seqDist x.cum seq < 2048 ∧ ¬ x.got.contains seq then x.askDamaged hall seq else x

theorem exec_segmentReceive_of_damaged (hc : leNat ((b.drop 784).take 8) ≠ (crc64 (b.take 784)).toNat) :
    exec (.segmentReceive c b waves waits fec) s = .next ((s.updCord c fun x => x.fecSeen s.hall fec).updCord c fun x =>
      x.damaged s.hall h.seq.toNat) := by
  refine congrArg Host.Outcome.next ((if_neg (by simp [hl, ha])).trans ?_)
  rw [hh]
  exact if_pos hc

variable (hc : leNat ((b.drop 784).take 8) = (crc64 (b.take 784)).toNat)
include hc

theorem exec_segmentReceive_of_denied (hd : (s.cord c).denies h = true) :
    exec (.segmentReceive c b waves waits fec) s = .next s := by
  refine congrArg Host.Outcome.next ((if_neg (by simp [hl, ha])).trans ?_)
  rw [hh]
  exact (if_neg (not_not.mpr hc)).trans (if_pos hd)

theorem exec_segmentReceive_of_checked (hd : (s.cord c).denies h = false) :
    exec (.segmentReceive c b waves waits fec) s = .next ((s.updCord c fun x => x.fecSeen s.hall fec).checked c h
      ((b.drop 16).take 768) (b.drop 792) waves waits) := by
  refine congrArg Host.Outcome.next ((if_neg (by simp [hl, ha])).trans ?_)
  rw [hh]
  exact (if_neg (not_not.mpr hc)).trans (if_neg (by simp [hd]))

variable (hd : (s.cord c).denies h = false) (hg : h.gen = (s.cord c).inGen)
include hd hg

/-- A checked segment under the lane map in use: its header is heard, and then its own number counts. -/
theorem exists_exec_segmentReceive : let x := s.cord c
    ∃ v sp b' k l q n, CordNow c s v { x.fecSeen s.hall fec with
        farFreed := h.freed.toNat, spareSt := sp, ackBad := b', kept := k, ackHall := l, retxQ := q, nackQ := n } ∧
      exec (.segmentReceive c b waves waits fec) s = .next (
        if h.cls.toNat = clFill then v
        else if seqDist x.cum h.seq.toNat < 2048 ∧ ¬ x.got.contains h.seq.toNat then
          v.takeSeg c x.cum h ((b.drop 16).take 768) waits
        else v.updCord c fun x => { x with dupDiscard := satInc 32 x.dupDiscard }) := by
  obtain ⟨v, sp, b', k, l, q, n, hnow, hrun⟩ :=
    exists_checked ((CordNow.refl s c).updCord fun x => x.fecSeen s.hall fec) hg ((b.drop 16).take 768) (b.drop 792) waves waits
  exact ⟨v, sp, b', k, l, q, n, hnow, (exec_segmentReceive_of_checked hl ha hh hc hd).trans (congrArg _ hrun)⟩

/-- A number already received is discarded (R285). -/
theorem exec_segmentReceive_of_duplicate (hcls : h.cls.toNat ≠ clFill)
    (hdue : (decide (seqDist (s.cord c).cum h.seq.toNat < 2048) && !(s.cord c).got.contains h.seq.toNat) = false) :
    let x := s.cord c
    ∃ t, exec (.segmentReceive c b waves waits fec) s = .next t ∧ OnlyCord c s t ∧
      (t.cord c).dupDiscard = satInc 32 x.dupDiscard ∧ (t.cord c).cum = x.cum ∧ (t.cord c).got = x.got ∧
      (t.cord c).ctlIn = x.ctlIn ∧ (t.cord c).reorder = x.reorder ∧ (t.cord c).inPkts = x.inPkts ∧
      (t.cord c).asm = x.asm := by
  obtain ⟨v, sp, b', k, l, q, n, hnow, he⟩ := exists_exec_segmentReceive (waves := waves) (waits := waits) (fec := fec)
    hl ha hh hc hd hg
  obtain ⟨honly, hcord⟩ := hnow.updCord fun x => { x with dupDiscard := satInc 32 x.dupDiscard }
  rw [if_neg hcls, if_neg (by simpa using hdue)] at he
  refine ⟨_, he, honly, ?_⟩
  rw [hcord]
  and_intros <;> rfl

variable (hcls : h.cls.toNat = clCtl) (ho : h.owner.toNat = ownModule) (hr : (s.cord c).reorder = [])
include hcls ho hr

/-- A CTL segment of the module in order (R286, R294). -/
theorem exec_segmentReceive_of_ctl_next (hseq : h.seq.toNat = (s.cord c).cum) (hgot : (s.cord c).got = [])
    (hlen : (s.cord c).ctlIn.length < 8) : let x := s.cord c
    ∃ t, exec (.segmentReceive c b waves waits fec) s = .next t ∧ OnlyCord c s t ∧ (t.cord c).cum = (x.cum + 1) % 4096 ∧
      (t.cord c).got = [] ∧ (t.cord c).reorder = [] ∧ (t.cord c).farFreed = h.freed.toNat ∧
      (t.cord c).ctlIn = x.ctlIn ++ [⟨((b.drop 16).take 768).take (h.info.toNat % 1024), s.hall⟩] := by
  obtain ⟨v, sp, b', k, l, q, n, hnow, he⟩ := exists_exec_segmentReceive (waves := waves) (waits := waits) (fec := fec)
    hl ha hh hc hd hg
  obtain ⟨e, q', o, l', honly, hcord⟩ := hnow.takeSeg_next (payload := (b.drop 16).take 768) (waits := waits)
    hcls ho hr hseq hgot hlen (s.cord c).cum
  rw [if_neg (by rw [hcls]; decide), if_pos (by simp [hseq, seqDist_self, hgot])] at he
  refine ⟨_, he, honly, ?_⟩
  rw [hcord]
  and_intros <;> rfl

/-- A CTL segment of the module that an earlier number of its stream is missing for (R290). -/
theorem exec_segmentReceive_of_ctl_early
    (hdue : (decide (seqDist (s.cord c).cum h.seq.toNat < 2048) && !(s.cord c).got.contains h.seq.toNat) = true)
    (hseq : h.seq.toNat ≠ (s.cord c).cum) (hcum : (s.cord c).cum < 4096) (hgot : (s.cord c).cum ∉ (s.cord c).got)
    (hw : (s.cord c).cum ∈ waits) : let x := s.cord c
    ∃ t, exec (.segmentReceive c b waves waits fec) s = .next t ∧ OnlyCord c s t ∧ (t.cord c).cum = x.cum ∧
      (t.cord c).got = x.got ++ [h.seq.toNat] ∧ (t.cord c).ctlIn = x.ctlIn ∧
      (t.cord c).reorder.map (·.seq) = [h.seq.toNat] := by
  have hin : seqDist (s.cord c).cum h.seq.toNat < 2048 ∧ ¬ (s.cord c).got.contains h.seq.toNat := by simpa using hdue
  obtain ⟨v, sp, b', k, l, q, n, hnow, he⟩ := exists_exec_segmentReceive (waves := waves) (waits := waits) (fec := fec)
    hl ha hh hc hd hg
  obtain ⟨e, q', o, r, ⟨honly, hcord⟩, hr⟩ := hnow.takeSeg_early (payload := (b.drop 16).take 768) (cum := (s.cord c).cum)
    hcls ho hr rfl hcum hgot hseq hin.1 hw
  rw [if_neg (by rw [hcls]; decide), if_pos hin] at he
  refine ⟨_, he, honly, ?_⟩
  rw [hcord]
  exact ⟨rfl, rfl, rfl, congrArg (fun n => [n]) hr⟩

end

/-! ### The obligation -/

theorem askDamaged_of_asked {x : Cord} {hall seq : Nat} (h : (x.nackQ.any fun e => e.1 = seq) = true ∨ 64 ≤ x.nackQ.length) :
    x.askDamaged hall seq = x := by
  refine if_neg fun ⟨hlen, hany⟩ => ?_
  obtain h | h := h
  · exact hany h
  · omega

section
variable {x : Cord} {hall seq : Nat}

theorem damaged_of_asked (h : (decide (seqDist x.cum seq < 2048) && !x.got.contains seq) = false ∨
      (x.nackQ.any fun e => e.1 = seq) = true ∨ 64 ≤ x.nackQ.length) :
    x.damaged hall seq = { x with crcErr := satInc 32 x.crcErr } := by
  unfold Cord.damaged
  dsimp only
  split
  case isTrue hd =>
    exact askDamaged_of_asked (x := { x with crcErr := satInc 32 x.crcErr }) (h.resolve_left (by simpa using hd))
  case isFalse => rfl

theorem damaged_of_due (hd : (decide (seqDist x.cum seq < 2048) && !x.got.contains seq) = true)
    (hq : (x.nackQ.any fun e => e.1 = seq) = false) (hlen : x.nackQ.length < 64) :
    x.damaged hall seq = { x with
      crcErr := satInc 32 x.crcErr, nackQ := x.nackQ ++ [(seq, hall)], nackOut := x.nackOut.filter fun e => e.1 ≠ seq } := by
  unfold Cord.damaged
  dsimp only
  rw [if_pos (by simpa using hd)]
  exact if_pos ⟨hlen, by simp [hq]⟩

end

/-- Settles O36: each outcome of SEGMENT_RECEIVE is a change of its cord alone. -/
theorem segmentsAreCheckedOnArrival : Obligations.SegmentsAreCheckedOnArrival := by
  unfold Obligations.SegmentsAreCheckedOnArrival
  intro s c b waves waits fec
  have hfec := (CordNow.refl s c).updCord fun x => x.fecSeen s.hall fec
  refine ⟨exec_segmentReceive_of_none, fun hl ha => ⟨fun hh => ?_, fun h hh =>
    ⟨fun hc => ⟨fun hno => ?_, fun hdue hq hlen => ?_⟩, exec_segmentReceive_of_denied hl ha hh, fun hc hd hg =>
      ⟨exec_segmentReceive_of_duplicate hl ha hh hc hd hg, fun ⟨hcls, ho⟩ hseq hgot hr hlen => ?_,
        fun ⟨hcls, ho⟩ hdue hseq hcum hgot hr hw => ?_⟩⟩⟩⟩
  · exact ⟨_, exec_segmentReceive_of_bad_header hl ha hh, hfec.updCord _⟩
  · exact ⟨_, exec_segmentReceive_of_damaged hl ha hh hc, (hfec.updCord _).congr (damaged_of_asked hno)⟩
  · exact ⟨_, exec_segmentReceive_of_damaged hl ha hh hc, (hfec.updCord _).congr (damaged_of_due hdue hq hlen)⟩
  · exact exec_segmentReceive_of_ctl_next hl ha hh hc hd hg hcls ho hr hseq hgot hlen
  · exact exec_segmentReceive_of_ctl_early hl ha hh hc hd hg hcls ho hr hdue hseq hcum hgot hw

end Sys2Proof.Machine
end

section
/-! PROOFS. Two statements on cords that states refute: a retransmission that closes an old window of its cord (O35), and a cord
that comes UP with a standing lease to propose (O37). -/

namespace Sys2Proof.Machine

/-- Cord 0 is UP and segment 3 of the module is queued again; a window of the cord's retries, open for longer than 1 s, names
partition 0, which takes a message on each fault. -/
def retryUnderOldWindow : State where
  hall := 2 ^ 29
  parts := [(0, { fn := { evEnable := 4, msgEn := true, msix := [(0, { masked := false })] } })]
  cords := [(0, { st := .up, kept := [⟨3, ownModule, clPlan, 0, [], 0⟩], retxQ := [3] })]
  coalesce := [⟨{ cls := cCordRetry, kind := kCord, index := 0, part := 0 }, 1⟩]

/-- With the retransmission the window closes, and partition 0 is sent the message of its fault log (R437, R481, R482). -/
theorem exec_segmentSend_retryUnderOldWindow :
    ∃ t, exec (.segmentSend 0 true) retryUnderOldWindow = .next t ∧ t.outbox.length = 2 :=
  ⟨_, rfl, by decide +kernel⟩

/-- Refutes O35: in `retryUnderOldWindow` a segment departs, and after it a message to the host. -/
theorem not_segmentsDepartInOrder : ¬ Obligations.SegmentsDepartInOrder := by
  unfold Obligations.SegmentsDepartInOrder
  intro h
  obtain ⟨-, hslot⟩ := h retryUnderOldWindow 0 true
  obtain ⟨hmodule, -⟩ := hslot (by decide +kernel) (by decide +kernel) (by decide +kernel) (by decide +kernel)
  obtain ⟨hagain, -⟩ := hmodule (by decide +kernel)
  obtain ⟨t, _, he, ⟨hout, _⟩, _⟩ := hagain ⟨3, ownModule, clPlan, 0, [], 0⟩ (by decide +kernel)
  obtain ⟨u, hu, hlen⟩ := exec_segmentSend_retryUnderOldWindow
  rw [← Host.Outcome.next.inj (he.symm.trans hu), hout] at hlen
  exact absurd (show 1 = 2 from hlen) (by decide)

/-- Cord 0 is MEASURING with 64 exchanges both ways; partition 0 is MEMBER of domain 4 and has a standing lease, not yet proposed
since kindling, of slot 1 of cord 0. -/
def measuringWithStanding : State where
  parts := [(0, { live := true, dom := { st := .member, domainId := 4 } })]
  cords := [(0, { st := .measuring, exTx := List.replicate 64 6400, exRx := List.replicate 64 6400 })]
  standing := [[0, 0, 3, 0, 4, 0, 0, 0, 0, 0, 0, 0, 0, 0, 0, 0, 2]]

/-- As the cord comes UP, the standing lease is proposed and is open at this end (R448). -/
theorem exec_measuringDone_measuringWithStanding :
    ∃ t, exec (.measuringDone 0) measuringWithStanding = .next t ∧ (t.cord 0).leases.map (·.slots) = [[1]] :=
  ⟨_, rfl, by decide +kernel⟩

/-- Refutes O37: in `measuringWithStanding` cord 0 comes UP with a lease open. -/
theorem not_cordsTrainMeasureAndGoDown : ¬ Obligations.CordsTrainMeasureAndGoDown := by
  unfold Obligations.CordsTrainMeasureAndGoDown
  intro h
  obtain ⟨-, -, -, -, -, -, -, -, -, -, -, hmeasured, -⟩ := h measuringWithStanding 0
  obtain ⟨-, hup⟩ := hmeasured rfl rfl rfl
  obtain ⟨t, he, -, -, -, -, -, hleases, -⟩ := hup (by decide +kernel) (by decide +kernel)
  obtain ⟨u, hu, hopen⟩ := exec_measuringDone_measuringWithStanding
  rw [← Host.Outcome.next.inj (he.symm.trans hu), show (t.cord 0).leases = [] from hleases] at hopen
  exact absurd hopen (by decide)

end Sys2Proof.Machine
end

section
/-! PROOFS. Slot leases (O39): what each message of a lease makes of its cord, and a lease that acts (R306 to R312). -/

namespace Sys2Proof.Machine

open State

/-! ### Slots set and freed (R330) -/

theorem tabGet_setSlots (x : Cord) (is : List Nat) (b i : Nat) :
    tabGet 0x10 (x.setSlots is b).slots i = if i ∈ is then b else tabGet 0x10 x.slots i := by
  unfold Cord.setSlots
  dsimp only
  generalize x.slots = t
  induction is generalizing t with
  | nil => simp
  | cons k is ih =>
    rw [List.foldl_cons, ih, tabGet_tabSet]
    by_cases hk : i = k <;> by_cases hi : i ∈ is <;> simp [hk, hi]

theorem tabGet_setSlots_of_mem (x : Cord) {is : List Nat} (b : Nat) {i : Nat} (h : i ∈ is) :
    tabGet 0x10 (x.setSlots is b).slots i = b := by
  rw [tabGet_setSlots, if_pos h]

theorem tabGet_freeSlots (x : Cord) (is : List Nat) (p i : Nat) :
    tabGet 0x10 (x.freeSlots is p).slots i = if i ∈ is then slotByteModule else tabGet 0x10 x.slots i := by
  unfold Cord.freeSlots
  dsimp only
  split <;> exact tabGet_setSlots _ _ _ _

theorem leases_freeSlots (x : Cord) (is : List Nat) (p : Nat) : (x.freeSlots is p).leases = x.leases := by
  unfold Cord.freeSlots
  dsimp only
  split <;> rfl

theorem proposer_of_lease {x : Cord} {id : Nat} {b : Bool} {l : Lease} (h : x.lease id b = some l) : l.proposer = b := by
  have := List.find?_some h
  simp only [Bool.and_eq_true, decide_eq_true_eq] at this
  exact this.2

/-! ### A proposal (R309, R310) -/

/-- The lease that a LEASE_PROPOSE asks for, as its receiver keeps it. -/
def proposedLease (b : List Byte) : Lease :=
  { id := fld b 1 4, proposer := false, grant := fld b 5 1 = 1, mine := fld b 6 1 / 16, theirs := fld b 6 1 % 16
    domain := fld b 7 2, h := fld b 9 8, slots := bitmapSlots ((b.drop 17).take 32), accepted := true }

/-- A slot that a lease cannot have at this end: an open lease names it, or it is not free to be granted or released. -/
def Cord.slotTaken (x : Cord) (l : Lease) (i : Nat) : Bool :=
  x.leases.any (fun k => k.slots.contains i) || if l.grant then x.slotOwner i ≠ 16 || x.slotState i ≠ 0
    else x.slotOwner i ≠ l.mine || x.slotState i ≠ 2 || x.farOf l.mine ≠ some l.theirs

/-- The receiver's checks in their order (R310). -/
theorem leaseCheck_eq (s : State) (c now : Nat) (l : Lease) :
    s.leaseCheck c now l.grant l.mine l.theirs l.domain l.h 4096 l.slots =
      if l.slots.any ((s.cord c).slotTaken l) then 1 else if s.leaseMember l.mine l.domain l.grant = false then 2
        else if l.h < now + 4096 then 3 else if 8 ≤ (s.cord c).leases.length then 4 else 0 := by
  have hbusy : (fun i => (s.cord c).reserved i ||
      if l.grant then decide ¬ ((s.cord c).slotOwner i = ownModule ∧ (s.cord c).slotState i = slModule)
      else decide ¬ ((s.cord c).slotOwner i = l.mine ∧ (s.cord c).slotState i = slOwned ∧
        (s.cord c).farOf l.mine = some l.theirs)) = (s.cord c).slotTaken l := by
    funext i
    rw [Cord.slotTaken, Cord.reserved]
    cases l.grant <;> simp [ownModule, slModule, slOwned, Bool.or_assoc]
  unfold State.leaseCheck
  simp only [← hbusy, Bool.not_eq_true]
  rfl

/-- The receiver's answer to the proposal that its cord's consumer takes. -/
def State.proposalAnswer (s : State) (c : Nat) (m : CtlMsg) : Nat :=
  let l := proposedLease m.bytes
  (s.ctlFreed c m).leaseCheck c m.hall l.grant l.mine l.theirs l.domain l.h 4096 l.slots

theorem State.proposalAnswer_eq (s : State) (c : Nat) (m : CtlMsg) : s.proposalAnswer c m =
    let l := proposedLease m.bytes
    if l.slots.any ((s.cord c).slotTaken l) then 1 else if s.leaseMember l.mine l.domain l.grant = false then 2
      else if l.h < m.hall + 4096 then 3 else if 8 ≤ (s.cord c).leases.length then 4 else 0 := by
  rw [proposalAnswer]
  dsimp only
  rw [leaseCheck_eq, cord_ctlFreed]
  rfl

section
variable {s : State} {c : CordId} {m : CtlMsg} (h : CtlFront s c 0x20 m)
include h

theorem exec_leasePropose_of_refused (he : s.proposalAnswer c m ≠ 0) : exec (.leasePropose c) s =
    .next ((s.ctlFreed c m).sendCtl c (msgLeaseAck (proposedLease m.bytes).id (s.proposalAnswer c m))) := by
  refine congrArg Host.Outcome.next ((onCtl_of_front h _).trans ?_)
  exact congrArg (State.sendCtl · c _) (if_neg he)

theorem exec_leasePropose_of_accepted (he : s.proposalAnswer c m = 0) : exec (.leasePropose c) s =
    .next (((s.ctlFreed c m).openLease c (proposedLease m.bytes)).sendCtl c
      (msgLeaseAck (proposedLease m.bytes).id (s.proposalAnswer c m))) := by
  refine congrArg Host.Outcome.next ((onCtl_of_front h _).trans ?_)
  exact congrArg (State.sendCtl · c _) (if_pos he)

end

/-- A lease opened at an end of a cord. -/
def Cord.openedLease (x : Cord) (l : Lease) : Cord :=
  if l.grant then Cord.setSlots { x with leases := x.leases ++ [l] } l.slots slotByteReserved
  else { x with leases := x.leases ++ [l] }

theorem CordNow.openLease {s t : State} {c : Nat} {y : Cord} (h : CordNow c s t y) (l : Lease) :
    CordNow c s (t.openLease c l) (y.openedLease l) := h.updCord _

/-- Nothing but slots and leases changes as a lease opens. -/
theorem Cord.exists_openedLease (x : Cord) (l : Lease) : ∃ z, x.openedLease l = { x with leases := x.leases ++ [l], slots := z } ∧
    (l.grant = false → z = x.slots) ∧
    (l.grant = true → ∀ i, tabGet 0x10 z i = if i ∈ l.slots then slotByteReserved else tabGet 0x10 x.slots i) := by
  unfold openedLease
  cases l.grant with
  | false => exact ⟨_, rfl, fun _ => rfl, nofun⟩
  | true => exact ⟨_, rfl, nofun, fun _ => tabGet_setSlots _ _ _⟩

/-! ### ACCEPT, COMMIT and ABORT (R309 to R311) -/

/-- The cord of an end whose lease is freed before it acts. -/
def Cord.droppedLease (x : Cord) (l : Lease) : Cord :=
  if l.grant then Cord.setSlots { x with leases := x.leases.erase l } l.slots slotByteModule
  else { x with leases := x.leases.erase l }

theorem CordNow.dropLease {s t : State} {c : Nat} {y : Cord} (h : CordNow c s t y) (l : Lease) :
    CordNow c s (t.dropLease c l) (y.droppedLease l) := h.updCord _

/-- A freed reservation leaves its lease closed and the slots of a GRANT the module's. -/
theorem Cord.exists_droppedLease (x : Cord) (l : Lease) : ∃ z, x.droppedLease l = { x with leases := x.leases.erase l, slots := z } ∧
    ∀ i, tabGet 0x10 z i = if l.grant = true ∧ i ∈ l.slots then slotByteModule else tabGet 0x10 x.slots i := by
  unfold droppedLease
  cases l.grant with
  | false => exact ⟨_, rfl, fun _ => (if_neg nofun).symm⟩
  | true => exact ⟨_, rfl, fun i => (tabGet_setSlots _ _ _ i).trans (by simp)⟩

theorem CordNow.setLease {s t : State} {c : Nat} {y : Cord} (h : CordNow c s t y) (l k : Lease) :
    CordNow c s (t.setLease c l k) { y with leases := y.leases.map fun j => if j = l then k else j } := h.updCord _

theorem CordNow.closeLease {s t : State} {c : Nat} {y : Cord} (h : CordNow c s t y) (l : Lease) :
    CordNow c s (t.closeLease c l) { y with leases := y.leases.erase l } := h.updCord _

@[simp] theorem leases_ctlFreed (s : State) (c : Nat) (m : CtlMsg) : ((s.ctlFreed c m).cord c).leases = (s.cord c).leases := by
  rw [cord_ctlFreed]

@[simp] theorem slots_ctlFreed (s : State) (c : Nat) (m : CtlMsg) : ((s.ctlFreed c m).cord c).slots = (s.cord c).slots := by
  rw [cord_ctlFreed]

@[simp] theorem partner_ctlFreed (s : State) (c : Nat) (m : CtlMsg) : ((s.ctlFreed c m).cord c).partner = (s.cord c).partner := by
  rw [cord_ctlFreed]

theorem lease_ctlFreed (s : State) (c : Nat) (m : CtlMsg) (id : Nat) (b : Bool) :
    ((s.ctlFreed c m).cord c).lease id b = (s.cord c).lease id b := by
  rw [cord_ctlFreed]
  rfl

section
variable {s : State} {c : CordId} {m : CtlMsg} {l : Lease}

theorem exec_leaseAck_of_accept (h : CtlFront s c 0x21 m) (hl : (s.cord c).lease (fld m.bytes 1 4) true = some l)
    (hc : l.commit = false) (ha : fld m.bytes 5 1 = 0) (hh : m.hall < l.h) : exec (.leaseAck c) s =
      .next (((s.ctlFreed c m).setLease c l { l with accepted := true, commit := true }).sendCtl c (msgLease 0x22 l.id)) := by
  refine congrArg Host.Outcome.next ((onCtl_of_front h _).trans ?_)
  rw [lease_ctlFreed, hl]
  dsimp only
  rw [if_neg (by simp [hc]), if_pos ⟨ha, hh⟩]

theorem exec_leaseAck_of_refused (h : CtlFront s c 0x21 m) (hl : (s.cord c).lease (fld m.bytes 1 4) true = some l)
    (hc : l.commit = false) (ha : fld m.bytes 5 1 ≠ 0 ∨ l.h ≤ m.hall) : exec (.leaseAck c) s =
      .next (((s.ctlFreed c m).dropLease c l).sendCtl c (msgLease 0x23 l.id)) := by
  refine congrArg Host.Outcome.next ((onCtl_of_front h _).trans ?_)
  rw [lease_ctlFreed, hl]
  dsimp only
  rw [if_neg (by simp [hc]), if_neg fun k => ha.elim (absurd k.1) (Nat.not_le.mpr k.2)]

theorem exec_leaseCommit_of_early (h : CtlFront s c 0x22 m) (hl : (s.cord c).lease (fld m.bytes 1 4) false = some l)
    (hh : s.hall < l.h) : exec (.leaseCommit c) s = .next ((s.ctlFreed c m).setLease c l { l with commit := true }) := by
  refine congrArg Host.Outcome.next ((onCtl_of_front h _).trans ?_)
  rw [lease_ctlFreed, hl]
  refine if_neg fun k => ?_
  simp only [Lease.due, Bool.and_eq_true, decide_eq_true_eq] at k
  exact absurd k.2 (Nat.not_le.mpr hh)

theorem exec_leaseCommit_of_due (h : CtlFront s c 0x22 m) (hl : (s.cord c).lease (fld m.bytes 1 4) false = some l)
    (hb : l.begun = false) (hh : l.h ≤ s.hall) : exec (.leaseCommit c) s =
      .next (((s.ctlFreed c m).setLease c l { l with commit := true }).leaseAct c { l with commit := true }) := by
  refine congrArg Host.Outcome.next ((onCtl_of_front h _).trans ?_)
  rw [lease_ctlFreed, hl]
  exact if_pos (by simp [Lease.due, State.setLease, hb, hh])

theorem exec_leaseAbort_of_open (h : CtlFront s c 0x23 m) (hl : (s.cord c).lease (fld m.bytes 1 4) false = some l)
    (hc : l.commit = false) : exec (.leaseAbort c) s = .next ((s.ctlFreed c m).dropLease c l) := by
  refine congrArg Host.Outcome.next ((onCtl_of_front h _).trans ?_)
  rw [lease_ctlFreed, hl]
  exact if_neg (by simp [hc])

/-! ### DONE (R311, R312) -/

variable (h : CtlFront s c 0x24 m) (hl : (s.cord c).lease (fld m.bytes 1 4) true = some l) (hc : l.commit = true)
include h hl hc

theorem exec_leaseDone_of_waiting (hb : l.begun = false) :
    exec (.leaseDone c) s = .next ((s.ctlFreed c m).setLease c l { l with done := true }) := by
  refine congrArg Host.Outcome.next ((onCtl_of_front h _).trans ?_)
  rw [lease_ctlFreed, hl]
  dsimp only
  rw [if_neg (by simp [hc]), if_pos (by simp [hb])]

theorem exec_leaseDone_of_grant (hb : l.begun = true) (hg : l.grant = true) : exec (.leaseDone c) s =
    .next ((((s.ctlFreed c m).setLease c l { l with done := true }).updCord c fun x =>
      x.setSlots l.slots (slotByteOwned l.mine true)).closeLease c { l with done := true }) := by
  refine congrArg Host.Outcome.next ((onCtl_of_front h _).trans ?_)
  rw [lease_ctlFreed, hl]
  dsimp only
  rw [if_neg (by simp [hc]), if_neg (by simp [hb]), if_pos hg]

theorem exec_leaseDone_of_release (hb : l.begun = true) (hg : l.grant = false) : exec (.leaseDone c) s =
    .next ((((s.ctlFreed c m).setLease c l { l with done := true }).updCord c fun x =>
      x.freeSlots l.slots l.mine).closeLease c { l with done := true }) := by
  refine congrArg Host.Outcome.next ((onCtl_of_front h _).trans ?_)
  rw [lease_ctlFreed, hl]
  dsimp only
  rw [if_neg (by simp [hc]), if_neg (by simp [hb]), if_neg (by simp [hg])]

end

/-! ### A lease acts (R311, R312) -/

section
variable {s t : State} {c : Nat} {y : Cord} (h : CordNow c s t y) {l : Lease}
include h

theorem CordNow.leaseAct_grant_proposer (hg : l.grant = true) (hp : l.proposer = true) (hd : l.done = false) :
    CordNow c s (t.leaseAct c l) { y.setSlots l.slots (slotByteOwned l.mine false) with
      partner := tabSet 0 y.partner l.mine (128 + l.theirs)
      leases := y.leases.map fun j => if j = l then { l with begun := true } else j } := by
  unfold State.leaseAct
  rw [if_pos hg, if_pos hp]
  dsimp only
  rw [if_neg (by simp [hd]), hd]
  exact (h.updCord _).setLease _ _

theorem CordNow.leaseAct_grant_receiver (hg : l.grant = true) (hp : l.proposer = false) :
    CordNow c s (t.leaseAct c l) { y.setSlots l.slots (slotByteOwned l.mine true) with
      partner := tabSet 0 y.partner l.mine (128 + l.theirs)
      leases := y.leases.erase l
      ctlOut := y.ctlOut ++ [msgLease 0x24 l.id] } := by
  unfold State.leaseAct
  rw [if_pos hg, if_neg (by simp [hp])]
  exact ((h.updCord _).closeLease _).sendCtl _

theorem CordNow.leaseAct_release_receiver (hg : l.grant = false) (hp : l.proposer = false) :
    CordNow c s (t.leaseAct c l) { y.setSlots l.slots (slotByteReleasing l.mine) with
      leases := y.leases.map fun j => if j = l then { l with begun := true, endAt := s.hall + y.delayRx + 2 } else j
      ctlOut := y.ctlOut ++ [msgLease 0x24 l.id] } := by
  have hset := h.updCord fun x => x.setSlots l.slots (slotByteReleasing l.mine)
  have hend : (t.updCord c fun x => x.setSlots l.slots (slotByteReleasing l.mine)).hall +
      ((t.updCord c fun x => x.setSlots l.slots (slotByteReleasing l.mine)).cord c).delayRx + 2 = s.hall + y.delayRx + 2 := by
    rw [hset.hall, hset.2]
    rfl
  unfold State.leaseAct
  rw [if_neg (by simp [hg])]
  dsimp only
  rw [if_neg (by simp [hp]), hend]
  exact (hset.setLease _ _).sendCtl _

/-- A lease that acts changes its own slots alone. -/
theorem CordNow.exists_leaseAct : ∃ z, CordNow c s (t.leaseAct c l) z ∧
    ∀ i, i ∉ l.slots → tabGet 0x10 z.slots i = tabGet 0x10 y.slots i := by
  have hset (b i) (hi : i ∉ l.slots) : tabGet 0x10 (y.setSlots l.slots b).slots i = tabGet 0x10 y.slots i := by
    rw [tabGet_setSlots, if_neg hi]
  cases hg : l.grant with
  | true =>
    cases hp : l.proposer with
    | true =>
      unfold State.leaseAct
      rw [if_pos hg, if_pos hp]
      dsimp only
      split
      · exact ⟨_, (h.updCord _).closeLease _, hset _⟩
      · exact ⟨_, (h.updCord _).setLease _ _, hset _⟩
    | false => exact ⟨_, h.leaseAct_grant_receiver hg hp, hset _⟩
  | false =>
    cases hp : l.proposer with
    | true =>
      unfold State.leaseAct
      rw [if_neg (by simp [hg])]
      dsimp only
      rw [if_pos hp]
      split
      · refine ⟨_, ((h.updCord _).updCord _).closeLease _, fun i hi => ?_⟩
        dsimp only
        rw [tabGet_freeSlots, if_neg hi, hset _ _ hi]
      · exact ⟨_, (h.updCord _).setLease _ _, hset _⟩
    | false => exact ⟨_, h.leaseAct_release_receiver hg hp, hset _⟩

end

/-! ### LEASE_EFFECTIVE and LEASE_ACCEPT_END -/

section
variable {s : State} {c : CordId} {l : Lease} (hl : (s.cord c).leases = [l])
include hl

theorem exec_leaseEffective_of_early (hh : s.hall < l.h) : exec (.leaseEffective (some c)) s = .next s := by
  refine congrArg Host.Outcome.next ?_
  dsimp only
  rw [hl, List.filter_cons_of_neg (by simp [Lease.due, hh])]
  rfl

theorem exec_leaseEffective_of_due (hc : l.commit = true) (hb : l.begun = false) (hh : l.h ≤ s.hall) :
    exec (.leaseEffective (some c)) s = .next (s.leaseAct c l) := by
  refine congrArg Host.Outcome.next ?_
  dsimp only
  rw [hl, List.filter_cons_of_pos (by simp [Lease.due, hc, hb, hh])]
  rfl

theorem exec_leaseAcceptEnd_of_early (hh : s.hall < l.endAt) : exec (.leaseAcceptEnd c) s = .next s := by
  refine congrArg Host.Outcome.next ?_
  rw [hl, List.filter_cons_of_neg (by simp [hh])]
  rfl

theorem exec_leaseAcceptEnd_of_over (hg : l.grant = false) (hp : l.proposer = false) (hb : l.begun = true) (hh : l.endAt ≤ s.hall) :
    exec (.leaseAcceptEnd c) s = .next ((s.updCord c fun x => x.freeSlots l.slots l.mine).closeLease c l) := by
  refine congrArg Host.Outcome.next ?_
  rw [hl, List.filter_cons_of_pos (by simp [hg, hp, hb, hh])]
  rfl

end

theorem exec_leaseEffective_lane {s : State} {l : LaneLease} (hl : s.laneLeases = [l]) (hh : l.h ≤ s.hall) :
    exec (.leaseEffective none) s = .next (s.laneAct2 l) := by
  refine congrArg Host.Outcome.next ?_
  dsimp only
  rw [hl, List.filter_cons_of_pos (by simpa using hh)]
  rfl

theorem tabGet_lanes_laneAct2 (s : State) (l : LaneLease) (i : Nat) :
    tabGet 0x10 (tabGet [] (s.laneAct2 l).lanes l.lane) i =
      if i ∈ l.slots then (if l.grant then slotByteOwned l.part true else slotByteModule)
      else tabGet 0x10 (tabGet [] s.lanes l.lane) i := by
  unfold State.laneAct2
  dsimp only
  rw [tabGet_tabUpd_self]
  exact tabGet_setSlots { slots := tabGet [] s.lanes l.lane } l.slots _ i

/-! ### The obligation -/

/-- Settles O39: each command of a lease is a change of its cord alone, and the slots that it names are those of its lease. -/
theorem leasesReserveCommitAndAct : Obligations.LeasesReserveCommitAndAct := by
  unfold Obligations.LeasesReserveCommitAndAct
  refine fun s c => ⟨fun m h => ?_, fun m l h hl hc => ⟨fun ha hh => ?_, fun ha => ?_⟩,
    fun m l h hl hb => ⟨fun hh => ?_, fun hh hg => ?_⟩, fun m l h hl hc => ?_,
    fun m l h hl hc => ⟨fun hb => ?_, fun hb hg => ?_, fun hb hg => ?_⟩,
    fun l hl hc hb => ⟨exec_leaseEffective_of_early hl, fun hh => ?_, fun hh hg _ hp => ?_, fun hh hg hd hp => ?_⟩,
    fun l hl hh => ?_, fun l hl hg hp hb => ⟨fun hh => ?_, exec_leaseAcceptEnd_of_early hl⟩⟩
  · have hans := s.proposalAnswer_eq c m
    refine ⟨fun he => ?_, fun he => ?_⟩
    · have hne : s.proposalAnswer c m ≠ 0 := fun k => he (hans.symm.trans k)
      exact ⟨_, exec_leasePropose_of_refused h hne, ((cordNow_ctlFreed s c m).sendCtl _).congr
        (by rw [hans, ctlOut_ctlFreed]; rfl)⟩
    · have hzero : s.proposalAnswer c m = 0 := hans.trans he
      obtain ⟨z, hz, hrel, hgrant⟩ := ((s.ctlFreed c m).cord c).exists_openedLease (proposedLease m.bytes)
      obtain ⟨honly, hcord⟩ := (((cordNow_ctlFreed s c m).openLease (proposedLease m.bytes)).congr hz).sendCtl
        (msgLeaseAck (proposedLease m.bytes).id (s.proposalAnswer c m))
      rw [slots_ctlFreed] at hrel hgrant
      refine ⟨_, exec_leasePropose_of_accepted h hzero, honly, ?_, ?_, ?_, fun hg => ?_, fun hg => ?_⟩ <;> rw [hcord] <;> dsimp only
      · rw [leases_ctlFreed]
        rfl
      · rw [ctlOut_ctlFreed, hzero]
        rfl
      · rw [partner_ctlFreed]
      · exact hrel hg
      · exact hgrant hg
  · exact ⟨_, exec_leaseAck_of_accept h hl hc ha hh, (((cordNow_ctlFreed s c m).setLease _ _).sendCtl _).congr (by simp)⟩
  · obtain ⟨z, hz, hslots⟩ := ((s.ctlFreed c m).cord c).exists_droppedLease l
    obtain ⟨honly, hcord⟩ := (((cordNow_ctlFreed s c m).dropLease l).congr hz).sendCtl (msgLease 0x23 l.id)
    rw [slots_ctlFreed] at hslots
    exact ⟨_, exec_leaseAck_of_refused h hl hc ha, honly, by simp [hcord], by simp [hcord], by rw [hcord]; exact hslots⟩
  · exact ⟨_, exec_leaseCommit_of_early h hl hh, ((cordNow_ctlFreed s c m).setLease _ _).congr (by rw [leases_ctlFreed])⟩
  · obtain ⟨honly, hcord⟩ := ((cordNow_ctlFreed s c m).setLease l { l with commit := true }).leaseAct_grant_receiver
      (l := { l with commit := true }) hg (proposer_of_lease hl :)
    refine ⟨_, exec_leaseCommit_of_due h hl hb hh, honly, by simp [hcord], fun ht => ?_, fun i => ?_⟩ <;> rw [hcord]
    · rw [Cord.farOf]
      dsimp only
      rw [tabGet_tabSet_self, if_pos (by omega)]
      exact congrArg some (by omega)
    · exact (tabGet_setSlots _ _ _ i).trans (by rw [slots_ctlFreed])
  · obtain ⟨z, hz, hslots⟩ := ((s.ctlFreed c m).cord c).exists_droppedLease l
    obtain ⟨honly, hcord⟩ := ((cordNow_ctlFreed s c m).dropLease l).congr hz
    rw [slots_ctlFreed] at hslots
    exact ⟨_, exec_leaseAbort_of_open h hl hc, honly, by simp [hcord], by simp [hcord], by rw [hcord]; exact hslots⟩
  · exact ⟨_, exec_leaseDone_of_waiting h hl hc hb, ((cordNow_ctlFreed s c m).setLease _ _).congr (by rw [leases_ctlFreed])⟩
  · obtain ⟨honly, hcord⟩ := (((cordNow_ctlFreed s c m).setLease l { l with done := true }).updCord fun x =>
      x.setSlots l.slots (slotByteOwned l.mine true)).closeLease { l with done := true }
    refine ⟨_, exec_leaseDone_of_grant h hl hc hb hg, honly, fun i => ?_⟩
    rw [hcord]
    exact (tabGet_setSlots _ _ _ i).trans (by rw [slots_ctlFreed])
  · obtain ⟨honly, hcord⟩ := (((cordNow_ctlFreed s c m).setLease l { l with done := true }).updCord fun x =>
      x.freeSlots l.slots l.mine).closeLease { l with done := true }
    refine ⟨_, exec_leaseDone_of_release h hl hc hb hg, honly, fun i => ?_⟩
    rw [hcord]
    exact (tabGet_freeSlots _ _ _ i).trans (by rw [slots_ctlFreed])
  · obtain ⟨z, ⟨honly, hcord⟩, hslots⟩ := (CordNow.refl s c).exists_leaseAct (l := l)
    exact ⟨_, exec_leaseEffective_of_due hl hc hb hh, honly, by rw [hcord]; exact hslots⟩
  · obtain ⟨-, hcord⟩ := (CordNow.refl s c).leaseAct_release_receiver hg hp
    refine ⟨_, exec_leaseEffective_of_due hl hc hb hh, ?_, by rw [hcord], fun i hi => ?_⟩ <;> rw [hcord]
    · simp [hl]
    · exact tabGet_setSlots_of_mem _ _ hi
  · obtain ⟨-, hcord⟩ := (CordNow.refl s c).leaseAct_grant_proposer hg hp hd
    refine ⟨_, exec_leaseEffective_of_due hl hc hb hh, ?_, by rw [hcord]; rfl, fun i hi => ?_⟩ <;> rw [hcord]
    · simp [hl]
    · exact tabGet_setSlots_of_mem _ _ hi
  · have hnone : (s.laneAct2 l).laneLeases = [] := by simp [State.laneAct2, hl]
    refine ⟨_, exec_leaseEffective_lane hl hh, hnone, ?_, tabGet_lanes_laneAct2 s l⟩
    rw [← hnone]
    rfl
  · obtain ⟨honly, hcord⟩ := ((CordNow.refl s c).updCord fun x => x.freeSlots l.slots l.mine).closeLease l
    refine ⟨_, exec_leaseAcceptEnd_of_over hl hg hp hb hh, honly, ?_, fun i => ?_⟩ <;> rw [hcord]
    · simp [leases_freeSlots, hl]
    · exact tabGet_freeSlots _ _ _ i

end Sys2Proof.Machine
end

section
/-! PROOFS. Packets (O40): the routing record of a partition, packets that leave on a route, drops counted, and what becomes of a
whole packet at an ingress port (R315 to R321). -/

namespace Sys2Proof.Machine

open State

/-! ### One routing record changed (R330) -/

/-- Nothing of the state differs but the routing record of partition `p`, which is now `r`. -/
def RoutingNow (p : Nat) (s t : State) (r : Routing) : Prop := OnlyPart p s t ∧ t.part p = { s.part p with routing := r }

section
variable {p : Nat} {s t : State} {r : Routing}

theorem RoutingNow.refl (p : Nat) (s : State) : RoutingNow p s s (s.part p).routing := ⟨.refl _ _, rfl⟩

theorem RoutingNow.updRouting (h : RoutingNow p s t r) (f : Routing → Routing) : RoutingNow p s (t.updRouting p f) (f r) :=
  ⟨h.1.trans (onlyPart_updPart _ _ _), by rw [State.updRouting, part_updPart_self, h.2]⟩

theorem RoutingNow.routing (h : RoutingNow p s t r) : (t.part p).routing = r := by rw [h.2]

theorem RoutingNow.congr {x : Routing} (h : RoutingNow p s t r) (e : r = x) : RoutingNow p s t x := e ▸ h

theorem State.routing_updRouting (s : State) (p : Nat) (f : Routing → Routing) (n : Nat) :
    ((s.updRouting p f).part n).routing = if n = p then f (s.part p).routing else (s.part n).routing := by
  rw [State.updRouting, part_updPart]
  split <;> rfl

theorem State.dom_updRouting (s : State) (p : Nat) (f : Routing → Routing) (n : Nat) :
    ((s.updRouting p f).part n).dom = (s.part n).dom := by
  rw [State.updRouting, part_updPart]
  split <;> simp_all

end

/-! ### A packet put on a cord (R315, R318) -/

/-- A packet as a cord holds it until its segments have left. -/
def PktHdr.out (h : PktHdr) (q : Nat) (payload : List Byte) (transit : Bool) (req : Option Nat) : OutPkt :=
  ⟨q, h.cls, transit, false, pktSegs (h.bytes ++ payload), req, h.type = ptNack, h.bytes⟩

theorem CordNow.emit {s t : State} {c : Nat} {y : Cord} (h : CordNow c s t y) (q : Nat) (k : PktHdr) (payload : List Byte)
    (transit : Bool) (req : Option Nat) :
    CordNow c s (t.emit c q k payload transit req) { y with outPkts := y.outPkts ++ [k.out q payload transit req] } :=
  h.updCord _

/-! ### Routes in the cache (R317) -/

theorem State.routeEntry_of_cached {s : State} {q m : Nat} {e : Nat × List Byte}
    (h : (s.part q).routing.routes.find? (fun x => x.1 = m) = some e) : s.routeEntry q m = (s, e.2) := by
  unfold routeEntry
  dsimp only
  rw [h]

theorem State.usable_congr {s t : State} (h : ∀ c, (t.cord c).st = (s.cord c).st) (e : List Byte) (b : Bool) :
    t.usable e b = s.usable e b := by
  have hup : t.cordUp = s.cordUp := funext fun c => by rw [cordUp, h, cordUp]
  unfold usable
  rw [hup]

/-- A response whose route A is in the cache and usable leaves on it. -/
theorem State.respond_of_usable {s : State} {cin q : Nat} {h : PktHdr} {payload : List Byte} {e : Nat × List Byte} {r : Nat × Nat}
    (he : (s.part q).routing.routes.find? (fun x => x.1 = h.dstModule.toNat) = some e) (hr : s.usable e.2 false = some r) :
    s.respond cin q h payload = s.emit (r.2 % 32) q (h.onRoute r) payload false none := by
  unfold respond
  dsimp only
  rw [routeEntry_of_cached he]
  dsimp only
  rw [hr]
  rfl

/-! ### Drops (R321, R480) -/

/-- A counted drop is its count in FWD_DROPS and an entry of the fault log. -/
theorem State.onlyLogged_countDrop (s : State) (cin q : Nat) (h : PktHdr) (reason : Nat) :
    OnlyLogged (s.updRouting q fun r => { r with fwdDrops := satInc 32 r.fwdDrops }) (s.countDrop cin q h reason) :=
  onlyLogged_logEv _ _ _

section
variable {s t : State} (h : OnlyLogged s t)
include h

theorem OnlyLogged.cords : t.cords = s.cords := by rw [h.1]
theorem OnlyLogged.mem : t.mem = s.mem := by rw [h.1]
theorem OnlyLogged.turf : t.turf = s.turf := by rw [h.1]
theorem OnlyLogged.hall : t.hall = s.hall := by rw [h.1]
theorem OnlyLogged.moduleId : t.moduleId = s.moduleId := by rw [h.1]
theorem OnlyLogged.routing (n : Nat) : (t.part n).routing = (s.part n).routing := by rw [h.2 n]

end

section
variable (s : State) (cin q : Nat) (h : PktHdr) (reason : Nat)

@[simp] theorem State.cords_countDrop : (s.countDrop cin q h reason).cords = s.cords := (onlyLogged_countDrop s cin q h reason).cords

@[simp] theorem State.mem_countDrop : (s.countDrop cin q h reason).mem = s.mem := (onlyLogged_countDrop s cin q h reason).mem

@[simp] theorem State.turf_countDrop : (s.countDrop cin q h reason).turf = s.turf := (onlyLogged_countDrop s cin q h reason).turf

theorem State.cord_countDrop (c : Nat) : (s.countDrop cin q h reason).cord c = s.cord c := by
  rw [cord, cords_countDrop, cord]

theorem State.routing_countDrop (n : Nat) : ((s.countDrop cin q h reason).part n).routing =
    if n = q then { (s.part q).routing with fwdDrops := satInc 32 (s.part q).routing.fwdDrops } else (s.part n).routing := by
  rw [(onlyLogged_countDrop s cin q h reason).routing, routing_updRouting]

theorem State.answer_countDrop (k : PktHdr) (p : Nat) (type : BitVec 4) (n : Nat) :
    (s.countDrop cin q h reason).answer p k type n = s.answer p k type n := by
  have hd := onlyLogged_countDrop s cin q h reason
  rw [answer, hd.moduleId, hd.hall]
  rfl

end

/-! ### A whole packet at an ingress port (R320) -/

/-- The state once the port has handed over a packet. -/
def State.tookPkt (s : State) (c : Nat) (k : InPkt) : State := s.updCord c fun x => { x with inPkts := x.inPkts.erase k }

theorem State.outPkts_tookPkt (s : State) (c : Nat) (k : InPkt) (j : Nat) : ((s.tookPkt c k).cord j).outPkts = (s.cord j).outPkts := by
  rw [tookPkt, cord_updCord]
  split <;> simp_all

theorem State.st_tookPkt (s : State) (c : Nat) (k : InPkt) (j : Nat) : ((s.tookPkt c k).cord j).st = (s.cord j).st := by
  rw [tookPkt, cord_updCord]
  split <;> simp_all

theorem State.transit_tookPkt (s : State) (c : Nat) (k : InPkt) (q : Nat) : (s.tookPkt c k).transit q = s.transit q := by
  simp only [transit, outPkts_tookPkt]

/-- Why partition `q` drops a packet in transit, in the order of the drops; 0 when it does not (R321). -/
def State.dropReason (s : State) (q : Nat) (h : PktHdr) : Nat :=
  if (s.part q).dom.fenced then 6 else if 32 ≤ s.transit q then 2 else if 60 ≤ h.age s.hall then 7
  else if h.hops.toNat = 48 then 1 else 0

theorem State.dropReason_eq_zero {s : State} {q : Nat} {h : PktHdr} : s.dropReason q h = 0 ↔
    (s.part q).dom.fenced = false ∧ s.transit q < 32 ∧ h.age s.hall < 60 ∧ h.hops.toNat ≠ 48 := by
  unfold dropReason
  split_ifs <;> simp_all

/-- A response that is dropped is counted alone. -/
theorem State.dropPkt_of_rsp {s : State} {cin q reason : Nat} {h : PktHdr} (hc : h.cls = clRsp) :
    s.dropPkt cin q h reason = s.countDrop cin q h reason := if_neg (by rw [hc]; decide)

/-- A request that is dropped is counted, and its NACK leaves on route A when that is in the cache and usable. -/
theorem State.dropPkt_of_req {s : State} {cin q reason : Nat} {h : PktHdr} {e : Nat × List Byte} {r : Nat × Nat} (hc : h.cls = clReq)
    (he : (s.part q).routing.routes.find? (fun x => x.1 = h.srcModule.toNat) = some e) (hr : s.usable e.2 false = some r) :
    s.dropPkt cin q h reason =
      (s.countDrop cin q h reason).emit (r.2 % 32) q ((s.answer q h ptNack reason).onRoute r) [] false none := by
  have he' : ((s.countDrop cin q h reason).part q).routing.routes.find? (fun x => x.1 = h.srcModule.toNat) = some e := by
    rw [routing_countDrop, if_pos rfl]
    exact he
  have hr' : (s.countDrop cin q h reason).usable e.2 false = some r :=
    (usable_congr (fun c => by rw [cord_countDrop]) _ _).trans hr
  unfold dropPkt
  dsimp only
  rw [if_pos hc, nackTo, answer_countDrop, respond_of_usable he' hr']

theorem State.routePkt_of_malformed {s : State} {cin q : Nat} {b : List Byte} (hb : malformed b = true) :
    s.routePkt cin q b = s.updRouting q fun r => { r with pktBad := satInc 32 r.pktBad } := if_pos hb

theorem State.routePkt_of_delivered {s : State} {cin q : Nat} {b : List Byte} (hb : malformed b = false)
    (hd : (pktHdr b).dstModule.toNat = s.moduleId) :
    s.routePkt cin q b = s.updRouting (pktHdr b).dstPart.toNat fun r => { r with inbox := r.inbox ++ [⟨cin, q, b⟩] } := by
  unfold routePkt
  dsimp only
  rw [if_neg (by simp [hb]), if_pos hd]

section
variable {s : State} {cin q : Nat} {b : List Byte} (hb : malformed b = false) (hd : (pktHdr b).dstModule.toNat ≠ s.moduleId)
include hb hd

theorem State.routePkt_of_dropped {reason : Nat} (hr : s.dropReason q (pktHdr b) = reason) (h0 : reason ≠ 0) :
    s.routePkt cin q b = s.dropPkt cin q (pktHdr b) reason := by
  unfold routePkt
  dsimp only
  rw [if_neg (by simp [hb]), if_neg hd]
  unfold dropReason at hr
  split_ifs at hr ⊢ <;> first | exact hr ▸ rfl | exact absurd hr.symm h0

theorem State.routePkt_of_routed (hr : s.dropReason q (pktHdr b) = 0) (hdet : (pktHdr b).detour = false)
    (hp : (pktHdr b).rptr.toNat < (pktHdr b).rlen.toNat)
    (hs : s.soon ((pktHdr b).hop (pktHdr b).rptr.toNat) q (pktHdr b).cls = true) :
    s.routePkt cin q b = s.forward ((pktHdr b).hop (pktHdr b).rptr.toNat) q { pktHdr b with rptr := (pktHdr b).rptr + 1 }
      (b.drop 32) := by
  obtain ⟨hf, ht, ha, hh⟩ := dropReason_eq_zero.mp hr
  unfold routePkt
  dsimp only
  rw [if_neg (by simp [hb]), if_neg hd, if_neg (by simp [hf]), if_neg (by omega), if_neg (by omega), if_neg hh, if_pos (by simp [hdet]),
    if_pos hp, if_pos hs]

end

section
variable {s : State} {c : CordId} {k : InPkt} (hk : (s.cord c).inPkts.find? (·.whole) = some k)
include hk

theorem exec_packetComplete_of_whole : exec (.packetComplete c) s = .next ((s.tookPkt c k).routePkt c k.part k.bytes) := by
  refine congrArg Host.Outcome.next ?_
  rw [hk]
  rfl

end

/-! ### The obligation -/

/-- Settles O40: a packet is delivered by a change of one routing record, forwarded by a change of one cord, and a drop is a counted
one, after which a request's NACK changes one cord. -/
theorem packetsFollowTheirRoutes : Obligations.PacketsFollowTheirRoutes := by
  unfold Obligations.PacketsFollowTheirRoutes
  refine fun s c k hk => ⟨fun hb => ?_, fun hb => ⟨fun hd => ?_, fun hd hcls hr => ?_, fun hd hcls reason hr h0 e r he hu => ?_,
    fun hd hf ht ha hh hdet hp hs => ?_⟩, fun p hl => ?_⟩
  · have hnow : RoutingNow k.part (s.tookPkt c k) ((s.tookPkt c k).routePkt c k.part k.bytes)
        { (s.part k.part).routing with pktBad := satInc 32 (s.part k.part).routing.pktBad } := by
      rw [routePkt_of_malformed hb]
      exact (RoutingNow.refl _ _).updRouting _
    exact ⟨_, exec_packetComplete_of_whole hk, hnow⟩
  · have hnow : RoutingNow (pktHdr k.bytes).dstPart.toNat (s.tookPkt c k) ((s.tookPkt c k).routePkt c k.part k.bytes)
        { (s.part (pktHdr k.bytes).dstPart.toNat).routing with
          inbox := (s.part (pktHdr k.bytes).dstPart.toNat).routing.inbox ++ [⟨c, k.part, k.bytes⟩] } := by
      rw [routePkt_of_delivered (s := s.tookPkt c k) hb hd]
      exact (RoutingNow.refl _ _).updRouting _
    exact ⟨_, exec_packetComplete_of_whole hk, hnow⟩
  · have hne : (s.tookPkt c k).dropReason k.part (pktHdr k.bytes) ≠ 0 := by
      rw [Ne, dropReason_eq_zero, transit_tookPkt]
      rintro ⟨hf, ht, ha, hh⟩
      obtain hf' | ht' | ha' | hh' := hr
      · exact Bool.false_ne_true (hf.symm.trans hf')
      · omega
      · exact absurd ha (Nat.not_lt.mpr ha')
      · exact hh hh'
    refine ⟨_, exec_packetComplete_of_whole hk, ?_⟩
    rw [routePkt_of_dropped (s := s.tookPkt c k) hb hd rfl hne, dropPkt_of_rsp hcls]
    exact ⟨cords_countDrop _ _ _ _ _, mem_countDrop _ _ _ _ _, routing_countDrop _ _ _ _ _⟩
  · have hreason : (s.tookPkt c k).dropReason k.part (pktHdr k.bytes) = reason := by
      rw [dropReason, transit_tookPkt]
      exact hr.symm
    refine ⟨_, exec_packetComplete_of_whole hk, ?_⟩
    rw [routePkt_of_dropped (s := s.tookPkt c k) hb hd hreason h0, dropPkt_of_req (s := s.tookPkt c k) hcls he
      ((usable_congr (st_tookPkt s c k) _ _).trans hu)]
    have hnow := (CordNow.refl ((s.tookPkt c k).countDrop c k.part (pktHdr k.bytes) reason) (r.2 % 32)).emit k.part
      (((s.tookPkt c k).answer k.part (pktHdr k.bytes) ptNack reason).onRoute r) [] false none
    refine ⟨fun j hj => (hnow.1.2 j hj).trans (cord_countDrop _ _ _ _ _ _), ?_, ?_, ?_⟩
    · rw [hnow.1.1]
      exact mem_countDrop _ _ _ _ _
    · exact (congrArg Routing.fwdDrops (routing_countDrop _ _ _ _ _ _)).trans (by rw [if_pos rfl]; rfl)
    · rw [hnow.2]
      dsimp only
      rw [cord_countDrop, PktHdr.out, List.append_nil]
      rfl
  · have hroute : (s.tookPkt c k).dropReason k.part (pktHdr k.bytes) = 0 := by
      rw [dropReason_eq_zero, transit_tookPkt]
      exact ⟨hf, ht, ha, hh.ne⟩
    have hnow := (CordNow.refl (s.tookPkt c k) ((pktHdr k.bytes).hop (pktHdr k.bytes).rptr.toNat)).emit k.part
      { pktHdr k.bytes with rptr := (pktHdr k.bytes).rptr + 1, hops := (pktHdr k.bytes).hops + 1 } (k.bytes.drop 32) true none
    refine ⟨_, exec_packetComplete_of_whole hk, ?_⟩
    rw [routePkt_of_routed (s := s.tookPkt c k) hb hd hroute hdet hp hs]
    exact hnow
  · exact ⟨_, congrArg Host.Outcome.next (if_pos hl), (RoutingNow.refl p s).updRouting _⟩

end Sys2Proof.Machine
end

section
/-! PROOFS. The responder (O41): ranges of the address map that are one piece, what a response leaves as it was, and how a read and a
write request are served (R321, R323, R324). -/

namespace Sys2Proof.Machine

open State

/-! ### Ranges in near memory (R391) -/

theorem State.sec_updRouting (s : State) (p : Nat) (f : Routing → Routing) (q : Nat) :
    ((s.updRouting p f).part q).sec = (s.part q).sec := by
  rw [updRouting, part_updPart]
  split <;> simp_all

theorem State.hostWin_updRouting (s : State) (p : Nat) (f : Routing → Routing) (q a : Nat) :
    (s.updRouting p f).hostWin q a = s.hostWin q a := by rw [hostWin, sec_updRouting, hostWin]

theorem State.reach_updRouting (s : State) (p : Nat) (f : Routing → Routing) (q a : Nat) :
    (s.updRouting p f).reach q a = s.reach q a := by
  unfold reach
  simp only [hostWin_updRouting]
  rfl

theorem State.pieceList_updRouting (s : State) (p : Nat) (f : Routing → Routing) (q a n : Nat) :
    (s.updRouting p f).pieceList q a n = s.pieceList q a n := by
  have hext (a : Nat) : (s.updRouting p f).extent q a = s.extent q a := by
    unfold extent
    rw [reach_updRouting, hostWin_updRouting]
  unfold pieceList
  generalize 1024 = k
  induction k generalizing a n with
  | zero => rfl
  | succ k ih => simp only [pieces, hext, ih]

/-- A range that is one piece lies in what its first address reaches. -/
theorem State.le_extent_of_pieceList {s : State} {p a n : Nat} (h : s.pieceList p a n = some [(a, n)]) : n ≤ s.extent p a := by
  unfold pieceList pieces at h
  dsimp only at h
  split_ifs at h with hn he
  · cases h
  · obtain ⟨l, -, hl⟩ := Option.map_eq_some_iff.mp h
    obtain ⟨hpiece, -⟩ := List.cons.inj hl
    have hmin : min n (s.extent p a) = n := congrArg Prod.snd hpiece
    omega

theorem State.near_of_reach {s : State} {p a g m : Nat} (h : s.reach p a = .near g m) :
    a < 0x10000000000 ∧ s.owns p (a / 0x1000000000) = true ∧ a % 0x1000000000 < 48 * gib := by
  unfold reach at h
  dsimp only at h
  split_ifs at h with h1 h2
  · exact ⟨h1, h2.1, h2.2⟩
  · split at h <;> cases h

/-- Every address of a piece of near memory is the partition's own memory. -/
theorem State.mapped_of_near_piece {s : State} {p a n g : Nat} (hp : s.pieceList p a n = some [(a, n)]) (hr : s.reach p a = .near g a)
    {x : Nat} (ha : a ≤ x) (hx : x < a + n) : s.mapped p x = true := by
  obtain ⟨h40, hown, hwin⟩ := near_of_reach hr
  have hle := le_extent_of_pieceList hp
  have hext : s.extent p a = 48 * gib - a % (64 * gib) := by rw [extent, hr]
  rw [hext] at hle
  norm_num [gib] at hle hwin
  have hg : x / 0x1000000000 = a / 0x1000000000 := by omega
  have hreach : s.reach p x = .near (x / 0x1000000000) x := by
    unfold reach
    dsimp only
    rw [if_pos (by omega), if_pos ⟨hg ▸ hown, by norm_num [gib]; omega⟩]
  rw [mapped, hreach]

theorem State.allMapped_of_piece {s : State} {p a n : Nat} (hp : s.pieceList p a n = some [(a, n)]) : s.allMapped p a n = true := by
  rw [allMapped, hp]
  rfl

/-! ### Reads and writes of one piece of near memory -/

section
variable {s : State} {p a n g : Nat} (hr : s.reach p a = .near g a)
include hr

/-- A read of near memory without bad codewords returns its bytes and leaves the state. -/
theorem State.readAll_of_near_piece (hp : s.pieceList p a n = some [(a, n)]) (hw : ∀ w ∈ s.badWords, w + 32 ≤ a ∨ a + n ≤ w)
    (host : Cells) : s.readAll p a n host = (s, .ok (s.memBytes a n)) := by
  have hbad : (s.badWords.filter fun w => w < a + n && a < w + 32) = [] := by
    refine List.filter_eq_nil_iff.mpr fun w hmem => ?_
    have := hw w hmem
    simp
    omega
  have hpiece : s.readPiece p host a n = (s, .ok (s.memBytes a n)) := by
    unfold readPiece
    rw [hr]
    dsimp only
    rw [hbad]
  unfold readAll
  rw [hp]
  dsimp only [readPieces]
  rw [hpiece]
  rfl

theorem State.writeAll_of_near_piece {l : List Byte} (hp : s.pieceList p a l.length = some [(a, l.length)]) (from_ : Option Nat) :
    s.writeAll p a l from_ = (s.putMem p a l, none) := by
  unfold writeAll
  dsimp only
  rw [hp]
  dsimp only [List.foldl_cons, List.foldl_nil]
  rw [hr]
  dsimp only
  rw [Nat.sub_self, List.drop_zero, List.take_length]

theorem State.allWritable_of_near_piece (hp : s.pieceList p a n = some [(a, n)]) : s.allWritable p a n = true := by
  unfold allWritable
  rw [hp]
  dsimp only [List.all_cons, List.all_nil]
  rw [hr]
  rfl

end

/-- Bytes stored below the turf leave the turf and every other byte of memory. -/
theorem State.wrMems_low (s : State) (a : Nat) (l : List Byte) (h : a + l.length ≤ 0x10000000000) :
    (s.wrMems a l).turf = s.turf ∧ ∀ x, x < a ∨ a + l.length ≤ x → rdByte (s.wrMems a l).mem x = rdByte s.mem x := by
  induction l generalizing s a with
  | nil => exact ⟨rfl, fun _ _ => rfl⟩
  | cons b l ih =>
    rw [List.length_cons] at h
    have hone : (s.wrMem a b).turf = s.turf ∧ (s.wrMem a b).mem = wrByte s.mem a b := by
      unfold wrMem
      dsimp only
      rw [if_neg (by omega)]
      exact ⟨rfl, rfl⟩
    obtain ⟨hturf, hmem⟩ := ih (s.wrMem a b) (a + 1) (by omega)
    refine ⟨hturf.trans hone.1, fun x hx => ?_⟩
    rw [List.length_cons] at hx
    rw [wrMems, hmem x (by omega), hone.2, rdByte_wrByte, if_neg (by omega)]

/-- A write into the partition's own memory below the turf leaves the turf and every byte outside it. -/
theorem State.putMem_low {s : State} {p a : Nat} {l : List Byte} {rec : Bool} (ha : a + l.length ≤ 0x10000000000)
    (hm : ∀ x, a ≤ x → x < a + l.length → s.mapped p x = true) : (s.putMem p a l rec).turf = s.turf ∧
      ∀ x, x < a ∨ a + l.length ≤ x → rdByte (s.putMem p a l rec).mem x = rdByte s.mem x := by
  unfold putMem
  refine (List.foldlRecOn (motive := fun t : State => t.groups = s.groups ∧ t.turf = s.turf ∧
    ∀ x, x < a ∨ a + l.length ≤ x → rdByte t.mem x = rdByte s.mem x) _ _ ⟨rfl, rfl, fun _ _ => rfl⟩ ?_).2
  rintro t ⟨hg, hturf, hmem⟩ b hb
  obtain ⟨hlo, hhi, hlt, -⟩ := bounds_of_mem_blocksOf hb
  have hmap : t.mapped p b.1 = true := (mapped_of_groups hg p b.1).trans (hm _ hlo hlt)
  have hlen : ((l.drop (b.1 - a)).take b.2).length ≤ b.2 := List.length_take_le _ _
  obtain ⟨hturf', hmem'⟩ := wrMems_low t b.1 ((l.drop (b.1 - a)).take b.2) (by omega)
  refine ⟨(groups_putBlock _ _ _ _ _).trans hg, ?_, fun x hx => ?_⟩ <;> rw [putBlock_of_mapped hmap]
  · exact hturf'.trans hturf
  · exact (hmem' x (by omega)).trans (hmem x hx)

theorem State.rdByte_putMem {s : State} {p a : Nat} {l : List Byte} {rec : Bool} (ha : a + l.length ≤ 0x10000000000)
    (hm : ∀ x, a ≤ x → x < a + l.length → s.mapped p x = true) (i : Nat) (hi : i < l.length) :
    rdByte (s.putMem p a l rec).mem (a + i) = l[i] := by
  have hb : (s.putMem p a l rec).memByte (a + i) = rdByte (s.putMem p a l rec).mem (a + i) := if_neg (by omega)
  rw [← hb, memByte_putMem, if_pos ⟨by omega, hm _ (by omega) (by omega)⟩, Nat.add_sub_cancel_left]
  simp [hi]

/-! ### What a response leaves (R321) -/

/-- Memory, the routing records of other partitions, and the completion table of `q` with its count of duplicates are as they were. -/
structure KeepsTable (q : Nat) (s t : State) : Prop where
  mem : t.mem = s.mem
  turf : t.turf = s.turf
  others : ∀ n, n ≠ q → (t.part n).routing = (s.part n).routing
  table : (t.part q).routing.table = (s.part q).routing.table
  dedup : (t.part q).routing.dedup = (s.part q).routing.dedup

section
variable {q : Nat} {s t u : State}

theorem KeepsTable.refl (q : Nat) (s : State) : KeepsTable q s s := ⟨rfl, rfl, fun _ _ => rfl, rfl, rfl⟩

theorem KeepsTable.trans (h : KeepsTable q s t) (k : KeepsTable q t u) : KeepsTable q s u :=
  ⟨k.mem.trans h.mem, k.turf.trans h.turf, fun n hn => (k.others n hn).trans (h.others n hn), k.table.trans h.table,
    k.dedup.trans h.dedup⟩

theorem keepsTable_emit (s : State) (q c p : Nat) (h : PktHdr) (payload : List Byte) (transit : Bool) (req : Option Nat) :
    KeepsTable q s (s.emit c p h payload transit req) := ⟨rfl, rfl, fun _ _ => rfl, rfl, rfl⟩

/-- A change of partition `q`'s routing record beside its completion table. -/
theorem keepsTable_updRouting (s : State) (q : Nat) (f : Routing → Routing) (ht : ∀ r, (f r).table = r.table := by exact fun _ => rfl)
    (hd : ∀ r, (f r).dedup = r.dedup := by exact fun _ => rfl) : KeepsTable q s (s.updRouting q f) := by
  refine ⟨rfl, rfl, fun n hn => ?_, ?_, ?_⟩ <;> rw [routing_updRouting]
  · rw [if_neg hn]
  · rw [if_pos rfl, ht]
  · rw [if_pos rfl, hd]

theorem keepsTable_routeEntry (s : State) (q m : Nat) : KeepsTable q s (s.routeEntry q m).1 := by
  unfold State.routeEntry
  dsimp only
  split
  · exact .refl _ _
  · split
    · exact .refl _ _
    · dsimp only
      exact keepsTable_updRouting _ _ _

theorem keepsTable_homeEntry (s : State) (q m : Nat) : KeepsTable q s (s.homeEntry q m).1 := by
  unfold State.homeEntry
  dsimp only
  split
  · exact .refl _ _
  · split
    · exact .refl _ _
    · dsimp only
      exact keepsTable_updRouting _ _ _

theorem keepsTable_countDrop (s : State) (cin q : Nat) (h : PktHdr) (reason : Nat) : KeepsTable q s (s.countDrop cin q h reason) := by
  refine ⟨mem_countDrop _ _ _ _ _, turf_countDrop _ _ _ _ _, fun n hn => ?_, ?_, ?_⟩ <;> rw [routing_countDrop]
  · rw [if_neg hn]
  · rw [if_pos rfl]
  · rw [if_pos rfl]

theorem keepsTable_respond (s : State) (cin q : Nat) (h : PktHdr) (payload : List Byte) :
    KeepsTable q s (s.respond cin q h payload) := by
  have hroute := keepsTable_routeEntry s q h.dstModule.toNat
  unfold State.respond
  dsimp only
  split
  · exact hroute.trans (keepsTable_emit _ _ _ _ _ _ _ _)
  · have hhome := hroute.trans (keepsTable_homeEntry _ q h.dstModule.toNat)
    split
    · exact hhome.trans (keepsTable_emit _ _ _ _ _ _ _ _)
    · exact hhome.trans (keepsTable_countDrop _ _ _ _ _)

end

/-! ### A request delivered (R323) -/

/-- The state once a delivered packet has been taken. -/
def State.tookMsg (s : State) (p : Nat) (m : InMsg) : State := s.updRouting p fun r => { r with inbox := r.inbox.erase m }

theorem routingNow_tookMsg (s : State) (p : Nat) (m : InMsg) :
    RoutingNow p s (s.tookMsg p m) { (s.part p).routing with inbox := (s.part p).routing.inbox.erase m } :=
  (RoutingNow.refl p s).updRouting _

theorem routing_tookMsg (s : State) (p : Nat) (m : InMsg) :
    ((s.tookMsg p m).part p).routing = { (s.part p).routing with inbox := (s.part p).routing.inbox.erase m } :=
  (routingNow_tookMsg s p m).routing

theorem State.onPkt_of_front {s : State} {p : Nat} {type : BitVec 4} {m : InMsg}
    (h : (s.part p).routing.inbox.find? (fun m => (pktHdr m.bytes).type = type) = some m) (f : State → InMsg → PktHdr → State) :
    s.onPkt p type f = f (s.tookMsg p m) m (pktHdr m.bytes) := by
  unfold onPkt
  rw [h]
  rfl

theorem State.sameDomain_tookMsg (s : State) (p : Nat) (m : InMsg) (q : Nat) : (s.tookMsg p m).sameDomain p q = s.sameDomain p q := by
  unfold sameDomain
  dsimp only
  rw [tookMsg, dom_updRouting, dom_updRouting, updRouting, part_updPart_self]

/-- A delivered request that passes the checks is served. -/
theorem State.onPkt_of_passed {s : State} {p : Nat} {type : BitVec 4} {m : InMsg} {write : Bool}
    (hm : (s.part p).routing.inbox.find? (fun m => (pktHdr m.bytes).type = type) = some m)
    (hs : s.sameDomain p m.via = true) (ha : (pktHdr m.bytes).age s.hall < 60)
    (hok : (if write then (s.tookMsg p m).allWritable p (pktHdr m.bytes).addr.toNat (pktHdr m.bytes).msgLen.toNat
      else (s.tookMsg p m).allMapped p (pktHdr m.bytes).addr.toNat (pktHdr m.bytes).msgLen.toNat) = true)
    (go : InMsg → PktHdr → State → State) :
    s.onPkt p type (fun s m h => s.checkReq p m h write (go m h)) = go m (pktHdr m.bytes) (s.tookMsg p m) := by
  have hage : (pktHdr m.bytes).age (s.tookMsg p m).hall < 60 := ha
  rw [onPkt_of_front hm]
  unfold checkReq
  dsimp only
  rw [sameDomain_tookMsg, if_neg (by simp [hs]), if_neg (by omega), if_neg (by simpa using hok)]

/-! ### Reads (R323) -/

/-- A read of at most 8,192 bytes is one packet. -/
theorem State.sendRead_of_short (s : State) (cin p : Nat) (h : PktHdr) {data : List Byte} (h1 : 1 ≤ data.length)
    (h8 : data.length ≤ 8192) : s.sendRead cin p h data = s.respond cin p { s.answer p h ptRdRsp 0 with index := 0 } data := by
  have hone : ceilDiv data.length 8192 = 1 := by
    unfold ceilDiv
    omega
  unfold sendRead
  rw [hone]
  dsimp only [List.range_one, List.foldl_cons, List.foldl_nil]
  rw [List.drop_zero, List.take_of_length_le h8, decide_eq_true (by omega)]
  rfl

section
variable {s : State} {p : PartId} {m : InMsg} (hm : (s.part p).routing.inbox.find? (fun m => (pktHdr m.bytes).type = 1) = some m)
  (hs : s.sameDomain p m.via = true) (ha : (pktHdr m.bytes).age s.hall < 60)
  (hp : s.pieceList p (pktHdr m.bytes).addr.toNat (pktHdr m.bytes).msgLen.toNat =
    some [((pktHdr m.bytes).addr.toNat, (pktHdr m.bytes).msgLen.toNat)])
include hm hs ha hp

theorem exec_rdReq_of_full (host : Cells) :
    exec (.rdReq p false host) s = .next ((s.tookMsg p m).nackTo m.cord p (pktHdr m.bytes) nrBusy) := by
  refine congrArg Host.Outcome.next ((onPkt_of_passed hm hs ha ?_ _).trans ?_)
  · exact allMapped_of_piece ((pieceList_updRouting _ _ _ _ _ _).trans hp)
  · exact if_pos (by decide)

theorem exec_rdReq_of_room {g : Nat} (hr : s.reach p (pktHdr m.bytes).addr.toNat = .near g (pktHdr m.bytes).addr.toNat)
    (hw : ∀ w ∈ s.badWords, w + 32 ≤ (pktHdr m.bytes).addr.toNat ∨
      (pktHdr m.bytes).addr.toNat + (pktHdr m.bytes).msgLen.toNat ≤ w) (host : Cells) :
    exec (.rdReq p true host) s = .next ((s.tookMsg p m).sendRead m.cord p (pktHdr m.bytes)
      (s.memBytes (pktHdr m.bytes).addr.toNat (pktHdr m.bytes).msgLen.toNat)) := by
  have hpiece := (pieceList_updRouting s p (fun r => { r with inbox := r.inbox.erase m }) p _ _).trans hp
  refine congrArg Host.Outcome.next ((onPkt_of_passed hm hs ha ?_ _).trans ?_)
  · exact allMapped_of_piece hpiece
  · dsimp only
    rw [if_neg (by decide), readAll_of_near_piece (s := s.tookMsg p m) ((reach_updRouting _ _ _ _ _).trans hr) hpiece hw]
    rfl

end

/-- A response on route A changes one cord. -/
theorem cordNow_respond_tookMsg {s : State} {p cin : Nat} {m : InMsg} {h : PktHdr} {data : List Byte}
    {e : Nat × List Byte} {r : Nat × Nat}
    (he : (s.part p).routing.routes.find? (fun x => x.1 = h.dstModule.toNat) = some e) (hu : s.usable e.2 false = some r) :
    CordNow (r.2 % 32) (s.tookMsg p m) ((s.tookMsg p m).respond cin p h data)
      { s.cord (r.2 % 32) with outPkts := (s.cord (r.2 % 32)).outPkts ++ [(h.onRoute r).out p data false none] } := by
  have he' : ((s.tookMsg p m).part p).routing.routes.find? (fun x => x.1 = h.dstModule.toNat) = some e := by
    rw [routing_tookMsg]
    exact he
  rw [respond_of_usable he' ((usable_congr (fun _ => rfl) _ _).trans hu)]
  exact (CordNow.refl (s.tookMsg p m) (r.2 % 32)).emit _ _ _ _ _

/-! ### Writes (R324) -/

/-- The completion entry is that of a request's write. -/
def WrEntry.isOf (e : WrEntry) (h : PktHdr) : Bool :=
  e.module = h.srcModule.toNat && e.part = h.srcPart.toNat && e.id = h.reqId.toNat

/-- An entry is replaced where it stands, last in a table without another of its write. -/
theorem map_append_of_not_isOf {t : List WrEntry} {h : PktHdr} (hn : ∀ e ∈ t, e.isOf h = false) {e : WrEntry} (he : e.isOf h = true)
    (e' : WrEntry) : (t ++ [e]).map (fun x => if x.isOf h then e' else x) = t ++ [e'] := by
  rw [List.map_append, List.map_congr_left (g := id) fun x hx => by rw [if_neg (by simp [hn x hx])]; rfl, List.map_id, List.map_singleton,
    if_pos he]

/-- The completion entry of a write whose first packet comes now. -/
def freshEntry (s : State) (h : PktHdr) : WrEntry :=
  ⟨h.srcModule.toNat, h.srcPart.toNat, h.reqId.toNat, s.hall, [], 0, h.msgLen.toNat, false⟩

/-- The response of a write is sent. -/
def State.sendWrRsp (s : State) (p : Nat) (m : InMsg) : State :=
  s.respond m.cord p { s.answer p (pktHdr m.bytes) ptWrRsp 0 with index := 0 } []

/-- A packet that comes again is counted. -/
def State.countDup (s : State) (p : Nat) : State := s.updRouting p fun r => { r with dedup := satInc 32 r.dedup }

/-- A packet's place is entered under its completion entry. -/
def State.setEntry (s : State) (p : Nat) (h : PktHdr) (e : WrEntry) : State :=
  s.updRouting p fun r => { r with table := r.table.map fun x => if x.isOf h then e else x }

/-- A write packet meets its completion entry. -/
def State.applyWrite (s : State) (p : Nat) (m : InMsg) (e : WrEntry) : State :=
  let h := pktHdr m.bytes
  if e.done then (s.countDup p).sendWrRsp p m
  else if e.seen.contains h.index.toNat then s.countDup p
  else
    let b := m.bytes.drop 32
    let z := s.writeAll p (h.addr.toNat + 8192 * h.index.toNat) b (some h.srcModule.toNat)
    if z.2.isSome then z.1
    else
      let e' : WrEntry := { e with seen := e.seen ++ [h.index.toNat], bytes := e.bytes + b.length
                                   done := decide (e.len ≤ e.bytes + b.length) }
      if e'.done then (z.1.setEntry p h e').sendWrRsp p m else z.1.setEntry p h e'

/-- A write packet that passes the checks meets its entry, or a new one while the table has room. -/
theorem exec_wrReq_of_passed {s : State} {p : PartId} {m : InMsg}
    (hm : (s.part p).routing.inbox.find? (fun m => (pktHdr m.bytes).type = 2) = some m)
    (hs : s.sameDomain p m.via = true) (ha : (pktHdr m.bytes).age s.hall < 60)
    (hok : (s.tookMsg p m).allWritable p (pktHdr m.bytes).addr.toNat (pktHdr m.bytes).msgLen.toNat = true) :
    exec (.wrReq p) s = .next ((((s.tookMsg p m).part p).routing.table.find? fun e => e.isOf (pktHdr m.bytes)).elim
      (if 1024 ≤ ((s.tookMsg p m).part p).routing.table.length then (s.tookMsg p m).nackTo m.cord p (pktHdr m.bytes) nrBusy
        else ((s.tookMsg p m).updRouting p fun r => { r with table := r.table ++ [freshEntry s (pktHdr m.bytes)] }).applyWrite p m
          (freshEntry s (pktHdr m.bytes)))
      ((s.tookMsg p m).applyWrite p m)) := by
  refine congrArg Host.Outcome.next ((onPkt_of_passed (write := true) hm hs ha hok _).trans ?_)
  change (match ((s.tookMsg p m).part p).routing.table.find? (fun e => e.isOf (pktHdr m.bytes)) with
    | some e => (s.tookMsg p m).applyWrite p m e
    | none => if 1024 ≤ ((s.tookMsg p m).part p).routing.table.length then (s.tookMsg p m).nackTo m.cord p (pktHdr m.bytes) nrBusy
      else ((s.tookMsg p m).updRouting p fun r => { r with table := r.table ++ [freshEntry s (pktHdr m.bytes)] }).applyWrite p m
        (freshEntry s (pktHdr m.bytes))) = _
  cases List.find? _ _ <;> rfl

/-- The entry of a write that one packet completes. -/
def doneEntry (s : State) (m : InMsg) : WrEntry :=
  let h := pktHdr m.bytes
  ⟨h.srcModule.toNat, h.srcPart.toNat, h.reqId.toNat, s.hall, [0], (m.bytes.drop 32).length, (m.bytes.drop 32).length, true⟩

section
variable {p : Nat} {m : InMsg}

theorem keepsTable_sendWrRsp (s : State) (p : Nat) (m : InMsg) : KeepsTable p s (s.sendWrRsp p m) := keepsTable_respond _ _ _ _ _

/-- A packet that comes again is counted, and changes no memory and no entry. -/
theorem keepsTable_applyWrite_of_again {e : WrEntry} (hi : (pktHdr m.bytes).index = 0) (hd : e.done = true ∨ 0 ∈ e.seen) (s : State) :
    KeepsTable p (s.countDup p) (s.applyWrite p m e) := by
  unfold State.applyWrite
  dsimp only
  rw [hi]
  cases hdone : e.done with
  | true => exact keepsTable_sendWrRsp _ _ _
  | false =>
    rw [if_neg Bool.false_ne_true, if_pos (by simpa [hdone] using hd)]
    exact .refl _ _

/-- The one packet of a write to near memory is applied, and its response sent. -/
theorem State.applyWrite_freshEntry {u : State} {g : Nat} (hi : (pktHdr m.bytes).index = 0)
    (hlen : (m.bytes.drop 32).length = (pktHdr m.bytes).msgLen.toNat)
    (hp : u.pieceList p (pktHdr m.bytes).addr.toNat (m.bytes.drop 32).length =
      some [((pktHdr m.bytes).addr.toNat, (m.bytes.drop 32).length)])
    (hr : u.reach p (pktHdr m.bytes).addr.toNat = .near g (pktHdr m.bytes).addr.toNat) (s : State) :
    u.applyWrite p m (freshEntry s (pktHdr m.bytes)) =
      ((u.putMem p (pktHdr m.bytes).addr.toNat (m.bytes.drop 32)).setEntry p (pktHdr m.bytes) (doneEntry s m)).sendWrRsp p m := by
  have hi0 : (pktHdr m.bytes).index.toNat = 0 := congrArg BitVec.toNat hi
  have hw := writeAll_of_near_piece hr hp (some (pktHdr m.bytes).srcModule.toNat)
  unfold State.applyWrite
  simp only [hi0, Nat.mul_zero, Nat.add_zero, hw, freshEntry, doneEntry, hlen, Nat.zero_add, le_refl, decide_true, List.contains_nil,
    List.nil_append, Option.isSome_none, Bool.false_eq_true, if_false, if_true]

theorem State.routing_countDup (s : State) (p : Nat) :
    ((s.countDup p).part p).routing = { (s.part p).routing with dedup := satInc 32 (s.part p).routing.dedup } :=
  (routing_updRouting _ _ _ _).trans (if_pos rfl)

end

theorem State.routing_setEntry_putMem (u : State) (p a : Nat) (l : List Byte) (h : PktHdr) (e : WrEntry) (q : Nat) :
    (((u.putMem p a l).setEntry p h e).part q).routing = if q = p then { (u.part p).routing with
      table := (u.part p).routing.table.map fun x => if x.isOf h then e else x } else (u.part q).routing := by
  have hpart := (same_putMem u p a l false).part (by decide)
  rw [setEntry, routing_updRouting, hpart, hpart]

/-- A change of the routing record leaves what a range of the address map reaches. -/
theorem nearPiece_updRouting {s : State} {p a n g : Nat} (f : Routing → Routing) (hp : s.pieceList p a n = some [(a, n)])
    (hr : s.reach p a = .near g a) :
    (s.updRouting p f).pieceList p a n = some [(a, n)] ∧ (s.updRouting p f).reach p a = .near g a :=
  ⟨(pieceList_updRouting _ _ _ _ _ _).trans hp, (reach_updRouting _ _ _ _ _).trans hr⟩

theorem State.allWritable_tookMsg {s : State} {p n g : Nat} {m : InMsg} {a : Nat} (hlen : (m.bytes.drop 32).length = n)
    (hp : s.pieceList p a (m.bytes.drop 32).length = some [(a, (m.bytes.drop 32).length)]) (hr : s.reach p a = .near g a) :
    (s.tookMsg p m).allWritable p a n = true := by
  obtain ⟨hp', hr'⟩ := nearPiece_updRouting (fun r => { r with inbox := r.inbox.erase m }) hp hr
  subst hlen
  exact allWritable_of_near_piece hr' hp'

section
variable {s : State} {p : PartId} {m : InMsg} (hm : (s.part p).routing.inbox.find? (fun m => (pktHdr m.bytes).type = 2) = some m)
  (hs : s.sameDomain p m.via = true) (ha : (pktHdr m.bytes).age s.hall < 60)
  (hlen : (m.bytes.drop 32).length = (pktHdr m.bytes).msgLen.toNat)
  (hp : s.pieceList p (pktHdr m.bytes).addr.toNat (m.bytes.drop 32).length =
    some [((pktHdr m.bytes).addr.toNat, (m.bytes.drop 32).length)])
  {g : Nat} (hr : s.reach p (pktHdr m.bytes).addr.toNat = .near g (pktHdr m.bytes).addr.toNat)
include hm hs ha hlen hp hr

theorem exec_wrReq_of_entry {e : WrEntry} (he : (s.part p).routing.table.find? (fun e => e.isOf (pktHdr m.bytes)) = some e) :
    exec (.wrReq p) s = .next ((s.tookMsg p m).applyWrite p m e) := by
  rw [exec_wrReq_of_passed hm hs ha (allWritable_tookMsg hlen hp hr), routing_tookMsg]
  dsimp only
  rw [he]
  rfl

theorem exec_wrReq_of_fresh (ht : (s.part p).routing.table.length < 1024)
    (hn : ∀ e ∈ (s.part p).routing.table, e.isOf (pktHdr m.bytes) = false) :
    exec (.wrReq p) s = .next (((s.tookMsg p m).updRouting p fun r =>
      { r with table := r.table ++ [freshEntry s (pktHdr m.bytes)] }).applyWrite p m (freshEntry s (pktHdr m.bytes))) := by
  have hnone : (s.part p).routing.table.find? (fun e => e.isOf (pktHdr m.bytes)) = none :=
    List.find?_eq_none.mpr fun e he => by simp [hn e he]
  rw [exec_wrReq_of_passed hm hs ha (allWritable_tookMsg hlen hp hr), routing_tookMsg]
  dsimp only
  rw [hnone]
  exact congrArg Host.Outcome.next (if_neg (by omega))

end

/-! ### The obligation -/

/-- Settles O41: a response that is sent changes one cord; a write changes the bytes of its range and its own completion entry, and a
packet that comes again only the count of duplicates. -/
theorem requestsAreServedOnce : Obligations.RequestsAreServedOnce := by
  unfold Obligations.RequestsAreServedOnce
  refine fun s p => ⟨fun m room host e r hm he hu hs ha hp ⟨g, hr⟩ => ⟨fun hroom => ?_, fun hroom h1 h8 hw => ?_⟩,
    fun m hm hs ha hi hlen hp h40 ⟨g, hr⟩ => ⟨fun ht hn => ?_, fun e he hd => ?_⟩, ?_⟩
  · subst hroom
    obtain ⟨honly, hcord⟩ := cordNow_respond_tookMsg (s := s) (p := p) (cin := m.cord) (m := m)
      (h := (s.tookMsg p m).answer p (pktHdr m.bytes) ptNack nrBusy) (data := []) he hu
    exact ⟨_, exec_rdReq_of_full hm hs ha hp host, honly, hcord⟩
  · subst hroom
    obtain ⟨honly, hcord⟩ := cordNow_respond_tookMsg (s := s) (p := p) (cin := m.cord) (m := m)
      (h := { (s.tookMsg p m).answer p (pktHdr m.bytes) ptRdRsp 0 with index := 0 })
      (data := s.memBytes (pktHdr m.bytes).addr.toNat (pktHdr m.bytes).msgLen.toNat) he hu
    refine ⟨_, exec_rdReq_of_room hm hs ha hp hr hw host, ?_⟩
    rw [sendRead_of_short _ _ _ _ (by simpa using h1) (by simpa using h8)]
    exact ⟨honly, hcord⟩
  · have hfresh (e) (he : e ∈ (s.part p).routing.table) : e.isOf (pktHdr m.bytes) = false := by
      have := hn e he
      simp only [WrEntry.isOf, Bool.and_eq_false_iff, decide_eq_false_iff_not]
      tauto
    refine ⟨_, exec_wrReq_of_fresh hm hs ha hlen hp hr ht hfresh, ?_⟩
    obtain ⟨hp', hr'⟩ := nearPiece_updRouting (fun r => { r with inbox := r.inbox.erase m }) hp hr
    obtain ⟨hpu, hru⟩ := nearPiece_updRouting (fun r => { r with table := r.table ++ [freshEntry s (pktHdr m.bytes)] }) hp' hr'
    have hmap (x) (h1 : (pktHdr m.bytes).addr.toNat ≤ x) (h2 : x < (pktHdr m.bytes).addr.toNat + (m.bytes.drop 32).length) :
        ((s.tookMsg p m).updRouting p fun r => { r with table := r.table ++ [freshEntry s (pktHdr m.bytes)] }).mapped p x = true :=
      mapped_of_near_piece hpu hru h1 h2
    obtain ⟨hturf, hout⟩ := putMem_low (rec := false) h40 hmap
    rw [applyWrite_freshEntry (u := (s.tookMsg p m).updRouting p _) hi hlen hpu hru]
    have hkeep := keepsTable_sendWrRsp ((((s.tookMsg p m).updRouting p fun r => { r with
      table := r.table ++ [freshEntry s (pktHdr m.bytes)] }).putMem p (pktHdr m.bytes).addr.toNat (m.bytes.drop 32)).setEntry p
        (pktHdr m.bytes) (doneEntry s m)) p m
    refine ⟨fun q hq => (hkeep.others q hq).trans ?_, hkeep.turf.trans hturf, fun i hl => ?_, fun x hx => ?_, hkeep.table.trans ?_⟩
    · rw [routing_setEntry_putMem, if_neg hq, routing_updRouting, if_neg hq]
      exact (routing_updRouting _ _ _ _).trans (if_neg hq)
    · rw [hkeep.mem]
      exact rdByte_putMem h40 hmap i hl
    · rw [hkeep.mem]
      exact hout x hx
    · rw [routing_setEntry_putMem, if_pos rfl, routing_updRouting, if_pos rfl, routing_tookMsg]
      exact map_append_of_not_isOf hfresh (by simp [freshEntry, WrEntry.isOf]) _
  · have hcount := keepsTable_applyWrite_of_again (p := p) (m := m) hi hd (s.tookMsg p m)
    refine ⟨_, exec_wrReq_of_entry hm hs ha hlen hp hr he, hcount.mem, hcount.turf, ?_, ?_⟩
    · rw [hcount.table, routing_countDup, routing_tookMsg]
    · rw [hcount.dedup, routing_countDup, routing_tookMsg]
  · exact ⟨_, rfl, (RoutingNow.refl p s).updRouting _⟩

end Sys2Proof.Machine
end

section
/-! PROOFS. The requester (O42): requests that end, the units they end with, and the attempts that follow (R322, R325 to R327). -/

namespace Sys2Proof.Machine

open State

/-! ### No dissolution waits (R390, R422) -/

theorem State.endDissolves_of_noneEnding {s : State} (h : s.noneEnding = true) : s.endDissolves = s := by
  unfold endDissolves
  refine List.foldlRecOn (motive := fun t => t = s) _ _ rfl ?_
  intro t ht q hq
  have hq' : (s.part q).ending = false := by simpa using List.all_eq_true.mp h q hq
  rw [ht]
  exact if_pos (.inl (by simp [hq']))

theorem State.noneEnding_congr {s t : State} (h : ∀ q, (t.part q).ending = (s.part q).ending) : t.noneEnding = s.noneEnding := by
  simp only [noneEnding, h]

theorem State.ending_updRouting (s : State) (p : Nat) (f : Routing → Routing) (q : Nat) :
    ((s.updRouting p f).part q).ending = (s.part q).ending := by
  rw [updRouting, part_updPart]
  split <;> simp_all

/-- After a change that starts no dissolution there is none to end. -/
theorem State.endDissolves_of_ending {s t : State} (hs : s.noneEnding = true) (h : ∀ q, (t.part q).ending = (s.part q).ending) :
    t.endDissolves = t := endDissolves_of_noneEnding ((noneEnding_congr h).trans hs)

/-! ### Stoke channels -/

@[simp] theorem State.chan_updChan_self (s : State) (k : Nat) (f : StkChan → StkChan) : (s.updChan k f).chan k = f (s.chan k) :=
  tabGet_tabUpd_self _ _ _ _

theorem State.updChan_congr {s : State} {k : Nat} {f g : StkChan → StkChan} (h : f (s.chan k) = g (s.chan k)) :
    s.updChan k f = s.updChan k g := by
  have htab : tabUpd {} s.stoke k f = tabUpd {} s.stoke k g := congrArg (tabSet ({} : StkChan) s.stoke k) h
  rw [updChan, htab, updChan]

/-- A unit in flight whose write has left. -/
theorem State.unitMoved_of_flight {s : State} {k : Nat} {u : StkUnit} (h : u ∈ (s.chan k).flight) : s.unitMoved k u =
    s.updChan k fun x => { x with flight := x.flight.filter fun y => y.uid ≠ u.uid, moved := x.moved ++ [(u.at_, u.len)] } :=
  updChan_congr (if_pos (List.any_eq_true.mpr ⟨u, h, by simp⟩))

/-- A channel that a failure stops issues nothing, and with units in flight does not end. -/
theorem State.advance_of_fail {s : State} {k : Nat} (hf : (s.chan k).fail ≠ none) (hl : (s.chan k).flight ≠ [])
    (p : Nat) (host : Cells) :
    s.advance p k host = s := by
  have hissue : s.issueUnits p k host 17 = s := if_neg fun h => hf h.2.1
  rw [advance, hissue]
  exact if_pos hl

/-! ### A routing record changed, and a channel or a cord -/

section
variable {p : Nat} {s t : State} (h : OnlyPart p s t)
include h

theorem OnlyPart.eq_updChan (k : Nat) (f : StkChan → StkChan) :
    t.updChan k f = { s with parts := (t.updChan k f).parts, stoke := (t.updChan k f).stoke } := by
  obtain ⟨x, rfl⟩ : ∃ x, t = { s with parts := x } := ⟨_, h.1⟩
  rfl

theorem OnlyPart.eq_emit (c q : Nat) (k : PktHdr) (payload : List Byte) (transit : Bool) (req : Option Nat) :
    t.emit c q k payload transit req =
      { s with parts := (t.emit c q k payload transit req).parts, cords := (t.emit c q k payload transit req).cords } := by
  obtain ⟨x, rfl⟩ : ∃ x, t = { s with parts := x } := ⟨_, h.1⟩
  rfl

end

/-! ### Requests that end (R322, R367) -/

/-- The requests of partition `p` without one. -/
def State.lessReq (s : State) (p : Nat) (r : Req) : State :=
  s.updRouting p fun x => { x with reqs := x.reqs.filter fun y => y.id ≠ r.id }

theorem State.ending_lessReq (s : State) (p : Nat) (r : Req) (q : Nat) : ((s.lessReq p r).part q).ending = (s.part q).ending :=
  ending_updRouting _ _ _ _

theorem State.ending_tookMsg (s : State) (p : Nat) (m : InMsg) (q : Nat) : ((s.tookMsg p m).part q).ending = (s.part q).ending :=
  ending_updRouting _ _ _ _

theorem RoutingNow.lessReq {p : Nat} {s t : State} {x : Routing} (h : RoutingNow p s t x) (r : Req) :
    RoutingNow p s (t.lessReq p r) { x with reqs := x.reqs.filter fun y => y.id ≠ r.id } := h.updRouting _

/-- With none waiting, a request that ends leaves the list of requests alone. -/
theorem State.dropReq_of_none_waiting {s : State} {p : Nat} (h : (s.part p).routing.waiting = []) (r : Req) :
    s.dropReq p r = s.lessReq p r := by
  unfold dropReq
  dsimp only
  split
  · rfl
  · simp only [routing_updRouting, if_true, h]
    rfl

theorem State.reqRefused_of_no_unit {s : State} {r : Req} (h : s.reqUnit r = none) : s.reqRefused r = s := by
  unfold reqRefused
  rw [h]

theorem State.reqLost_of_no_unit {s : State} {r : Req} (h : s.reqUnit r = none) (p : Nat) : s.reqLost p r = s := by
  unfold reqLost
  rw [h]

/-! ### RD_RSP (R325) -/

/-- A request with the bytes of one more packet. -/
def Req.took (r : Req) (m : InMsg) : Req := { r with got := r.got ++ [((pktHdr m.bytes).index.toNat, m.bytes.drop 32)] }

section
variable {s : State} {p : PartId} {m : InMsg} {r : Req}
  (hm : (s.part p).routing.inbox.find? (fun m => (pktHdr m.bytes).type = 3) = some m)
  (hr : (s.part p).routing.reqs.find? (fun r => r.id = (pktHdr m.bytes).reqId.toNat ∧ ¬ r.write) = some r)
include hm hr

theorem exec_rdRsp_of_front : exec (.rdRsp p) s = .next (
    if (pktHdr m.bytes).attempt.toNat ≠ r.attempt ∨ r.got.any (fun g => g.1 = (pktHdr m.bytes).index.toNat) then s.tookMsg p m
    else if ((r.took m).got.map fun g => g.2.length).sum = r.len then
      ((s.tookMsg p m).dropReq p (r.took m)).readDone (r.took m) (gathered (r.took m).got r.len)
    else (s.tookMsg p m).setReq p (r.took m)) := by
  refine congrArg Host.Outcome.next ((onPkt_of_front hm _).trans ?_)
  simp only [routing_tookMsg, hr]
  rfl

theorem exec_rdRsp_of_ignored (h : (pktHdr m.bytes).attempt.toNat ≠ r.attempt ∨ ∃ g ∈ r.got, g.1 = (pktHdr m.bytes).index.toNat) :
    exec (.rdRsp p) s = .next (s.tookMsg p m) := by
  rw [exec_rdRsp_of_front hm hr, if_pos (by simpa using h)]

section
variable (ha : (pktHdr m.bytes).attempt.toNat = r.attempt) (hi : ∀ g ∈ r.got, g.1 ≠ (pktHdr m.bytes).index.toNat)
include ha hi

theorem exec_rdRsp_of_more (hsum : ((r.took m).got.map fun g => g.2.length).sum ≠ r.len) :
    exec (.rdRsp p) s = .next ((s.tookMsg p m).setReq p (r.took m)) := by
  rw [exec_rdRsp_of_front hm hr, if_neg (by simpa [ha] using fun _ hb => hi _ hb rfl), if_neg hsum]

theorem exec_rdRsp_of_all (hsum : ((r.took m).got.map fun g => g.2.length).sum = r.len) (hw : (s.part p).routing.waiting = []) :
    exec (.rdRsp p) s = .next (((s.tookMsg p m).lessReq p r).readDone (r.took m) (gathered (r.took m).got r.len)) := by
  rw [exec_rdRsp_of_front hm hr, if_neg (by simpa [ha] using fun _ hb => hi _ hb rfl), if_pos hsum,
    dropReq_of_none_waiting (by rw [routing_tookMsg]; exact hw)]
  rfl

end

end

/-! ### WR_RSP (R325) -/

section
variable {s : State} {p : PartId} {m : InMsg} {r : Req} {u : StkUnit}
  (hm : (s.part p).routing.inbox.find? (fun m => (pktHdr m.bytes).type = 4) = some m)
  (hr : (s.part p).routing.reqs.find? (fun r => r.id = (pktHdr m.bytes).reqId.toNat ∧ r.write) = some r)
  (hw : (s.part p).routing.waiting = []) (hu : (s.chan r.unit.1).flight.find? (fun u => u.uid = r.unit.2) = some u)
  (hf : (s.chan r.unit.1).fail ≠ none) (ho : ∃ v ∈ (s.chan r.unit.1).flight, v.uid ≠ u.uid) (he : s.noneEnding = true)
include hm hr hw hu hf ho he

/-- A write's response ends its request and its unit; a channel that a failure stops does not go on. -/
theorem exec_wrRsp_of_moved (host : Cells) : exec (.wrRsp p host) s = .next (((s.tookMsg p m).lessReq p r).updChan r.unit.1 fun x =>
    { x with flight := x.flight.filter fun y => y.uid ≠ u.uid, moved := x.moved ++ [(u.at_, u.len)] }) := by
  refine congrArg Host.Outcome.next ((congrArg State.endDissolves ((onPkt_of_front hm _).trans ?_)).trans
    (endDissolves_of_ending he fun q => ?_))
  · have hunit : ((s.tookMsg p m).lessReq p r).reqUnit r = some u := List.find?_append.trans (by
      rw [show (((s.tookMsg p m).lessReq p r).chan r.unit.1) = s.chan r.unit.1 from rfl, hu]
      rfl)
    have hmoved := unitMoved_of_flight (s := (s.tookMsg p m).lessReq p r) (k := r.unit.1) (List.mem_of_find?_eq_some hu)
    simp only [routing_tookMsg, hr]
    rw [dropReq_of_none_waiting (by rw [routing_tookMsg]; exact hw), writeDone, hunit]
    dsimp only
    rw [hmoved]
    refine advance_of_fail ?_ ?_ p host <;> rw [chan_updChan_self]
    · exact hf
    · obtain ⟨v, hv, hne⟩ := ho
      exact List.ne_nil_of_mem (List.mem_filter.mpr ⟨hv, by simpa using hne⟩)
  · exact (ending_lessReq (s.tookMsg p m) p r q).trans (ending_tookMsg s p m q)

end

/-! ### NACK (R326, R367) -/

/-- A NACK received is counted. -/
def State.countNack (s : State) (p : Nat) : State := s.updRouting p fun x => { x with nackRx := satInc 32 x.nackRx }

theorem State.ending_countNack (s : State) (p q : Nat) : ((s.countNack p).part q).ending = (s.part q).ending :=
  ending_updRouting _ _ _ _

section
variable {s : State} {p : PartId} {m : InMsg} {r : Req}
  (hm : (s.part p).routing.inbox.find? (fun m => (pktHdr m.bytes).type = 5) = some m)
  (hr : (s.part p).routing.reqs.find? (fun r => r.id = (pktHdr m.bytes).reqId.toNat) = some r)
include hm hr

/-- A NACK of a request is counted and ends it, starts its next attempt, or is of an earlier one. -/
theorem exec_nack_of_front : exec (.nack p) s = .next (State.endDissolves (
    if (pktHdr m.bytes).reason.toNat = nrRange ∨ (pktHdr m.bytes).reason.toNat = nrPart then
      (((s.tookMsg p m).countNack p).dropReq p r).reqRefused r
    else if (pktHdr m.bytes).attempt.toNat = r.attempt then ((s.tookMsg p m).countNack p).nextAttempt p r
    else (s.tookMsg p m).countNack p)) := by
  refine congrArg (fun t => Host.Outcome.next (State.endDissolves t)) ((onPkt_of_front hm _).trans ?_)
  simp only [routing_updRouting, routing_tookMsg, if_true, hr]
  rfl

theorem exec_nack_of_refused (he : s.noneEnding = true)
    (hy : (pktHdr m.bytes).reason.toNat = nrRange ∨ (pktHdr m.bytes).reason.toNat = nrPart)
    (hw : (s.part p).routing.waiting = []) (hu : s.reqUnit r = none) :
    exec (.nack p) s = .next (((s.tookMsg p m).countNack p).lessReq p r) := by
  have hw' : (((s.tookMsg p m).countNack p).part p).routing.waiting = [] := by
    rw [State.countNack, routing_updRouting, if_pos rfl, routing_tookMsg]
    exact hw
  have hu' : (((s.tookMsg p m).countNack p).lessReq p r).reqUnit r = none := hu
  rw [exec_nack_of_front hm hr, if_pos hy, dropReq_of_none_waiting hw', reqRefused_of_no_unit hu', endDissolves_of_ending he fun q => ?_]
  rw [ending_lessReq, ending_countNack, ending_tookMsg]

theorem exec_nack_of_stale (he : s.noneEnding = true) (hy : (pktHdr m.bytes).reason.toNat ≠ nrRange)
    (hy' : (pktHdr m.bytes).reason.toNat ≠ nrPart) (ha : (pktHdr m.bytes).attempt.toNat ≠ r.attempt) :
    exec (.nack p) s = .next ((s.tookMsg p m).countNack p) := by
  rw [exec_nack_of_front hm hr, if_neg (not_or.mpr ⟨hy, hy'⟩), if_neg ha, endDissolves_of_ending he fun q => ?_]
  rw [ending_countNack, ending_tookMsg]

end

/-! ### ATTEMPT_TIMEOUT (R326) -/

/-- A request as its next attempt leaves on a cord. -/
def Req.retried (r : Req) (hall c : Nat) : Req :=
  { r with attempt := r.attempt + 1, sent := hall, got := [], left := none, cords := r.cords ++ [c] }

/-- The header of a request's packet on a route, its INDEX 0 (R314). -/
def Req.header (r : Req) (s : State) (p : Nat) (route : Nat × Nat) : PktHdr := PktHdr.onRoute
  { type := if r.write then ptWrReq else ptRdReq, attempt := BitVec.ofNat 2 r.attempt
    srcModule := BitVec.ofNat 15 s.moduleId, srcPart := BitVec.ofNat 4 p, dstModule := BitVec.ofNat 15 r.module
    dstPart := BitVec.ofNat 4 r.part, reqId := BitVec.ofNat 20 r.id, addr := BitVec.ofNat 52 r.addr
    msgLen := BitVec.ofNat 22 r.len, stamp := stampOf s.hall } route

/-- A read's attempt is one packet. -/
theorem State.sendReq_of_read {r : Req} (h : r.write = false) (s : State) (p : Nat) (route : Nat × Nat) :
    s.sendReq p r route = s.emit (route.2 % 32) p (r.header s p route) [] false (some r.id) := if_neg (by simp [h])

theorem Req.type_header {r : Req} (h : r.write = false) (s : State) (p : Nat) (route : Nat × Nat) : (r.header s p route).type = 1 :=
  if_neg (by simp [h])

/-- A read's packet as a cord holds it. -/
theorem Req.out_header {r : Req} (h : r.write = false) (s : State) (p : Nat) (route : Nat × Nat) (req : Option Nat) :
    (r.header s p route).out p [] false req =
      ⟨p, clReq, false, false, pktSegs (r.header s p route).bytes, req, false, (r.header s p route).bytes⟩ := by
  have hcls : (r.header s p route).cls = clReq := if_pos (.inl (type_header h s p route))
  have hnack : ¬ (r.header s p route).type = ptNack := by
    rw [type_header h]
    decide
  rw [PktHdr.out, hcls, List.append_nil, decide_eq_false hnack]

/-- A request replaced twice stands as it was left last. -/
theorem map_map_setReq (l : List Req) {a : Req} {n : Nat} (h : a.id = n) (b : Req) :
    (l.map fun y => if y.id = n then a else y).map (fun y => if y.id = n then b else y) = l.map fun y => if y.id = n then b else y := by
  rw [List.map_map]
  refine List.map_congr_left fun y _ => ?_
  by_cases hy : y.id = n <;> simp [hy, h]

theorem RoutingNow.setReq {p : Nat} {s t : State} {x : Routing} (h : RoutingNow p s t x) (r : Req) :
    RoutingNow p s (t.setReq p r) { x with reqs := x.reqs.map fun y => if y.id = r.id then r else y } := h.updRouting _

/-- An attempt on a route that is in the cache and usable. -/
theorem State.attempt_of_usable {s : State} {p : Nat} {r : Req} {e : Nat × List Byte} {route : Nat × Nat}
    (he : (s.part p).routing.routes.find? (fun x => x.1 = r.module) = some e)
    (hu : s.usable e.2 (decide (r.attempt % 2 = 1)) = some route) (n : Nat) :
    s.attempt p r (n + 1) = (s.setReq p { r with sent := s.hall, got := [], left := none, cords := r.cords ++ [route.2 % 32] }).sendReq p
      { r with sent := s.hall, got := [], left := none, cords := r.cords ++ [route.2 % 32] } route := by
  rw [attempt]
  dsimp only
  rw [routeEntry_of_cached he]
  dsimp only
  rw [hu]
  rfl

/-- The request stands at its next attempt, which is counted (R326). -/
def State.reissued (s : State) (p : Nat) (r : Req) : State :=
  (s.setReq p { r with attempt := r.attempt + 1 }).updRouting p fun x => { x with reissues := satInc 32 x.reissues }

theorem routingNow_reissued (s : State) (p : Nat) (r : Req) : RoutingNow p s (s.reissued p r) { (s.part p).routing with
    reissues := satInc 32 (s.part p).routing.reissues
    reqs := (s.part p).routing.reqs.map fun y => if y.id = r.id then { r with attempt := r.attempt + 1 } else y } :=
  ((RoutingNow.refl p s).setReq _).updRouting _

theorem State.usable_reissued (s : State) (p : Nat) (r : Req) (e : List Byte) (b : Bool) : (s.reissued p r).usable e b = s.usable e b :=
  usable_congr (fun _ => rfl) _ _

/-- The state as the next attempt of a request leaves on cord `c`. -/
theorem routingNow_retried (s : State) (p : Nat) (r : Req) (c : Nat) :
    RoutingNow p s ((s.reissued p r).setReq p (r.retried s.hall c)) { (s.part p).routing with
      reissues := satInc 32 (s.part p).routing.reissues
      reqs := (s.part p).routing.reqs.map fun y => if y.id = r.id then r.retried s.hall c else y } :=
  ((routingNow_reissued s p r).setReq _).congr (congrArg
    (fun l => { (s.part p).routing with reissues := satInc 32 (s.part p).routing.reissues, reqs := l })
    (map_map_setReq (s.part p).routing.reqs (a := { r with attempt := r.attempt + 1 }) rfl (r.retried s.hall c)))

/-- The next attempt on a route that is in the cache and usable. -/
theorem State.nextAttempt_of_usable {s : State} {p : Nat} {r : Req} {e : Nat × List Byte} {route : Nat × Nat}
    (ha : r.attempt < 3) (hm : s.mayAttempt p r = true)
    (he : (s.part p).routing.routes.find? (fun x => x.1 = r.module) = some e)
    (hu : s.usable e.2 (decide ((r.attempt + 1) % 2 = 1)) = some route) : s.nextAttempt p r =
      ((s.reissued p r).setReq p (r.retried s.hall (route.2 % 32))).sendReq p (r.retried s.hall (route.2 % 32)) route := by
  have he' : ((s.reissued p r).part p).routing.routes.find? (fun x => x.1 = r.module) = some e := by
    rw [(routingNow_reissued s p r).routing]
    exact he
  have hu' := (usable_reissued s p r e.2 (decide ((r.attempt + 1) % 2 = 1))).trans hu
  exact (if_pos ⟨ha, hm⟩).trans (attempt_of_usable (s := s.reissued p r) (r := { r with attempt := r.attempt + 1 }) he' hu' 3)

theorem exec_attemptTimeout_of_due {s : State} {p : PartId} {r : Req} (hr : (s.part p).routing.reqs.find? (fun r =>
      decide (r.sent + (s.part p).routing.ticks / 4 ≤ s.hall) && decide (r.attempt < 3) && s.mayAttempt p r) = some r) :
    exec (.attemptTimeout p) s = .next (s.nextAttempt p r) := by
  refine congrArg Host.Outcome.next ?_
  simp only [hr]

/-- A read's next attempt is one packet on its route. -/
theorem exec_attemptTimeout_of_read {s : State} {p : PartId} {r : Req} {e : Nat × List Byte} {route : Nat × Nat}
    (hr : (s.part p).routing.reqs.find? (fun r =>
      decide (r.sent + (s.part p).routing.ticks / 4 ≤ s.hall) && decide (r.attempt < 3) && s.mayAttempt p r) = some r)
    (he : (s.part p).routing.routes.find? (fun x => x.1 = r.module) = some e)
    (hu : s.usable e.2 (decide ((r.attempt + 1) % 2 = 1)) = some route) (hw : r.write = false) :
    exec (.attemptTimeout p) s = .next (((s.reissued p r).setReq p (r.retried s.hall (route.2 % 32))).emit (route.2 % 32) p
      ((r.retried s.hall (route.2 % 32)).header s p route) [] false (some r.id)) := by
  obtain ⟨-, ha, hmay⟩ : r.sent + (s.part p).routing.ticks / 4 ≤ s.hall ∧ r.attempt < 3 ∧ s.mayAttempt p r = true := by
    simpa [and_assoc] using List.find?_some hr
  rw [exec_attemptTimeout_of_due hr, nextAttempt_of_usable ha hmay he hu,
    sendReq_of_read (r := r.retried s.hall (route.2 % 32)) hw]
  rfl

/-! ### REQ_TIMEOUT (R327) -/

/-- The entry of a request that timed out. -/
def lostEntry (p : Nat) (r : Req) : LogEntry :=
  { cls := if r.write then 0x21 else 0x20, kind := kPart, index := p, part := p, addr := r.addr
    detail := leBytes 2 r.module ++ leBytes 2 r.part ++ leBytes 4 r.len ++ leBytes 4 r.id }

theorem coalesces_lostEntry (p : Nat) (r : Req) (hall : Nat) : coalesces { lostEntry p r with hall := hall } = false := by
  unfold lostEntry coalesces
  cases r.write <;> rfl

/-- A time-out is counted, as UNKNOWN of a write. -/
def Routing.countLost (x : Routing) (r : Req) : Routing :=
  if r.write then { x with unknown := satInc 32 x.unknown } else { x with timeouts := satInc 32 x.timeouts }

/-- A time-out counted and logged. -/
def State.logLost (s : State) (p : Nat) (r : Req) : State := (s.updRouting p fun x => x.countLost r).logEv (lostEntry p r)

section
variable (s : State) (p : PartId) (r : Req)

theorem same_logLost : Same logParts s (s.logLost p r) :=
  ((same_set_parts (l := logParts) (by decide) s s _).mpr (.refl _ _)).trans (same_logEv (s.updRouting p fun x => x.countLost r) _ _)

theorem logSeq_logLost : (s.logLost p r).logSeq = s.logSeq + 1 := by
  have hsig := signals_logEv (s := s.updRouting p fun x => x.countLost r) (coalesces_lostEntry p r _) p.isLt
  rw [State.logLost, hsig.1]
  rfl

/-- The entry of a time-out goes to the module ring and its partition's alone. -/
theorem partsBut_logLost : PartsBut p s (s.logLost p r) := fun q hq =>
  (partsBut_logEv (s := s.updRouting p fun x => x.countLost r) (coalesces_lostEntry p r _) p.isLt q hq).trans (part_updPart_ne _ _ hq)

theorem routing_logLost : ((s.logLost p r).part p).routing = (s.part p).routing.countLost r := by
  rw [State.logLost, (onlyLogged_logEv _ _ _).routing, routing_updRouting, if_pos rfl]

theorem ending_logLost (q : Nat) : ((s.logLost p r).part q).ending = (s.part q).ending := by
  rw [State.logLost, (onlyLogged_logEv _ _ _).2 q]
  exact ending_updRouting _ _ _ _

theorem waiting_countLost (x : Routing) (r : Req) : (x.countLost r).waiting = x.waiting := by
  unfold Routing.countLost
  split <;> rfl

end

theorem exec_reqTimeout_of_lost {s : State} {p : PartId} {r : Req} (he : s.noneEnding = true)
    (hr : (s.part p).routing.reqs.find? (fun r => decide (r.first + (s.part p).routing.ticks ≤ s.hall)) = some r)
    (hw : (s.part p).routing.waiting = []) (hu : s.reqUnit r = none) :
    exec (.reqTimeout p) s = .next ((s.logLost p r).lessReq p r) := by
  have hw' : ((s.logLost p r).part p).routing.waiting = [] := by rw [routing_logLost, waiting_countLost, hw]
  have hu' : ((s.logLost p r).lessReq p r).reqUnit r = none := by
    rw [← hu, reqUnit, chan, State.lessReq, reqUnit, chan]
    exact congrArg (fun c => ((tabGet {} c r.unit.1).flight ++ (tabGet {} c r.unit.1).orphans).find? fun u => u.uid = r.unit.2)
      (same_logLost s p r .stoke (by decide))
  refine congrArg Host.Outcome.next ((congrArg State.endDissolves ?_).trans (endDissolves_of_ending he fun q => ?_))
  · simp only [hr]
    change ((s.logLost p r).dropReq p r).reqLost p r = _
    rw [dropReq_of_none_waiting hw', reqLost_of_no_unit hu']
  · rw [ending_lessReq, ending_logLost]

/-! ### The obligation -/

/-- Settles O42: what ends a request or counts a packet of it changes its routing record, and beside it the channel of its unit, or the
cord on which its next attempt leaves. -/
theorem requestsCompleteOrRetry : Obligations.RequestsCompleteOrRetry := by
  unfold Obligations.RequestsCompleteOrRetry
  refine fun s p r hend => ⟨fun m hm hr => ⟨fun hi => exec_rdRsp_of_ignored hm hr hi,
      fun ha hi => ⟨fun hsum => ?_, fun hsum hw => ?_⟩⟩,
    fun m host u hm hr hw hu hf ho => ?_, fun m hm hr => ⟨fun hy hw hu => ?_, fun hy hy' ha => ?_⟩, fun e route hr he hu hread => ?_,
    fun hr hw hu => ?_⟩
  · exact ⟨_, exec_rdRsp_of_more hm hr ha hi hsum, (routingNow_tookMsg s p m).setReq (r.took m)⟩
  · have hnow := (routingNow_tookMsg s p m).lessReq r
    exact ⟨_, exec_rdRsp_of_all hm hr ha hi hsum hw, hnow.routing, hnow.1.eq_updChan _ _,
      chan_updChan_self ((s.tookMsg p m).lessReq p r) _ _⟩
  · have hnow := (routingNow_tookMsg s p m).lessReq r
    exact ⟨_, exec_wrRsp_of_moved hm hr hw hu hf ho hend host, hnow.1.eq_updChan _ _, hnow.routing,
      chan_updChan_self ((s.tookMsg p m).lessReq p r) _ _⟩
  · exact ⟨_, exec_nack_of_refused hm hr hend hy hw hu, ((routingNow_tookMsg s p m).updRouting _).lessReq r⟩
  · exact ⟨_, exec_nack_of_stale hm hr hend hy hy' ha, (routingNow_tookMsg s p m).updRouting _⟩
  · have hread' : (r.retried s.hall (route.2 % 32)).write = false := hread
    obtain ⟨honly, hpart⟩ := routingNow_retried s p r (route.2 % 32)
    obtain ⟨⟨-, hcords⟩, hcord⟩ :=
      (CordNow.refl ((s.reissued p r).setReq p (r.retried s.hall (route.2 % 32))) (route.2 % 32)).emit p
      ((r.retried s.hall (route.2 % 32)).header s p route) [] false (some r.id)
    rw [Req.out_header hread'] at hcord
    exact ⟨_, (r.retried s.hall (route.2 % 32)).header s p route, exec_attemptTimeout_of_read hr he hu hread, honly.2, hcords,
      honly.eq_emit _ _ _ _ _ _, hpart, congrArg Cord.outPkts hcord, Req.type_header hread' _ _ _, rfl, rfl, rfl, rfl, rfl, rfl, rfl,
      rfl⟩
  · have hsame := same_logLost s p r
    have hless := ((RoutingNow.refl p (s.logLost p r)).lessReq r).routing
    rw [routing_logLost] at hless
    refine ⟨_, exec_reqTimeout_of_lost hend hr hw hu, fun q hq => ?_, ?_, ?_, ?_, ?_, hless.trans ?_⟩
    · exact (part_updPart_ne _ _ hq).trans (partsBut_logLost s p r q hq)
    · exact hsame .cords (by decide)
    · exact hsame .stoke (by decide)
    · exact hsame .mem (by decide)
    · exact logSeq_logLost s p r
    · unfold Routing.countLost
      split <;> rfl

end Sys2Proof.Machine
end
